-- ==== Sys2Proof/Word.lean ====
section
/-! DEFINITION. The words of the machine. -/

namespace Sys2Proof

/-- A 6-bit register field (R28). -/
abbrev Reg := BitVec 6

/-- A 64-bit word: an address, a control register, the low half of a register. -/
abbrev Word := BitVec 64

/-- The 128 bits of a register, a name (R28, R69). -/
abbrev Quad := BitVec 128

/-- A byte of memory. -/
abbrev Byte := BitVec 8

end Sys2Proof
end

