-- ==== Sys2Proof/Syntax.lean ====
section
/-! DEFINITION. The instructions and events of the part: one constructor for each row of the
opcode table. A row with an encoding carries the fields its format gives it (R37), in the order
the word holds them from bit 31 down; `s` is the switch marker (R22). A row without an encoding
is a step of the part itself or of the outside world (spec file 95), and carries the plain data
that says which object it acts on. -/

namespace Sys2Proof

/-- The kind of an access to memory: R239, R371 (a fetch reports 2). -/
inductive Access where
  | load
  | store
  | fetch
  deriving DecidableEq, Repr

/-- The distance class in which an outstanding write is counted (R243, R298). -/
inductive AckClass where
  | die
  | package
  | fabric
  | ultra
  deriving DecidableEq, Repr

/-- The sender of a record, decrement or signal that arrives from elsewhere (R53): its package,
COORD, address space and launch, and whether it is in another pod. -/
structure Sender where
  pkg : BitVec 10
  coord : BitVec 18
  asid : BitVec 16
  launch : BitVec 32
  otherPod : Bool
  deriving DecidableEq, Repr

/-- What the service sets when it attaches a queue (R93, R95), the last seven for a collective
queue (R349). -/
structure QueueSettings where
  kind : BitVec 2
  cls : BitVec 2
  cores : BitVec 16
  win : BitVec 16
  extCap : BitVec 24
  extBase : Word
  desc : Word
  collective : Bool
  ordered : Bool
  ranks : Nat
  maxLen : Nat
  landSlots : Nat
  land : Nat
  entry : Word
  deriving DecidableEq, Repr

/-- A request to the service (R413): its header of 32 bytes, and its payload. -/
structure Request where
  head : BitVec 256
  payload : List Byte
  deriving DecidableEq, Repr

/-- The control registers of R135, by name. -/
inductive Creg where
  /-- R137, number 0x000. -/
  | threadst
  /-- R138, number 0x001. -/
  | fpflags
  /-- R139, number 0x002. -/
  | flagsunion
  /-- R140, number 0x008. -/
  | trapvec
  /-- R140, number 0x009. -/
  | trappc
  /-- R366, number 0x00A. -/
  | trapcause
  /-- R366, number 0x00B. -/
  | trapaddr
  /-- R366, number 0x00C. -/
  | trapinfo
  /-- R16, number 0x010. -/
  | coord
  /-- R19, number 0x011. -/
  | pkgid
  /-- R18, number 0x012. -/
  | stage
  /-- R54, number 0x013. -/
  | recmeta
  /-- R115, number 0x014. -/
  | fetchgrp
  /-- R32, number 0x018. -/
  | wbase
  /-- R382, number 0x020. -/
  | sidereal
  /-- R384, number 0x021. -/
  | dcyc
  /-- R384, number 0x022. -/
  | ncyc
  /-- R384, number 0x023. -/
  | dfreq
  /-- R389, number 0x024. -/
  | steplog
  /-- R106, number 0x030. -/
  | hbint
  /-- R106, number 0x031. -/
  | hblast
  /-- R325, number 0x038. -/
  | agwaitmax
  /-- R242, number 0x039. -/
  | fewaitmax
  /-- R298, number 0x040. -/
  | acks
  /-- R395, number 0x048. -/
  | errpend
  /-- R266, number 0x049. -/
  | barstray
  /-- R266, number 0x050. -/
  | barstep
  /-- R101, number 0x051. -/
  | dwellmax
  /-- R97, number 0x060. -/
  | poolsel
  /-- R97, number 0x061. -/
  | poolmin
  /-- R97, number 0x062. -/
  | poolcap
  /-- R97, number 0x063. -/
  | pooluse
  /-- R404, number 0x070. -/
  | delaysel
  /-- R404, number 0x071. -/
  | delaycnt
  /-- R404, number 0x072. -/
  | delaytrn
  /-- R404, number 0x073. -/
  | delayqw
  /-- R404, number 0x074. -/
  | delayrun
  /-- R358, number 0x080. -/
  | asid
  /-- R358, number 0x081. -/
  | ptbase
  /-- R402, number 0x090. -/
  | eolpred
  /-- R400, number 0x091. -/
  | errwin
  /-- R400, number 0x092. -/
  | errthr
  deriving DecidableEq, Repr

/-- What the two modes may do with a control register (R135). -/
inductive CregAccess where
  | none
  | r
  | rw
  deriving DecidableEq, Repr

set_option maxRecDepth 10000 in
/-- Every instruction and event of the opcode table. -/
inductive Instr where
  /-- R120: Adds two 64-bit integers modulo 2^64 into D. -/
  | add (s : Bool) (d : Reg) (a : Reg) (b : Reg)
  /-- R120: Subtracts B from A modulo 2^64 into D. -/
  | sub (s : Bool) (d : Reg) (a : Reg) (b : Reg)
  /-- R120: Writes the low 64 bits of A times B into D. -/
  | mul (s : Bool) (d : Reg) (a : Reg) (b : Reg)
  /-- R120: Writes the high 64 bits of the signed product into D. -/
  | mulh (s : Bool) (d : Reg) (a : Reg) (b : Reg)
  /-- R120: Writes the high 64 bits of the unsigned product into D. -/
  | mulhu (s : Bool) (d : Reg) (a : Reg) (b : Reg)
  /-- R121: Signed division rounding toward zero on the shared divider. -/
  | div (s : Bool) (d : Reg) (a : Reg) (b : Reg)
  /-- R121: Unsigned division on the shared divider. -/
  | divu (s : Bool) (d : Reg) (a : Reg) (b : Reg)
  /-- R121: Signed remainder with the sign of the dividend. -/
  | rem (s : Bool) (d : Reg) (a : Reg) (b : Reg)
  /-- R121: Unsigned remainder. -/
  | remu (s : Bool) (d : Reg) (a : Reg) (b : Reg)
  /-- R120: Bitwise AND of A and B. -/
  | and (s : Bool) (d : Reg) (a : Reg) (b : Reg)
  /-- R120: Bitwise OR of A and B. -/
  | or (s : Bool) (d : Reg) (a : Reg) (b : Reg)
  /-- R120: Bitwise XOR of A and B. -/
  | xor (s : Bool) (d : Reg) (a : Reg) (b : Reg)
  /-- R120: A AND NOT B. -/
  | andn (s : Bool) (d : Reg) (a : Reg) (b : Reg)
  /-- R120: A OR NOT B. -/
  | orn (s : Bool) (d : Reg) (a : Reg) (b : Reg)
  /-- R120: Shifts A left by B[5:0]. -/
  | shl (s : Bool) (d : Reg) (a : Reg) (b : Reg)
  /-- R120: Shifts A right logically by B[5:0]. -/
  | shr (s : Bool) (d : Reg) (a : Reg) (b : Reg)
  /-- R120: Shifts A right arithmetically by B[5:0]. -/
  | sar (s : Bool) (d : Reg) (a : Reg) (b : Reg)
  /-- R120: Rotates A left by B[5:0]. -/
  | rotl (s : Bool) (d : Reg) (a : Reg) (b : Reg)
  /-- R120: Rotates A right by B[5:0]. -/
  | rotr (s : Bool) (d : Reg) (a : Reg) (b : Reg)
  /-- R120: Signed minimum of A and B. -/
  | min (s : Bool) (d : Reg) (a : Reg) (b : Reg)
  /-- R120: Signed maximum of A and B. -/
  | max (s : Bool) (d : Reg) (a : Reg) (b : Reg)
  /-- R120: Unsigned minimum of A and B. -/
  | minu (s : Bool) (d : Reg) (a : Reg) (b : Reg)
  /-- R120: Unsigned maximum of A and B. -/
  | maxu (s : Bool) (d : Reg) (a : Reg) (b : Reg)
  /-- R120: Sets D to 1 when A is signed-less than B. -/
  | slt (s : Bool) (d : Reg) (a : Reg) (b : Reg)
  /-- R120: Sets D to 1 when A is unsigned-less than B. -/
  | sltu (s : Bool) (d : Reg) (a : Reg) (b : Reg)
  /-- R120: Sets D to 1 when A equals B. -/
  | seq (s : Bool) (d : Reg) (a : Reg) (b : Reg)
  /-- R120: Sets D to 1 when A differs from B. -/
  | sne (s : Bool) (d : Reg) (a : Reg) (b : Reg)
  /-- R120: Counts leading zero bits of A. -/
  | clz (s : Bool) (d : Reg) (a : Reg)
  /-- R120: Counts trailing zero bits of A. -/
  | ctz (s : Bool) (d : Reg) (a : Reg)
  /-- R120: Counts one bits of A. -/
  | popc (s : Bool) (d : Reg) (a : Reg)
  /-- R120: Reverses the eight bytes of A. -/
  | bswap (s : Bool) (d : Reg) (a : Reg)
  /-- R120: Sign-extends A[7:0]. -/
  | sextb (s : Bool) (d : Reg) (a : Reg)
  /-- R120: Sign-extends A[15:0]. -/
  | sexth (s : Bool) (d : Reg) (a : Reg)
  /-- R120: Sign-extends A[31:0]. -/
  | sextw (s : Bool) (d : Reg) (a : Reg)
  /-- R120: Zero-extends A[31:0]. -/
  | zextw (s : Bool) (d : Reg) (a : Reg)
  /-- R122: Copies all 128 bits and the tag of A into D. -/
  | mov (s : Bool) (d : Reg) (a : Reg)
  /-- R120: 32-bit add, sign-extended to 64 bits. -/
  | addw (s : Bool) (d : Reg) (a : Reg) (b : Reg)
  /-- R120: 32-bit subtract, sign-extended to 64 bits. -/
  | subw (s : Bool) (d : Reg) (a : Reg) (b : Reg)
  /-- R120: 32-bit multiply, sign-extended to 64 bits. -/
  | mulw (s : Bool) (d : Reg) (a : Reg) (b : Reg)
  /-- R120: Computes A + (B << 1). -/
  | adds1 (s : Bool) (d : Reg) (a : Reg) (b : Reg)
  /-- R120: Computes A + (B << 2). -/
  | adds2 (s : Bool) (d : Reg) (a : Reg) (b : Reg)
  /-- R120: Computes A + (B << 3). -/
  | adds3 (s : Bool) (d : Reg) (a : Reg) (b : Reg)
  /-- R120: Exact absolute difference of signed A and B as unsigned. -/
  | absd (s : Bool) (d : Reg) (a : Reg) (b : Reg)
  /-- R123: Adds a sign-extended immediate to A. -/
  | addi (s : Bool) (d : Reg) (a : Reg) (i : BitVec 13)
  /-- R123: ANDs A with a sign-extended immediate. -/
  | andi (s : Bool) (d : Reg) (a : Reg) (i : BitVec 13)
  /-- R123: ORs A with a sign-extended immediate. -/
  | ori (s : Bool) (d : Reg) (a : Reg) (i : BitVec 13)
  /-- R123: XORs A with a sign-extended immediate. -/
  | xori (s : Bool) (d : Reg) (a : Reg) (i : BitVec 13)
  /-- R123: Signed compare of A with an immediate. -/
  | slti (s : Bool) (d : Reg) (a : Reg) (i : BitVec 13)
  /-- R123: Unsigned compare of A with the sign-extended immediate. -/
  | sltiu (s : Bool) (d : Reg) (a : Reg) (i : BitVec 13)
  /-- R124: Shifts A left by an immediate count. -/
  | shli (s : Bool) (d : Reg) (a : Reg) (n : BitVec 6)
  /-- R124: Shifts A right logically by an immediate count. -/
  | shri (s : Bool) (d : Reg) (a : Reg) (n : BitVec 6)
  /-- R124: Shifts A right arithmetically by an immediate count. -/
  | sari (s : Bool) (d : Reg) (a : Reg) (n : BitVec 6)
  /-- R124: Rotates A left by an immediate count. -/
  | rotli (s : Bool) (d : Reg) (a : Reg) (n : BitVec 6)
  /-- R125: Loads a sign-extended immediate into D. -/
  | limm (s : Bool) (d : Reg) (i : BitVec 19)
  /-- R125: Writes PC plus four times the immediate into D. -/
  | addpc (s : Bool) (d : Reg) (i : BitVec 19)
  /-- R126: Extracts a bit field of A zero-extended. -/
  | extr (s : Bool) (d : Reg) (a : Reg) (p : BitVec 6) (l : BitVec 6)
  /-- R126: Extracts a bit field of A sign-extended. -/
  | extrs (s : Bool) (d : Reg) (a : Reg) (p : BitVec 6) (l : BitVec 6)
  /-- R126: Inserts the low bits of A into a field of D. -/
  | ins (s : Bool) (d : Reg) (a : Reg) (p : BitVec 6) (l : BitVec 6)
  /-- R127: Copies A to D when B is zero. -/
  | moveqz (s : Bool) (d : Reg) (a : Reg) (b : Reg)
  /-- R127: Copies A to D when B is non-zero. -/
  | movnez (s : Bool) (d : Reg) (a : Reg) (b : Reg)
  /-- R127: Copies A to D when B is negative. -/
  | movltz (s : Bool) (d : Reg) (a : Reg) (b : Reg)
  /-- R127: Copies A to D when B is not negative. -/
  | movgez (s : Bool) (d : Reg) (a : Reg) (b : Reg)
  /-- R127: Copies A to D when B is positive. -/
  | movgtz (s : Bool) (d : Reg) (a : Reg) (b : Reg)
  /-- R127: Copies A to D when B is not positive. -/
  | movlez (s : Bool) (d : Reg) (a : Reg) (b : Reg)
  /-- R134: Reads a control register into D. -/
  | rdc (s : Bool) (d : Reg) (c : Creg)
  /-- R134: Writes A into a control register without behaviour of its own. -/
  | wrc (s : Bool) (a : Reg) (c : Creg)
  /-- R134: Returns a control register and ORs A into it. -/
  | setc (s : Bool) (d : Reg) (a : Reg) (c : Creg)
  /-- R134: Returns a control register and clears the bits of A in it. -/
  | clrc (s : Bool) (d : Reg) (a : Reg) (c : Creg)
  /-- R134: Returns a control register and replaces it with A. -/
  | swpc (s : Bool) (d : Reg) (a : Reg) (c : Creg)
  /-- R137: A write to THREADST that traps PROT when it would leave RND invalid. -/
  | threadstWrite (v : Word)
  /-- R136: A CTRL access to FPFLAGS that holds issue until earlier flag-accruing words have written. -/
  | fpflagsAccess (op : BitVec 3) (d : Reg) (v : Word)
  /-- R97: A write to a queue's pool minimum, refused with PROT when the minimums would exceed 2,048 or CAP fall below MIN. -/
  | poolminWrite (v : Word)
  /-- R97: A write to a queue's pool cap, refused with PROT when CAP would be zero or below MIN. -/
  | poolcapWrite (v : Word)
  /-- R404: Writing LOAD loads the selected Chronograph row's key and clears its sums. -/
  | delayselLoad (v : Word)
  /-- R141: Occupies one issue position. -/
  | nop (s : Bool)
  /-- R141: Sets the slot's heartbeat count to zero. -/
  | hbeat (s : Bool)
  /-- R142: Raises cause TRAPI with the code in TRAPINFO. -/
  | trap (s : Bool) (n : BitVec 6)
  /-- R143: Ends a user trap handler and resumes at TRAPPC. -/
  | tret (s : Bool)
  /-- R142: Raises cause BREAK, or stops the slot when a debug session claims it. -/
  | brk (s : Bool)
  /-- R252: Waits for every earlier memory operation to be answered and raises any pending error. -/
  | efence (s : Bool)
  /-- R378: Switches to user mode and continues at TRAPPC. -/
  | eret (s : Bool)
  /-- R144: Posts a request block to the service request queue. -/
  | scall (s : Bool) (a : Reg)
  /-- R373: Moves selected running slots to STOPPED. -/
  | park (s : Bool) (a : Reg)
  /-- R374: Resumes selected faulted, stopped or held slots, restoring contexts. -/
  | resume (s : Bool) (a : Reg)
  /-- R375: Moves selected slots to DRAINING and holds them after the drain window. -/
  | preempt (s : Bool) (a : Reg)
  /-- R364: Removes matching translations package-wide and waits out walks and accesses through them. -/
  | tlbi (s : Bool) (a : Reg) (b : Reg)
  /-- R388: Requests a frequency step of a die of the own package. -/
  | freq (s : Bool) (a : Reg)
  /-- R133: Sets the window base. -/
  | wset (s : Bool) (a : Reg)
  /-- R379: Aborts the activations of selected slots. -/
  | kill (s : Bool) (a : Reg)
  /-- R129: Branches when A is zero. -/
  | beqz (s : Bool) (a : Reg) (i : BitVec 16)
  /-- R129: Branches when A is non-zero. -/
  | bnez (s : Bool) (a : Reg) (i : BitVec 16)
  /-- R129: Branches when A is negative. -/
  | bltz (s : Bool) (a : Reg) (i : BitVec 16)
  /-- R129: Branches when A is not negative. -/
  | bgez (s : Bool) (a : Reg) (i : BitVec 16)
  /-- R129: Branches when A is positive. -/
  | bgtz (s : Bool) (a : Reg) (i : BitVec 16)
  /-- R129: Branches when A is not positive. -/
  | blez (s : Bool) (a : Reg) (i : BitVec 16)
  /-- R129: Branches when A equals B. -/
  | beq (s : Bool) (a : Reg) (b : Reg) (i : BitVec 10)
  /-- R129: Branches when A differs from B. -/
  | bne (s : Bool) (a : Reg) (b : Reg) (i : BitVec 10)
  /-- R129: Branches when A is signed-less than B. -/
  | blt (s : Bool) (a : Reg) (b : Reg) (i : BitVec 10)
  /-- R129: Branches when A is signed-not-less than B. -/
  | bge (s : Bool) (a : Reg) (b : Reg) (i : BitVec 10)
  /-- R129: Branches when A is unsigned-less than B. -/
  | bltu (s : Bool) (a : Reg) (b : Reg) (i : BitVec 10)
  /-- R129: Branches when A is unsigned-not-less than B. -/
  | bgeu (s : Bool) (a : Reg) (b : Reg) (i : BitVec 10)
  /-- R130: Jumps by a 25-bit word displacement. -/
  | jmp (s : Bool) (i : BitVec 25)
  /-- R130: Jumps and writes the return address to lk. -/
  | call (s : Bool) (i : BitVec 25)
  /-- R131: Jumps to the address in A. -/
  | jr (s : Bool) (a : Reg)
  /-- R131: Jumps to the address in A and writes lk. -/
  | callr (s : Bool) (a : Reg)
  /-- R131: Jumps to lk, or ends the activation when lk is zero. -/
  | ret (s : Bool)
  /-- R132: Decrements the count, rotates the window and branches while non-zero. -/
  | loop (s : Bool) (a : Reg) (i : BitVec 16)
  /-- R68: Drains, checks pending errors, releases units and ends the activation. -/
  | endAct (s : Bool)
  /-- R68: Decrements a join cell by one and ends the activation. -/
  | endj (s : Bool) (a : Reg)
  /-- R68: Sends a record and ends the activation. -/
  | ends (s : Bool) (a : Reg) (b : Reg)
  /-- R251: Release and acquire at the given scope. -/
  | fence (s : Bool) (c : BitVec 4)
  /-- R251: Release part alone, ordering earlier stores before later stores. -/
  | fencew (s : Bool) (c : BitVec 4)
  /-- R251: Acquire part alone, ordering earlier loads before later loads. -/
  | fencer (s : Bool) (c : BitVec 4)
  /-- R251: Waits until the ACKS classes that the scope covers are zero. -/
  | ackwait (s : Bool) (c : BitVec 4)
  /-- R246: Relaxed byte load, zero-extended. -/
  | ldb (s : Bool) (t : Reg) (b : Reg) (o : BitVec 10)
  /-- R246: Relaxed byte load, sign-extended. -/
  | ldbs (s : Bool) (t : Reg) (b : Reg) (o : BitVec 10)
  /-- R246: Relaxed halfword load, zero-extended. -/
  | ldh (s : Bool) (t : Reg) (b : Reg) (o : BitVec 10)
  /-- R246: Relaxed halfword load, sign-extended. -/
  | ldhs (s : Bool) (t : Reg) (b : Reg) (o : BitVec 10)
  /-- R246: Relaxed word load, zero-extended. -/
  | ldw (s : Bool) (t : Reg) (b : Reg) (o : BitVec 10)
  /-- R246: Relaxed word load, sign-extended. -/
  | ldws (s : Bool) (t : Reg) (b : Reg) (o : BitVec 10)
  /-- R246: Relaxed doubleword load. -/
  | ldd (s : Bool) (t : Reg) (b : Reg) (o : BitVec 10)
  /-- R246: Relaxed 16-byte load, tagged RAW or by HMOD FMT. -/
  | ldq (s : Bool) (t : Reg) (b : Reg) (o : BitVec 10)
  /-- R246: Relaxed byte store. -/
  | stb (s : Bool) (t : Reg) (b : Reg) (o : BitVec 10)
  /-- R246: Relaxed halfword store. -/
  | sth (s : Bool) (t : Reg) (b : Reg) (o : BitVec 10)
  /-- R246: Relaxed word store. -/
  | stw (s : Bool) (t : Reg) (b : Reg) (o : BitVec 10)
  /-- R246: Relaxed doubleword store. -/
  | std (s : Bool) (t : Reg) (b : Reg) (o : BitVec 10)
  /-- R246: Relaxed 16-byte store. -/
  | stq (s : Bool) (t : Reg) (b : Reg) (o : BitVec 10)
  /-- R247: Acquire load at the given scope. -/
  | ldaq (s : Bool) (t : Reg) (b : Reg) (o : BitVec 6) (z : BitVec 3) (c : BitVec 4)
  /-- R247: Release store at the given scope. -/
  | strl (s : Bool) (t : Reg) (b : Reg) (o : BitVec 6) (z : BitVec 3) (c : BitVec 4)
  /-- R248: Relaxed 16-byte load tagged by FMT. -/
  | ldv (s : Bool) (t : Reg) (b : Reg) (f : BitVec 5) (o : BitVec 8)
  /-- R248: Relaxed 16-byte store checking the data tag against FMT. -/
  | stv (s : Bool) (t : Reg) (b : Reg) (f : BitVec 5) (o : BitVec 8)
  /-- R241: Full-empty load that waits for full and leaves the word full. -/
  | ldfeRff (s : Bool) (t : Reg) (b : Reg) (z : BitVec 3) (c : BitVec 4)
  /-- R241: Full-empty load that waits for full and sets the word empty. -/
  | ldfeRfe (s : Bool) (t : Reg) (b : Reg) (z : BitVec 3) (c : BitVec 4)
  /-- R241: Reads data and the full-empty state without waiting. -/
  | ldfeRawfe (s : Bool) (t : Reg) (b : Reg) (z : BitVec 3) (c : BitVec 4)
  /-- R241: Full-empty store that waits for empty and sets full. -/
  | stfeWef (s : Bool) (t : Reg) (b : Reg) (z : BitVec 3) (c : BitVec 4)
  /-- R241: Full-empty store that writes and sets full without waiting. -/
  | stfeWaf (s : Bool) (t : Reg) (b : Reg) (z : BitVec 3) (c : BitVec 4)
  /-- R241: Full-empty store that writes and sets empty without waiting. -/
  | stfeWae (s : Bool) (t : Reg) (b : Reg) (z : BitVec 3) (c : BitVec 4)
  /-- R241: Sets a full-empty word empty leaving its data unchanged. -/
  | stfeSete (s : Bool) (b : Reg) (z : BitVec 3) (c : BitVec 4)
  /-- R327: Aged read that parks at the home until the demand is met. -/
  | ldagWait (s : Bool) (t : Reg) (b : Reg) (l : Reg) (c : BitVec 4)
  /-- R327: Aged read that traps AGESTALE when the demand is not met. -/
  | ldagTrap (s : Bool) (t : Reg) (b : Reg) (l : Reg) (c : BitVec 4)
  /-- R327: Aged read that returns the current version flagged stale when not met. -/
  | ldagPeek (s : Bool) (t : Reg) (b : Reg) (l : Reg) (c : BitVec 4)
  /-- R329: Registers the issuing core as writer of an aged region. -/
  | agreg (s : Bool) (a : Reg)
  /-- R329: Ends the issuing core's registration of an aged region. -/
  | agdone (s : Bool) (a : Reg)
  /-- R330: Reads the age word of an aged block without waiting. -/
  | agage (s : Bool) (d : Reg) (a : Reg)
  /-- R250: Atomic add at the home, returning the old value. -/
  | aadd (s : Bool) (t : Reg) (b : Reg) (r : Reg) (o : BitVec 2) (w : BitVec 1) (c : BitVec 4)
  /-- R250: Atomic signed minimum. -/
  | amin (s : Bool) (t : Reg) (b : Reg) (r : Reg) (o : BitVec 2) (w : BitVec 1) (c : BitVec 4)
  /-- R250: Atomic signed maximum. -/
  | amax (s : Bool) (t : Reg) (b : Reg) (r : Reg) (o : BitVec 2) (w : BitVec 1) (c : BitVec 4)
  /-- R250: Atomic unsigned minimum. -/
  | aminu (s : Bool) (t : Reg) (b : Reg) (r : Reg) (o : BitVec 2) (w : BitVec 1) (c : BitVec 4)
  /-- R250: Atomic unsigned maximum. -/
  | amaxu (s : Bool) (t : Reg) (b : Reg) (r : Reg) (o : BitVec 2) (w : BitVec 1) (c : BitVec 4)
  /-- R250: Atomic bitwise AND. -/
  | aand (s : Bool) (t : Reg) (b : Reg) (r : Reg) (o : BitVec 2) (w : BitVec 1) (c : BitVec 4)
  /-- R250: Atomic bitwise OR. -/
  | aor (s : Bool) (t : Reg) (b : Reg) (r : Reg) (o : BitVec 2) (w : BitVec 1) (c : BitVec 4)
  /-- R250: Atomic bitwise XOR. -/
  | axor (s : Bool) (t : Reg) (b : Reg) (r : Reg) (o : BitVec 2) (w : BitVec 1) (c : BitVec 4)
  /-- R250: Atomic swap. -/
  | aswp (s : Bool) (t : Reg) (b : Reg) (r : Reg) (o : BitVec 2) (w : BitVec 1) (c : BitVec 4)
  /-- R250: Atomic compare-and-swap of 32 or 64 bits. -/
  | acas (s : Bool) (t : Reg) (b : Reg) (r : Reg) (o : BitVec 2) (w : BitVec 1) (c : BitVec 4)
  /-- R250: Atomic 128-bit compare-and-swap on non-NAME operands. -/
  | acas2 (s : Bool) (t : Reg) (b : Reg) (r : Reg) (o : BitVec 2) (c : BitVec 4)
  /-- R89: ACAS2 on NAME operands, returning a NAME-tagged old value. -/
  | nmcas (s : Bool) (t : Reg) (b : Reg) (r : Reg) (o : BitVec 2) (c : BitVec 4)
  /-- R250: Atomic floating-point add in RNE at the home. -/
  | afadd (s : Bool) (t : Reg) (b : Reg) (r : Reg) (o : BitVec 2) (w : BitVec 1) (c : BitVec 4)
  /-- R84: Issues a new name and places its Almanac entry. -/
  | nmint (s : Bool) (d : Reg) (a : Reg) (b : Reg)
  /-- R85: Resolves a name and returns its class code or 0. -/
  | nmres (s : Bool) (d : Reg) (a : Reg)
  /-- R87: Retires a name and waits until no access uses its binding. -/
  | nmret (s : Bool) (d : Reg) (a : Reg)
  /-- R85: Compares two names for equality. -/
  | nmeq (s : Bool) (d : Reg) (a : Reg) (b : Reg)
  /-- R86: Loads 16 bytes as a NAME-tagged value. -/
  | nmld (s : Bool) (d : Reg) (a : Reg)
  /-- R86: Stores a name's 16 bytes. -/
  | nmst (s : Bool) (a : Reg) (b : Reg)
  /-- R85: Returns a name's class field. -/
  | nmcls (s : Bool) (d : Reg) (a : Reg)
  /-- R85: Returns a name's origin pod and package fields. -/
  | nmorg (s : Bool) (d : Reg) (a : Reg)
  /-- R88: Moves a name's descriptor to a new location. -/
  | nmmove (s : Bool) (a : Reg) (b : Reg)
  /-- R64: Pushes a record onto a queue and holds issue until it answers. -/
  | spawn (s : Bool) (a : Reg) (b : Reg)
  /-- R64: Pushes a record without holding issue and reports the status in D. -/
  | spawnq (s : Bool) (d : Reg) (a : Reg) (b : Reg)
  /-- R64: Pushes a record onto a port's or core's mailbox anywhere in the reach. -/
  | send (s : Bool) (a : Reg) (b : Reg)
  /-- R65: Sends a decrement to a join cell as a release. -/
  | jdec (s : Bool) (a : Reg) (b : Reg)
  /-- R65: Arms a join cell with a count. -/
  | jinit (s : Bool) (a : Reg) (b : Reg)
  /-- R67: Passes a DET writer capability to another core after draining stores. -/
  | handover (s : Bool) (a : Reg) (b : Reg)
  /-- R64: Pushes a record onto a stage queue which stamps its SEQ. -/
  | sendseq (s : Bool) (d : Reg) (a : Reg) (b : Reg)
  /-- R66: Returns a snapshot of the number of records a queue holds. -/
  | qlen (s : Bool) (d : Reg) (a : Reg)
  /-- R166: Lane-wise add. -/
  | vadd (s : Bool) (d : Reg) (a : Reg) (b : Reg)
  /-- R166: Lane-wise subtract. -/
  | vsub (s : Bool) (d : Reg) (a : Reg) (b : Reg)
  /-- R166: Lane-wise multiply. -/
  | vmul (s : Bool) (d : Reg) (a : Reg) (b : Reg)
  /-- R166: Lane-wise float divide on the shared function unit. -/
  | vdiv (s : Bool) (d : Reg) (a : Reg) (b : Reg)
  /-- R169: Lane-wise minimum propagating NaN. -/
  | vmin (s : Bool) (d : Reg) (a : Reg) (b : Reg)
  /-- R169: Lane-wise maximum propagating NaN. -/
  | vmax (s : Bool) (d : Reg) (a : Reg) (b : Reg)
  /-- R169: Lane-wise minimum preferring numbers. -/
  | vminn (s : Bool) (d : Reg) (a : Reg) (b : Reg)
  /-- R169: Lane-wise maximum preferring numbers. -/
  | vmaxn (s : Bool) (d : Reg) (a : Reg) (b : Reg)
  /-- R418: Lane-wise absolute value, a sign operation on floats. -/
  | vabs (s : Bool) (d : Reg) (a : Reg)
  /-- R418: Lane-wise negation, a sign operation on floats. -/
  | vneg (s : Bool) (d : Reg) (a : Reg)
  /-- R168: Correctly rounded lane-wise square root. -/
  | vsqrt (s : Bool) (d : Reg) (a : Reg)
  /-- R168: Correctly rounded lane-wise reciprocal. -/
  | vrcp (s : Bool) (d : Reg) (a : Reg)
  /-- R168: Correctly rounded lane-wise reciprocal square root. -/
  | vrsq (s : Bool) (d : Reg) (a : Reg)
  /-- R168: Correctly rounded lane-wise base-2 exponential. -/
  | vexp2 (s : Bool) (d : Reg) (a : Reg)
  /-- R168: Correctly rounded lane-wise base-2 logarithm. -/
  | vlog2 (s : Bool) (d : Reg) (a : Reg)
  /-- R171: Bitwise AND of 128 bits. -/
  | vand (s : Bool) (d : Reg) (a : Reg) (b : Reg)
  /-- R171: Bitwise OR of 128 bits. -/
  | vor (s : Bool) (d : Reg) (a : Reg) (b : Reg)
  /-- R171: Bitwise XOR of 128 bits. -/
  | vxor (s : Bool) (d : Reg) (a : Reg) (b : Reg)
  /-- R171: A AND NOT B over 128 bits. -/
  | vandn (s : Bool) (d : Reg) (a : Reg) (b : Reg)
  /-- R171: Bitwise NOT of 128 bits. -/
  | vnot (s : Bool) (d : Reg) (a : Reg)
  /-- R172: Lane-wise left shift by lanes of B. -/
  | vshl (s : Bool) (d : Reg) (a : Reg) (b : Reg)
  /-- R172: Lane-wise logical right shift by lanes of B. -/
  | vshr (s : Bool) (d : Reg) (a : Reg) (b : Reg)
  /-- R172: Lane-wise arithmetic right shift by lanes of B. -/
  | vsar (s : Bool) (d : Reg) (a : Reg) (b : Reg)
  /-- R167: Lane-wise saturating integer add. -/
  | vadds (s : Bool) (d : Reg) (a : Reg) (b : Reg)
  /-- R167: Lane-wise saturating integer subtract. -/
  | vsubs (s : Bool) (d : Reg) (a : Reg) (b : Reg)
  /-- R167: Lane-wise rounding-up integer average. -/
  | vavg (s : Bool) (d : Reg) (a : Reg) (b : Reg)
  /-- R167: Lane-wise high half of the integer product. -/
  | vmulh (s : Bool) (d : Reg) (a : Reg) (b : Reg)
  /-- R170: Lane-wise equality compare into a mask. -/
  | vceq (s : Bool) (d : Reg) (a : Reg) (b : Reg)
  /-- R170: Lane-wise inequality compare into a mask. -/
  | vcne (s : Bool) (d : Reg) (a : Reg) (b : Reg)
  /-- R170: Lane-wise less-than compare into a mask. -/
  | vclt (s : Bool) (d : Reg) (a : Reg) (b : Reg)
  /-- R170: Lane-wise less-or-equal compare into a mask. -/
  | vcle (s : Bool) (d : Reg) (a : Reg) (b : Reg)
  /-- R170: Lane-wise unordered compare into a mask. -/
  | vcun (s : Bool) (d : Reg) (a : Reg) (b : Reg)
  /-- R171: Selects bits of A or B under the mask in old D. -/
  | vsel (s : Bool) (d : Reg) (a : Reg) (b : Reg)
  /-- R170: Writes a one-hot class of each float lane. -/
  | vclass (s : Bool) (d : Reg) (a : Reg)
  /-- R173: Rounds each float lane to an integral value. -/
  | vround (s : Bool) (d : Reg) (a : Reg)
  /-- R172: Lane-wise left shift by an immediate count. -/
  | vshli (s : Bool) (d : Reg) (a : Reg) (n : BitVec 6)
  /-- R172: Lane-wise logical right shift by an immediate count. -/
  | vshri (s : Bool) (d : Reg) (a : Reg) (n : BitVec 6)
  /-- R172: Lane-wise arithmetic right shift by an immediate count. -/
  | vsari (s : Bool) (d : Reg) (a : Reg) (n : BitVec 6)
  /-- R174: Fused a times b plus d, rounded once. -/
  | vfma (s : Bool) (d : Reg) (a : Reg) (b : Reg)
  /-- R174: Fused d minus a times b, rounded once. -/
  | vfms (s : Bool) (d : Reg) (a : Reg) (b : Reg)
  /-- R174: Fused a times d plus b, rounded once. -/
  | vmad (s : Bool) (d : Reg) (a : Reg) (b : Reg)
  /-- R175: BF16 pair dot products added into FP32 lanes. -/
  | vdot2 (s : Bool) (d : Reg) (a : Reg) (b : Reg)
  /-- R175: Signed byte quad dot products added into INT32 lanes. -/
  | vdot4 (s : Bool) (d : Reg) (a : Reg) (b : Reg)
  /-- R175: Unsigned byte quad dot products added into INT32 lanes. -/
  | vdot4b (s : Bool) (d : Reg) (a : Reg) (b : Reg)
  /-- R175: E4M3 quad dot products added into FP32 lanes. -/
  | vdote (s : Bool) (d : Reg) (a : Reg) (b : Reg)
  /-- R176: Converts lanes from the source tag to the FMT format. -/
  | vcvt (s : Bool) (d : Reg) (a : Reg) (b : Reg) (f : BitVec 5) (m : BitVec 2)
  /-- R184: Copies lane n of A to every lane. -/
  | vsplat (s : Bool) (d : Reg) (a : Reg) (n : BitVec 6)
  /-- R185: Replaces lane n of D with a value from A. -/
  | vins (s : Bool) (d : Reg) (a : Reg) (n : BitVec 6)
  /-- R185: Extracts lane n of A as a scalar. -/
  | vext (s : Bool) (d : Reg) (a : Reg) (n : BitVec 6)
  /-- R184: Shuffles lanes of A by byte indices in B. -/
  | vshuf (s : Bool) (d : Reg) (a : Reg) (b : Reg)
  /-- R184: Interleaves the low halves of A and B. -/
  | vzipl (s : Bool) (d : Reg) (a : Reg) (b : Reg)
  /-- R184: Interleaves the high halves of A and B. -/
  | vziph (s : Bool) (d : Reg) (a : Reg) (b : Reg)
  /-- R184: Takes the even lanes of A and B. -/
  | vuzpl (s : Bool) (d : Reg) (a : Reg) (b : Reg)
  /-- R184: Takes the odd lanes of A and B. -/
  | vuzph (s : Bool) (d : Reg) (a : Reg) (b : Reg)
  /-- R184: Reverses the lanes of A. -/
  | vrev (s : Bool) (d : Reg) (a : Reg)
  /-- R186: Compresses the selected lanes of A and counts them. -/
  | vcmpr (s : Bool) (d : Reg) (a : Reg) (b : Reg)
  /-- R186: Expands lanes of A into the selected positions. -/
  | vexpd (s : Bool) (d : Reg) (a : Reg) (b : Reg)
  /-- R186: Counts the selected lanes of a mask. -/
  | vpopm (s : Bool) (d : Reg) (a : Reg)
  /-- R187: Extracts a 16-byte window from old D and A at a byte offset. -/
  | valgn (s : Bool) (d : Reg) (a : Reg) (b : Reg)
  /-- R189: Pairwise-tree sum of the lanes into lane 0. -/
  | vrsum (s : Bool) (d : Reg) (a : Reg)
  /-- R190: Minimum of the lanes into lane 0. -/
  | vrmin (s : Bool) (d : Reg) (a : Reg)
  /-- R190: Maximum of the lanes into lane 0. -/
  | vrmax (s : Bool) (d : Reg) (a : Reg)
  /-- R190: Largest lane magnitude into lane 0. -/
  | vramax (s : Bool) (d : Reg) (a : Reg)
  /-- R189: Widening sum of the lanes. -/
  | vrsumw (s : Bool) (d : Reg) (a : Reg)
  /-- R191: Returns 1 when any lane's top bit is set. -/
  | vrany (s : Bool) (d : Reg) (a : Reg)
  /-- R191: Returns 1 when every lane's top bit is set. -/
  | vrall (s : Bool) (d : Reg) (a : Reg)
  /-- R197: Clears a long accumulator. -/
  | laz (s : Bool) (a : Reg)
  /-- R197: Adds the lanes of B exactly into a long accumulator. -/
  | laadd (s : Bool) (a : Reg) (b : Reg)
  /-- R197: Subtracts the lanes of B exactly from a long accumulator. -/
  | lasub (s : Bool) (a : Reg) (b : Reg)
  /-- R198: Rounds a long accumulator once to FP32. -/
  | larnd (s : Bool) (d : Reg) (a : Reg)
  /-- R199: Adds one long accumulator exactly into another. -/
  | lamrg (s : Bool) (a : Reg) (b : Reg)
  /-- R198: Rounds a long accumulator once to BF16. -/
  | larndb (s : Bool) (d : Reg) (a : Reg)
  /-- R200: Reads a long accumulator's status and count. -/
  | last (s : Bool) (d : Reg) (a : Reg)
  /-- R228: Fills a Survey's best values and clears COMMITS. -/
  | svinit (s : Bool) (a : Reg) (b : Reg)
  /-- R229: Probes one candidate's gain, rounded to FP32. -/
  | svprb (s : Bool) (d : Reg) (a : Reg) (b : Reg)
  /-- R229: Probes four strided candidates' gains. -/
  | svprb4 (s : Bool) (d : Reg) (a : Reg) (b : Reg)
  /-- R229: Adds a candidate's exact gain into a long accumulator. -/
  | svprbx (s : Bool) (d : Reg) (a : Reg) (b : Reg)
  /-- R230: Commits a candidate into the best values. -/
  | svcmt (s : Bool) (a : Reg) (b : Reg)
  /-- R231: Picks the highest gain, lowest id on ties. -/
  | svpick (s : Bool) (d : Reg) (a : Reg) (b : Reg)
  /-- R231: Picks the highest gain, highest id on ties. -/
  | svpickh (s : Bool) (d : Reg) (a : Reg) (b : Reg)
  /-- R219: Multiplies two operand slots and accumulates into a tile. -/
  | mma (s : Bool) (c : Reg) (x : Reg) (y : Reg)
  /-- R219: Multiplies two operand slots into a tile starting from zero. -/
  | mmaz (s : Bool) (c : Reg) (x : Reg) (y : Reg)
  /-- R208: Claims a matrix unit with a tag. -/
  | mclaim (s : Bool) (d : Reg) (k : BitVec 1) (t : BitVec 5)
  /-- R209: Releases a held matrix unit. -/
  | mrel (s : Bool) (d : Reg)
  /-- R210: Loads 16 rows into an operand slot. -/
  | mload (s : Bool) (d : Reg) (a : Reg) (b : Reg)
  /-- R210: Loads an operand slot transposed. -/
  | mloadt (s : Bool) (d : Reg) (a : Reg) (b : Reg)
  /-- R211: Loads the scale array of a scaled slot. -/
  | mloadsc (s : Bool) (d : Reg) (a : Reg) (b : Reg)
  /-- R212: Decodes SLC8 indices and scales into an E4M3 slot. -/
  | mdec (s : Bool) (d : Reg) (a : Reg) (b : Reg)
  /-- R214: Zeroes an operand slot or a tile. -/
  | mzero (s : Bool) (d : Reg)
  /-- R215: Writes a tile to memory in a chosen format. -/
  | mstore (s : Bool) (d : Reg) (a : Reg) (b : Reg)
  /-- R216: Writes a tile into an operand slot without memory. -/
  | mstoreb (s : Bool) (d : Reg) (a : Reg) (b : Reg)
  /-- R217: Returns a snapshot of a matrix unit's state. -/
  | mstate (s : Bool) (d : Reg) (a : Reg)
  /-- R213: Loads or restores the core's SLC8 pattern table. -/
  | mtbl (s : Bool) (a : Reg)
  /-- R261: Queues an engine copy within the package. -/
  | copy (s : Bool) (d : Reg) (j : Reg) (x : Reg)
  /-- R261: Queues a cluster multicast with per-receiver barrier signals. -/
  | copym (s : Bool) (d : Reg) (j : Reg) (x : Reg)
  /-- R261: Queues a copy to another package. -/
  | put (s : Bool) (d : Reg) (j : Reg) (x : Reg)
  /-- R261: Queues a remote copy followed by a barrier signal. -/
  | putsig (s : Bool) (d : Reg) (j : Reg) (x : Reg)
  /-- R261: Queues a copy from another package. -/
  | get (s : Bool) (d : Reg) (j : Reg) (x : Reg)
  /-- R261: Queues an indexed gather. -/
  | gather (s : Bool) (d : Reg) (j : Reg) (x : Reg)
  /-- R261: Queues an indexed scatter. -/
  | scatter (s : Bool) (d : Reg) (j : Reg) (x : Reg)
  /-- R262: Queues a streamed chain of vector operations. -/
  | chain (s : Bool) (d : Reg) (j : Reg) (x : Reg)
  /-- R331: Queues aged block writes carrying one age. -/
  | agput (s : Bool) (d : Reg) (j : Reg) (x : Reg)
  /-- R332: Queues aged block reads with age records. -/
  | agget (s : Bool) (d : Reg) (j : Reg) (x : Reg)
  /-- R261: Queues a block submission to a collective queue. -/
  | collsub (s : Bool) (d : Reg) (j : Reg) (x : Reg)
  /-- R267: Arms a barrier object with a target. -/
  | barinit (s : Bool) (a : Reg) (b : Reg)
  /-- R267: Signals an own-scratchpad barrier and returns the status. -/
  | barsig (s : Bool) (d : Reg) (a : Reg) (b : Reg)
  /-- R267: Signals a barrier by name anywhere in the reach. -/
  | barsign (s : Bool) (d : Reg) (a : Reg) (b : Reg)
  /-- R267: Reads a barrier's state and arrival count. -/
  | barq (s : Bool) (d : Reg) (a : Reg)
  /-- R192: Copies A and relabels its tag. -/
  | cast (s : Bool) (d : Reg) (a : Reg) (t : BitVec 5)
  /-- R193: Returns the tag code of A. -/
  | tagof (s : Bool) (d : Reg) (a : Reg)
  /-- R194: Traps FORMAT when A's tag differs from t. -/
  | tagchk (s : Bool) (a : Reg) (t : BitVec 5)
  /-- R353: Adds an incoming block into an FP32 staging block. -/
  | baddq (s : Bool) (d : Reg) (a : Reg) (b : Reg)
  /-- R355: Rounds a staging block or accumulators into an output format. -/
  | bquant (s : Bool) (d : Reg) (a : Reg) (b : Reg)
  /-- R354: Adds an incoming block into per-element long accumulators. -/
  | blacc (s : Bool) (d : Reg) (a : Reg) (b : Reg)
  /-- R39: Hint word with no effect. -/
  | hnop
  /-- R40: Supplies an immediate prefix to the next main instruction. -/
  | himm (v : BitVec 22)
  /-- R40: Supplies rounding, saturation, FTZ and format modifiers. -/
  | hmod (r : BitVec 3) (q : BitVec 1) (f : BitVec 1) (t : BitVec 5)
  /-- R116: Makes the slot wait for its fetch group before the main instruction. -/
  | hschedAlign (n : BitVec 16)
  /-- R41: Asks that lines of the next load bypass the cluster read cache. -/
  | hschedStream
  /-- R100: Each die cycle the cluster dispatcher grants up to four records to idle slots. -/
  | dispatchGrant (cluster : Nat)
  /-- R98: A cluster accepts or refuses a record arriving for one of its queues and answers the sender. -/
  | recordAccept (cluster : Nat) (q : Nat) (r : BitVec 256) (o : Sender) (sent : BitVec 40)
  /-- R60: A join cell's home applies a decrement with error bits. -/
  | joinDecrement (cell : Word) (amount : Word) (bits : BitVec 16) (o : Sender)
  /-- R264: The owning core applies a signal to a barrier object. -/
  | barrierSignal (barrier : Word) (amount : Word) (o : Sender)
  /-- R266: After the stagger delay a fired barrier pushes its record to the own mailbox. -/
  | barrierStaggeredPush (cluster : Nat) (k : Nat)
  /-- R24: A variable-latency result is written and its pending bit clears. -/
  | resultWriteback (slot : Nat) (k : Nat)
  /-- R203: The last byte of an operand slot load is written and the slot becomes READY. -/
  | slotLoadComplete (core : Nat) (u : Nat)
  /-- R205: An accepted MMA writes its tile 264 die cycles after acceptance. -/
  | mmaTileWrite (core : Nat) (u : Nat)
  /-- R108: The fetch port delivers a line, by broadcast, to the cores that asked for it. -/
  | fetchLineDelivery (core : Nat) (line : Nat)
  /-- R116: Slots waiting at an ALIGN are released when their fetch group has arrived. -/
  | alignRelease (cluster : Nat)
  /-- R116: An ALIGN wait ends after its n die cycles. -/
  | alignTimeout (slot : Nat)
  /-- R359: A table walk completes with a fill, PAGE, PROT or MEMERR. -/
  | pageWalk (slot : Nat) (va : Word) (acc : Access)
  /-- R243: A home acknowledges a write and the slot's ACKS class count drops. -/
  | homeAcknowledgement (slot : Nat) (cls : AckClass)
  /-- R240: A fault on a relaxed access found at its home is recorded as pending. -/
  | relaxedHomeFault (slot : Nat) (cause : BitVec 6) (addr : Word) (pa : Nat)
  /-- R241: A full-empty access is applied at its home or placed in the retry list. -/
  | feHomeAccess (slot : Nat)
  /-- R242: A full-empty wait passes FEWAITMAX and is withdrawn with FETIMEOUT. -/
  | feWaitTimeout (slot : Nat)
  /-- R242: An access refused by a full retry list is resent after a backoff. -/
  | retryListResend (slot : Nat)
  /-- R331: An aged block of an AGPUT is accepted or discarded at its home. -/
  | agputBlockApply (core : Nat) (k : Nat)
  /-- R324: An aged wait passes AGWAITMAX and is withdrawn. -/
  | agedWaitTimeout (slot : Nat)
  /-- R253: The engine starts a queued command and resolves its names. -/
  | engineCommandStart (core : Nat)
  /-- R256: A command's writes are acknowledged, its release performed and its join cell decremented. -/
  | engineCommandComplete (core : Nat) (k : Nat)
  /-- R258: The service maps or declines the page and the command resumes or stops. -/
  | enginePageResume (core : Nat) (k : Nat) (mapped : Bool)
  /-- R261: All bytes of a multicast have landed at one receiver, which is signalled. -/
  | copymReceiverLanded (core : Nat) (k : Nat) (receiver : Nat)
  /-- R342: After all data acknowledgements the gateway sends the PUTSIG signal. -/
  | putsigSignal (core : Nat) (k : Nat)
  /-- R350: A gateway core accepts a block into a landing slot and pushes a handler record. -/
  | collsubAccept (core : Nat) (k : Nat)
  /-- R337: The target gateway applies a write once its predecessor write has been applied. -/
  | fabricPacketApply (k : Nat)
  /-- R339: A target's acknowledgement of a remote write reaches the source. -/
  | fabricAck (k : Nat)
  /-- R339: A request unanswered within FABLIMIT is given up and reported FABRIC. -/
  | fablimitExpiry (k : Nat)
  /-- R339: Every FABLIMIT the source probes the home of a parked remote wait. -/
  | fabricProbe (slot : Nat)
  /-- R78: A name from another package is resolved at its origin's Almanac. -/
  | remoteNameResolution (n : Quad) (cls : Byte)
  /-- R81: A sector removes a name from its cache and acknowledges once its in-flight accesses are done. -/
  | nameInvalidation (n : Quad) (sector : Nat)
  /-- R81: With all acknowledgements in, the Almanac entry is freed and NMRET completes. -/
  | nameRetireComplete (n : Quad)
  /-- R82: With all acknowledgements in, the descriptor is copied and the entry made LIVE. -/
  | nameMoveComplete (n : Quad)
  /-- R345: A packet failing authentication is dropped and a replay requested. -/
  | linkTagFailure (link : Nat)
  /-- R336: On a port or plane failure the gateway resends kept packets over remaining ports. -/
  | linkPortFailure (link : Nat)
  /-- R344: The next link key is installed at both ends through the management space. -/
  | linkKeyInstall (link : Nat) (key : BitVec 256)
  /-- R344: The sender flips KI so new packets use the new key. -/
  | keyIndexFlip (link : Nat)
  /-- R344: When no old-key packet remains buffered a retire flit clears the old key. -/
  | linkRetireFlit (link : Nat)
  /-- R383: A per-millisecond timing message slews the Sidereal counter toward the master. -/
  | timingMessage (master : Word)
  /-- R383: After 100 ms without timing messages the loss is reported. -/
  | timeMasterLoss
  /-- R386: A die's PLL relock ends and its clock restarts at the new frequency. -/
  | relockEnd (die : Nat)
  /-- R388: A step scheduled by the service applies at its sidereal time. -/
  | scheduledFreqStep (die : Nat)
  /-- R107: A slot passing HBINT fences its whole core. -/
  | heartbeatFence (slot : Nat)
  /-- R375: At the end of the drain window a draining slot stops and is saved. -/
  | preemptWindowExpiry (slot : Nat)
  /-- R396: An uncorrectable error in a core's own state contains the core. -/
  | coreStateError (core : Nat)
  /-- R419: A record refused by the service error queue is resent after a backoff. -/
  | errorRecordResend (slot : Nat)
  /-- R402: Every sidereal hour the Eyepiece recomputes the die's life prediction. -/
  | eolpredUpdate (die : Nat) (source : BitVec 4) (days : BitVec 16)
  /-- R406: A TLS debug session is opened with the Eyepiece, or refused when one exists. -/
  | debugSessionConnect (id : Nat)
  /-- R406: The standby Eyepiece takes over, ending the session with its stops kept. -/
  | eyepieceFailover
  /-- R407: A session stops a group of cores between activations. -/
  | debugStop (core : Nat)
  /-- R415: Release of RST_REQ starts bring-up. -/
  | resetRequest
  /-- R416: The I3C START command moves STANDBY to RUN. -/
  | i3cStart
  /-- R416: The I3C STOP command pre-empts every slot and moves to STANDBY. -/
  | i3cStop
  /-- R416: A power cap is reached within 10 ms through frequency steps. -/
  | pcap (watts : Nat)
  /-- R411: The Eyepiece appends an authenticated repair entry after an in-service repair. -/
  | repairLogAppend (entry : List Byte)
  /-- R417: A new service image is written, verified and started with hand-over. -/
  | serviceImageUpdate (release : Nat)
  /-- R413: A UET WRITE request, a header and a payload (an address and then data), writes data and answers when
  performed. -/
  | writeRequest (head : BitVec 256) (va data : List Byte)
  /-- R413: A UET READ request, a header and a payload (an address and then a length), returns up to 64 KiB of
  data. -/
  | readRequest (head : BitVec 256) (va len : List Byte)
  /-- R91: A UET LAUNCH request is checked and its entry records pushed. -/
  | launchRequest (r : Request)
  /-- R91: An entry record refused with status 1 is retried after a backoff. -/
  | launchPushRetry (launch : Nat)
  /-- R413: A UET WAIT request is answered when its launch ends. -/
  | waitRequest (head : BitVec 256) (payload : List Byte)
  /-- R420: A launch with nothing left running, held or queued ends and its WAIT is answered. -/
  | launchEnd (launch : Nat)
  /-- R414: Service call that returns ARG0 as its result. -/
  | svcEcho
  /-- R414: Service call that maps a range with given PTE bits. -/
  | svcMap
  /-- R414: Service call that unmaps a range and issues TLBI. -/
  | svcUnmap
  /-- R414: Service call that ends the launch and answers its WAIT. -/
  | svcDone
  /-- R414: Service call that writes the QUEUE name of a ready queue or mailbox. -/
  | svcQname
  /-- R401: The service pre-empts the slots of a cluster with a lasting fault and remaps it to a spare, where its
  held contexts resume, or spares an HBM row, bank or channel, or a link lane: the UNIT of R400, with its number. -/
  | inServiceRepair (unit : Nat × Nat)
  /-- R345: Lane sparing on a link direction that was taken down ends and the link direction comes back up, or stays down. -/
  | laneSparingComplete (link : Nat) (up : Bool)
  /-- R339: A remote home's hold notice for a parked LDFE, STFE or LDAG WAIT reaches the source and stops FABLIMIT for that access. -/
  | holdNotice (slot : Nat)
  /-- R93: The service attaches a stage, service or collective queue to a queue index of a cluster with its settings. -/
  | queueAttach (cluster : Nat) (q : Nat) (x : QueueSettings)
  /-- R99: The service detaches a queue, writes its descriptor back and releases its pool records, which triggers refills. -/
  | queueDetach (cluster : Nat) (q : Nat)
  /-- R408: The debug session lifts a stop on a core, or resumes one of its slots, stopped by a claimed BREAK, at the
  next word. -/
  | debugResume (place : Nat × Option Nat)
  /-- R408: The debug session claims BREAK for a core, so a later BREAK there stops the slot instead of trapping. -/
  | debugBreakClaim (core : Nat)
  /-- R406: The active debug session is closed, so the Eyepiece accepts a new connection. -/
  | debugSessionEnd
  /-- R416: The 54 V supply is applied and the module moves from OFF to STANDBY. -/
  | powerOn
  /-- R416: The supply is removed or the module is pulled from its tray, and the module goes to OFF. -/
  | powerLoss
  /-- R415: RST_REQ is driven low by the tray's reset driver. -/
  | resetAsserted
  deriving DecidableEq, Repr

end Sys2Proof
end

