-- ==== Sys2Proof/WellFormed.lean ====
section
/-! DEFINITION. Well-formedness: the word-level checks that make an encoding ILLEGAL in every
mode and with any register contents (R47 note 2), each answered by a name of its own. -/

namespace Sys2Proof

/-- Why a word is no instruction. The first names are the decoder's, the rest are the checks of
`Instr.check` on a term. -/
inductive DecodeError where
  /-- R44: the major opcode is unassigned. -/
  | majorUnassigned
  /-- R45: the function field is unassigned. -/
  | functionUnassigned
  /-- R46: a sub-selector is unassigned. -/
  | selectorUnassigned
  /-- R6, R38: a reserved field is not zero. -/
  | reservedNonzero
  /-- R46: an unlisted control-register number. -/
  | registerUnlisted
  /-- R39, R41: a malformed hint word (its group raises ILLEGAL at its main instruction, R42). -/
  | hintMalformed
  /-- R20: a write operation on a register that is read-only in both modes. -/
  | registerReadOnly
  /-- R30: l0 or l1 is refused as this instruction's destination. -/
  | lastResultDestination
  /-- R46: scope codes 11 to 15. -/
  | scopeCode
  /-- R36, R46: a tag code 0x10 to 0x1F, or VCVT with FMT 0. -/
  | formatCode
  /-- R46: the access size is not one the instruction has. -/
  | sizeCode
  /-- R46: position + length > 64. -/
  | fieldLength
  /-- R38, R207: a unit number out of range. -/
  | unitNumber
  /-- R208: a format MCLAIM does not take for the unit. -/
  | claimFormat
  /-- R132: LOOP on z, l0 or l1. -/
  | loopCount
  deriving DecidableEq, Repr

/-- The number of a control register (R135). -/
def Creg.code : Creg → BitVec 10
  | .threadst => 0x000#10
  | .fpflags => 0x001#10
  | .flagsunion => 0x002#10
  | .trapvec => 0x008#10
  | .trappc => 0x009#10
  | .trapcause => 0x00A#10
  | .trapaddr => 0x00B#10
  | .trapinfo => 0x00C#10
  | .coord => 0x010#10
  | .pkgid => 0x011#10
  | .stage => 0x012#10
  | .recmeta => 0x013#10
  | .fetchgrp => 0x014#10
  | .wbase => 0x018#10
  | .sidereal => 0x020#10
  | .dcyc => 0x021#10
  | .ncyc => 0x022#10
  | .dfreq => 0x023#10
  | .steplog => 0x024#10
  | .hbint => 0x030#10
  | .hblast => 0x031#10
  | .agwaitmax => 0x038#10
  | .fewaitmax => 0x039#10
  | .acks => 0x040#10
  | .errpend => 0x048#10
  | .barstray => 0x049#10
  | .barstep => 0x050#10
  | .dwellmax => 0x051#10
  | .poolsel => 0x060#10
  | .poolmin => 0x061#10
  | .poolcap => 0x062#10
  | .pooluse => 0x063#10
  | .delaysel => 0x070#10
  | .delaycnt => 0x071#10
  | .delaytrn => 0x072#10
  | .delayqw => 0x073#10
  | .delayrun => 0x074#10
  | .asid => 0x080#10
  | .ptbase => 0x081#10
  | .eolpred => 0x090#10
  | .errwin => 0x091#10
  | .errthr => 0x092#10

/-- What user mode may do with the register (R135). -/
def Creg.user : Creg → CregAccess
  | .threadst => .rw
  | .fpflags => .rw
  | .flagsunion => .none
  | .trapvec => .rw
  | .trappc => .rw
  | .trapcause => .r
  | .trapaddr => .r
  | .trapinfo => .r
  | .coord => .r
  | .pkgid => .r
  | .stage => .r
  | .recmeta => .r
  | .fetchgrp => .rw
  | .wbase => .rw
  | .sidereal => .r
  | .dcyc => .r
  | .ncyc => .r
  | .dfreq => .r
  | .steplog => .r
  | .hbint => .r
  | .hblast => .r
  | .agwaitmax => .rw
  | .fewaitmax => .rw
  | .acks => .r
  | .errpend => .r
  | .barstray => .rw
  | .barstep => .r
  | .dwellmax => .r
  | .poolsel => .r
  | .poolmin => .r
  | .poolcap => .r
  | .pooluse => .r
  | .delaysel => .rw
  | .delaycnt => .r
  | .delaytrn => .r
  | .delayqw => .r
  | .delayrun => .r
  | .asid => .none
  | .ptbase => .none
  | .eolpred => .r
  | .errwin => .r
  | .errthr => .r

/-- What supervisor mode may do with the register (R135). -/
def Creg.super : Creg → CregAccess
  | .threadst => .rw
  | .fpflags => .rw
  | .flagsunion => .rw
  | .trapvec => .rw
  | .trappc => .rw
  | .trapcause => .r
  | .trapaddr => .r
  | .trapinfo => .r
  | .coord => .r
  | .pkgid => .r
  | .stage => .r
  | .recmeta => .r
  | .fetchgrp => .rw
  | .wbase => .rw
  | .sidereal => .r
  | .dcyc => .r
  | .ncyc => .r
  | .dfreq => .r
  | .steplog => .r
  | .hbint => .rw
  | .hblast => .r
  | .agwaitmax => .rw
  | .fewaitmax => .rw
  | .acks => .r
  | .errpend => .r
  | .barstray => .rw
  | .barstep => .rw
  | .dwellmax => .rw
  | .poolsel => .rw
  | .poolmin => .rw
  | .poolcap => .rw
  | .pooluse => .r
  | .delaysel => .rw
  | .delaycnt => .r
  | .delaytrn => .r
  | .delayqw => .r
  | .delayrun => .r
  | .asid => .rw
  | .ptbase => .rw
  | .eolpred => .r
  | .errwin => .rw
  | .errthr => .rw

/-- `none` when `b` holds, else the name `e` of the broken rule. -/
def need (b : Bool) (e : DecodeError) : Option DecodeError := if b then none else some e

/-- R30: an instruction of the integer and address pipe does not name l1. -/
def destInt (d : Reg) : Option DecodeError := need (d != 63#6) .lastResultDestination
/-- R30: an instruction of the vector pipe does not name l0. -/
def destVec (d : Reg) : Option DecodeError := need (d != 62#6) .lastResultDestination
/-- R30: an instruction that feeds neither last-result register names neither. -/
def destNone (d : Reg) : Option DecodeError :=
  need (d != 62#6 && d != 63#6) .lastResultDestination
/-- R46: scope codes 0 to 10. -/
def scopeOk (c : BitVec 4) : Option DecodeError := need (c.toNat ≤ 10) .scopeCode
/-- R36: tag codes 0x00 to 0x0F. -/
def fmtOk (f : BitVec 5) : Option DecodeError := need (f.toNat < 16) .formatCode
/-- R46: VCVT takes a tag code other than RAW. -/
def fmtTyped (f : BitVec 5) : Option DecodeError :=
  need (f.toNat < 16 && f != 0#5) .formatCode
/-- R46: LDAQ and STRL take sizes 0 to 4. -/
def sizeQ (z : BitVec 3) : Option DecodeError := need (z.toNat ≤ 4) .sizeCode
/-- R46: LDFE and STFE take sizes 3 and 4. -/
def sizeE (z : BitVec 3) : Option DecodeError := need (z == 3#3 || z == 4#3) .sizeCode
/-- R46: position plus length is at most 64; the field holds length - 1. -/
def fieldOk (p l : BitVec 6) : Option DecodeError :=
  need (p.toNat + l.toNat + 1 ≤ 64) .fieldLength
/-- R38, R207: the unit field holds a number from `lo` to `hi`. -/
def unitOk (lo hi : Nat) (u : BitVec 6) : Option DecodeError :=
  need (lo ≤ u.toNat && u.toNat ≤ hi) .unitNumber
/-- R208: an operand slot takes the tags of R202, a tile F32 or I32 and no scales. -/
def claimOk (u : BitVec 6) (k : BitVec 1) (t : BitVec 5) : Option DecodeError :=
  need (if u.toNat < 4 then t ∈ [0x04#5, 0x09#5, 0x0A#5, 0x0B#5, 0x0C#5]
        else t ∈ [0x02#5, 0x07#5] ∧ k = 0#1) .claimFormat
/-- R132: LOOP counts in neither z, l0 nor l1. -/
def countOk (a : Reg) : Option DecodeError :=
  need (a != 0#6 && a != 62#6 && a != 63#6) .loopCount
/-- R20, R47: the write operations need a register some mode may write. -/
def cregWritable (c : Creg) : Option DecodeError :=
  need (c.super == .rw) .registerReadOnly

/-- The first word-level rule the term breaks, if any. -/
def Instr.check : Instr → Option DecodeError
  | .add _ d _ _ => destInt d
  | .sub _ d _ _ => destInt d
  | .mul _ d _ _ => destInt d
  | .mulh _ d _ _ => destInt d
  | .mulhu _ d _ _ => destInt d
  | .div _ d _ _ => destInt d
  | .divu _ d _ _ => destInt d
  | .rem _ d _ _ => destInt d
  | .remu _ d _ _ => destInt d
  | .and _ d _ _ => destInt d
  | .or _ d _ _ => destInt d
  | .xor _ d _ _ => destInt d
  | .andn _ d _ _ => destInt d
  | .orn _ d _ _ => destInt d
  | .shl _ d _ _ => destInt d
  | .shr _ d _ _ => destInt d
  | .sar _ d _ _ => destInt d
  | .rotl _ d _ _ => destInt d
  | .rotr _ d _ _ => destInt d
  | .min _ d _ _ => destInt d
  | .max _ d _ _ => destInt d
  | .minu _ d _ _ => destInt d
  | .maxu _ d _ _ => destInt d
  | .slt _ d _ _ => destInt d
  | .sltu _ d _ _ => destInt d
  | .seq _ d _ _ => destInt d
  | .sne _ d _ _ => destInt d
  | .clz _ d _ => destInt d
  | .ctz _ d _ => destInt d
  | .popc _ d _ => destInt d
  | .bswap _ d _ => destInt d
  | .sextb _ d _ => destInt d
  | .sexth _ d _ => destInt d
  | .sextw _ d _ => destInt d
  | .zextw _ d _ => destInt d
  | .mov _ d _ => destInt d
  | .addw _ d _ _ => destInt d
  | .subw _ d _ _ => destInt d
  | .mulw _ d _ _ => destInt d
  | .adds1 _ d _ _ => destInt d
  | .adds2 _ d _ _ => destInt d
  | .adds3 _ d _ _ => destInt d
  | .absd _ d _ _ => destInt d
  | .addi _ d _ _ => destInt d
  | .andi _ d _ _ => destInt d
  | .ori _ d _ _ => destInt d
  | .xori _ d _ _ => destInt d
  | .slti _ d _ _ => destInt d
  | .sltiu _ d _ _ => destInt d
  | .shli _ d _ _ => destInt d
  | .shri _ d _ _ => destInt d
  | .sari _ d _ _ => destInt d
  | .rotli _ d _ _ => destInt d
  | .limm _ d _ => destInt d
  | .addpc _ d _ => destInt d
  | .extr _ d _ p l => destInt d <|> fieldOk p l
  | .extrs _ d _ p l => destInt d <|> fieldOk p l
  | .ins _ d _ p l => destInt d <|> fieldOk p l
  | .moveqz _ d _ _ => destInt d
  | .movnez _ d _ _ => destInt d
  | .movltz _ d _ _ => destInt d
  | .movgez _ d _ _ => destInt d
  | .movgtz _ d _ _ => destInt d
  | .movlez _ d _ _ => destInt d
  | .rdc _ d _ => destInt d
  | .wrc _ _ c => cregWritable c
  | .setc _ d _ c => destInt d <|> cregWritable c
  | .clrc _ d _ c => destInt d <|> cregWritable c
  | .swpc _ d _ c => destInt d <|> cregWritable c
  | .threadstWrite .. => none
  | .fpflagsAccess .. => none
  | .poolminWrite .. => none
  | .poolcapWrite .. => none
  | .delayselLoad .. => none
  | .nop .. => none
  | .hbeat .. => none
  | .trap .. => none
  | .tret .. => none
  | .brk .. => none
  | .efence .. => none
  | .eret .. => none
  | .scall .. => none
  | .park .. => none
  | .resume .. => none
  | .preempt .. => none
  | .tlbi .. => none
  | .freq .. => none
  | .wset .. => none
  | .kill .. => none
  | .beqz .. => none
  | .bnez .. => none
  | .bltz .. => none
  | .bgez .. => none
  | .bgtz .. => none
  | .blez .. => none
  | .beq .. => none
  | .bne .. => none
  | .blt .. => none
  | .bge .. => none
  | .bltu .. => none
  | .bgeu .. => none
  | .jmp .. => none
  | .call .. => none
  | .jr .. => none
  | .callr .. => none
  | .ret .. => none
  | .loop _ a _ => countOk a
  | .endAct .. => none
  | .endj .. => none
  | .ends .. => none
  | .fence _ c => scopeOk c
  | .fencew _ c => scopeOk c
  | .fencer _ c => scopeOk c
  | .ackwait _ c => scopeOk c
  | .ldb _ t _ _ => destNone t
  | .ldbs _ t _ _ => destNone t
  | .ldh _ t _ _ => destNone t
  | .ldhs _ t _ _ => destNone t
  | .ldw _ t _ _ => destNone t
  | .ldws _ t _ _ => destNone t
  | .ldd _ t _ _ => destNone t
  | .ldq _ t _ _ => destNone t
  | .stb .. => none
  | .sth .. => none
  | .stw .. => none
  | .std .. => none
  | .stq .. => none
  | .ldaq _ t _ _ z c => destNone t <|> scopeOk c <|> sizeQ z
  | .strl _ _ _ _ z c => scopeOk c <|> sizeQ z
  | .ldv _ t _ f _ => destNone t <|> fmtOk f
  | .stv _ _ _ f _ => fmtOk f
  | .ldfeRff _ t _ z c => destNone t <|> scopeOk c <|> sizeE z
  | .ldfeRfe _ t _ z c => destNone t <|> scopeOk c <|> sizeE z
  | .ldfeRawfe _ t _ z c => destNone t <|> scopeOk c <|> sizeE z
  | .stfeWef _ _ _ z c => scopeOk c <|> sizeE z
  | .stfeWaf _ _ _ z c => scopeOk c <|> sizeE z
  | .stfeWae _ _ _ z c => scopeOk c <|> sizeE z
  | .stfeSete _ _ z c => scopeOk c <|> sizeE z
  | .ldagWait _ t _ _ c => destNone t <|> scopeOk c
  | .ldagTrap _ t _ _ c => destNone t <|> scopeOk c
  | .ldagPeek _ t _ _ c => destNone t <|> scopeOk c
  | .agreg .. => none
  | .agdone .. => none
  | .agage _ d _ => destNone d
  | .aadd _ t _ _ _ _ c => destNone t <|> scopeOk c
  | .amin _ t _ _ _ _ c => destNone t <|> scopeOk c
  | .amax _ t _ _ _ _ c => destNone t <|> scopeOk c
  | .aminu _ t _ _ _ _ c => destNone t <|> scopeOk c
  | .amaxu _ t _ _ _ _ c => destNone t <|> scopeOk c
  | .aand _ t _ _ _ _ c => destNone t <|> scopeOk c
  | .aor _ t _ _ _ _ c => destNone t <|> scopeOk c
  | .axor _ t _ _ _ _ c => destNone t <|> scopeOk c
  | .aswp _ t _ _ _ _ c => destNone t <|> scopeOk c
  | .acas _ t _ _ _ _ c => destNone t <|> scopeOk c
  | .acas2 _ t _ _ _ c => destNone t <|> scopeOk c
  | .nmcas _ t _ _ _ c => destNone t <|> scopeOk c
  | .afadd _ t _ _ _ _ c => destNone t <|> scopeOk c
  | .nmint _ d _ _ => destInt d
  | .nmres _ d _ => destInt d
  | .nmret _ d _ => destInt d
  | .nmeq _ d _ _ => destInt d
  | .nmld _ d _ => destInt d
  | .nmst .. => none
  | .nmcls _ d _ => destInt d
  | .nmorg _ d _ => destInt d
  | .nmmove .. => none
  | .spawn .. => none
  | .spawnq _ d _ _ => destInt d
  | .send .. => none
  | .jdec .. => none
  | .jinit .. => none
  | .handover .. => none
  | .sendseq _ d _ _ => destInt d
  | .qlen _ d _ => destInt d
  | .vadd _ d _ _ => destVec d
  | .vsub _ d _ _ => destVec d
  | .vmul _ d _ _ => destVec d
  | .vdiv _ d _ _ => destVec d
  | .vmin _ d _ _ => destVec d
  | .vmax _ d _ _ => destVec d
  | .vminn _ d _ _ => destVec d
  | .vmaxn _ d _ _ => destVec d
  | .vabs _ d _ => destVec d
  | .vneg _ d _ => destVec d
  | .vsqrt _ d _ => destVec d
  | .vrcp _ d _ => destVec d
  | .vrsq _ d _ => destVec d
  | .vexp2 _ d _ => destVec d
  | .vlog2 _ d _ => destVec d
  | .vand _ d _ _ => destVec d
  | .vor _ d _ _ => destVec d
  | .vxor _ d _ _ => destVec d
  | .vandn _ d _ _ => destVec d
  | .vnot _ d _ => destVec d
  | .vshl _ d _ _ => destVec d
  | .vshr _ d _ _ => destVec d
  | .vsar _ d _ _ => destVec d
  | .vadds _ d _ _ => destVec d
  | .vsubs _ d _ _ => destVec d
  | .vavg _ d _ _ => destVec d
  | .vmulh _ d _ _ => destVec d
  | .vceq _ d _ _ => destVec d
  | .vcne _ d _ _ => destVec d
  | .vclt _ d _ _ => destVec d
  | .vcle _ d _ _ => destVec d
  | .vcun _ d _ _ => destVec d
  | .vsel _ d _ _ => destVec d
  | .vclass _ d _ => destVec d
  | .vround _ d _ => destVec d
  | .vshli _ d _ _ => destVec d
  | .vshri _ d _ _ => destVec d
  | .vsari _ d _ _ => destVec d
  | .vfma _ d _ _ => destVec d
  | .vfms _ d _ _ => destVec d
  | .vmad _ d _ _ => destVec d
  | .vdot2 _ d _ _ => destVec d
  | .vdot4 _ d _ _ => destVec d
  | .vdot4b _ d _ _ => destVec d
  | .vdote _ d _ _ => destVec d
  | .vcvt _ d _ _ f _ => destVec d <|> fmtTyped f
  | .vsplat _ d _ _ => destVec d
  | .vins _ d _ _ => destVec d
  | .vext _ d _ _ => destVec d
  | .vshuf _ d _ _ => destVec d
  | .vzipl _ d _ _ => destVec d
  | .vziph _ d _ _ => destVec d
  | .vuzpl _ d _ _ => destVec d
  | .vuzph _ d _ _ => destVec d
  | .vrev _ d _ => destVec d
  | .vcmpr _ d _ _ => destVec d
  | .vexpd _ d _ _ => destVec d
  | .vpopm _ d _ => destVec d
  | .valgn _ d _ _ => destVec d
  | .vrsum _ d _ => destVec d
  | .vrmin _ d _ => destVec d
  | .vrmax _ d _ => destVec d
  | .vramax _ d _ => destVec d
  | .vrsumw _ d _ => destVec d
  | .vrany _ d _ => destVec d
  | .vrall _ d _ => destVec d
  | .laz .. => none
  | .laadd .. => none
  | .lasub .. => none
  | .larnd _ d _ => destNone d
  | .lamrg .. => none
  | .larndb _ d _ => destNone d
  | .last _ d _ => destNone d
  | .svinit .. => none
  | .svprb _ d _ _ => destNone d
  | .svprb4 _ d _ _ => destNone d
  | .svprbx _ d _ _ => destNone d
  | .svcmt .. => none
  | .svpick _ d _ _ => destNone d
  | .svpickh _ d _ _ => destNone d
  | .mma _ c x y => unitOk 0 3 c <|> unitOk 0 3 x <|> unitOk 0 3 y
  | .mmaz _ c x y => unitOk 0 3 c <|> unitOk 0 3 x <|> unitOk 0 3 y
  | .mclaim _ d k t => unitOk 0 7 d <|> claimOk d k t
  | .mrel _ d => unitOk 0 7 d
  | .mload _ d _ _ => unitOk 0 3 d
  | .mloadt _ d _ _ => unitOk 0 3 d
  | .mloadsc _ d _ _ => unitOk 0 3 d
  | .mdec _ d _ _ => unitOk 0 3 d
  | .mzero _ d => unitOk 0 7 d
  | .mstore _ d _ _ => unitOk 4 7 d
  | .mstoreb _ d a _ => unitOk 0 3 d <|> unitOk 4 7 a
  | .mstate _ d a => destNone d <|> unitOk 0 7 a
  | .mtbl .. => none
  | .copy .. => none
  | .copym .. => none
  | .put .. => none
  | .putsig .. => none
  | .get .. => none
  | .gather .. => none
  | .scatter .. => none
  | .chain .. => none
  | .agput .. => none
  | .agget .. => none
  | .collsub .. => none
  | .barinit .. => none
  | .barsig _ d _ _ => destNone d
  | .barsign _ d _ _ => destNone d
  | .barq _ d _ => destNone d
  | .cast _ d _ t => destInt d <|> fmtOk t
  | .tagof _ d _ => destInt d
  | .tagchk _ _ t => fmtOk t
  | .baddq .. => none
  | .bquant .. => none
  | .blacc .. => none
  | .hnop => none
  | .himm .. => none
  | .hmod .. => none
  | .hschedAlign .. => none
  | .hschedStream => none
  | .dispatchGrant .. => none
  | .recordAccept .. => none
  | .joinDecrement .. => none
  | .barrierSignal .. => none
  | .barrierStaggeredPush .. => none
  | .resultWriteback .. => none
  | .slotLoadComplete .. => none
  | .mmaTileWrite .. => none
  | .fetchLineDelivery .. => none
  | .alignRelease .. => none
  | .alignTimeout .. => none
  | .pageWalk .. => none
  | .homeAcknowledgement .. => none
  | .relaxedHomeFault .. => none
  | .feHomeAccess .. => none
  | .feWaitTimeout .. => none
  | .retryListResend .. => none
  | .agputBlockApply .. => none
  | .agedWaitTimeout .. => none
  | .engineCommandStart .. => none
  | .engineCommandComplete .. => none
  | .enginePageResume .. => none
  | .copymReceiverLanded .. => none
  | .putsigSignal .. => none
  | .collsubAccept .. => none
  | .fabricPacketApply .. => none
  | .fabricAck .. => none
  | .fablimitExpiry .. => none
  | .fabricProbe .. => none
  | .remoteNameResolution .. => none
  | .nameInvalidation .. => none
  | .nameRetireComplete .. => none
  | .nameMoveComplete .. => none
  | .linkTagFailure .. => none
  | .linkPortFailure .. => none
  | .linkKeyInstall .. => none
  | .keyIndexFlip .. => none
  | .linkRetireFlit .. => none
  | .timingMessage .. => none
  | .timeMasterLoss => none
  | .relockEnd .. => none
  | .scheduledFreqStep .. => none
  | .heartbeatFence .. => none
  | .preemptWindowExpiry .. => none
  | .coreStateError .. => none
  | .errorRecordResend .. => none
  | .eolpredUpdate .. => none
  | .debugSessionConnect .. => none
  | .eyepieceFailover => none
  | .debugStop .. => none
  | .resetRequest => none
  | .i3cStart => none
  | .i3cStop => none
  | .pcap .. => none
  | .repairLogAppend .. => none
  | .serviceImageUpdate .. => none
  | .writeRequest .. => none
  | .readRequest .. => none
  | .launchRequest .. => none
  | .launchPushRetry .. => none
  | .waitRequest .. => none
  | .launchEnd .. => none
  | .svcEcho => none
  | .svcMap => none
  | .svcUnmap => none
  | .svcDone => none
  | .svcQname => none
  | .inServiceRepair .. => none
  | .laneSparingComplete .. => none
  | .holdNotice .. => none
  | .queueAttach .. => none
  | .queueDetach .. => none
  | .debugResume .. => none
  | .debugBreakClaim .. => none
  | .debugSessionEnd => none
  | .powerOn => none
  | .powerLoss => none
  | .resetAsserted => none

/-- A term that breaks no word-level rule. -/
def Instr.wellFormed (i : Instr) : Bool := i.check.isNone

end Sys2Proof
end

