-- ==== Sys2Proof/Decode.lean ====
section
/-! DEFINITION. The decoder, total on all words and refusing by name, and after it the encoder
written from the same formats (R37). -/

namespace Sys2Proof

/-- Bits `lo + len - 1` to `lo` of a word (R2). -/
def fld (lo len : Nat) (w : BitVec 32) : BitVec len := w.extractLsb' lo len

/-- The switch marker, bit 31 (R22). -/
def fldS (w : BitVec 32) : Bool := fld 31 1 w == 1#1

/-- The control register with the given number, if R135 lists it. -/
def Creg.ofCode (c : BitVec 10) : Option Creg :=
  match c.toNat with
  | 0x000 => some .threadst
  | 0x001 => some .fpflags
  | 0x002 => some .flagsunion
  | 0x008 => some .trapvec
  | 0x009 => some .trappc
  | 0x00A => some .trapcause
  | 0x00B => some .trapaddr
  | 0x00C => some .trapinfo
  | 0x010 => some .coord
  | 0x011 => some .pkgid
  | 0x012 => some .stage
  | 0x013 => some .recmeta
  | 0x014 => some .fetchgrp
  | 0x018 => some .wbase
  | 0x020 => some .sidereal
  | 0x021 => some .dcyc
  | 0x022 => some .ncyc
  | 0x023 => some .dfreq
  | 0x024 => some .steplog
  | 0x030 => some .hbint
  | 0x031 => some .hblast
  | 0x038 => some .agwaitmax
  | 0x039 => some .fewaitmax
  | 0x040 => some .acks
  | 0x048 => some .errpend
  | 0x049 => some .barstray
  | 0x050 => some .barstep
  | 0x051 => some .dwellmax
  | 0x060 => some .poolsel
  | 0x061 => some .poolmin
  | 0x062 => some .poolcap
  | 0x063 => some .pooluse
  | 0x070 => some .delaysel
  | 0x071 => some .delaycnt
  | 0x072 => some .delaytrn
  | 0x073 => some .delayqw
  | 0x074 => some .delayrun
  | 0x080 => some .asid
  | 0x081 => some .ptbase
  | 0x090 => some .eolpred
  | 0x091 => some .errwin
  | 0x092 => some .errthr
  | _ => none

/-- Major 0x01, selected by bits 6:0. -/
def decIop (w : BitVec 32) : Except DecodeError Instr :=
  match (fld 0 7 w).toNat with
  | 0x00 =>
    .ok (.add (fldS w) (fld 19 6 w) (fld 13 6 w) (fld 7 6 w))
  | 0x01 =>
    .ok (.sub (fldS w) (fld 19 6 w) (fld 13 6 w) (fld 7 6 w))
  | 0x02 =>
    .ok (.mul (fldS w) (fld 19 6 w) (fld 13 6 w) (fld 7 6 w))
  | 0x03 =>
    .ok (.mulh (fldS w) (fld 19 6 w) (fld 13 6 w) (fld 7 6 w))
  | 0x04 =>
    .ok (.mulhu (fldS w) (fld 19 6 w) (fld 13 6 w) (fld 7 6 w))
  | 0x05 =>
    .ok (.div (fldS w) (fld 19 6 w) (fld 13 6 w) (fld 7 6 w))
  | 0x06 =>
    .ok (.divu (fldS w) (fld 19 6 w) (fld 13 6 w) (fld 7 6 w))
  | 0x07 =>
    .ok (.rem (fldS w) (fld 19 6 w) (fld 13 6 w) (fld 7 6 w))
  | 0x08 =>
    .ok (.remu (fldS w) (fld 19 6 w) (fld 13 6 w) (fld 7 6 w))
  | 0x09 =>
    .ok (.and (fldS w) (fld 19 6 w) (fld 13 6 w) (fld 7 6 w))
  | 0x0A =>
    .ok (.or (fldS w) (fld 19 6 w) (fld 13 6 w) (fld 7 6 w))
  | 0x0B =>
    .ok (.xor (fldS w) (fld 19 6 w) (fld 13 6 w) (fld 7 6 w))
  | 0x0C =>
    .ok (.andn (fldS w) (fld 19 6 w) (fld 13 6 w) (fld 7 6 w))
  | 0x0D =>
    .ok (.orn (fldS w) (fld 19 6 w) (fld 13 6 w) (fld 7 6 w))
  | 0x0E =>
    .ok (.shl (fldS w) (fld 19 6 w) (fld 13 6 w) (fld 7 6 w))
  | 0x0F =>
    .ok (.shr (fldS w) (fld 19 6 w) (fld 13 6 w) (fld 7 6 w))
  | 0x10 =>
    .ok (.sar (fldS w) (fld 19 6 w) (fld 13 6 w) (fld 7 6 w))
  | 0x11 =>
    .ok (.rotl (fldS w) (fld 19 6 w) (fld 13 6 w) (fld 7 6 w))
  | 0x12 =>
    .ok (.rotr (fldS w) (fld 19 6 w) (fld 13 6 w) (fld 7 6 w))
  | 0x13 =>
    .ok (.min (fldS w) (fld 19 6 w) (fld 13 6 w) (fld 7 6 w))
  | 0x14 =>
    .ok (.max (fldS w) (fld 19 6 w) (fld 13 6 w) (fld 7 6 w))
  | 0x15 =>
    .ok (.minu (fldS w) (fld 19 6 w) (fld 13 6 w) (fld 7 6 w))
  | 0x16 =>
    .ok (.maxu (fldS w) (fld 19 6 w) (fld 13 6 w) (fld 7 6 w))
  | 0x17 =>
    .ok (.slt (fldS w) (fld 19 6 w) (fld 13 6 w) (fld 7 6 w))
  | 0x18 =>
    .ok (.sltu (fldS w) (fld 19 6 w) (fld 13 6 w) (fld 7 6 w))
  | 0x19 =>
    .ok (.seq (fldS w) (fld 19 6 w) (fld 13 6 w) (fld 7 6 w))
  | 0x1A =>
    .ok (.sne (fldS w) (fld 19 6 w) (fld 13 6 w) (fld 7 6 w))
  | 0x1B =>
    if fld 7 6 w = 0#6 then .ok (.clz (fldS w) (fld 19 6 w) (fld 13 6 w))
    else .error .reservedNonzero
  | 0x1C =>
    if fld 7 6 w = 0#6 then .ok (.ctz (fldS w) (fld 19 6 w) (fld 13 6 w))
    else .error .reservedNonzero
  | 0x1D =>
    if fld 7 6 w = 0#6 then .ok (.popc (fldS w) (fld 19 6 w) (fld 13 6 w))
    else .error .reservedNonzero
  | 0x1E =>
    if fld 7 6 w = 0#6 then .ok (.bswap (fldS w) (fld 19 6 w) (fld 13 6 w))
    else .error .reservedNonzero
  | 0x1F =>
    if fld 7 6 w = 0#6 then .ok (.sextb (fldS w) (fld 19 6 w) (fld 13 6 w))
    else .error .reservedNonzero
  | 0x20 =>
    if fld 7 6 w = 0#6 then .ok (.sexth (fldS w) (fld 19 6 w) (fld 13 6 w))
    else .error .reservedNonzero
  | 0x21 =>
    if fld 7 6 w = 0#6 then .ok (.sextw (fldS w) (fld 19 6 w) (fld 13 6 w))
    else .error .reservedNonzero
  | 0x22 =>
    if fld 7 6 w = 0#6 then .ok (.zextw (fldS w) (fld 19 6 w) (fld 13 6 w))
    else .error .reservedNonzero
  | 0x23 =>
    if fld 7 6 w = 0#6 then .ok (.mov (fldS w) (fld 19 6 w) (fld 13 6 w))
    else .error .reservedNonzero
  | 0x24 =>
    .ok (.addw (fldS w) (fld 19 6 w) (fld 13 6 w) (fld 7 6 w))
  | 0x25 =>
    .ok (.subw (fldS w) (fld 19 6 w) (fld 13 6 w) (fld 7 6 w))
  | 0x26 =>
    .ok (.mulw (fldS w) (fld 19 6 w) (fld 13 6 w) (fld 7 6 w))
  | 0x27 =>
    .ok (.adds1 (fldS w) (fld 19 6 w) (fld 13 6 w) (fld 7 6 w))
  | 0x28 =>
    .ok (.adds2 (fldS w) (fld 19 6 w) (fld 13 6 w) (fld 7 6 w))
  | 0x29 =>
    .ok (.adds3 (fldS w) (fld 19 6 w) (fld 13 6 w) (fld 7 6 w))
  | 0x2A =>
    .ok (.absd (fldS w) (fld 19 6 w) (fld 13 6 w) (fld 7 6 w))
  | _ => .error .functionUnassigned

/-- Major 0x08, selected by bits 12:10. -/
def decShifti (w : BitVec 32) : Except DecodeError Instr :=
  match (fld 10 3 w).toNat with
  | 0x00 =>
    if fld 6 4 w = 0#4 then .ok (.shli (fldS w) (fld 19 6 w) (fld 13 6 w) (fld 0 6 w))
    else .error .reservedNonzero
  | 0x01 =>
    if fld 6 4 w = 0#4 then .ok (.shri (fldS w) (fld 19 6 w) (fld 13 6 w) (fld 0 6 w))
    else .error .reservedNonzero
  | 0x02 =>
    if fld 6 4 w = 0#4 then .ok (.sari (fldS w) (fld 19 6 w) (fld 13 6 w) (fld 0 6 w))
    else .error .reservedNonzero
  | 0x03 =>
    if fld 6 4 w = 0#4 then .ok (.rotli (fldS w) (fld 19 6 w) (fld 13 6 w) (fld 0 6 w))
    else .error .reservedNonzero
  | _ => .error .selectorUnassigned

/-- Major 0x0B, selected by bits 0:0. -/
def decExtr (w : BitVec 32) : Except DecodeError Instr :=
  match (fld 0 1 w).toNat with
  | 0x00 =>
    .ok (.extr (fldS w) (fld 19 6 w) (fld 13 6 w) (fld 7 6 w) (fld 1 6 w))
  | 0x01 =>
    .ok (.extrs (fldS w) (fld 19 6 w) (fld 13 6 w) (fld 7 6 w) (fld 1 6 w))
  | _ => .error .selectorUnassigned

/-- Major 0x0C, selected by bits 0:0. -/
def decIns (w : BitVec 32) : Except DecodeError Instr :=
  match (fld 0 1 w).toNat with
  | 0x00 =>
    .ok (.ins (fldS w) (fld 19 6 w) (fld 13 6 w) (fld 7 6 w) (fld 1 6 w))
  | _ => .error .selectorUnassigned

/-- Major 0x0D, selected by bits 6:0. -/
def decMovc (w : BitVec 32) : Except DecodeError Instr :=
  match (fld 0 7 w).toNat with
  | 0x00 =>
    .ok (.moveqz (fldS w) (fld 19 6 w) (fld 13 6 w) (fld 7 6 w))
  | 0x01 =>
    .ok (.movnez (fldS w) (fld 19 6 w) (fld 13 6 w) (fld 7 6 w))
  | 0x02 =>
    .ok (.movltz (fldS w) (fld 19 6 w) (fld 13 6 w) (fld 7 6 w))
  | 0x03 =>
    .ok (.movgez (fldS w) (fld 19 6 w) (fld 13 6 w) (fld 7 6 w))
  | 0x04 =>
    .ok (.movgtz (fldS w) (fld 19 6 w) (fld 13 6 w) (fld 7 6 w))
  | 0x05 =>
    .ok (.movlez (fldS w) (fld 19 6 w) (fld 13 6 w) (fld 7 6 w))
  | _ => .error .functionUnassigned

/-- Major 0x0E, selected by bits 2:0. -/
def decCtrl (w : BitVec 32) : Except DecodeError Instr :=
  match (fld 0 3 w).toNat with
  | 0x00 =>
    if fld 13 6 w = 0#6 then (match Creg.ofCode (fld 3 10 w) with
      | some c => .ok (.rdc (fldS w) (fld 19 6 w) c)
      | none => .error .registerUnlisted)
    else .error .reservedNonzero
  | 0x01 =>
    if fld 19 6 w = 0#6 then (match Creg.ofCode (fld 3 10 w) with
      | some c => .ok (.wrc (fldS w) (fld 13 6 w) c)
      | none => .error .registerUnlisted)
    else .error .reservedNonzero
  | 0x02 =>
    match Creg.ofCode (fld 3 10 w) with
      | some c => .ok (.setc (fldS w) (fld 19 6 w) (fld 13 6 w) c)
      | none => .error .registerUnlisted
  | 0x03 =>
    match Creg.ofCode (fld 3 10 w) with
      | some c => .ok (.clrc (fldS w) (fld 19 6 w) (fld 13 6 w) c)
      | none => .error .registerUnlisted
  | 0x04 =>
    match Creg.ofCode (fld 3 10 w) with
      | some c => .ok (.swpc (fldS w) (fld 19 6 w) (fld 13 6 w) c)
      | none => .error .registerUnlisted
  | _ => .error .selectorUnassigned

/-- Major 0x0F, selected by bits 6:0. -/
def decSys (w : BitVec 32) : Except DecodeError Instr :=
  match (fld 0 7 w).toNat with
  | 0x00 =>
    if fld 19 6 w = 0#6 ∧ fld 13 6 w = 0#6 ∧ fld 7 6 w = 0#6 then .ok (.nop (fldS w))
    else .error .reservedNonzero
  | 0x01 =>
    if fld 19 6 w = 0#6 ∧ fld 13 6 w = 0#6 ∧ fld 7 6 w = 0#6 then .ok (.hbeat (fldS w))
    else .error .reservedNonzero
  | 0x02 =>
    if fld 19 6 w = 0#6 ∧ fld 13 6 w = 0#6 then .ok (.trap (fldS w) (fld 7 6 w))
    else .error .reservedNonzero
  | 0x03 =>
    if fld 19 6 w = 0#6 ∧ fld 13 6 w = 0#6 ∧ fld 7 6 w = 0#6 then .ok (.tret (fldS w))
    else .error .reservedNonzero
  | 0x04 =>
    if fld 19 6 w = 0#6 ∧ fld 13 6 w = 0#6 ∧ fld 7 6 w = 0#6 then .ok (.brk (fldS w))
    else .error .reservedNonzero
  | 0x05 =>
    if fld 19 6 w = 0#6 ∧ fld 13 6 w = 0#6 ∧ fld 7 6 w = 0#6 then .ok (.efence (fldS w))
    else .error .reservedNonzero
  | 0x06 =>
    if fld 19 6 w = 0#6 ∧ fld 13 6 w = 0#6 ∧ fld 7 6 w = 0#6 then .ok (.eret (fldS w))
    else .error .reservedNonzero
  | 0x07 =>
    if fld 19 6 w = 0#6 ∧ fld 7 6 w = 0#6 then .ok (.scall (fldS w) (fld 13 6 w))
    else .error .reservedNonzero
  | 0x08 =>
    if fld 19 6 w = 0#6 ∧ fld 7 6 w = 0#6 then .ok (.park (fldS w) (fld 13 6 w))
    else .error .reservedNonzero
  | 0x09 =>
    if fld 19 6 w = 0#6 ∧ fld 7 6 w = 0#6 then .ok (.resume (fldS w) (fld 13 6 w))
    else .error .reservedNonzero
  | 0x0A =>
    if fld 19 6 w = 0#6 ∧ fld 7 6 w = 0#6 then .ok (.preempt (fldS w) (fld 13 6 w))
    else .error .reservedNonzero
  | 0x0B =>
    if fld 19 6 w = 0#6 then .ok (.tlbi (fldS w) (fld 13 6 w) (fld 7 6 w))
    else .error .reservedNonzero
  | 0x0C =>
    if fld 19 6 w = 0#6 ∧ fld 7 6 w = 0#6 then .ok (.freq (fldS w) (fld 13 6 w))
    else .error .reservedNonzero
  | 0x0D =>
    if fld 19 6 w = 0#6 ∧ fld 7 6 w = 0#6 then .ok (.wset (fldS w) (fld 13 6 w))
    else .error .reservedNonzero
  | 0x0E =>
    if fld 19 6 w = 0#6 ∧ fld 7 6 w = 0#6 then .ok (.kill (fldS w) (fld 13 6 w))
    else .error .reservedNonzero
  | _ => .error .functionUnassigned

/-- Major 0x10, selected by bits 18:16. -/
def decBrc (w : BitVec 32) : Except DecodeError Instr :=
  match (fld 16 3 w).toNat with
  | 0x00 =>
    .ok (.beqz (fldS w) (fld 19 6 w) (fld 0 16 w))
  | 0x01 =>
    .ok (.bnez (fldS w) (fld 19 6 w) (fld 0 16 w))
  | 0x02 =>
    .ok (.bltz (fldS w) (fld 19 6 w) (fld 0 16 w))
  | 0x03 =>
    .ok (.bgez (fldS w) (fld 19 6 w) (fld 0 16 w))
  | 0x04 =>
    .ok (.bgtz (fldS w) (fld 19 6 w) (fld 0 16 w))
  | 0x05 =>
    .ok (.blez (fldS w) (fld 19 6 w) (fld 0 16 w))
  | _ => .error .selectorUnassigned

/-- Major 0x11, selected by bits 12:10. -/
def decBcmp (w : BitVec 32) : Except DecodeError Instr :=
  match (fld 10 3 w).toNat with
  | 0x00 =>
    .ok (.beq (fldS w) (fld 19 6 w) (fld 13 6 w) (fld 0 10 w))
  | 0x01 =>
    .ok (.bne (fldS w) (fld 19 6 w) (fld 13 6 w) (fld 0 10 w))
  | 0x02 =>
    .ok (.blt (fldS w) (fld 19 6 w) (fld 13 6 w) (fld 0 10 w))
  | 0x03 =>
    .ok (.bge (fldS w) (fld 19 6 w) (fld 13 6 w) (fld 0 10 w))
  | 0x04 =>
    .ok (.bltu (fldS w) (fld 19 6 w) (fld 13 6 w) (fld 0 10 w))
  | 0x05 =>
    .ok (.bgeu (fldS w) (fld 19 6 w) (fld 13 6 w) (fld 0 10 w))
  | _ => .error .selectorUnassigned

/-- Major 0x14, selected by bits 6:0. -/
def decJreg (w : BitVec 32) : Except DecodeError Instr :=
  match (fld 0 7 w).toNat with
  | 0x00 =>
    if fld 19 6 w = 0#6 ∧ fld 7 6 w = 0#6 then .ok (.jr (fldS w) (fld 13 6 w))
    else .error .reservedNonzero
  | 0x01 =>
    if fld 19 6 w = 0#6 ∧ fld 7 6 w = 0#6 then .ok (.callr (fldS w) (fld 13 6 w))
    else .error .reservedNonzero
  | 0x02 =>
    if fld 19 6 w = 0#6 ∧ fld 13 6 w = 0#6 ∧ fld 7 6 w = 0#6 then .ok (.ret (fldS w))
    else .error .reservedNonzero
  | _ => .error .functionUnassigned

/-- Major 0x15, selected by bits 18:16. -/
def decLoop (w : BitVec 32) : Except DecodeError Instr :=
  match (fld 16 3 w).toNat with
  | 0x00 =>
    .ok (.loop (fldS w) (fld 19 6 w) (fld 0 16 w))
  | _ => .error .selectorUnassigned

/-- Major 0x16, selected by bits 6:0. -/
def decEndg (w : BitVec 32) : Except DecodeError Instr :=
  match (fld 0 7 w).toNat with
  | 0x00 =>
    if fld 19 6 w = 0#6 ∧ fld 13 6 w = 0#6 ∧ fld 7 6 w = 0#6 then .ok (.endAct (fldS w))
    else .error .reservedNonzero
  | 0x01 =>
    if fld 19 6 w = 0#6 ∧ fld 7 6 w = 0#6 then .ok (.endj (fldS w) (fld 13 6 w))
    else .error .reservedNonzero
  | 0x02 =>
    if fld 19 6 w = 0#6 then .ok (.ends (fldS w) (fld 13 6 w) (fld 7 6 w))
    else .error .reservedNonzero
  | _ => .error .functionUnassigned

/-- Major 0x17, selected by bits 5:4. -/
def decFence (w : BitVec 32) : Except DecodeError Instr :=
  match (fld 4 2 w).toNat with
  | 0x00 =>
    if fld 6 19 w = 0#19 then .ok (.fence (fldS w) (fld 0 4 w))
    else .error .reservedNonzero
  | 0x01 =>
    if fld 6 19 w = 0#19 then .ok (.fencew (fldS w) (fld 0 4 w))
    else .error .reservedNonzero
  | 0x02 =>
    if fld 6 19 w = 0#19 then .ok (.fencer (fldS w) (fld 0 4 w))
    else .error .reservedNonzero
  | 0x03 =>
    if fld 6 19 w = 0#19 then .ok (.ackwait (fldS w) (fld 0 4 w))
    else .error .reservedNonzero
  | _ => .error .selectorUnassigned

/-- Major 0x18, selected by bits 2:0. -/
def decLds (w : BitVec 32) : Except DecodeError Instr :=
  match (fld 0 3 w).toNat with
  | 0x00 =>
    .ok (.ldb (fldS w) (fld 19 6 w) (fld 13 6 w) (fld 3 10 w))
  | 0x01 =>
    .ok (.ldbs (fldS w) (fld 19 6 w) (fld 13 6 w) (fld 3 10 w))
  | 0x02 =>
    .ok (.ldh (fldS w) (fld 19 6 w) (fld 13 6 w) (fld 3 10 w))
  | 0x03 =>
    .ok (.ldhs (fldS w) (fld 19 6 w) (fld 13 6 w) (fld 3 10 w))
  | 0x04 =>
    .ok (.ldw (fldS w) (fld 19 6 w) (fld 13 6 w) (fld 3 10 w))
  | 0x05 =>
    .ok (.ldws (fldS w) (fld 19 6 w) (fld 13 6 w) (fld 3 10 w))
  | 0x06 =>
    .ok (.ldd (fldS w) (fld 19 6 w) (fld 13 6 w) (fld 3 10 w))
  | 0x07 =>
    .ok (.ldq (fldS w) (fld 19 6 w) (fld 13 6 w) (fld 3 10 w))
  | _ => .error .selectorUnassigned

/-- Major 0x19, selected by bits 2:0. -/
def decSts (w : BitVec 32) : Except DecodeError Instr :=
  match (fld 0 3 w).toNat with
  | 0x00 =>
    .ok (.stb (fldS w) (fld 19 6 w) (fld 13 6 w) (fld 3 10 w))
  | 0x01 =>
    .ok (.sth (fldS w) (fld 19 6 w) (fld 13 6 w) (fld 3 10 w))
  | 0x02 =>
    .ok (.stw (fldS w) (fld 19 6 w) (fld 13 6 w) (fld 3 10 w))
  | 0x03 =>
    .ok (.std (fldS w) (fld 19 6 w) (fld 13 6 w) (fld 3 10 w))
  | 0x04 =>
    .ok (.stq (fldS w) (fld 19 6 w) (fld 13 6 w) (fld 3 10 w))
  | _ => .error .selectorUnassigned

/-- Major 0x1E, selected by bits 12:10. -/
def decLdfe (w : BitVec 32) : Except DecodeError Instr :=
  match (fld 10 3 w).toNat with
  | 0x00 =>
    if fld 4 3 w = 0#3 then .ok (.ldfeRff (fldS w) (fld 19 6 w) (fld 13 6 w) (fld 7 3 w) (fld 0 4 w))
    else .error .reservedNonzero
  | 0x01 =>
    if fld 4 3 w = 0#3 then .ok (.ldfeRfe (fldS w) (fld 19 6 w) (fld 13 6 w) (fld 7 3 w) (fld 0 4 w))
    else .error .reservedNonzero
  | 0x02 =>
    if fld 4 3 w = 0#3 then .ok (.ldfeRawfe (fldS w) (fld 19 6 w) (fld 13 6 w) (fld 7 3 w) (fld 0 4 w))
    else .error .reservedNonzero
  | _ => .error .selectorUnassigned

/-- Major 0x1F, selected by bits 12:10. -/
def decStfe (w : BitVec 32) : Except DecodeError Instr :=
  match (fld 10 3 w).toNat with
  | 0x00 =>
    if fld 4 3 w = 0#3 then .ok (.stfeWef (fldS w) (fld 19 6 w) (fld 13 6 w) (fld 7 3 w) (fld 0 4 w))
    else .error .reservedNonzero
  | 0x01 =>
    if fld 4 3 w = 0#3 then .ok (.stfeWaf (fldS w) (fld 19 6 w) (fld 13 6 w) (fld 7 3 w) (fld 0 4 w))
    else .error .reservedNonzero
  | 0x02 =>
    if fld 4 3 w = 0#3 then .ok (.stfeWae (fldS w) (fld 19 6 w) (fld 13 6 w) (fld 7 3 w) (fld 0 4 w))
    else .error .reservedNonzero
  | 0x03 =>
    if fld 19 6 w = 0#6 ∧ fld 4 3 w = 0#3 then .ok (.stfeSete (fldS w) (fld 13 6 w) (fld 7 3 w) (fld 0 4 w))
    else .error .reservedNonzero
  | _ => .error .selectorUnassigned

/-- Major 0x20, selected by bits 6:4. -/
def decLdag (w : BitVec 32) : Except DecodeError Instr :=
  match (fld 4 3 w).toNat with
  | 0x00 =>
    .ok (.ldagWait (fldS w) (fld 19 6 w) (fld 13 6 w) (fld 7 6 w) (fld 0 4 w))
  | 0x01 =>
    .ok (.ldagTrap (fldS w) (fld 19 6 w) (fld 13 6 w) (fld 7 6 w) (fld 0 4 w))
  | 0x02 =>
    .ok (.ldagPeek (fldS w) (fld 19 6 w) (fld 13 6 w) (fld 7 6 w) (fld 0 4 w))
  | _ => .error .selectorUnassigned

/-- Major 0x21, selected by bits 6:0. -/
def decAgop (w : BitVec 32) : Except DecodeError Instr :=
  match (fld 0 7 w).toNat with
  | 0x00 =>
    if fld 19 6 w = 0#6 ∧ fld 7 6 w = 0#6 then .ok (.agreg (fldS w) (fld 13 6 w))
    else .error .reservedNonzero
  | 0x01 =>
    if fld 19 6 w = 0#6 ∧ fld 7 6 w = 0#6 then .ok (.agdone (fldS w) (fld 13 6 w))
    else .error .reservedNonzero
  | 0x02 =>
    if fld 7 6 w = 0#6 then .ok (.agage (fldS w) (fld 19 6 w) (fld 13 6 w))
    else .error .reservedNonzero
  | _ => .error .functionUnassigned

/-- Major 0x2E, selected by bits 6:0. -/
def decName (w : BitVec 32) : Except DecodeError Instr :=
  match (fld 0 7 w).toNat with
  | 0x00 =>
    .ok (.nmint (fldS w) (fld 19 6 w) (fld 13 6 w) (fld 7 6 w))
  | 0x01 =>
    if fld 7 6 w = 0#6 then .ok (.nmres (fldS w) (fld 19 6 w) (fld 13 6 w))
    else .error .reservedNonzero
  | 0x02 =>
    if fld 7 6 w = 0#6 then .ok (.nmret (fldS w) (fld 19 6 w) (fld 13 6 w))
    else .error .reservedNonzero
  | 0x03 =>
    .ok (.nmeq (fldS w) (fld 19 6 w) (fld 13 6 w) (fld 7 6 w))
  | 0x04 =>
    if fld 7 6 w = 0#6 then .ok (.nmld (fldS w) (fld 19 6 w) (fld 13 6 w))
    else .error .reservedNonzero
  | 0x05 =>
    if fld 19 6 w = 0#6 then .ok (.nmst (fldS w) (fld 13 6 w) (fld 7 6 w))
    else .error .reservedNonzero
  | 0x06 =>
    if fld 7 6 w = 0#6 then .ok (.nmcls (fldS w) (fld 19 6 w) (fld 13 6 w))
    else .error .reservedNonzero
  | 0x07 =>
    if fld 7 6 w = 0#6 then .ok (.nmorg (fldS w) (fld 19 6 w) (fld 13 6 w))
    else .error .reservedNonzero
  | 0x08 =>
    if fld 19 6 w = 0#6 then .ok (.nmmove (fldS w) (fld 13 6 w) (fld 7 6 w))
    else .error .reservedNonzero
  | _ => .error .functionUnassigned

/-- Major 0x2F, selected by bits 6:0. -/
def decQop (w : BitVec 32) : Except DecodeError Instr :=
  match (fld 0 7 w).toNat with
  | 0x00 =>
    if fld 19 6 w = 0#6 then .ok (.spawn (fldS w) (fld 13 6 w) (fld 7 6 w))
    else .error .reservedNonzero
  | 0x01 =>
    .ok (.spawnq (fldS w) (fld 19 6 w) (fld 13 6 w) (fld 7 6 w))
  | 0x02 =>
    if fld 19 6 w = 0#6 then .ok (.send (fldS w) (fld 13 6 w) (fld 7 6 w))
    else .error .reservedNonzero
  | 0x03 =>
    if fld 19 6 w = 0#6 then .ok (.jdec (fldS w) (fld 13 6 w) (fld 7 6 w))
    else .error .reservedNonzero
  | 0x04 =>
    if fld 19 6 w = 0#6 then .ok (.jinit (fldS w) (fld 13 6 w) (fld 7 6 w))
    else .error .reservedNonzero
  | 0x05 =>
    if fld 19 6 w = 0#6 then .ok (.handover (fldS w) (fld 13 6 w) (fld 7 6 w))
    else .error .reservedNonzero
  | 0x06 =>
    .ok (.sendseq (fldS w) (fld 19 6 w) (fld 13 6 w) (fld 7 6 w))
  | 0x07 =>
    if fld 7 6 w = 0#6 then .ok (.qlen (fldS w) (fld 19 6 w) (fld 13 6 w))
    else .error .reservedNonzero
  | _ => .error .functionUnassigned

/-- Major 0x30, selected by bits 6:0. -/
def decVop (w : BitVec 32) : Except DecodeError Instr :=
  match (fld 0 7 w).toNat with
  | 0x00 =>
    .ok (.vadd (fldS w) (fld 19 6 w) (fld 13 6 w) (fld 7 6 w))
  | 0x01 =>
    .ok (.vsub (fldS w) (fld 19 6 w) (fld 13 6 w) (fld 7 6 w))
  | 0x02 =>
    .ok (.vmul (fldS w) (fld 19 6 w) (fld 13 6 w) (fld 7 6 w))
  | 0x03 =>
    .ok (.vdiv (fldS w) (fld 19 6 w) (fld 13 6 w) (fld 7 6 w))
  | 0x04 =>
    .ok (.vmin (fldS w) (fld 19 6 w) (fld 13 6 w) (fld 7 6 w))
  | 0x05 =>
    .ok (.vmax (fldS w) (fld 19 6 w) (fld 13 6 w) (fld 7 6 w))
  | 0x06 =>
    .ok (.vminn (fldS w) (fld 19 6 w) (fld 13 6 w) (fld 7 6 w))
  | 0x07 =>
    .ok (.vmaxn (fldS w) (fld 19 6 w) (fld 13 6 w) (fld 7 6 w))
  | 0x08 =>
    if fld 7 6 w = 0#6 then .ok (.vabs (fldS w) (fld 19 6 w) (fld 13 6 w))
    else .error .reservedNonzero
  | 0x09 =>
    if fld 7 6 w = 0#6 then .ok (.vneg (fldS w) (fld 19 6 w) (fld 13 6 w))
    else .error .reservedNonzero
  | 0x0A =>
    if fld 7 6 w = 0#6 then .ok (.vsqrt (fldS w) (fld 19 6 w) (fld 13 6 w))
    else .error .reservedNonzero
  | 0x0B =>
    if fld 7 6 w = 0#6 then .ok (.vrcp (fldS w) (fld 19 6 w) (fld 13 6 w))
    else .error .reservedNonzero
  | 0x0C =>
    if fld 7 6 w = 0#6 then .ok (.vrsq (fldS w) (fld 19 6 w) (fld 13 6 w))
    else .error .reservedNonzero
  | 0x0D =>
    if fld 7 6 w = 0#6 then .ok (.vexp2 (fldS w) (fld 19 6 w) (fld 13 6 w))
    else .error .reservedNonzero
  | 0x0E =>
    if fld 7 6 w = 0#6 then .ok (.vlog2 (fldS w) (fld 19 6 w) (fld 13 6 w))
    else .error .reservedNonzero
  | 0x0F =>
    .ok (.vand (fldS w) (fld 19 6 w) (fld 13 6 w) (fld 7 6 w))
  | 0x10 =>
    .ok (.vor (fldS w) (fld 19 6 w) (fld 13 6 w) (fld 7 6 w))
  | 0x11 =>
    .ok (.vxor (fldS w) (fld 19 6 w) (fld 13 6 w) (fld 7 6 w))
  | 0x12 =>
    .ok (.vandn (fldS w) (fld 19 6 w) (fld 13 6 w) (fld 7 6 w))
  | 0x13 =>
    if fld 7 6 w = 0#6 then .ok (.vnot (fldS w) (fld 19 6 w) (fld 13 6 w))
    else .error .reservedNonzero
  | 0x14 =>
    .ok (.vshl (fldS w) (fld 19 6 w) (fld 13 6 w) (fld 7 6 w))
  | 0x15 =>
    .ok (.vshr (fldS w) (fld 19 6 w) (fld 13 6 w) (fld 7 6 w))
  | 0x16 =>
    .ok (.vsar (fldS w) (fld 19 6 w) (fld 13 6 w) (fld 7 6 w))
  | 0x17 =>
    .ok (.vadds (fldS w) (fld 19 6 w) (fld 13 6 w) (fld 7 6 w))
  | 0x18 =>
    .ok (.vsubs (fldS w) (fld 19 6 w) (fld 13 6 w) (fld 7 6 w))
  | 0x19 =>
    .ok (.vavg (fldS w) (fld 19 6 w) (fld 13 6 w) (fld 7 6 w))
  | 0x1A =>
    .ok (.vmulh (fldS w) (fld 19 6 w) (fld 13 6 w) (fld 7 6 w))
  | 0x1B =>
    .ok (.vceq (fldS w) (fld 19 6 w) (fld 13 6 w) (fld 7 6 w))
  | 0x1C =>
    .ok (.vcne (fldS w) (fld 19 6 w) (fld 13 6 w) (fld 7 6 w))
  | 0x1D =>
    .ok (.vclt (fldS w) (fld 19 6 w) (fld 13 6 w) (fld 7 6 w))
  | 0x1E =>
    .ok (.vcle (fldS w) (fld 19 6 w) (fld 13 6 w) (fld 7 6 w))
  | 0x1F =>
    .ok (.vcun (fldS w) (fld 19 6 w) (fld 13 6 w) (fld 7 6 w))
  | 0x20 =>
    .ok (.vsel (fldS w) (fld 19 6 w) (fld 13 6 w) (fld 7 6 w))
  | 0x21 =>
    if fld 7 6 w = 0#6 then .ok (.vclass (fldS w) (fld 19 6 w) (fld 13 6 w))
    else .error .reservedNonzero
  | 0x22 =>
    if fld 7 6 w = 0#6 then .ok (.vround (fldS w) (fld 19 6 w) (fld 13 6 w))
    else .error .reservedNonzero
  | 0x23 =>
    .ok (.vshli (fldS w) (fld 19 6 w) (fld 13 6 w) (fld 7 6 w))
  | 0x24 =>
    .ok (.vshri (fldS w) (fld 19 6 w) (fld 13 6 w) (fld 7 6 w))
  | 0x25 =>
    .ok (.vsari (fldS w) (fld 19 6 w) (fld 13 6 w) (fld 7 6 w))
  | _ => .error .functionUnassigned

/-- Major 0x31, selected by bits 6:0. -/
def decVfma (w : BitVec 32) : Except DecodeError Instr :=
  match (fld 0 7 w).toNat with
  | 0x00 =>
    .ok (.vfma (fldS w) (fld 19 6 w) (fld 13 6 w) (fld 7 6 w))
  | 0x01 =>
    .ok (.vfms (fldS w) (fld 19 6 w) (fld 13 6 w) (fld 7 6 w))
  | 0x02 =>
    .ok (.vmad (fldS w) (fld 19 6 w) (fld 13 6 w) (fld 7 6 w))
  | 0x03 =>
    .ok (.vdot2 (fldS w) (fld 19 6 w) (fld 13 6 w) (fld 7 6 w))
  | 0x04 =>
    .ok (.vdot4 (fldS w) (fld 19 6 w) (fld 13 6 w) (fld 7 6 w))
  | 0x05 =>
    .ok (.vdot4b (fldS w) (fld 19 6 w) (fld 13 6 w) (fld 7 6 w))
  | 0x06 =>
    .ok (.vdote (fldS w) (fld 19 6 w) (fld 13 6 w) (fld 7 6 w))
  | _ => .error .functionUnassigned

/-- Major 0x33, selected by bits 6:0. -/
def decVperm (w : BitVec 32) : Except DecodeError Instr :=
  match (fld 0 7 w).toNat with
  | 0x00 =>
    .ok (.vsplat (fldS w) (fld 19 6 w) (fld 13 6 w) (fld 7 6 w))
  | 0x01 =>
    .ok (.vins (fldS w) (fld 19 6 w) (fld 13 6 w) (fld 7 6 w))
  | 0x02 =>
    .ok (.vext (fldS w) (fld 19 6 w) (fld 13 6 w) (fld 7 6 w))
  | 0x03 =>
    .ok (.vshuf (fldS w) (fld 19 6 w) (fld 13 6 w) (fld 7 6 w))
  | 0x04 =>
    .ok (.vzipl (fldS w) (fld 19 6 w) (fld 13 6 w) (fld 7 6 w))
  | 0x05 =>
    .ok (.vziph (fldS w) (fld 19 6 w) (fld 13 6 w) (fld 7 6 w))
  | 0x06 =>
    .ok (.vuzpl (fldS w) (fld 19 6 w) (fld 13 6 w) (fld 7 6 w))
  | 0x07 =>
    .ok (.vuzph (fldS w) (fld 19 6 w) (fld 13 6 w) (fld 7 6 w))
  | 0x08 =>
    if fld 7 6 w = 0#6 then .ok (.vrev (fldS w) (fld 19 6 w) (fld 13 6 w))
    else .error .reservedNonzero
  | 0x09 =>
    .ok (.vcmpr (fldS w) (fld 19 6 w) (fld 13 6 w) (fld 7 6 w))
  | 0x0A =>
    .ok (.vexpd (fldS w) (fld 19 6 w) (fld 13 6 w) (fld 7 6 w))
  | 0x0B =>
    if fld 7 6 w = 0#6 then .ok (.vpopm (fldS w) (fld 19 6 w) (fld 13 6 w))
    else .error .reservedNonzero
  | 0x0C =>
    .ok (.valgn (fldS w) (fld 19 6 w) (fld 13 6 w) (fld 7 6 w))
  | _ => .error .functionUnassigned

/-- Major 0x34, selected by bits 6:0. -/
def decVred (w : BitVec 32) : Except DecodeError Instr :=
  match (fld 0 7 w).toNat with
  | 0x00 =>
    if fld 7 6 w = 0#6 then .ok (.vrsum (fldS w) (fld 19 6 w) (fld 13 6 w))
    else .error .reservedNonzero
  | 0x01 =>
    if fld 7 6 w = 0#6 then .ok (.vrmin (fldS w) (fld 19 6 w) (fld 13 6 w))
    else .error .reservedNonzero
  | 0x02 =>
    if fld 7 6 w = 0#6 then .ok (.vrmax (fldS w) (fld 19 6 w) (fld 13 6 w))
    else .error .reservedNonzero
  | 0x03 =>
    if fld 7 6 w = 0#6 then .ok (.vramax (fldS w) (fld 19 6 w) (fld 13 6 w))
    else .error .reservedNonzero
  | 0x04 =>
    if fld 7 6 w = 0#6 then .ok (.vrsumw (fldS w) (fld 19 6 w) (fld 13 6 w))
    else .error .reservedNonzero
  | 0x05 =>
    if fld 7 6 w = 0#6 then .ok (.vrany (fldS w) (fld 19 6 w) (fld 13 6 w))
    else .error .reservedNonzero
  | 0x06 =>
    if fld 7 6 w = 0#6 then .ok (.vrall (fldS w) (fld 19 6 w) (fld 13 6 w))
    else .error .reservedNonzero
  | _ => .error .functionUnassigned

/-- Major 0x35, selected by bits 6:0. -/
noncomputable def decLacc (w : BitVec 32) : Except DecodeError Instr :=
  match (fld 0 7 w).toNat with
  | 0x00 =>
    if fld 19 6 w = 0#6 ∧ fld 7 6 w = 0#6 then .ok (.laz (fldS w) (fld 13 6 w))
    else .error .reservedNonzero
  | 0x01 =>
    if fld 19 6 w = 0#6 then .ok (.laadd (fldS w) (fld 13 6 w) (fld 7 6 w))
    else .error .reservedNonzero
  | 0x02 =>
    if fld 19 6 w = 0#6 then .ok (.lasub (fldS w) (fld 13 6 w) (fld 7 6 w))
    else .error .reservedNonzero
  | 0x03 =>
    if fld 7 6 w = 0#6 then .ok (.larnd (fldS w) (fld 19 6 w) (fld 13 6 w))
    else .error .reservedNonzero
  | 0x04 =>
    if fld 19 6 w = 0#6 then .ok (.lamrg (fldS w) (fld 13 6 w) (fld 7 6 w))
    else .error .reservedNonzero
  | 0x05 =>
    if fld 7 6 w = 0#6 then .ok (.larndb (fldS w) (fld 19 6 w) (fld 13 6 w))
    else .error .reservedNonzero
  | 0x06 =>
    if fld 7 6 w = 0#6 then .ok (.last (fldS w) (fld 19 6 w) (fld 13 6 w))
    else .error .reservedNonzero
  | _ => .error .functionUnassigned

/-- Major 0x36, selected by bits 6:0. -/
noncomputable def decSurvey (w : BitVec 32) : Except DecodeError Instr :=
  match (fld 0 7 w).toNat with
  | 0x00 =>
    if fld 19 6 w = 0#6 then .ok (.svinit (fldS w) (fld 13 6 w) (fld 7 6 w))
    else .error .reservedNonzero
  | 0x01 =>
    .ok (.svprb (fldS w) (fld 19 6 w) (fld 13 6 w) (fld 7 6 w))
  | 0x02 =>
    .ok (.svprb4 (fldS w) (fld 19 6 w) (fld 13 6 w) (fld 7 6 w))
  | 0x03 =>
    .ok (.svprbx (fldS w) (fld 19 6 w) (fld 13 6 w) (fld 7 6 w))
  | 0x04 =>
    if fld 19 6 w = 0#6 then .ok (.svcmt (fldS w) (fld 13 6 w) (fld 7 6 w))
    else .error .reservedNonzero
  | 0x05 =>
    .ok (.svpick (fldS w) (fld 19 6 w) (fld 13 6 w) (fld 7 6 w))
  | 0x06 =>
    .ok (.svpickh (fldS w) (fld 19 6 w) (fld 13 6 w) (fld 7 6 w))
  | _ => .error .functionUnassigned

/-- Major 0x37, selected by bits 6:0. -/
noncomputable def decMat (w : BitVec 32) : Except DecodeError Instr :=
  match (fld 0 7 w).toNat with
  | 0x00 =>
    .ok (.mma (fldS w) (fld 19 6 w) (fld 13 6 w) (fld 7 6 w))
  | 0x01 =>
    .ok (.mmaz (fldS w) (fld 19 6 w) (fld 13 6 w) (fld 7 6 w))
  | _ => .error .functionUnassigned

/-- Major 0x38, selected by bits 6:0. -/
noncomputable def decMslot (w : BitVec 32) : Except DecodeError Instr :=
  match (fld 0 7 w).toNat with
  | 0x00 =>
    if fld 13 6 w = 0#6 then .ok (.mclaim (fldS w) (fld 19 6 w) (fld 12 1 w) (fld 7 5 w))
    else .error .reservedNonzero
  | 0x01 =>
    if fld 13 6 w = 0#6 ∧ fld 7 6 w = 0#6 then .ok (.mrel (fldS w) (fld 19 6 w))
    else .error .reservedNonzero
  | 0x02 =>
    .ok (.mload (fldS w) (fld 19 6 w) (fld 13 6 w) (fld 7 6 w))
  | 0x03 =>
    .ok (.mloadt (fldS w) (fld 19 6 w) (fld 13 6 w) (fld 7 6 w))
  | 0x04 =>
    .ok (.mloadsc (fldS w) (fld 19 6 w) (fld 13 6 w) (fld 7 6 w))
  | 0x05 =>
    .ok (.mdec (fldS w) (fld 19 6 w) (fld 13 6 w) (fld 7 6 w))
  | 0x06 =>
    if fld 13 6 w = 0#6 ∧ fld 7 6 w = 0#6 then .ok (.mzero (fldS w) (fld 19 6 w))
    else .error .reservedNonzero
  | 0x07 =>
    .ok (.mstore (fldS w) (fld 19 6 w) (fld 13 6 w) (fld 7 6 w))
  | 0x08 =>
    .ok (.mstoreb (fldS w) (fld 19 6 w) (fld 13 6 w) (fld 7 6 w))
  | 0x09 =>
    if fld 7 6 w = 0#6 then .ok (.mstate (fldS w) (fld 19 6 w) (fld 13 6 w))
    else .error .reservedNonzero
  | 0x0A =>
    if fld 19 6 w = 0#6 ∧ fld 7 6 w = 0#6 then .ok (.mtbl (fldS w) (fld 13 6 w))
    else .error .reservedNonzero
  | _ => .error .functionUnassigned

/-- Major 0x39, selected by bits 6:0. -/
noncomputable def decEng (w : BitVec 32) : Except DecodeError Instr :=
  match (fld 0 7 w).toNat with
  | 0x00 =>
    .ok (.copy (fldS w) (fld 19 6 w) (fld 13 6 w) (fld 7 6 w))
  | 0x01 =>
    .ok (.copym (fldS w) (fld 19 6 w) (fld 13 6 w) (fld 7 6 w))
  | 0x02 =>
    .ok (.put (fldS w) (fld 19 6 w) (fld 13 6 w) (fld 7 6 w))
  | 0x03 =>
    .ok (.putsig (fldS w) (fld 19 6 w) (fld 13 6 w) (fld 7 6 w))
  | 0x04 =>
    .ok (.get (fldS w) (fld 19 6 w) (fld 13 6 w) (fld 7 6 w))
  | 0x05 =>
    .ok (.gather (fldS w) (fld 19 6 w) (fld 13 6 w) (fld 7 6 w))
  | 0x06 =>
    .ok (.scatter (fldS w) (fld 19 6 w) (fld 13 6 w) (fld 7 6 w))
  | 0x07 =>
    .ok (.chain (fldS w) (fld 19 6 w) (fld 13 6 w) (fld 7 6 w))
  | 0x08 =>
    .ok (.agput (fldS w) (fld 19 6 w) (fld 13 6 w) (fld 7 6 w))
  | 0x09 =>
    .ok (.agget (fldS w) (fld 19 6 w) (fld 13 6 w) (fld 7 6 w))
  | 0x0A =>
    .ok (.collsub (fldS w) (fld 19 6 w) (fld 13 6 w) (fld 7 6 w))
  | _ => .error .functionUnassigned

/-- Major 0x3A, selected by bits 6:0. -/
noncomputable def decBar (w : BitVec 32) : Except DecodeError Instr :=
  match (fld 0 7 w).toNat with
  | 0x00 =>
    if fld 19 6 w = 0#6 then .ok (.barinit (fldS w) (fld 13 6 w) (fld 7 6 w))
    else .error .reservedNonzero
  | 0x01 =>
    .ok (.barsig (fldS w) (fld 19 6 w) (fld 13 6 w) (fld 7 6 w))
  | 0x02 =>
    .ok (.barsign (fldS w) (fld 19 6 w) (fld 13 6 w) (fld 7 6 w))
  | 0x03 =>
    if fld 7 6 w = 0#6 then .ok (.barq (fldS w) (fld 19 6 w) (fld 13 6 w))
    else .error .reservedNonzero
  | _ => .error .functionUnassigned

/-- Major 0x3B, selected by bits 6:0. -/
noncomputable def decTag (w : BitVec 32) : Except DecodeError Instr :=
  match (fld 0 7 w).toNat with
  | 0x00 =>
    if fld 12 1 w = 0#1 then .ok (.cast (fldS w) (fld 19 6 w) (fld 13 6 w) (fld 7 5 w))
    else .error .reservedNonzero
  | 0x01 =>
    if fld 7 6 w = 0#6 then .ok (.tagof (fldS w) (fld 19 6 w) (fld 13 6 w))
    else .error .reservedNonzero
  | 0x02 =>
    if fld 19 6 w = 0#6 ∧ fld 12 1 w = 0#1 then .ok (.tagchk (fldS w) (fld 13 6 w) (fld 7 5 w))
    else .error .reservedNonzero
  | _ => .error .functionUnassigned

/-- Major 0x3C, selected by bits 6:0. -/
noncomputable def decBlk (w : BitVec 32) : Except DecodeError Instr :=
  match (fld 0 7 w).toNat with
  | 0x00 =>
    .ok (.baddq (fldS w) (fld 19 6 w) (fld 13 6 w) (fld 7 6 w))
  | 0x01 =>
    .ok (.bquant (fldS w) (fld 19 6 w) (fld 13 6 w) (fld 7 6 w))
  | 0x02 =>
    .ok (.blacc (fldS w) (fld 19 6 w) (fld 13 6 w) (fld 7 6 w))
  | _ => .error .functionUnassigned

/-- Major 0x3F: the hint words of R39 to R41. A malformed one is refused here; issuing it marks
its group (R42). -/
noncomputable def decHint (w : BitVec 32) : Except DecodeError Instr :=
  if fld 31 1 w ≠ 0#1 then .error .hintMalformed
  else match (fld 22 3 w).toNat with
  | 0x00 => if fld 0 22 w = 0#22 then .ok .hnop else .error .hintMalformed
  | 0x01 => .ok (.himm (fld 0 22 w))
  | 0x02 =>
    if fld 0 12 w = 0#12 then
      .ok (.hmod (fld 19 3 w) (fld 18 1 w) (fld 17 1 w) (fld 12 5 w))
    else .error .hintMalformed
  | 0x03 =>
    if fld 16 2 w = 0#2 then
      match (fld 18 4 w).toNat with
      | 0x00 => .ok (.hschedAlign (fld 0 16 w))
      | 0x01 => if fld 0 16 w = 0#16 then .ok .hschedStream else .error .hintMalformed
      | _ => .error .hintMalformed
    else .error .hintMalformed
  | _ => .error .hintMalformed

/-- The instruction a word's fields spell, before the checks of `Instr.check`. -/
noncomputable def rawDecode (w : BitVec 32) : Except DecodeError Instr :=
  match (fld 25 6 w).toNat with
  | 0x01 => decIop w
  | 0x02 => .ok (.addi (fldS w) (fld 19 6 w) (fld 13 6 w) (fld 0 13 w))
  | 0x03 => .ok (.andi (fldS w) (fld 19 6 w) (fld 13 6 w) (fld 0 13 w))
  | 0x04 => .ok (.ori (fldS w) (fld 19 6 w) (fld 13 6 w) (fld 0 13 w))
  | 0x05 => .ok (.xori (fldS w) (fld 19 6 w) (fld 13 6 w) (fld 0 13 w))
  | 0x06 => .ok (.slti (fldS w) (fld 19 6 w) (fld 13 6 w) (fld 0 13 w))
  | 0x07 => .ok (.sltiu (fldS w) (fld 19 6 w) (fld 13 6 w) (fld 0 13 w))
  | 0x08 => decShifti w
  | 0x09 => .ok (.limm (fldS w) (fld 19 6 w) (fld 0 19 w))
  | 0x0A => .ok (.addpc (fldS w) (fld 19 6 w) (fld 0 19 w))
  | 0x0B => decExtr w
  | 0x0C => decIns w
  | 0x0D => decMovc w
  | 0x0E => decCtrl w
  | 0x0F => decSys w
  | 0x10 => decBrc w
  | 0x11 => decBcmp w
  | 0x12 => .ok (.jmp (fldS w) (fld 0 25 w))
  | 0x13 => .ok (.call (fldS w) (fld 0 25 w))
  | 0x14 => decJreg w
  | 0x15 => decLoop w
  | 0x16 => decEndg w
  | 0x17 => decFence w
  | 0x18 => decLds w
  | 0x19 => decSts w
  | 0x1A => .ok (.ldaq (fldS w) (fld 19 6 w) (fld 13 6 w) (fld 7 6 w) (fld 4 3 w) (fld 0 4 w))
  | 0x1B => .ok (.strl (fldS w) (fld 19 6 w) (fld 13 6 w) (fld 7 6 w) (fld 4 3 w) (fld 0 4 w))
  | 0x1C => .ok (.ldv (fldS w) (fld 19 6 w) (fld 13 6 w) (fld 8 5 w) (fld 0 8 w))
  | 0x1D => .ok (.stv (fldS w) (fld 19 6 w) (fld 13 6 w) (fld 8 5 w) (fld 0 8 w))
  | 0x1E => decLdfe w
  | 0x1F => decStfe w
  | 0x20 => decLdag w
  | 0x21 => decAgop w
  | 0x22 => .ok (.aadd (fldS w) (fld 19 6 w) (fld 13 6 w) (fld 7 6 w) (fld 5 2 w) (fld 4 1 w) (fld 0 4 w))
  | 0x23 => .ok (.amin (fldS w) (fld 19 6 w) (fld 13 6 w) (fld 7 6 w) (fld 5 2 w) (fld 4 1 w) (fld 0 4 w))
  | 0x24 => .ok (.amax (fldS w) (fld 19 6 w) (fld 13 6 w) (fld 7 6 w) (fld 5 2 w) (fld 4 1 w) (fld 0 4 w))
  | 0x25 => .ok (.aminu (fldS w) (fld 19 6 w) (fld 13 6 w) (fld 7 6 w) (fld 5 2 w) (fld 4 1 w) (fld 0 4 w))
  | 0x26 => .ok (.amaxu (fldS w) (fld 19 6 w) (fld 13 6 w) (fld 7 6 w) (fld 5 2 w) (fld 4 1 w) (fld 0 4 w))
  | 0x27 => .ok (.aand (fldS w) (fld 19 6 w) (fld 13 6 w) (fld 7 6 w) (fld 5 2 w) (fld 4 1 w) (fld 0 4 w))
  | 0x28 => .ok (.aor (fldS w) (fld 19 6 w) (fld 13 6 w) (fld 7 6 w) (fld 5 2 w) (fld 4 1 w) (fld 0 4 w))
  | 0x29 => .ok (.axor (fldS w) (fld 19 6 w) (fld 13 6 w) (fld 7 6 w) (fld 5 2 w) (fld 4 1 w) (fld 0 4 w))
  | 0x2A => .ok (.aswp (fldS w) (fld 19 6 w) (fld 13 6 w) (fld 7 6 w) (fld 5 2 w) (fld 4 1 w) (fld 0 4 w))
  | 0x2B => .ok (.acas (fldS w) (fld 19 6 w) (fld 13 6 w) (fld 7 6 w) (fld 5 2 w) (fld 4 1 w) (fld 0 4 w))
  | 0x2C => if fld 4 1 w = 1#1 then .ok (.acas2 (fldS w) (fld 19 6 w) (fld 13 6 w) (fld 7 6 w) (fld 5 2 w) (fld 0 4 w))
    else .error .selectorUnassigned
  | 0x2D => .ok (.afadd (fldS w) (fld 19 6 w) (fld 13 6 w) (fld 7 6 w) (fld 5 2 w) (fld 4 1 w) (fld 0 4 w))
  | 0x2E => decName w
  | 0x2F => decQop w
  | 0x30 => decVop w
  | 0x31 => decVfma w
  | 0x32 => .ok (.vcvt (fldS w) (fld 19 6 w) (fld 13 6 w) (fld 7 6 w) (fld 2 5 w) (fld 0 2 w))
  | 0x33 => decVperm w
  | 0x34 => decVred w
  | 0x35 => decLacc w
  | 0x36 => decSurvey w
  | 0x37 => decMat w
  | 0x38 => decMslot w
  | 0x39 => decEng w
  | 0x3A => decBar w
  | 0x3B => decTag w
  | 0x3C => decBlk w
  | 0x3F => decHint w
  | _ => .error .majorUnassigned

/-- The decoder: total on every word, refusing by name (R44 to R47). -/
noncomputable def decodeWord (w : BitVec 32) : Except DecodeError Instr :=
  match rawDecode w with
  | .error e => .error e
  | .ok i =>
    match i.check with
    | some e => .error e
    | none => .ok i

/-- Format A of R37, most significant field first. -/
def packA (s : Bool) (maj : BitVec 6) (d : BitVec 6) (a : BitVec 6) (b : BitVec 6) (fn : BitVec 7) : BitVec 32 :=
  BitVec.ofBool s ++ maj ++ d ++ a ++ b ++ fn

/-- Format Ac of R37, most significant field first. -/
def packAc (s : Bool) (maj : BitVec 6) (d : BitVec 6) (a : BitVec 6) (k : BitVec 1) (t : BitVec 5) (fn : BitVec 7) : BitVec 32 :=
  BitVec.ofBool s ++ maj ++ d ++ a ++ k ++ t ++ fn

/-- Format W of R37, most significant field first. -/
def packW (s : Bool) (maj : BitVec 6) (d : BitVec 6) (a : BitVec 6) (b : BitVec 6) (fmt : BitVec 5) (mode : BitVec 2) : BitVec 32 :=
  BitVec.ofBool s ++ maj ++ d ++ a ++ b ++ fmt ++ mode

/-- Format I of R37, most significant field first. -/
def packI (s : Bool) (maj : BitVec 6) (d : BitVec 6) (a : BitVec 6) (imm : BitVec 13) : BitVec 32 :=
  BitVec.ofBool s ++ maj ++ d ++ a ++ imm

/-- Format Sh of R37, most significant field first. -/
def packSh (s : Bool) (maj : BitVec 6) (d : BitVec 6) (a : BitVec 6) (sel : BitVec 3) (zero : BitVec 4) (n : BitVec 6) : BitVec 32 :=
  BitVec.ofBool s ++ maj ++ d ++ a ++ sel ++ zero ++ n

/-- Format Ex of R37, most significant field first. -/
def packEx (s : Bool) (maj : BitVec 6) (d : BitVec 6) (a : BitVec 6) (pos : BitVec 6) (len : BitVec 6) (sgn : BitVec 1) : BitVec 32 :=
  BitVec.ofBool s ++ maj ++ d ++ a ++ pos ++ len ++ sgn

/-- Format L of R37, most significant field first. -/
def packL (s : Bool) (maj : BitVec 6) (d : BitVec 6) (imm : BitVec 19) : BitVec 32 :=
  BitVec.ofBool s ++ maj ++ d ++ imm

/-- Format K of R37, most significant field first. -/
def packK (s : Bool) (maj : BitVec 6) (d : BitVec 6) (a : BitVec 6) (creg : BitVec 10) (op : BitVec 3) : BitVec 32 :=
  BitVec.ofBool s ++ maj ++ d ++ a ++ creg ++ op

/-- Format F of R37, most significant field first. -/
def packF (s : Bool) (maj : BitVec 6) (zero : BitVec 19) (kind : BitVec 2) (scope : BitVec 4) : BitVec 32 :=
  BitVec.ofBool s ++ maj ++ zero ++ kind ++ scope

/-- Format M of R37, most significant field first. -/
def packM (s : Bool) (maj : BitVec 6) (t : BitVec 6) (base : BitVec 6) (off : BitVec 10) (sz : BitVec 3) : BitVec 32 :=
  BitVec.ofBool s ++ maj ++ t ++ base ++ off ++ sz

/-- Format Q of R37, most significant field first. -/
def packQ (s : Bool) (maj : BitVec 6) (t : BitVec 6) (base : BitVec 6) (off : BitVec 6) (sz : BitVec 3) (scope : BitVec 4) : BitVec 32 :=
  BitVec.ofBool s ++ maj ++ t ++ base ++ off ++ sz ++ scope

/-- Format V of R37, most significant field first. -/
def packV (s : Bool) (maj : BitVec 6) (t : BitVec 6) (base : BitVec 6) (fmt : BitVec 5) (off : BitVec 8) : BitVec 32 :=
  BitVec.ofBool s ++ maj ++ t ++ base ++ fmt ++ off

/-- Format E of R37, most significant field first. -/
def packE (s : Bool) (maj : BitVec 6) (t : BitVec 6) (base : BitVec 6) (mode : BitVec 3) (sz : BitVec 3) (zero : BitVec 3) (scope : BitVec 4) : BitVec 32 :=
  BitVec.ofBool s ++ maj ++ t ++ base ++ mode ++ sz ++ zero ++ scope

/-- Format G of R37, most significant field first. -/
def packG (s : Bool) (maj : BitVec 6) (t : BitVec 6) (base : BitVec 6) (lag : BitVec 6) (mode : BitVec 3) (scope : BitVec 4) : BitVec 32 :=
  BitVec.ofBool s ++ maj ++ t ++ base ++ lag ++ mode ++ scope

/-- Format X of R37, most significant field first. -/
def packX (s : Bool) (maj : BitVec 6) (t : BitVec 6) (base : BitVec 6) (src : BitVec 6) (ord : BitVec 2) (w : BitVec 1) (scope : BitVec 4) : BitVec 32 :=
  BitVec.ofBool s ++ maj ++ t ++ base ++ src ++ ord ++ w ++ scope

/-- Format B of R37, most significant field first. -/
def packB (s : Bool) (maj : BitVec 6) (a : BitVec 6) (cond : BitVec 3) (disp : BitVec 16) : BitVec 32 :=
  BitVec.ofBool s ++ maj ++ a ++ cond ++ disp

/-- Format C of R37, most significant field first. -/
def packC (s : Bool) (maj : BitVec 6) (a : BitVec 6) (b : BitVec 6) (cond : BitVec 3) (disp : BitVec 10) : BitVec 32 :=
  BitVec.ofBool s ++ maj ++ a ++ b ++ cond ++ disp

/-- Format J of R37, most significant field first. -/
def packJ (s : Bool) (maj : BitVec 6) (disp : BitVec 25) : BitVec 32 :=
  BitVec.ofBool s ++ maj ++ disp

/-- Format H of R37, most significant field first. -/
def packH (s : Bool) (maj : BitVec 6) (kind : BitVec 3) (payload : BitVec 22) : BitVec 32 :=
  BitVec.ofBool s ++ maj ++ kind ++ payload

/-- Format Hm of R37, most significant field first. -/
def packHm (s : Bool) (maj : BitVec 6) (kind : BitVec 3) (rnd : BitVec 3) (sat : BitVec 1) (ftz : BitVec 1) (fmt : BitVec 5) (zero : BitVec 12) : BitVec 32 :=
  BitVec.ofBool s ++ maj ++ kind ++ rnd ++ sat ++ ftz ++ fmt ++ zero

/-- Format Hs of R37, most significant field first. -/
def packHs (s : Bool) (maj : BitVec 6) (kind : BitVec 3) (hk : BitVec 4) (zero : BitVec 2) (n : BitVec 16) : BitVec 32 :=
  BitVec.ofBool s ++ maj ++ kind ++ hk ++ zero ++ n

/-- The word of an instruction; an event has none. NMCAS is the alias of ACAS2 (R50). -/
def encode : Instr → Option (BitVec 32)
  | .add s d a b => some (packA s 1#6 d a b 0#7)
  | .sub s d a b => some (packA s 1#6 d a b 1#7)
  | .mul s d a b => some (packA s 1#6 d a b 2#7)
  | .mulh s d a b => some (packA s 1#6 d a b 3#7)
  | .mulhu s d a b => some (packA s 1#6 d a b 4#7)
  | .div s d a b => some (packA s 1#6 d a b 5#7)
  | .divu s d a b => some (packA s 1#6 d a b 6#7)
  | .rem s d a b => some (packA s 1#6 d a b 7#7)
  | .remu s d a b => some (packA s 1#6 d a b 8#7)
  | .and s d a b => some (packA s 1#6 d a b 9#7)
  | .or s d a b => some (packA s 1#6 d a b 10#7)
  | .xor s d a b => some (packA s 1#6 d a b 11#7)
  | .andn s d a b => some (packA s 1#6 d a b 12#7)
  | .orn s d a b => some (packA s 1#6 d a b 13#7)
  | .shl s d a b => some (packA s 1#6 d a b 14#7)
  | .shr s d a b => some (packA s 1#6 d a b 15#7)
  | .sar s d a b => some (packA s 1#6 d a b 16#7)
  | .rotl s d a b => some (packA s 1#6 d a b 17#7)
  | .rotr s d a b => some (packA s 1#6 d a b 18#7)
  | .min s d a b => some (packA s 1#6 d a b 19#7)
  | .max s d a b => some (packA s 1#6 d a b 20#7)
  | .minu s d a b => some (packA s 1#6 d a b 21#7)
  | .maxu s d a b => some (packA s 1#6 d a b 22#7)
  | .slt s d a b => some (packA s 1#6 d a b 23#7)
  | .sltu s d a b => some (packA s 1#6 d a b 24#7)
  | .seq s d a b => some (packA s 1#6 d a b 25#7)
  | .sne s d a b => some (packA s 1#6 d a b 26#7)
  | .clz s d a => some (packA s 1#6 d a 0#6 27#7)
  | .ctz s d a => some (packA s 1#6 d a 0#6 28#7)
  | .popc s d a => some (packA s 1#6 d a 0#6 29#7)
  | .bswap s d a => some (packA s 1#6 d a 0#6 30#7)
  | .sextb s d a => some (packA s 1#6 d a 0#6 31#7)
  | .sexth s d a => some (packA s 1#6 d a 0#6 32#7)
  | .sextw s d a => some (packA s 1#6 d a 0#6 33#7)
  | .zextw s d a => some (packA s 1#6 d a 0#6 34#7)
  | .mov s d a => some (packA s 1#6 d a 0#6 35#7)
  | .addw s d a b => some (packA s 1#6 d a b 36#7)
  | .subw s d a b => some (packA s 1#6 d a b 37#7)
  | .mulw s d a b => some (packA s 1#6 d a b 38#7)
  | .adds1 s d a b => some (packA s 1#6 d a b 39#7)
  | .adds2 s d a b => some (packA s 1#6 d a b 40#7)
  | .adds3 s d a b => some (packA s 1#6 d a b 41#7)
  | .absd s d a b => some (packA s 1#6 d a b 42#7)
  | .addi s d a i => some (packI s 2#6 d a i)
  | .andi s d a i => some (packI s 3#6 d a i)
  | .ori s d a i => some (packI s 4#6 d a i)
  | .xori s d a i => some (packI s 5#6 d a i)
  | .slti s d a i => some (packI s 6#6 d a i)
  | .sltiu s d a i => some (packI s 7#6 d a i)
  | .shli s d a n => some (packSh s 8#6 d a 0#3 0#4 n)
  | .shri s d a n => some (packSh s 8#6 d a 1#3 0#4 n)
  | .sari s d a n => some (packSh s 8#6 d a 2#3 0#4 n)
  | .rotli s d a n => some (packSh s 8#6 d a 3#3 0#4 n)
  | .limm s d i => some (packL s 9#6 d i)
  | .addpc s d i => some (packL s 10#6 d i)
  | .extr s d a p l => some (packEx s 11#6 d a p l 0#1)
  | .extrs s d a p l => some (packEx s 11#6 d a p l 1#1)
  | .ins s d a p l => some (packEx s 12#6 d a p l 0#1)
  | .moveqz s d a b => some (packA s 13#6 d a b 0#7)
  | .movnez s d a b => some (packA s 13#6 d a b 1#7)
  | .movltz s d a b => some (packA s 13#6 d a b 2#7)
  | .movgez s d a b => some (packA s 13#6 d a b 3#7)
  | .movgtz s d a b => some (packA s 13#6 d a b 4#7)
  | .movlez s d a b => some (packA s 13#6 d a b 5#7)
  | .rdc s d c => some (packK s 14#6 d 0#6 c.code 0#3)
  | .wrc s a c => some (packK s 14#6 0#6 a c.code 1#3)
  | .setc s d a c => some (packK s 14#6 d a c.code 2#3)
  | .clrc s d a c => some (packK s 14#6 d a c.code 3#3)
  | .swpc s d a c => some (packK s 14#6 d a c.code 4#3)
  | .threadstWrite .. => none
  | .fpflagsAccess .. => none
  | .poolminWrite .. => none
  | .poolcapWrite .. => none
  | .delayselLoad .. => none
  | .nop s => some (packA s 15#6 0#6 0#6 0#6 0#7)
  | .hbeat s => some (packA s 15#6 0#6 0#6 0#6 1#7)
  | .trap s n => some (packA s 15#6 0#6 0#6 n 2#7)
  | .tret s => some (packA s 15#6 0#6 0#6 0#6 3#7)
  | .brk s => some (packA s 15#6 0#6 0#6 0#6 4#7)
  | .efence s => some (packA s 15#6 0#6 0#6 0#6 5#7)
  | .eret s => some (packA s 15#6 0#6 0#6 0#6 6#7)
  | .scall s a => some (packA s 15#6 0#6 a 0#6 7#7)
  | .park s a => some (packA s 15#6 0#6 a 0#6 8#7)
  | .resume s a => some (packA s 15#6 0#6 a 0#6 9#7)
  | .preempt s a => some (packA s 15#6 0#6 a 0#6 10#7)
  | .tlbi s a b => some (packA s 15#6 0#6 a b 11#7)
  | .freq s a => some (packA s 15#6 0#6 a 0#6 12#7)
  | .wset s a => some (packA s 15#6 0#6 a 0#6 13#7)
  | .kill s a => some (packA s 15#6 0#6 a 0#6 14#7)
  | .beqz s a i => some (packB s 16#6 a 0#3 i)
  | .bnez s a i => some (packB s 16#6 a 1#3 i)
  | .bltz s a i => some (packB s 16#6 a 2#3 i)
  | .bgez s a i => some (packB s 16#6 a 3#3 i)
  | .bgtz s a i => some (packB s 16#6 a 4#3 i)
  | .blez s a i => some (packB s 16#6 a 5#3 i)
  | .beq s a b i => some (packC s 17#6 a b 0#3 i)
  | .bne s a b i => some (packC s 17#6 a b 1#3 i)
  | .blt s a b i => some (packC s 17#6 a b 2#3 i)
  | .bge s a b i => some (packC s 17#6 a b 3#3 i)
  | .bltu s a b i => some (packC s 17#6 a b 4#3 i)
  | .bgeu s a b i => some (packC s 17#6 a b 5#3 i)
  | .jmp s i => some (packJ s 18#6 i)
  | .call s i => some (packJ s 19#6 i)
  | .jr s a => some (packA s 20#6 0#6 a 0#6 0#7)
  | .callr s a => some (packA s 20#6 0#6 a 0#6 1#7)
  | .ret s => some (packA s 20#6 0#6 0#6 0#6 2#7)
  | .loop s a i => some (packB s 21#6 a 0#3 i)
  | .endAct s => some (packA s 22#6 0#6 0#6 0#6 0#7)
  | .endj s a => some (packA s 22#6 0#6 a 0#6 1#7)
  | .ends s a b => some (packA s 22#6 0#6 a b 2#7)
  | .fence s c => some (packF s 23#6 0#19 0#2 c)
  | .fencew s c => some (packF s 23#6 0#19 1#2 c)
  | .fencer s c => some (packF s 23#6 0#19 2#2 c)
  | .ackwait s c => some (packF s 23#6 0#19 3#2 c)
  | .ldb s t b o => some (packM s 24#6 t b o 0#3)
  | .ldbs s t b o => some (packM s 24#6 t b o 1#3)
  | .ldh s t b o => some (packM s 24#6 t b o 2#3)
  | .ldhs s t b o => some (packM s 24#6 t b o 3#3)
  | .ldw s t b o => some (packM s 24#6 t b o 4#3)
  | .ldws s t b o => some (packM s 24#6 t b o 5#3)
  | .ldd s t b o => some (packM s 24#6 t b o 6#3)
  | .ldq s t b o => some (packM s 24#6 t b o 7#3)
  | .stb s t b o => some (packM s 25#6 t b o 0#3)
  | .sth s t b o => some (packM s 25#6 t b o 1#3)
  | .stw s t b o => some (packM s 25#6 t b o 2#3)
  | .std s t b o => some (packM s 25#6 t b o 3#3)
  | .stq s t b o => some (packM s 25#6 t b o 4#3)
  | .ldaq s t b o z c => some (packQ s 26#6 t b o z c)
  | .strl s t b o z c => some (packQ s 27#6 t b o z c)
  | .ldv s t b f o => some (packV s 28#6 t b f o)
  | .stv s t b f o => some (packV s 29#6 t b f o)
  | .ldfeRff s t b z c => some (packE s 30#6 t b 0#3 z 0#3 c)
  | .ldfeRfe s t b z c => some (packE s 30#6 t b 1#3 z 0#3 c)
  | .ldfeRawfe s t b z c => some (packE s 30#6 t b 2#3 z 0#3 c)
  | .stfeWef s t b z c => some (packE s 31#6 t b 0#3 z 0#3 c)
  | .stfeWaf s t b z c => some (packE s 31#6 t b 1#3 z 0#3 c)
  | .stfeWae s t b z c => some (packE s 31#6 t b 2#3 z 0#3 c)
  | .stfeSete s b z c => some (packE s 31#6 0#6 b 3#3 z 0#3 c)
  | .ldagWait s t b l c => some (packG s 32#6 t b l 0#3 c)
  | .ldagTrap s t b l c => some (packG s 32#6 t b l 1#3 c)
  | .ldagPeek s t b l c => some (packG s 32#6 t b l 2#3 c)
  | .agreg s a => some (packA s 33#6 0#6 a 0#6 0#7)
  | .agdone s a => some (packA s 33#6 0#6 a 0#6 1#7)
  | .agage s d a => some (packA s 33#6 d a 0#6 2#7)
  | .aadd s t b r o w c => some (packX s 34#6 t b r o w c)
  | .amin s t b r o w c => some (packX s 35#6 t b r o w c)
  | .amax s t b r o w c => some (packX s 36#6 t b r o w c)
  | .aminu s t b r o w c => some (packX s 37#6 t b r o w c)
  | .amaxu s t b r o w c => some (packX s 38#6 t b r o w c)
  | .aand s t b r o w c => some (packX s 39#6 t b r o w c)
  | .aor s t b r o w c => some (packX s 40#6 t b r o w c)
  | .axor s t b r o w c => some (packX s 41#6 t b r o w c)
  | .aswp s t b r o w c => some (packX s 42#6 t b r o w c)
  | .acas s t b r o w c => some (packX s 43#6 t b r o w c)
  | .acas2 s t b r o c => some (packX s 44#6 t b r o 1#1 c)
  | .nmcas s t b r o c => some (packX s 44#6 t b r o 1#1 c)
  | .afadd s t b r o w c => some (packX s 45#6 t b r o w c)
  | .nmint s d a b => some (packA s 46#6 d a b 0#7)
  | .nmres s d a => some (packA s 46#6 d a 0#6 1#7)
  | .nmret s d a => some (packA s 46#6 d a 0#6 2#7)
  | .nmeq s d a b => some (packA s 46#6 d a b 3#7)
  | .nmld s d a => some (packA s 46#6 d a 0#6 4#7)
  | .nmst s a b => some (packA s 46#6 0#6 a b 5#7)
  | .nmcls s d a => some (packA s 46#6 d a 0#6 6#7)
  | .nmorg s d a => some (packA s 46#6 d a 0#6 7#7)
  | .nmmove s a b => some (packA s 46#6 0#6 a b 8#7)
  | .spawn s a b => some (packA s 47#6 0#6 a b 0#7)
  | .spawnq s d a b => some (packA s 47#6 d a b 1#7)
  | .send s a b => some (packA s 47#6 0#6 a b 2#7)
  | .jdec s a b => some (packA s 47#6 0#6 a b 3#7)
  | .jinit s a b => some (packA s 47#6 0#6 a b 4#7)
  | .handover s a b => some (packA s 47#6 0#6 a b 5#7)
  | .sendseq s d a b => some (packA s 47#6 d a b 6#7)
  | .qlen s d a => some (packA s 47#6 d a 0#6 7#7)
  | .vadd s d a b => some (packA s 48#6 d a b 0#7)
  | .vsub s d a b => some (packA s 48#6 d a b 1#7)
  | .vmul s d a b => some (packA s 48#6 d a b 2#7)
  | .vdiv s d a b => some (packA s 48#6 d a b 3#7)
  | .vmin s d a b => some (packA s 48#6 d a b 4#7)
  | .vmax s d a b => some (packA s 48#6 d a b 5#7)
  | .vminn s d a b => some (packA s 48#6 d a b 6#7)
  | .vmaxn s d a b => some (packA s 48#6 d a b 7#7)
  | .vabs s d a => some (packA s 48#6 d a 0#6 8#7)
  | .vneg s d a => some (packA s 48#6 d a 0#6 9#7)
  | .vsqrt s d a => some (packA s 48#6 d a 0#6 10#7)
  | .vrcp s d a => some (packA s 48#6 d a 0#6 11#7)
  | .vrsq s d a => some (packA s 48#6 d a 0#6 12#7)
  | .vexp2 s d a => some (packA s 48#6 d a 0#6 13#7)
  | .vlog2 s d a => some (packA s 48#6 d a 0#6 14#7)
  | .vand s d a b => some (packA s 48#6 d a b 15#7)
  | .vor s d a b => some (packA s 48#6 d a b 16#7)
  | .vxor s d a b => some (packA s 48#6 d a b 17#7)
  | .vandn s d a b => some (packA s 48#6 d a b 18#7)
  | .vnot s d a => some (packA s 48#6 d a 0#6 19#7)
  | .vshl s d a b => some (packA s 48#6 d a b 20#7)
  | .vshr s d a b => some (packA s 48#6 d a b 21#7)
  | .vsar s d a b => some (packA s 48#6 d a b 22#7)
  | .vadds s d a b => some (packA s 48#6 d a b 23#7)
  | .vsubs s d a b => some (packA s 48#6 d a b 24#7)
  | .vavg s d a b => some (packA s 48#6 d a b 25#7)
  | .vmulh s d a b => some (packA s 48#6 d a b 26#7)
  | .vceq s d a b => some (packA s 48#6 d a b 27#7)
  | .vcne s d a b => some (packA s 48#6 d a b 28#7)
  | .vclt s d a b => some (packA s 48#6 d a b 29#7)
  | .vcle s d a b => some (packA s 48#6 d a b 30#7)
  | .vcun s d a b => some (packA s 48#6 d a b 31#7)
  | .vsel s d a b => some (packA s 48#6 d a b 32#7)
  | .vclass s d a => some (packA s 48#6 d a 0#6 33#7)
  | .vround s d a => some (packA s 48#6 d a 0#6 34#7)
  | .vshli s d a n => some (packA s 48#6 d a n 35#7)
  | .vshri s d a n => some (packA s 48#6 d a n 36#7)
  | .vsari s d a n => some (packA s 48#6 d a n 37#7)
  | .vfma s d a b => some (packA s 49#6 d a b 0#7)
  | .vfms s d a b => some (packA s 49#6 d a b 1#7)
  | .vmad s d a b => some (packA s 49#6 d a b 2#7)
  | .vdot2 s d a b => some (packA s 49#6 d a b 3#7)
  | .vdot4 s d a b => some (packA s 49#6 d a b 4#7)
  | .vdot4b s d a b => some (packA s 49#6 d a b 5#7)
  | .vdote s d a b => some (packA s 49#6 d a b 6#7)
  | .vcvt s d a b f m => some (packW s 50#6 d a b f m)
  | .vsplat s d a n => some (packA s 51#6 d a n 0#7)
  | .vins s d a n => some (packA s 51#6 d a n 1#7)
  | .vext s d a n => some (packA s 51#6 d a n 2#7)
  | .vshuf s d a b => some (packA s 51#6 d a b 3#7)
  | .vzipl s d a b => some (packA s 51#6 d a b 4#7)
  | .vziph s d a b => some (packA s 51#6 d a b 5#7)
  | .vuzpl s d a b => some (packA s 51#6 d a b 6#7)
  | .vuzph s d a b => some (packA s 51#6 d a b 7#7)
  | .vrev s d a => some (packA s 51#6 d a 0#6 8#7)
  | .vcmpr s d a b => some (packA s 51#6 d a b 9#7)
  | .vexpd s d a b => some (packA s 51#6 d a b 10#7)
  | .vpopm s d a => some (packA s 51#6 d a 0#6 11#7)
  | .valgn s d a b => some (packA s 51#6 d a b 12#7)
  | .vrsum s d a => some (packA s 52#6 d a 0#6 0#7)
  | .vrmin s d a => some (packA s 52#6 d a 0#6 1#7)
  | .vrmax s d a => some (packA s 52#6 d a 0#6 2#7)
  | .vramax s d a => some (packA s 52#6 d a 0#6 3#7)
  | .vrsumw s d a => some (packA s 52#6 d a 0#6 4#7)
  | .vrany s d a => some (packA s 52#6 d a 0#6 5#7)
  | .vrall s d a => some (packA s 52#6 d a 0#6 6#7)
  | .laz s a => some (packA s 53#6 0#6 a 0#6 0#7)
  | .laadd s a b => some (packA s 53#6 0#6 a b 1#7)
  | .lasub s a b => some (packA s 53#6 0#6 a b 2#7)
  | .larnd s d a => some (packA s 53#6 d a 0#6 3#7)
  | .lamrg s a b => some (packA s 53#6 0#6 a b 4#7)
  | .larndb s d a => some (packA s 53#6 d a 0#6 5#7)
  | .last s d a => some (packA s 53#6 d a 0#6 6#7)
  | .svinit s a b => some (packA s 54#6 0#6 a b 0#7)
  | .svprb s d a b => some (packA s 54#6 d a b 1#7)
  | .svprb4 s d a b => some (packA s 54#6 d a b 2#7)
  | .svprbx s d a b => some (packA s 54#6 d a b 3#7)
  | .svcmt s a b => some (packA s 54#6 0#6 a b 4#7)
  | .svpick s d a b => some (packA s 54#6 d a b 5#7)
  | .svpickh s d a b => some (packA s 54#6 d a b 6#7)
  | .mma s c x y => some (packA s 55#6 c x y 0#7)
  | .mmaz s c x y => some (packA s 55#6 c x y 1#7)
  | .mclaim s d k t => some (packAc s 56#6 d 0#6 k t 0#7)
  | .mrel s d => some (packA s 56#6 d 0#6 0#6 1#7)
  | .mload s d a b => some (packA s 56#6 d a b 2#7)
  | .mloadt s d a b => some (packA s 56#6 d a b 3#7)
  | .mloadsc s d a b => some (packA s 56#6 d a b 4#7)
  | .mdec s d a b => some (packA s 56#6 d a b 5#7)
  | .mzero s d => some (packA s 56#6 d 0#6 0#6 6#7)
  | .mstore s d a b => some (packA s 56#6 d a b 7#7)
  | .mstoreb s d a b => some (packA s 56#6 d a b 8#7)
  | .mstate s d a => some (packA s 56#6 d a 0#6 9#7)
  | .mtbl s a => some (packA s 56#6 0#6 a 0#6 10#7)
  | .copy s d j x => some (packA s 57#6 d j x 0#7)
  | .copym s d j x => some (packA s 57#6 d j x 1#7)
  | .put s d j x => some (packA s 57#6 d j x 2#7)
  | .putsig s d j x => some (packA s 57#6 d j x 3#7)
  | .get s d j x => some (packA s 57#6 d j x 4#7)
  | .gather s d j x => some (packA s 57#6 d j x 5#7)
  | .scatter s d j x => some (packA s 57#6 d j x 6#7)
  | .chain s d j x => some (packA s 57#6 d j x 7#7)
  | .agput s d j x => some (packA s 57#6 d j x 8#7)
  | .agget s d j x => some (packA s 57#6 d j x 9#7)
  | .collsub s d j x => some (packA s 57#6 d j x 10#7)
  | .barinit s a b => some (packA s 58#6 0#6 a b 0#7)
  | .barsig s d a b => some (packA s 58#6 d a b 1#7)
  | .barsign s d a b => some (packA s 58#6 d a b 2#7)
  | .barq s d a => some (packA s 58#6 d a 0#6 3#7)
  | .cast s d a t => some (packAc s 59#6 d a 0#1 t 0#7)
  | .tagof s d a => some (packA s 59#6 d a 0#6 1#7)
  | .tagchk s a t => some (packAc s 59#6 0#6 a 0#1 t 2#7)
  | .baddq s d a b => some (packA s 60#6 d a b 0#7)
  | .bquant s d a b => some (packA s 60#6 d a b 1#7)
  | .blacc s d a b => some (packA s 60#6 d a b 2#7)
  | .hnop => some (packH false 63#6 0#3 0#22)
  | .himm v => some (packH false 63#6 1#3 v)
  | .hmod r q f t => some (packHm false 63#6 2#3 r q f t 0#12)
  | .hschedAlign n => some (packHs false 63#6 3#3 0#4 0#2 n)
  | .hschedStream => some (packHs false 63#6 3#3 1#4 0#2 0#16)
  | .dispatchGrant .. => none
  | .recordAccept .. => none
  | .joinDecrement .. => none
  | .barrierSignal .. => none
  | .barrierStaggeredPush .. => none
  | .resultWriteback .. => none
  | .slotLoadComplete .. => none
  | .mmaTileWrite .. => none
  | .fetchLineDelivery .. => none
  | .alignRelease .. => none
  | .alignTimeout .. => none
  | .pageWalk .. => none
  | .homeAcknowledgement .. => none
  | .relaxedHomeFault .. => none
  | .feHomeAccess .. => none
  | .feWaitTimeout .. => none
  | .retryListResend .. => none
  | .agputBlockApply .. => none
  | .agedWaitTimeout .. => none
  | .engineCommandStart .. => none
  | .engineCommandComplete .. => none
  | .enginePageResume .. => none
  | .copymReceiverLanded .. => none
  | .putsigSignal .. => none
  | .collsubAccept .. => none
  | .fabricPacketApply .. => none
  | .fabricAck .. => none
  | .fablimitExpiry .. => none
  | .fabricProbe .. => none
  | .remoteNameResolution .. => none
  | .nameInvalidation .. => none
  | .nameRetireComplete .. => none
  | .nameMoveComplete .. => none
  | .linkTagFailure .. => none
  | .linkPortFailure .. => none
  | .linkKeyInstall .. => none
  | .keyIndexFlip .. => none
  | .linkRetireFlit .. => none
  | .timingMessage .. => none
  | .timeMasterLoss => none
  | .relockEnd .. => none
  | .scheduledFreqStep .. => none
  | .heartbeatFence .. => none
  | .preemptWindowExpiry .. => none
  | .coreStateError .. => none
  | .errorRecordResend .. => none
  | .eolpredUpdate .. => none
  | .debugSessionConnect .. => none
  | .eyepieceFailover => none
  | .debugStop .. => none
  | .resetRequest => none
  | .i3cStart => none
  | .i3cStop => none
  | .pcap .. => none
  | .repairLogAppend .. => none
  | .serviceImageUpdate .. => none
  | .writeRequest .. => none
  | .readRequest .. => none
  | .launchRequest .. => none
  | .launchPushRetry .. => none
  | .waitRequest .. => none
  | .launchEnd .. => none
  | .svcEcho => none
  | .svcMap => none
  | .svcUnmap => none
  | .svcDone => none
  | .svcQname => none
  | .inServiceRepair .. => none
  | .laneSparingComplete .. => none
  | .holdNotice .. => none
  | .queueAttach .. => none
  | .queueDetach .. => none
  | .debugResume .. => none
  | .debugBreakClaim .. => none
  | .debugSessionEnd => none
  | .powerOn => none
  | .powerLoss => none
  | .resetAsserted => none

/-- What the decoder answers for the words of `i`: NMCAS shares ACAS2's words (R50, R89). -/
def Instr.canon : Instr → Instr
  | .nmcas s t b r o c => .acas2 s t b r o c
  | i => i

/-- A number's low `n` bytes, the lowest first (R2). -/
def bytesLE : Nat → Nat → List Byte
  | 0, _ => []
  | n + 1, v => BitVec.ofNat 8 v :: bytesLE n (v / 256)

/-- The number that little-endian bytes hold (R2). -/
def ofBytesLE : List Byte → Nat
  | [] => 0
  | b :: bs => b.toNat + 256 * ofBytesLE bs

/-- Decode the bytes at the program counter: one little-endian word (R22), and the bytes after
it. -/
noncomputable def decodeBytes (bs : List Byte) : Except DecodeError (Instr × List Byte) :=
  match bs with
  | b0 :: b1 :: b2 :: b3 :: rest =>
    match decodeWord (BitVec.ofNat 32 (ofBytesLE [b0, b1, b2, b3])) with
    | .ok i => .ok (i, rest)
    | .error e => .error e
  | _ => .error .majorUnassigned

/-- The instruction the decoder reads from `nbits` bits `w`, laid out as the part stores them. -/
noncomputable def decodeTableWord (nbits w : Nat) : Option Instr :=
  match decodeBytes (bytesLE 4 (w % 2 ^ nbits)) with
  | .ok (i, _) => some i
  | .error _ => none

end Sys2Proof
end

