-- ==== Sys2Proof/Machine/Store.lean ====
section
/-! DEFINITION. Association lists by number, sets of numbers, and byte memory in one canonical
form: addresses strictly rising and no entry equal to what an unlisted address reads as, which
is zero (DESIGN CHOICE, log 4). -/

namespace Sys2Proof.Machine

/-- Values by number, in rising order of the numbers. -/
abbrev AMap (α : Type) := List (Nat × α)

/-- The value at `k`, if there is one. -/
def AMap.find {α : Type} : AMap α → Nat → Option α
  | [], _ => none
  | (k', v) :: m, k => if k' = k then some v else AMap.find m k

/-- The value at `k`, or `d` where nothing stands. -/
def AMap.get {α : Type} (m : AMap α) (d : α) (k : Nat) : α := (m.find k).getD d

/-- Write `v` at `k`, keeping the numbers rising. -/
def AMap.set {α : Type} : AMap α → Nat → α → AMap α
  | [], k, v => [(k, v)]
  | (k', v') :: m, k, v =>
    if k' = k then (k, v) :: m
    else if k < k' then (k, v) :: (k', v') :: m
    else (k', v') :: AMap.set m k v

/-- Remove what stands at `k`. -/
def AMap.erase {α : Type} (m : AMap α) (k : Nat) : AMap α := m.filter fun e => e.1 ≠ k

/-- Bytes by address. -/
abbrev Mem := List Host.Cell

/-- What an unlisted address reads as (DESIGN CHOICE, log 4). -/
def Mem.unlisted : Byte := 0#8

/-- The byte at `a`. -/
def Mem.read (m : Mem) (a : Nat) : Byte := AMap.get m Mem.unlisted a

/-- Write the byte `b` at `a`; writing what an unlisted address reads as removes the entry. -/
def Mem.write (m : Mem) (a : Nat) (b : Byte) : Mem :=
  if b = Mem.unlisted then AMap.erase m a else AMap.set m a b

/-- The canonical form. -/
abbrev Mem.wf (m : Mem) : Prop :=
  m.Pairwise (fun x y => x.1 < y.1) ∧ ∀ e ∈ m, e.2 ≠ Mem.unlisted

/-- `n` bytes from `a`, as a little-endian number (R2). -/
def Mem.readLE (m : Mem) (a : Nat) : Nat → Nat
  | 0 => 0
  | n + 1 => (m.read a).toNat + 256 * m.readLE (a + 1) n

/-- Write the low `n` bytes of the number `v` from `a` up, little-endian (R2). -/
def Mem.writeLE (m : Mem) (a : Nat) : Nat → Nat → Mem
  | 0, _ => m
  | n + 1, v => (m.write a (BitVec.ofNat 8 v)).writeLE (a + 1) n (v / 256)

/-- Write a list of bytes from `a` up. -/
def Mem.writeBytes (m : Mem) (a : Nat) : List Byte → Mem
  | [] => m
  | b :: bs => (m.write a b).writeBytes (a + 1) bs

/-- `n` bytes from `a` up. -/
def Mem.readBytes (m : Mem) (a : Nat) : Nat → List Byte
  | 0 => []
  | n + 1 => m.read a :: m.readBytes (a + 1) n

/-- A set of numbers, rising. -/
abbrev NSet := List Nat

/-- Put `k` into the set. -/
def NSet.add (l : NSet) (k : Nat) : NSet :=
  match l with
  | [] => [k]
  | x :: l => if x = k then x :: l else if k < x then k :: x :: l else x :: NSet.add l k

/-- Take `k` out of the set. -/
def NSet.remove (l : NSet) (k : Nat) : NSet := l.filter (· ≠ k)

/-- The entry of a vector, or `d` past its end. -/
def vget {α : Type} {n : Nat} (v : Vector α n) (d : α) (i : Nat) : α :=
  if h : i < n then v[i] else d

/-- Replace an entry of a vector; past its end nothing changes. -/
def vset {α : Type} {n : Nat} (v : Vector α n) (i : Nat) (x : α) : Vector α n :=
  if h : i < n then v.set i x else v

/-- Change an entry of a vector. -/
def vmod {α : Type} {n : Nat} (v : Vector α n) (i : Nat) (f : α → α) : Vector α n :=
  if h : i < n then v.set i (f v[i]) else v

end Sys2Proof.Machine
end

