-- ==== Sys2Proof/Machine/Crypto.lean ====
section
/-! DEFINITION. AES-128 and AES-CMAC (NIST SP 800-38B), which R71 names for check codes and R377
for name seals, AES-256-GCM (NIST SP 800-38D), with which R343 seals packets, and CRC-32 (R410). Blocks are lists of sixteen byte values, the first byte first. -/

namespace Sys2Proof.Machine

/-- The S-box of AES as a number, entry `x` in bits 8x + 7 to 8x. -/
def aesSboxRows : List Nat :=
  [0xc072a49cafa2d4adf04759fa7dc982ca76abd7fe2b670130c56f6bf27b777c63,
   0x75b227ebe28012079a059618c323c7041531d871f1e5a534ccf73f362693fdb7,
   0xcf584c4a39becb6a5bb1fc20ed00d153842fe329b3d63b52a05a6e1b1a2c8309,
   0xd2f3ff1021dab6bcf5389d928f40a351a89f3c507f02f94585334d43fbaaefd0,
   0xdb0b5ede14b8ee4688902a22dc4f816073195d643d7ea7c41744975fec130ccd,
   0x8ae7a65eaf4566ca94ed58d6d37c8e779e4959162acd3c25c2406490a3a32e0,
   0x9e1dc186b95735610ef6034866b53e708a8bbd4b1f74dde8c6b4a61c2e2578ba,
   0x16bb54b00f2d99416842e6bf0d89a18cdf2855cee9871e9b948ed9691198f8e1]

def aesSbox (x : Nat) : Nat := (aesSboxRows.getD (x / 32) 0) >>> (8 * (x % 32)) % 256

/-- Multiplication by x in the field of AES. -/
def aesXtime (b : Nat) : Nat := if b < 128 then 2 * b else (2 * b ^^^ 0x11B)

/-- One column of MixColumns. -/
def aesMixColumn : List Nat → List Nat
  | [a, b, c, d] =>
    let t := a ^^^ b ^^^ c ^^^ d
    [a ^^^ t ^^^ aesXtime (a ^^^ b), b ^^^ t ^^^ aesXtime (b ^^^ c),
     c ^^^ t ^^^ aesXtime (c ^^^ d), d ^^^ t ^^^ aesXtime (d ^^^ a)]
  | l => l

def aesXor (a b : List Nat) : List Nat := List.zipWith (· ^^^ ·) a b

/-- SubBytes, then ShiftRows. -/
def aesSubShift (s : List Nat) : List Nat :=
  [0, 5, 10, 15, 4, 9, 14, 3, 8, 13, 2, 7, 12, 1, 6, 11].map fun i => aesSbox (s.getD i 0)

/-- MixColumns on the four columns. -/
def aesMix (s : List Nat) : List Nat :=
  aesMixColumn (s.take 4) ++ aesMixColumn ((s.drop 4).take 4) ++ aesMixColumn ((s.drop 8).take 4)
    ++ aesMixColumn (s.drop 12)

/-- The next round key. -/
def aesNextKey (k : List Nat) (rcon : Nat) : List Nat :=
  let g := aesXor ([13, 14, 15, 12].map fun i => aesSbox (k.getD i 0)) [rcon, 0, 0, 0]
  let a := aesXor (k.take 4) g
  let b := aesXor ((k.drop 4).take 4) a
  let c := aesXor ((k.drop 8).take 4) b
  let d := aesXor (k.drop 12) c
  a ++ b ++ c ++ d

/-- `n` rounds with MixColumns and the last one without, from round key `k`. -/
def aesRounds (s k : List Nat) (rcon : Nat) : Nat → List Nat
  | 0 => aesXor (aesSubShift s) (aesNextKey k rcon)
  | n + 1 =>
    let k' := aesNextKey k rcon
    aesRounds (aesXor (aesMix (aesSubShift s)) k') k' (aesXtime rcon) n

/-- AES-128 of one block. -/
def aesBlock (key blk : List Nat) : List Nat := aesRounds (aesXor blk key) key 1 9

/-- A block as a number, its first byte highest, and back. -/
def blockNat (b : List Nat) : Nat := b.foldl (fun n x => 256 * n + x) 0
def natBlock (n : Nat) : List Nat := (List.range 16).map fun i => n / 256 ^ (15 - i) % 256

/-- Doubling in the field of the CMAC subkeys. -/
def cmacDouble (b : List Nat) : List Nat :=
  let n := blockNat b
  natBlock (if n < 2 ^ 127 then 2 * n else (2 * n % 2 ^ 128) ^^^ 0x87)

/-- The chain over the blocks of a message; `fuel` bounds their number. -/
def cmacChain (key k1 k2 c m : List Nat) : Nat → List Nat
  | 0 => c
  | fuel + 1 =>
    if 16 < m.length then
      cmacChain key k1 k2 (aesBlock key (aesXor c (m.take 16))) (m.drop 16) fuel
    else if m.length = 16 then aesBlock key (aesXor c (aesXor m k1))
    else
      let p := (m ++ [0x80] ++ List.replicate 16 0).take 16
      aesBlock key (aesXor c (aesXor p k2))

/-- AES-CMAC under a key of sixteen bytes. -/
def aesCmac (key m : List Nat) : List Nat :=
  let k1 := cmacDouble (aesBlock key (List.replicate 16 0))
  let k2 := cmacDouble k1
  cmacChain key k1 k2 (List.replicate 16 0) m (m.length / 16 + 1)

/-! ## AES-256-GCM (R343) -/

/-- The next 32 bytes of the key schedule. -/
def aesNextKey256 (k : List Nat) (rcon : Nat) : List Nat :=
  let w (i : Nat) : List Nat := (k.drop (4 * i)).take 4
  let sub (l : List Nat) : List Nat := l.map aesSbox
  let a0 := aesXor (w 0) (aesXor (sub ((w 7).drop 1 ++ (w 7).take 1)) [rcon, 0, 0, 0])
  let a1 := aesXor (w 1) a0
  let a2 := aesXor (w 2) a1
  let a3 := aesXor (w 3) a2
  let a4 := aesXor (w 4) (sub a3)
  let a5 := aesXor (w 5) a4
  let a6 := aesXor (w 6) a5
  a0 ++ a1 ++ a2 ++ a3 ++ a4 ++ a5 ++ a6 ++ aesXor (w 7) a6

/-- The schedule from key block `k` on, `n` blocks. -/
def aesSchedule256 (k : List Nat) (rcon : Nat) : Nat → List Nat
  | 0 => []
  | n + 1 => k ++ aesSchedule256 (aesNextKey256 k rcon) (aesXtime rcon) n

/-- Rounds with the round keys that stand in `ks`, the last one without MixColumns. -/
def aesRounds256 (s ks : List Nat) : Nat → List Nat
  | 0 => aesXor (aesSubShift s) (ks.take 16)
  | n + 1 => aesRounds256 (aesXor (aesMix (aesSubShift s)) (ks.take 16)) (ks.drop 16) n

/-- AES-256 of one block. -/
def aesBlock256 (key blk : List Nat) : List Nat :=
  let ks := aesSchedule256 key 1 8
  aesRounds256 (aesXor blk (ks.take 16)) (ks.drop 16) 13

/-- The product of two blocks in the field of GHASH, `n` bits of `x` still to come. -/
def ghashMul (x : Nat) (v z : Nat) : Nat → Nat
  | 0 => z
  | n + 1 =>
    ghashMul x (if v % 2 = 1 then v / 2 ^^^ 0xE1 * 2 ^ 120 else v / 2)
      (if x.testBit n then z ^^^ v else z) n

/-- GHASH over the blocks of a message, padded with zeros; `fuel` bounds their number. -/
def ghash (h y : Nat) (m : List Nat) : Nat → Nat
  | 0 => y
  | fuel + 1 =>
    if m.isEmpty then y
    else
      let b := blockNat ((m.take 16 ++ List.replicate 16 0).take 16)
      ghash h (ghashMul (y ^^^ b) h 0 128) (m.drop 16) fuel

/-- The key stream of counter mode, `n` blocks from counter `i` on. -/
def gcmStream (key iv : List Nat) (i : Nat) : Nat → List Nat
  | 0 => []
  | n + 1 => aesBlock256 key (iv ++ (natBlock i).drop 12) ++ gcmStream key iv (i + 1) n

/-- The ciphertext and the tag of a message under a 32-byte key and a 12-byte IV. -/
def gcmSeal (key iv m : List Nat) : List Nat × Nat :=
  let c := aesXor m (gcmStream key iv 2 (m.length / 16 + 1))
  let h := blockNat (aesBlock256 key (List.replicate 16 0))
  let y := ghash h 0 c (c.length / 16 + 1)
  (c, ghashMul (y ^^^ 8 * c.length) h 0 128 ^^^ blockNat (gcmStream key iv 1 1))

/-! ## CRC-32 (R410) -/

/-- `n` bits of the division, low bit first. -/
def crcBits (c : Nat) : Nat → Nat
  | 0 => c
  | n + 1 => crcBits (if c % 2 = 1 then c / 2 ^^^ 0xEDB88320 else c / 2) n

/-- CRC-32 of a message of bytes (IEEE 802.3; PRESUMED, log 67). -/
def crc32 (m : List Nat) : BitVec 32 :=
  BitVec.ofNat 32 (m.foldl (fun c b => crcBits (c ^^^ b) 8) 0xFFFFFFFF ^^^ 0xFFFFFFFF)

end Sys2Proof.Machine
end

