-- ==== Sys2Proof/Config.lean ====
section
/-! DEFINITION. What the manual leaves open. Each constant is opaque: nothing in Lean can
evaluate it, so whatever is proved holds for every value of it. A free value is applied to the
counter `State.free`, which every step advances, and to a site number that keeps the values one
step draws apart (DESIGN CHOICE, log 6). -/

namespace Sys2Proof.Config

/-- A free choice among alternatives the manual leaves open: arrival orders, which cached copy
an access finds, which slot issues next. -/
opaque choice : Nat → Nat → Nat

/-- The time a step takes, in parts of a nanosecond (DESIGN CHOICE, log 8). -/
opaque elapsed : Nat → Nat

/-- The duration of a relock in sidereal nanoseconds beyond 1,480, of which at most 40 count
(R386: 1,500 within 20). -/
opaque relock : Nat → Nat

/-- A 64-bit value the manual leaves open. -/
opaque word : Nat → Nat → Word

/-- The bits of a NaN payload, of an undefined lane, of contents lost, where the manual names no
value. -/
opaque quad : Nat → Nat → Quad

/-- Whether the part behind a yes-or-no question the manual leaves open answers yes. -/
opaque flag : Nat → Nat → Bool

end Sys2Proof.Config
end

