-- ==== Sys2Proof/Machine/State.lean ====
section
/-! DEFINITION. The state of one package, all of it plain data, its faults and refusals, and the
state right after reset. Slots, cores, clusters and dies stand in lists by number: the COORD of
R16 for a slot, COORD / 4 for a core, COORD / 64 for a cluster, COORD / 32,768 for a die; one
that no list holds is as it is after bring-up. -/

namespace Sys2Proof.Machine

/-- A register's format tag (R33). -/
inductive Tag where
  | raw
  | i64
  | i32x4
  | i16x8
  | i8x16
  | b8x16
  | f64x2
  | f32x4
  | f16x8
  | bf16x8
  | e4m3x16
  | e5m2x16
  | e2m1x32
  | e8m0x16
  | slc8
  | name
  deriving DecidableEq, Repr

/-- A register's 128 bits and its tag (R28). -/
structure RV where
  val : Quad
  tag : Tag
  deriving DecidableEq, Repr

/-- Zero with tag RAW: what z reads as (R29) and what a register holds at entry (R55). -/
def RV.zero : RV := ⟨0#128, .raw⟩

/-- A last-result register: its value, and the completion position and issue position of the
result it holds (R30). -/
structure Last where
  rv : RV
  done : Nat
  issued : Nat
  deriving DecidableEq, Repr

/-- What becomes of loaded bytes (R34, R246 to R248): a number zero-extended, or sign-extended from
`n` bytes, with tag I64, or sixteen bytes with a tag. -/
inductive Fit where
  | zext
  | sext (n : Nat)
  | quad (t : Tag)
  deriving DecidableEq, Repr

/-- A relaxed load of global memory that is still to be performed (R286): its address and location,
whether its page lets the line enter a cluster read cache (R236), how many bytes, and what becomes
of them. -/
structure Load where
  va : Word
  pa : Nat
  cached : Bool
  n : Nat
  fit : Fit
  /-- The address space it was translated in. -/
  asid : BitVec 16
  deriving DecidableEq, Repr

/-- An outstanding result (R24): the entry of the register file it is bound for, the values it
brings to l0 and l1, its issue position, and the position at which it clears (none: variable,
not yet written). The values bound for the file stand there already, but for those of a load that
is still to be performed; nothing can read them while the bit is set (R25). -/
structure Out where
  dst : Option Nat
  l0 : Option RV
  l1 : Option RV
  issued : Nat
  ready : Option Nat
  /-- Its word can accrue a flag (R136), and the flags that accrue when it is written (R138). -/
  flags : Option (BitVec 5)
  /-- The load of memory that brings the result. -/
  load : Option Load
  deriving DecidableEq, Repr

/-- The hint state (R118): the group's first hint, the payloads taken so far, whether a word of
the run was malformed (R42), and the die cycle in which the HSCHED word issued (R116). -/
structure Hints where
  first : Option Word
  imm : List (BitVec 22)
  mod : List (BitVec 22)
  sched : List (BitVec 22)
  bad : Bool
  t0 : Nat
  deriving DecidableEq, Repr

/-- The hint state with no hint in it. -/
def Hints.empty : Hints := ⟨none, [], [], [], false, 0⟩

/-- Whose pieces a slot is reading or writing in a scratchpad: the long-accumulator unit's, the Survey unit's, or
others' (R196, R224). -/
inductive ObjUnit where
  | lacc
  | survey
  | other
  deriving DecidableEq, Repr

/-- What an activation does in its slot (R370). -/
inductive Run where
  | running
  | waiting
  | faulted
  | stopped
  deriving DecidableEq, Repr

/-- The states of a slot (R370). -/
inductive Phase where
  | idle
  | active (r : Run)
  | draining (r : Run)
  | held (context : Bool)
  deriving DecidableEq, Repr

/-- The envelope of a record (R53), and the time it was accepted (R403). -/
structure Envelope where
  kind : BitVec 2
  spkg : BitVec 10
  scoord : BitVec 18
  sent : BitVec 40
  asid : BitVec 16
  launch : BitVec 32
  /-- The sender is in another pod (R403: its transit counts as 0). -/
  otherPod : Bool
  /-- The address space of the launch that LAUNCHID names: a supervisor program may change the sender's
  ASID (R358, R420). -/
  of_ : BitVec 16
  deriving DecidableEq, Repr

/-- An envelope with every field zero. -/
def Envelope.zero : Envelope := ⟨0, 0, 0, 0, 0, 0, false, 0⟩

/-- What stands in a service error queue (R419): a slot's record (R368), a refused release with
its cause (R60, R264), a record of a sealed mailbox (R107), a decrement sent to a fenced core
(R107). -/
inductive ErrItem where
  | slot (r : BitVec 512)
  | release (r : BitVec 256) (cause : BitVec 6) (env : Envelope)
  | mailbox (r : BitVec 256) (cause : BitVec 6) (env : Envelope)
  | decrement (cell : Word) (amount : Word) (coord : BitVec 18)
  deriving DecidableEq, Repr

/-- A record in its queue: the record as delivered, its envelope, the die cycle (R101) and the
sidereal time (R403) of its accept, the pool entries it takes (R95), and, in a service error queue,
what was sent there (R419). -/
structure QRec where
  body : BitVec 256
  env : Envelope
  at_ : Nat
  time : Word
  entries : List Nat
  err : Option ErrItem
  deriving DecidableEq, Repr

/-- The pending-error state of a slot (R240, R376, R395), with the issue position of the access that
met the error reported. -/
structure PendErr where
  valid : Bool
  cause : BitVec 6
  addr : Word
  info : Word
  count : BitVec 16
  pos : Nat
  deriving DecidableEq, Repr

/-- No error pending. -/
def PendErr.none : PendErr := ⟨false, 0, 0, 0, 0, 0⟩

/-- The outstanding acknowledgements by class (R298). -/
structure Acks where
  die : BitVec 16
  pkg : BitVec 16
  fabric : BitVec 16
  ue : BitVec 16
  deriving DecidableEq, Repr

/-- The modes of the full-empty accesses (R241). -/
inductive FeOp where
  | rff
  | rfe
  | rawfe
  | wef
  | waf
  | wae
  | sete
  deriving DecidableEq, Repr

/-- What a parked slot waits for at a home: a full-empty access (R242) or a demand on an aged
block (R322). -/
inductive WaitOp where
  | fe (op : FeOp) (quad : Bool) (data : Quad)
  | aged (need : BitVec 32) (tag : Tag)
  deriving DecidableEq, Repr

/-- A wait: the access, its register, its location and virtual address, its scope, the switch
marker of its word, the nominal cycle of its issue, whether the home's retry list holds it, whether a
remote home's hold notice has come, when the source last asked the home, and whether that probe is
still unanswered (R339). -/
structure Wait where
  op : WaitOp
  reg : Reg
  loc : Nat
  addr : Word
  scope : BitVec 4
  marked : Bool
  since : Nat
  accepted : Bool
  noticed : Bool
  probeAt : Word
  unheard : Bool
  deriving DecidableEq, Repr

/-- What a slot that holds issue at a word it has begun waits for: its own retirement of the name,
another's, or its own move (R81 to R83), the frequency step it has asked for (R388), or the slots
it has told to park, drain or end (R372). -/
inductive NameOp where
  | retire
  | other
  | move
  | freq
  | slots
  deriving DecidableEq, Repr

/-- How far a relaxed store that has left its slot has come: performed at its cluster, or on its way
past the cluster when its page lets no line enter the cache (R236, R293); handed to the gateway
(R336); performed at its home (R286). -/
inductive Stage where
  | entered
  | sent
  | applied
  deriving DecidableEq, Repr

/-- A relaxed store from its issue to its acknowledgement (R236, R243, R337, R339): the slot and
issue position, the location and bytes, whether it goes through the write-through buffer, how far it
has come, and whether its slot still waits for it. On its way to another package: the sequence
number in its flow and that of the flow's previous write to the line (R337), when it left, the link
and transmit counter it left under (R336, R343; none over Ultra Ethernet). -/
structure Packet where
  slot : Nat
  pos : Nat
  loc : Nat
  va : Word
  bytes : List Byte
  buffered : Bool
  stage : Stage
  orphan : Bool
  seq : BitVec 32
  prev : Option (BitVec 32)
  sent : Word
  link : Option (Nat × Nat)
  /-- The address space it was translated in. -/
  asid : BitVec 16
  deriving DecidableEq, Repr

/-- A record that a SPAWNQ has still to send: its queue's name is moving, and the resolution waits at the
Almanac (R64, R78): its issue position, the entry of the file its status is for, the name, and the record. -/
structure Sending where
  pos : Nat
  dst : Option Nat
  name : Quad
  body : BitVec 256
  deriving DecidableEq, Repr

/-- A hardware thread (R10): everything R376 saves, and what R403 times. -/
structure Slot where
  phase : Phase
  pc : Word
  /-- m1 to m39, o0 to o5, ring entries 0 to 47 (R28, R31). -/
  file : Vector RV 93
  l0 : Last
  l1 : Last
  /-- Results of the two pipes that are written, and whose completion position is still to come (R26, R30). -/
  due0 : List Last
  due1 : List Last
  outs : List Out
  /-- Issue positions used so far (R24). -/
  pos : Nat
  wbase : BitVec 6
  hints : Hints
  super : Bool
  inTrap : Bool
  ftz : Bool
  rnd : BitVec 3
  fpflags : BitVec 5
  trapVec : BitVec 52
  trapPc : BitVec 52
  trapCause : BitVec 6
  trapPend : Bool
  trapAddr : Word
  trapInfo : Word
  asid : BitVec 16
  root : BitVec 40
  agWaitMax : BitVec 32
  feWaitMax : BitVec 32
  acks : Acks
  err : PendErr
  heart : BitVec 32
  eff : Bool
  record : BitVec 256
  env : Envelope
  /-- A and P of R403: the times of accept and of dispatch. -/
  arrived : Word
  started : Word
  /-- The nominal cycle at which the drain window of R375 ends. -/
  drainAt : Option Nat
  /-- PARK reached this WAITING slot: it stops when its wait ends (R373). -/
  parkNext : Bool
  /-- The slot is STOPPED by a claimed BREAK (R408). -/
  atBreak : Bool
  wait : Option Wait
  /-- The ALIGN wait: the die cycle at which it ends (R116). -/
  align : Option Nat
  /-- The slot's error record that the error queue has not yet accepted (R368). -/
  heldErr : Option (BitVec 512)
  /-- The word at the pc is an NMRET, NMMOVE, FREQ or a command on slots that has begun (R81, R82,
  R372, R388). -/
  nameOp : Option NameOp
  /-- The slot whose PARK, PREEMPT or KILL runs on this one (R372). -/
  opBy : Option Nat
  /-- The slot may still wait for what its last word waits for (R112). -/
  slow : Bool
  /-- The die cycle in which its address space last refused a record granted to the slot (R92). -/
  refusedAt : Option Word
  /-- A debug session halts the slot when the word it is in has ended (R407). -/
  haltNext : Bool
  /-- Pieces of a Survey or accumulator object still to be written: offset, bytes, value (R225). -/
  late : List (Nat × Nat × Nat)
  /-- The unit whose pieces `late` and `seen` are. -/
  unit : ObjUnit
  /-- The word at the pc has begun to read objects of the scratchpad: the pieces it has read (R196, R225,
  R300). -/
  seen : Option (List (Nat × Nat × Nat))
  /-- Relaxed stores of memory issued and not yet performed at the cluster, oldest first (R236). -/
  stores : List Packet
  /-- Records that wait for the move of a name. -/
  sending : List Sending
  deriving DecidableEq, Repr

/-- A piece of a load into an operand slot (R206): its address, the core in whose scratchpad it lies or
none for memory, the offset or physical address, whether its page lets the line enter a cluster read
cache, its bytes, and the number read once it has been performed. -/
structure UnitPiece where
  va : Word
  core : Option Nat
  pa : Nat
  cached : Bool
  n : Nat
  got : Option Nat
  /-- The address space it was translated in. -/
  asid : BitVec 16
  deriving DecidableEq, Repr

/-- What becomes of the pieces (R210, R212): rows, columns, or indices that a pattern table decodes and
then the scales, which count unless an MLOADSC has come since (DEDUCED, log 29). -/
inductive LoadKind where
  | rows
  | columns
  | indices (table : Option (Vector Byte 512)) (scales : Bool)
  deriving DecidableEq, Repr

/-- A load into an operand slot that is LOADING (R203): its issue position and its pieces, `per` of them
for each row. -/
structure UnitLoad where
  kind : LoadKind
  pos : Nat
  per : Nat
  pieces : List UnitPiece
  deriving DecidableEq, Repr

/-- The state of an operand unit (R203, R204). -/
inductive UnitState where
  | free
  | owned
  | loading
  | ready
  deriving DecidableEq, Repr

/-- A unit of the matrix unit (R201): a slot unit uses the rows' 2,048 bits and the scales, a
tile the rows' low 512. `pend` holds the flags of every MMA accepted and not yet written, oldest
first, or of the MSTOREB that fills the slot (R204, R216, R219). -/
structure MUnit where
  state : UnitState
  owner : BitVec 2
  tag : Tag
  scaled : Bool
  poison : Option (BitVec 6)
  load : Option UnitLoad
  pend : List (BitVec 5)
  rows : Vector (BitVec 2048) 16
  scales : Vector (BitVec 64) 16
  deriving DecidableEq, Repr

/-- A unit as it is when free. -/
def MUnit.reset : MUnit :=
  ⟨.free, 0, .raw, false, none, none, [], Vector.replicate 16 0, Vector.replicate 16 0⟩

/-- A join cell as a command holds it (R58, R260): none, an address still to be translated, a location
with whether its page refuses cells, or a cell of another package. -/
inductive JoinAt where
  | none
  | va (v : Word)
  | at (l : Word) (odd : Bool)
  | away (origin : BitVec 16)
  deriving DecidableEq, Repr

/-- A block of an AGGET that waits at its home (R324, R332): where, whether the retry list holds it,
and the version and age word it has been answered with. -/
structure AgedWait where
  loc : Nat
  accepted : Bool
  answer : Option (Nat × Word)
  deriving DecidableEq, Repr

/-- A command of an engine (R253): its code and descriptor; its join cell, the barrier that AUX names
and the object it names, and the names through which it has accesses in flight; the slot and issue
position of its ENG word, whether that activation is over, and what the slot lent it (R255, R256,
R262, R332); and how far it has come. -/
structure Cmd where
  code : BitVec 7
  words : Vector Word 8
  join : JoinAt
  aux : Option Word
  /-- The BARRIER name in AUX; it is resolved when the command starts (R260). -/
  auxName : Option Quad
  /-- The barrier of AUX stands in another package. It is signalled once. -/
  auxAway : Bool
  obj : Option Word
  names : List Quad
  slot : Nat
  pos : Nat
  orphan : Bool
  /-- Tells the commands of a core apart. -/
  id : Nat
  asid : BitVec 16
  root : BitVec 40
  super : Bool
  ftz : Bool
  rnd : BitVec 3
  env : Envelope
  agWait : BitVec 32
  /-- What the release of a REL command has met, as STATUS bits (R297). -/
  rel : BitVec 16
  started : Bool
  /-- The ranges of a COPY have been compared (R261). -/
  prepared : Bool
  /-- The release of a REL command has been made (R256). -/
  released : Bool
  /-- Pieces done, and the blocks of an AGPUT that have not landed (R331). -/
  piece : Nat
  left : List Nat
  /-- The nominal cycle of the ENG word, from which AGWAITMAX counts (R324), and the wait. -/
  since : Nat
  await : Option AgedWait
  /-- The lines of memory the command has written (R256). -/
  wrote : List Nat
  /-- Receivers of a COPYM still to be signalled (R261). -/
  receivers : BitVec 16
  /-- The PUTSIG signal has been sent, or the COLLSUB block has been accepted. -/
  signalled : Bool
  /-- What has been read of the block in turn, 16 bytes at a time: of a COLLSUB, and of an AGPUT with the
  number of the block (R300). -/
  got : List Nat
  block : Nat
  errs : BitVec 16
  /-- The virtual address of the page event the command waits on (R258). -/
  paused : Option Word
  stopped : Bool
  flags : BitVec 5
  deriving DecidableEq, Repr

/-- A region of the capability table (R103). -/
structure DetRegion where
  base : Word
  size : Word
  asid : BitVec 16
  name : Quad
  deriving DecidableEq, Repr

/-- A row of the Chronograph (R404). -/
structure ChronoRow where
  pkg : BitVec 10
  die : BitVec 3
  cluster : BitVec 9
  valid : Bool
  wild : Bool
  count : BitVec 32
  transit : Word
  qwait : Word
  run : Word
  deriving DecidableEq, Repr

/-- An activation that has ended, as the Chronograph accounts it (R403). -/
structure Account where
  env : Envelope
  transit : Word
  qwait : Word
  run : Word
  deriving DecidableEq, Repr

/-- A cached translation (R360): the base of its page, its size, the ASID and the leaf. -/
structure TlbEntry where
  base : Nat
  large : Bool
  asid : BitVec 16
  leaf : Word
  deriving DecidableEq, Repr

/-- A fetched line (R108, R109), as TLBI finds it: its virtual address, the address space and the
kind of page it was fetched through, and its sixteen words, none where the home found the word
poisoned (R111). -/
structure Line where
  base : Nat
  asid : BitVec 16
  large : Bool
  global : Bool
  words : List (Option (BitVec 32))
  deriving DecidableEq, Repr

/-- A window of R400: its start and its count. -/
structure ErrWindow where
  start : Word
  count : BitVec 16
  deriving DecidableEq, Repr

/-- A core (R10, R15). -/
structure Core where
  scratch : Mem
  units : Vector MUnit 8
  /-- The tiles of the MMAs accepted and not yet written, oldest first (R205). -/
  mmas : List Nat
  /-- The pattern table MTBL has loaded (R154, R213); none: the default table of R156. -/
  pattern : Option (Vector Byte 512)
  queue : List Cmd
  det : List DetRegion
  fetchGrp : BitVec 16
  hbint : BitVec 32
  barStray : BitVec 32
  stage : BitVec 12
  delaySel : BitVec 64
  chrono : Vector ChronoRow 16
  /-- The fence of R107 and the containment of R397. -/
  fenced : Bool
  contained : Bool
  /-- Stopped by a debug session (R407); BREAK claimed (R408). -/
  stopped : Bool
  claimed : Bool
  dtlb : List TlbEntry
  itlb : List TlbEntry
  window : ErrWindow
  /-- What comes of the next checks of the Collimator, soonest first: whether each disagrees (R394; DESIGN
  CHOICE, log 49). -/
  upsets : List Bool
  /-- FETCHGRP as it was before the writes of a die cycle, which govern from the next on (R136). -/
  fetchWas : Option (Word × BitVec 16)
  /-- HBINT as it was before the writes of a die cycle (R106, R136). -/
  hbWas : Option (Word × BitVec 32)
  /-- The die cycles until which the divider and the matrix unit take no further word (R114, R205). -/
  divUntil : Word
  matUntil : Word
  /-- The activations accounted in a die cycle, and the rows as they were before (R404). -/
  ended : Option (Word × Vector ChronoRow 16 × List Account)
  /-- The slot pointer (R112). -/
  rot : Nat
  /-- The instruction buffer: four lines at most, the one read last first (R109). -/
  buffer : List Line
  deriving DecidableEq, Repr

/-- The kinds of a queue (R95). -/
inductive QKind where
  | ready
  | mailbox
  | stage
  | service
  deriving DecidableEq, Repr

/-- A queue of a cluster (R93, R95). -/
structure Queue where
  /-- The index holds a queue (R93); MIN and CAP stand for every index (R97). -/
  attached : Bool
  kind : QKind
  cls : BitVec 2
  cores : BitVec 16
  sealed_ : Bool
  min : BitVec 12
  cap : BitVec 12
  /-- MIN and CAP as they were before the writes of a die cycle (R136). -/
  was : Option (Word × BitVec 12 × BitVec 12)
  pool : List QRec
  ext : List QRec
  extCap : BitVec 24
  extBase : Word
  /-- The index of the extension's oldest record: the extension is a ring (R95). -/
  extHead : Nat
  nextRel : BitVec 32
  nextSeq : BitVec 32
  win : BitVec 16
  /-- The location of the descriptor its QUEUE name is bound to. -/
  desc : Word
  /-- The settings of a queue attached at a gateway port (R349). -/
  coll : Option QueueSettings
  deriving DecidableEq, Repr

/-- A block index of a collective that a gateway core works on (R350). -/
structure CollBlock where
  queue : Nat
  index : BitVec 32
  next : BitVec 16
  /-- Ranks taken in this round. -/
  taken : Nat
  deriving DecidableEq, Repr

/-- A barrier record waiting out its stagger (R266). -/
structure Push where
  core : Nat
  at_ : Nat
  body : BitVec 256
  env : Envelope
  deriving DecidableEq, Repr

/-- A cluster (R10). -/
structure Cluster where
  /-- Queues by index (R93); an index that is absent holds no queue. -/
  queues : AMap Queue
  poolSel : BitVec 8
  /-- Refill pointer (R99), slot and queue pointers (R100). -/
  frot : Nat
  srot : Nat
  qrot : Nat
  /-- The die cycle of the last grants, and how many there were in it (R100). -/
  grantAt : Option (Word × Nat)
  dwellMax : BitVec 32
  /-- The instruction cache (R108): in each of 128 sets four lines at most, the one filled last
  first; the rotate pointer of the fetch port, and the die cycle of its last delivery. -/
  lines : List Line
  fetchRot : Nat
  fetchAt : Option Word
  /-- The die cycle in which a slot last came to wait at an ALIGN (R116). -/
  alignAt : Word
  flagsUnion : BitVec 5
  /-- The flags that have accrued in a die cycle, and which cycle (R139). -/
  flagsNow : BitVec 5
  flagsAt : Word
  /-- The valid bytes of the read cache, by physical address (R236), and how many stores the
  write-through buffer holds (DESIGN CHOICE, log 56). -/
  cache : AMap Byte
  bufCap : Nat
  barStep : BitVec 16
  /-- BARSTEP as it was before the writes of a die cycle (R136). -/
  barWas : Option (Word × BitVec 16)
  tlb : List TlbEntry
  trace : List (BitVec 512)
  traceSize : Nat
  traceDrops : BitVec 32
  pushes : List Push
  blocks : List CollBlock
  window : ErrWindow
  deriving DecidableEq, Repr

/-- An entry of STEPLOG (R389). -/
structure StepEntry where
  time : Word
  dcyc : Word
  ncyc : Word
  info : Word
  deriving DecidableEq, Repr

/-- A relock in progress (R386): the old and the new frequency, when it was asked for and when the clock
stopped, for how many nanoseconds it stands, the parts of a nanosecond that are left of them and those that
have passed since, and the slot whose FREQ asked for it (R388). -/
structure Relock where
  old : BitVec 16
  new : BitVec 16
  asked : Word
  since : Word
  len : Nat
  left : Nat
  past : Nat
  by_ : Option Nat
  deriving DecidableEq, Repr

/-- A step of a die that waits for a relock to end (R386, R388): the slot whose FREQ asks for it, or none
for one of the service's schedule, the frequency, and when it came. -/
structure FreqWait where
  by_ : Option Nat
  mhz : BitVec 16
  at_ : Word
  deriving DecidableEq, Repr

/-- The read-modify-writes that an atomic makes at its home (R250). -/
inductive AtomOp where
  | add
  | min
  | max
  | minu
  | maxu
  | and
  | or
  | xor
  | swap
  | cas (expected : Quad)
  | fadd (tag : Tag)
  deriving DecidableEq, Repr

/-- The states of an aged region's registration (R320). -/
inductive RegState where
  | idle
  | registered
  | stopped
  | done
  deriving DecidableEq, Repr

/-- What another package asks of a home of this one (R78, R261, R337, R340, R342, R350): a write, a
full-empty access, an atomic, a demand on an aged block, a block of an AGPUT, the registration of pages; a
record for a queue, the arming of a join cell, a look at a barrier, the passing of a capability, the move
or the retirement of a name; an accumulate at a barrier or a join cell, a block for a collective queue. A
record that a join cell of this package releases waits here too, while the name of its queue moves. -/
inductive InOp where
  | write (bytes : List Byte)
  | fe (op : FeOp) (quad : Bool) (data : Quad)
  | atomic (op : AtomOp) (n : Nat) (src : Quad)
  | aged (need : BitVec 32) (wait : Bool)
  | agput (data : List Byte) (age : BitVec 32)
  | regs (pages : List (Nat × Nat)) (state : RegState)
  | record (body : BitVec 256) (sent : BitVec 40)
  | release (body : BitVec 256) (env : Envelope) (die : Nat)
  | jinit (count : Word)
  | barq
  | handover (to_ : Word)
  | move (dst : Word)
  | signal (amount : Word)
  | dec (amount : Word) (bits : BitVec 16)
  | block (rank : BitVec 16) (index : BitVec 32) (data : List Byte)
  | retire
  deriving DecidableEq, Repr

/-- A request on its way from another package: its sender, the name it is made through while that
stands to be resolved (R78), the name it holds in flight, the location, and what is asked. -/
structure Incoming where
  origin : Sender
  name : Option (Quad × Byte)
  via : Option Quad
  loc : Word
  op : InOp
  deriving DecidableEq, Repr

/-- Who waits in a home's retry list (R242, R324, R332, R340): a parked slot, an AGGET of a core's
engine, or a full-empty access of another package. -/
inductive Waiter where
  | slot (c : Nat)
  | engine (core id : Nat)
  | away (r : Incoming)
  deriving DecidableEq, Repr

/-- A compute die (R10). -/
structure Die where
  dcyc : Word
  /-- NCYC at the start of the segment, and the die cycles run in it (R385). -/
  ncyc0 : Word
  seg : Nat
  mhz : BitVec 16
  /-- Time run beyond the last whole die cycle: units of `timeUnit` times megahertz. -/
  frac : Nat
  steps : Vector StepEntry 16
  stepCount : BitVec 32
  newest : BitVec 4
  relock : Option Relock
  waitingSteps : List FreqWait
  /-- The die has restarted, and has not run a whole cycle since (R386). -/
  justUp : Bool
  errWin : BitVec 32
  errThr : BitVec 16
  /-- ERRWIN and ERRTHR as they were before the writes of a die cycle (R136). -/
  errWas : Option (Word × BitVec 32 × BitVec 16)
  eolSource : BitVec 8
  eolDays : BitVec 16
  errqRefused : Word
  /-- Items the queue has refused, kept by their senders until it accepts them (R419). -/
  errHold : List ErrItem
  /-- The retry list of the die's homes, oldest first (R242). -/
  retry : List Waiter
  feRefused : Word
  /-- The windows of the HBM channels (R400). -/
  hbm : AMap ErrWindow
  /-- The die cycle in which a slot of the die last issued, and its COORD (R112, R136). -/
  lastIssue : Option (Word × Nat)
  /-- The die cycle in which a control register of the die's units was last written: the write governs
  them from the next one on (R136). -/
  ctrlAt : Option Word
  deriving DecidableEq, Repr

/-- The registration record of an aged page (R320): state and writer core (of another package's,
see `farCore`), and the address space and virtual page of the region that it belongs to. -/
structure PageReg where
  state : RegState
  writer : Nat
  asid : BitVec 16
  page : Nat
  deriving DecidableEq, Repr

/-- The states of an Almanac entry (R74); FREE entries are not listed. -/
inductive NameState where
  | live
  | retiring
  | moving
  deriving DecidableEq, Repr

/-- An Almanac entry (R74), with the sectors that hold the name in their cache. -/
structure Entry where
  name : Quad
  state : NameState
  owner : BitVec 28
  loc : Word
  presence : BitVec 224
  /-- Sectors that have not acknowledged the invalidation yet (R81). -/
  awaiting : List Nat
  /-- The new location of a move in progress (R82). -/
  newLoc : Word
  /-- The pages of the location and of the new one were FE or DET when they were translated (R58). -/
  odd : Bool
  newOdd : Bool
  deriving DecidableEq, Repr

/-- Requests, calls and reports the service has not dealt with yet (R144, R371, R399, R413). -/
inductive SvcItem where
  | page (va : Word) (info : Word) (pc : Word)
  | enginePage (va : Word) (core : Nat)
  | event (w0 w1 w2 w3 : Word)
  | timeLoss
  | logFull
  | error (e : ErrItem)
  deriving DecidableEq, Repr

/-- A posted SCALL (R144): the block's location, and the caller's slot, address space and launch. -/
structure Scall where
  block : Word
  slot : Nat
  asid : BitVec 16
  root : BitVec 40
  super : Bool
  launch : BitVec 32
  /-- The address space of the caller's launch (R420). -/
  of_ : BitVec 16
  deriving DecidableEq, Repr

/-- A launch the service runs (R91, R420): what it runs under, the clusters it admits, the records
still to be pushed (with their cluster), the stage queues it attached, the stages of its cores (R18),
the cores its activations have run in (R213), whether its LAUNCH request has been answered, and whether
it has ended, with the value its WAIT is answered. -/
structure Launch where
  id : BitVec 32
  asid : BitVec 16
  rnd : BitVec 3
  ftz : Bool
  clusters : List Nat
  todo : List (Nat × BitVec 256)
  queues : List (Nat × Nat)
  stages : List (Nat × BitVec 12)
  used : List Nat
  answered : Bool
  /-- The TAG of its LAUNCH request (R413). -/
  tag : BitVec 32
  ended : Option Word
  deriving DecidableEq, Repr

/-- The sections of an object (R270). -/
inductive Section_ where
  | text
  | data
  | scratch
  deriving DecidableEq, Repr

/-- The kinds of a relocation (R272); the offsets of OFF54 and OFF50 are divided by an access size. -/
inductive RelocKind where
  | abs64
  | ent54
  | imm57
  | off54 (n : Nat)
  | off50 (n : Nat)
  | off52
  | imm63
  | pc63
  deriving DecidableEq, Repr

/-- A relocation (R272): where it applies, and its symbol, as a section and offset, with the addend. -/
structure Reloc where
  place : Section_
  at_ : Nat
  kind : RelocKind
  symbol : Section_
  offset : Nat
  addend : Word
  deriving DecidableEq, Repr

/-- An object at hand for the image loader (R270, R272): the address space and the load addresses of its
text and data, the bytes of its sections, its relocations, and whether its text and data stand in
memory. -/
structure Object where
  asid : BitVec 16
  textAt : Word
  dataAt : Word
  text : List Byte
  data : List Byte
  scratch : List Byte
  relocs : List Reloc
  /-- What the request asks beside: pages to map, with PTE bits 11:0 (R380), and frequency steps (R391). -/
  pages : List (Word × BitVec 12)
  steps : List (Nat × Word × BitVec 16)
  loaded : Bool
  deriving DecidableEq, Repr

/-- An answer sent over Ultra Ethernet (R413): the request's tag, the code and what it carries. -/
structure Answer where
  tag : BitVec 32
  code : BitVec 8
  value : Word
  data : List Byte
  deriving DecidableEq, Repr

/-- The traffic from a die to another package (R336, R337): the next sequence number, the port in
turn, and the line table, the line used last first. -/
structure Flow where
  seq : BitVec 32
  port : Nat
  lines : List (Nat × BitVec 32)
  deriving DecidableEq, Repr

/-- How far the rotation of a link direction's key has come (R344): none under way, the next key
loaded, KI flipped. -/
inductive Rotation where
  | none
  | loaded
  | flipped
  deriving DecidableEq, Repr

/-- A packet in a replay buffer (R343): its transmit counter, the KI it was sent under, the
ciphertext and tag that a replay resends, and how often in a row its tag has failed (R345). -/
structure Sealed where
  counter : Nat
  ki : Bool
  cipher : List Byte
  tag : Quad
  fails : Nat
  deriving DecidableEq, Repr

/-- One direction of a Goaskund link (R336, R343 to R345): whether it and its port are up, its two
key registers, KI, the transmit counter, the packets sent under the current key, the replay
buffer, and the windows of its lanes (R400). The directions inwards are numbered from 32 on: of these the
registers are the receiver's. -/
structure Link where
  up : Bool
  portUp : Bool
  keys : Vector (Option (BitVec 256)) 2
  ki : Bool
  rotation : Rotation
  counter : Nat
  underKey : Nat
  replay : List Sealed
  windows : AMap ErrWindow
  deriving DecidableEq, Repr

/-- The configuration image (R409). -/
structure Image where
  /-- The header. -/
  version : Nat
  stepping : Byte
  pod : BitVec 6
  pkg : BitVec 10
  tray : BitVec 16
  master : Bool
  key : Quad
  almanacK : Nat
  ctxBase : Word
  preWin : Nat
  asidTab : Word
  fabLimit : Nat
  /-- The reach table (R347): alias, pod, package. -/
  reach : List (BitVec 10 × BitVec 6 × BitVec 10)
  mhz : BitVec 16
  /-- The release of the service image (R417). -/
  release : Nat
  /-- The physical cluster of a logical one of the package, where it is not the one of its number. -/
  repairMap : AMap Nat
  /-- The reach list (R283, R284): pod and package. The lane settings and the first key of a link
  direction, by its number. -/
  reachList : List (BitVec 6 × BitVec 10)
  lanes : AMap (List Nat)
  firstKeys : AMap (BitVec 256)
  /-- The device key and certificate. -/
  deviceKey : Quad
  certificate : List Byte
  /-- Where the service keeps the descriptors of the queues it names (R93). -/
  qdesc : Word
  /-- The identifier of each link direction (R343). -/
  linkIds : List (BitVec 32)
  deriving DecidableEq, Repr

/-- A copy of the image in flash, and whether its signature holds under a key with the boot ROM's digest
(R409; DESIGN CHOICE, log 45). -/
structure ImageCopy where
  image : Image
  signed : Bool
  deriving DecidableEq, Repr

/-- A slot of the epoch record (R410). -/
structure EpochSlot where
  seq : Nat
  epoch : BitVec 24
  crc : BitVec 32
  deriving DecidableEq, Repr

/-- How far the update of the service image has come (R417): none under way, the new image written to the
copy that is not in use, verified there, started beside the old one. -/
inductive Update where
  | none
  | written (release : Nat)
  | verified (release : Nat)
  | handing (release : Nat)
  deriving DecidableEq, Repr

/-- A WAIT request to be answered (R413). -/
structure WaitReq where
  asid : BitVec 16
  launch : BitVec 32
  tag : BitVec 32
  deriving DecidableEq, Repr

/-- The power states of the module (R416). -/
inductive Power where
  | off
  | standby
  | run
  deriving DecidableEq, Repr

/-- The state of the package, with the model's own fields last. -/
structure State where
  slots : AMap Slot
  cores : AMap Core
  clusters : AMap Cluster
  dies : AMap Die
  /-- Memory by physical address (R13, R234), of every package the modelled one can reach. -/
  mem : Mem
  /-- Full words of FE pages by address / 8 (R241), ages by address / 256 (R318), poisoned words
  by address / 8 (R240), page registrations by address / 65,536 (R320). -/
  full : NSet
  ages : AMap (BitVec 32)
  poison : NSet
  /-- Words by address / 8 that hold an uncorrectable error no access has met yet: set from outside
  (R240; DESIGN CHOICE, log 7). -/
  bad : NSet
  regs : AMap PageReg
  /-- The Almanac's entries (R74) and sector name caches (R77) by table position and by sector,
  the serial counter (R72) and the forged-name count (R78). -/
  almanac : AMap Entry
  caches : AMap (List (Quad × Word))
  serial : BitVec 88
  forged : Word
  epoch : BitVec 24
  /-- The image that is in force, its copies in flash, and whether copy B is the one in use (R409, R410);
  whether dies, stacks and links come up: set from outside (DESIGN CHOICE, log 45). -/
  image : Image
  copyA : ImageCopy
  copyB : ImageCopy
  useB : Bool
  trains : Bool
  update : Update
  /-- The epoch record of the flash (R73, R410). -/
  epochA : EpochSlot
  epochB : EpochSlot
  sidereal : Word
  /-- Time run beyond the last whole sidereal nanosecond, and the slew still to be made, both in
  the units of `timeUnit`. -/
  frac : Nat
  slew : Int
  service : List SvcItem
  scalls : List Scall
  launches : List Launch
  /-- The objects the image loader has: set from outside (DESIGN CHOICE, log 68). -/
  objects : List Object
  answers : List Answer
  waits : List WaitReq
  /-- Contained activations reported to the requesters of their launches (R398): ASID, LAUNCHID, and the
  error record. -/
  reports : List (BitVec 16 × BitVec 32 × BitVec 512)
  /-- How many requests the service request queue holds before it refuses (R144). -/
  scallCap : Nat
  /-- Frequency steps the service has scheduled (R388): die, sidereal time, megahertz. -/
  schedule : List (Nat × Word × BitVec 16)
  /-- What the service has at hand to map with (R91, R414): the roots of the address spaces it
  knows, its free 64 KiB frames, and where it puts the next argument block. -/
  spaces : AMap (BitVec 40)
  frames : List Nat
  argNext : Word
  /-- When the last timing message came, and whether its loss has been reported (R383). -/
  lastTiming : Word
  timeLost : Bool
  links : AMap Link
  /-- Stores on their way, oldest first (R236, R337), the flows by die * 1024 + package (R336), and
  what other packages ask of this one: set from outside (DESIGN CHOICE, log 7). -/
  fabric : List Packet
  flows : AMap Flow
  incoming : List Incoming
  session : Bool
  eyepiece : Nat
  power : Power
  /-- STOP has pre-empted the slots, and their windows run (R416). -/
  stopping : Bool
  /-- The cores of a service cluster on which the service runs (R410, R417). -/
  serviceOn : List Nat
  /-- The dies' temperatures, as the I3C target reports them: set from outside (R415; DESIGN CHOICE, log 7). -/
  temps : AMap Word
  bootstat : Byte
  rstReq : Bool
  rstAck : Bool
  pcap : BitVec 16
  /-- The repair log (R411), the physical clusters of logical ones as the image and the log give them, and
  the physical clusters, die * 464 + number, that repairs have put out of use. -/
  repairLog : List (List Byte)
  physMap : AMap Nat
  worn : List Nat
  /-- Cores, clusters, HBM channels and link lanes with a lasting fault that no repair has met yet (R400,
  R401): UNIT and number. -/
  lasting : List (Nat × Nat)
  /-- The model's own: the slot whose turn it is, the counter of free values (DESIGN CHOICE, log 6), the outside
  events not yet taken (DESIGN CHOICE, log 7). -/
  focus : Nat
  free : Nat
  inbox : List Instr
  deriving DecidableEq, Repr

/-- The trap causes (R365). -/
inductive Cause where
  | illegal
  | priv
  | format
  | hazard
  | misalign
  | page
  | prot
  | capability
  | nameGone
  | queueFull
  | slotState
  | ageStale
  | ageStop
  | ageTimeout
  | feTimeout
  | memErr
  | fabric
  | trapI
  | brk
  | check
  | heartbeat
  /-- A code that stands for no cause, which an edited context can hold (R376). -/
  | other (code : BitVec 6)
  deriving DecidableEq, Repr

/-- What ends an instruction other than its completion: a trap with its address, information and
PEND bit (R366), a PAGE (R371), a wait parked at a home (R242, R324), a hold of issue (R114), an
end of the issue in a state the instruction has itself brought about. -/
inductive Stop where
  | trap (c : Cause) (addr info : Word) (pend : Bool)
  | page (addr : Word) (acc : Access)
  | hold
  | became (s : State)
  deriving Repr

/-- Why a machine stands still with no next state. None is raised by a word the part can run. -/
inductive Fault where
  /-- Never raised by an instruction; kept for an access outside every space (safe). -/
  | noSuchAddress
  deriving DecidableEq, Repr

/-- Why a step is refused. -/
inductive Refusal where
  /-- Dispatch: the instruction has no meaning yet (safe). -/
  | notModelled (mnemonic : String)
  /-- An event that cannot come about in this state, named by the state it lacks (safe: the part
  makes no such step). -/
  | notEnabled
  deriving DecidableEq, Repr

/-- A slot after bring-up (R370: IDLE; DEDUCED, log 2; DESIGN CHOICE, log 3). -/
def Slot.reset : Slot where
  phase := .idle
  pc := 0
  file := Vector.replicate 93 .zero
  l0 := ⟨.zero, 0, 0⟩
  l1 := ⟨.zero, 0, 0⟩
  due0 := []
  due1 := []
  outs := []
  pos := 0
  wbase := 0
  hints := .empty
  super := false
  inTrap := false
  ftz := false
  rnd := 1
  fpflags := 0
  trapVec := 0
  trapPc := 0
  trapCause := 0
  trapPend := false
  trapAddr := 0
  trapInfo := 0
  asid := 0
  root := 0
  agWaitMax := 0x01000000
  feWaitMax := 0x01000000
  acks := ⟨0, 0, 0, 0⟩
  err := .none
  heart := 0
  eff := false
  record := 0
  env := .zero
  arrived := 0
  started := 0
  drainAt := none
  parkNext := false
  atBreak := false
  wait := none
  align := none
  heldErr := none
  nameOp := none
  opBy := none
  slow := false
  refusedAt := none
  haltNext := false
  late := []
  unit := .other
  seen := none
  stores := []
  sending := []

/-- Row 15 of the Chronograph is wild, the others have no key (R404). -/
def ChronoRow.reset (wild : Bool) : ChronoRow := ⟨0, 0, 0, false, wild, 0, 0, 0, 0⟩

/-- A core after bring-up. -/
def Core.reset : Core where
  scratch := []
  units := Vector.replicate 8 .reset
  mmas := []
  pattern := none
  queue := []
  det := []
  fetchGrp := 0
  hbint := 0x00400000
  barStray := 0
  stage := 0
  delaySel := 0
  chrono := (Vector.replicate 16 (.reset false)).set 15 (.reset true)
  fenced := false
  contained := false
  stopped := false
  claimed := false
  dtlb := []
  itlb := []
  window := ⟨0, 0⟩
  upsets := []
  fetchWas := none
  hbWas := none
  divUntil := 0
  matUntil := 0
  ended := none
  rot := 0
  buffer := []

/-- A queue after bring-up (R93, R95, R97). -/
def Queue.reset (attached : Bool) (kind : QKind) (cls : BitVec 2) (cores : BitVec 16)
    (min : BitVec 12) : Queue where
  attached := attached
  kind := kind
  cls := cls
  cores := cores
  sealed_ := false
  min := min
  cap := 2048
  was := none
  pool := []
  ext := []
  extCap := 0
  extBase := 0
  extHead := 0
  nextRel := 0
  nextSeq := 0
  win := 0
  desc := 0
  coll := none

/-- The twenty queues every cluster has from bring-up (R93). -/
def resetQueues : AMap Queue :=
  (List.range 4).map (fun i => (i, Queue.reset true .ready (BitVec.ofNat 2 i) 0xFFFF 64))
    ++ (List.range 16).map (fun c => (4 + c, Queue.reset true .mailbox 0 (BitVec.ofNat 16 (2 ^ c)) 16))

/-- An index no queue is attached to (R97). -/
def Queue.none : Queue := Queue.reset false .stage 0 0 0

/-- The queue index of a service error queue, and the queue as the service attaches it at bring-up
(R419; DESIGN CHOICE, log 9). -/
def errIndex : Nat := 20
def errQueue : Queue := Queue.reset true .service 0 0x000F 64

/-- A cluster after bring-up, `service` being the service cluster of its die (R15, R419). -/
def Cluster.reset (service : Bool) : Cluster where
  queues := resetQueues ++ (if service then [(errIndex, errQueue)] else [])
  poolSel := 0
  frot := 0
  srot := 0
  qrot := 0
  grantAt := none
  dwellMax := 0x00100000
  lines := []
  fetchRot := 0
  fetchAt := none
  alignAt := 0
  flagsUnion := 0
  flagsNow := 0
  flagsAt := 0
  cache := []
  bufCap := 512
  barStep := 8
  barWas := none
  tlb := []
  trace := []
  traceSize := 0
  traceDrops := 0
  pushes := []
  blocks := []
  window := ⟨0, 0⟩

/-- A die after bring-up at `mhz` megahertz. -/
def Die.reset (mhz : BitVec 16) : Die where
  dcyc := 0
  ncyc0 := 0
  seg := 0
  mhz := mhz
  frac := 0
  steps := Vector.replicate 16 ⟨0, 0, 0, 0⟩
  stepCount := 0
  newest := 0
  relock := none
  waitingSteps := []
  justUp := false
  errWin := 0x000F4240
  errThr := 3
  errWas := none
  eolSource := 0
  eolDays := 0xFFFF
  errqRefused := 0
  errHold := []
  retry := []
  feRefused := 0
  hbm := []
  lastIssue := none
  ctrlAt := none

/-- A link direction after bring-up. -/
def Link.reset : Link where
  up := true
  portUp := true
  keys := Vector.replicate 2 (some 0) |>.set 1 none
  ki := false
  rotation := .none
  counter := 0
  underKey := 0
  replay := []
  windows := []

/-- The configuration image the model starts from (R409; DESIGN CHOICE, log 5). -/
def Image.reset : Image where
  version := 1
  stepping := 0xB1
  pod := 0
  pkg := 0
  tray := 0
  master := true
  key := 0
  almanacK := 20
  ctxBase := 0x8000000000
  preWin := 0x00100000
  asidTab := 0xFF00000000
  fabLimit := 200000
  reach := []
  mhz := 1200
  release := 41
  repairMap := []
  reachList := []
  lanes := []
  firstKeys := []
  deviceKey := 0
  certificate := []
  qdesc := 0xFE00000000
  linkIds := (List.range 64).map (BitVec.ofNat 32)

/-- The package right after bring-up (R410), with nothing launched. -/
def State.reset : State where
  slots := []
  cores := []
  clusters := []
  dies := []
  mem := []
  full := []
  ages := []
  poison := []
  bad := []
  regs := []
  almanac := []
  caches := []
  serial := 0x10000000000011B28
  forged := 0
  epoch := 1
  image := .reset
  copyA := ⟨.reset, true⟩
  copyB := ⟨.reset, true⟩
  useB := false
  trains := true
  update := .none
  epochA := ⟨0, 0, 0x6B87B1EC⟩
  epochB := ⟨1, 1, 0xABCB041B⟩
  sidereal := 0
  frac := 0
  slew := 0
  service := []
  scalls := []
  launches := []
  objects := []
  answers := []
  waits := []
  reports := []
  scallCap := 2048
  schedule := []
  spaces := []
  frames := (List.range 256).map fun i => 0x100000 + 0x10000 * i
  argNext := 0x200000000
  lastTiming := 0
  timeLost := false
  links := []
  fabric := []
  flows := []
  incoming := []
  session := false
  eyepiece := 0
  power := .run
  stopping := false
  serviceOn := [0]
  temps := []
  bootstat := 0x80
  rstReq := true
  rstAck := true
  pcap := 5200
  repairLog := []
  physMap := []
  worn := []
  lasting := []
  focus := 0
  free := 0
  inbox := []

end Sys2Proof.Machine
end

