-- ==== Sys2Proof/Machine/Parts.lean ====
section
/-! DEFINITION. Access to the parts of the state, the codes of causes and tags, physical addresses and
their homes (R13, R234), time (R384), the service's events (R399, R400) and the management space
(R412). -/

namespace Sys2Proof.Machine

/-! ## Slots, cores, clusters, dies -/

/-- The core, cluster and die of a slot, by the COORD layout of R16. -/
def coreOf (c : Nat) : Nat := c / 4
def clusterOf (c : Nat) : Nat := c / 64
def dieOf (c : Nat) : Nat := c / 32768
/-- The cluster and die of a core. -/
def coreCluster (k : Nat) : Nat := k / 16
def coreDie (k : Nat) : Nat := k / 8192
/-- The logical cluster number within its die (R14). -/
def clusterNum (cl : Nat) : Nat := cl % 512

def State.slot (s : State) (c : Nat) : Slot := s.slots.get .reset c
def State.setSlot (s : State) (c : Nat) (x : Slot) : State := { s with slots := s.slots.set c x }
def State.modSlot (s : State) (c : Nat) (f : Slot → Slot) : State := s.setSlot c (f (s.slot c))
def State.core (s : State) (k : Nat) : Core := s.cores.get .reset k
def State.setCore (s : State) (k : Nat) (x : Core) : State := { s with cores := s.cores.set k x }
def State.modCore (s : State) (k : Nat) (f : Core → Core) : State := s.setCore k (f (s.core k))
def State.cluster (s : State) (k : Nat) : Cluster := s.clusters.get (.reset (k % 512 == 452)) k
def State.setCluster (s : State) (k : Nat) (x : Cluster) : State :=
  { s with clusters := s.clusters.set k x }
def State.modCluster (s : State) (k : Nat) (f : Cluster → Cluster) : State :=
  s.setCluster k (f (s.cluster k))
def State.die (s : State) (d : Nat) : Die := s.dies.get (.reset s.image.mhz) d
def State.setDie (s : State) (d : Nat) (x : Die) : State := { s with dies := s.dies.set d x }
def State.modDie (s : State) (d : Nat) (f : Die → Die) : State := s.setDie d (f (s.die d))

/-- The slot whose turn it is, its core, cluster and die. -/
def State.me (s : State) : Slot := s.slot s.focus
def State.setMe (s : State) (x : Slot) : State := s.setSlot s.focus x
def State.modMe (s : State) (f : Slot → Slot) : State := s.modSlot s.focus f
def State.myCore (s : State) : Core := s.core (coreOf s.focus)
def State.modMyCore (s : State) (f : Core → Core) : State := s.modCore (coreOf s.focus) f
def State.myCluster (s : State) : Cluster := s.cluster (clusterOf s.focus)
def State.modMyCluster (s : State) (f : Cluster → Cluster) : State :=
  s.modCluster (clusterOf s.focus) f
def State.myDie (s : State) : Die := s.die (dieOf s.focus)
def State.modMyDie (s : State) (f : Die → Die) : State := s.modDie (dieOf s.focus) f

/-- COORD as a register value (R16). -/
def coordOf (c : Nat) : BitVec 18 := BitVec.ofNat 18 c

/-- A service core: logical cluster 452 of its die (R15). -/
def isServiceCore (k : Nat) : Bool := clusterNum (coreCluster k) == 452

/-- A new free value for the next step (DESIGN CHOICE, log 6). -/
def State.bump (s : State) : State := { s with free := s.free + 1 }

/-! ## Codes -/

/-- Cause codes (R365). -/
def Cause.code : Cause → BitVec 6
  | .illegal => 0x01 | .priv => 0x02 | .format => 0x03 | .hazard => 0x04 | .misalign => 0x05
  | .page => 0x06 | .prot => 0x07 | .capability => 0x08 | .nameGone => 0x09 | .queueFull => 0x0A
  | .slotState => 0x0B | .ageStale => 0x0C | .ageStop => 0x0D | .ageTimeout => 0x0E
  | .feTimeout => 0x0F | .memErr => 0x10 | .fabric => 0x11 | .trapI => 0x12 | .brk => 0x13
  | .check => 0x14 | .heartbeat => 0x15 | .other c => c

/-- The cause with a code (R365); a code without one stands for itself. -/
def Cause.ofCode (c : BitVec 6) : Cause :=
  match c.toNat with
  | 0x01 => .illegal | 0x02 => .priv | 0x03 => .format | 0x04 => .hazard | 0x05 => .misalign
  | 0x06 => .page | 0x07 => .prot | 0x08 => .capability | 0x09 => .nameGone | 0x0A => .queueFull
  | 0x0B => .slotState | 0x0C => .ageStale | 0x0D => .ageStop | 0x0E => .ageTimeout
  | 0x0F => .feTimeout | 0x10 => .memErr | 0x11 => .fabric | 0x12 => .trapI | 0x13 => .brk
  | 0x14 => .check | 0x15 => .heartbeat
  | _ => .other c

/-- Tag codes (R33). -/
def Tag.code : Tag → BitVec 5
  | .raw => 0x00 | .i64 => 0x01 | .i32x4 => 0x02 | .i16x8 => 0x03 | .i8x16 => 0x04
  | .b8x16 => 0x05 | .f64x2 => 0x06 | .f32x4 => 0x07 | .f16x8 => 0x08 | .bf16x8 => 0x09
  | .e4m3x16 => 0x0A | .e5m2x16 => 0x0B | .e2m1x32 => 0x0C | .e8m0x16 => 0x0D | .slc8 => 0x0E
  | .name => 0x0F

/-- The tag with a code; codes 0x10 to 0x1F stand for no tag (R33). -/
def Tag.ofCode (c : BitVec 5) : Option Tag :=
  match c.toNat with
  | 0x00 => some .raw | 0x01 => some .i64 | 0x02 => some .i32x4 | 0x03 => some .i16x8
  | 0x04 => some .i8x16 | 0x05 => some .b8x16 | 0x06 => some .f64x2 | 0x07 => some .f32x4
  | 0x08 => some .f16x8 | 0x09 => some .bf16x8 | 0x0A => some .e4m3x16 | 0x0B => some .e5m2x16
  | 0x0C => some .e2m1x32 | 0x0D => some .e8m0x16 | 0x0E => some .slc8 | 0x0F => some .name
  | _ => none

/-! ## Physical addresses (R13, R234) -/

/-- The package of a physical address, and the address within it. -/
def pkgOf (pa : Nat) : Nat := pa / 2 ^ 46 % 1024
def localOf (pa : Nat) : Nat := pa % 2 ^ 46

/-- The home die of a 4 KiB block: the XOR of ten groups of three bits of its local address. -/
def homeDie (pa : Nat) : Nat :=
  (List.range 10).foldl (fun h k => h ^^^ (localOf pa >>> (3 * k + 12)) % 8) 0

/-- A physical address of the own package. -/
def State.physOf (s : State) (a : Nat) : Nat := s.image.pkg.toNat * 2 ^ 46 + a % 2 ^ 46

/-- The clock of a die stands (R386), and with it the homes and cores of the die (R387). -/
def State.stands (s : State) (d : Nat) : Bool := (s.die d).relock.isSome

/-- The access leaves the package (R340). -/
def State.remote (s : State) (pa : Nat) : Bool := pkgOf pa != s.image.pkg.toNat

/-- The home of an address stands (R387). -/
def State.homeStands (s : State) (pa : Nat) : Bool := !s.remote pa && s.stands (homeDie pa)

/-- The address is a reach alias of another pod (R347). -/
def State.reachAlias (s : State) (pa : Nat) : Bool :=
  s.image.reach.any fun r => r.1.toNat == pkgOf pa

/-! ## Time -/

/-- NCYC, raw (R384, R385). -/
def Die.ncyc (d : Die) : Word :=
  d.ncyc0 + BitVec.ofNat 64 (d.seg * 1200 * 65536 / d.mhz.toNat)

/-- Whole nominal cycles of a slot's die (R384). -/
def State.nominal (s : State) (c : Nat) : Nat := (s.die (dieOf c)).ncyc.toNat / 65536

/-! ## Errors of units (R399, R400) -/

/-- One more error of a unit: its window, its count, and whether the fault is lasting.
DEDUCED, log 33. -/
def ErrWindow.add (w : ErrWindow) (now : Word) (win : BitVec 32) (thr : BitVec 16) :
    ErrWindow × Nat × Bool :=
  let n : Nat := if win.toNat * 1000 < (now - w.start).toNat ∨ w.count = 0 then 1
    else w.count.toNat + 1
  let start := if n = 1 then now else w.start
  if thr ≠ 0 ∧ thr.toNat ≤ n then (⟨now, 0⟩, n, true)
  else (⟨start, BitVec.ofNat 16 (min n 65535)⟩, n, false)

/-- An event for the service (R399). -/
def svcEvent (kind unit : BitVec 8) (coord : BitVec 18) (now w2 : Word) (n : Nat) (slot : BitVec 2) :
    SvcItem :=
  .event (0#30 ++ coord ++ unit ++ kind) now w2 (0#46 ++ slot ++ BitVec.ofNat 16 n)

/-- COORD of a core, with SLOT zero (R399). -/
def coreCoord (core : Nat) : BitVec 18 := BitVec.ofNat 18 (4 * core)

/-- Post an event. -/
def State.post (s : State) (e : SvcItem) : State := { s with service := s.service ++ [e] }

/-- A fault of a unit, by its UNIT and number, is lasting (R400): the event is posted, and the fault stands
until a repair (R401, R411). -/
def State.lasts (s : State) (unit : BitVec 8) (k : Nat) (coord : BitVec 18) (w2 : Word) (n : Nat) : State :=
  { s with lasting := s.lasting ++ [(unit.toNat, k)] }.post (svcEvent 4 unit coord s.sidereal w2 n 0)

/-- What governs in die cycle `now` of a control register that holds `v`: the writes of a die cycle govern
from the next one on (R136). `was` is the value before them, with their cycle. -/
def governs {α : Type} (was : Option (Word × α)) (now : Word) (v : α) : α :=
  match was with
  | some (t, w) => if t = now then w else v
  | none => v

/-- What has governed, of a control register that holds `v`, at the end of the die cycle before `now`. -/
def governedEnd {α : Type} (was : Option (Word × α)) (now : Word) (v : α) : α :=
  match was with
  | some (t, w) => if t = now ∨ t + 1 = now then w else v
  | none => v

/-- What is kept when a register that holds `v` is written in die cycle `now`. -/
def keepWas {α : Type} (was : Option (Word × α)) (now : Word) (v : α) : Option (Word × α) :=
  some (now, governs was now v)

/-- ERRWIN and ERRTHR as they govern now. -/
def Die.errLimits (d : Die) : BitVec 32 × BitVec 16 := governs d.errWas d.dcyc (d.errWin, d.errThr)

/-- One more error of a unit of die `x`, in its window. -/
def Die.count (x : Die) (w : ErrWindow) (now : Word) : ErrWindow × Nat × Bool :=
  w.add now x.errLimits.1 x.errLimits.2

/-- The HBM channel of an address, which is open. -/
def channelOf (pa : Nat) : Nat := Config.choice 0 (2 ^ 58 + localOf pa / 64)

/-- A die as a COORD, with the fields below it zero. -/
def dieCoord (d : Nat) : BitVec 18 := BitVec.ofNat 18 (32768 * d)

/-- An access finds an uncorrectable error at a home: the word is poisoned, and in the own package it
counts against its channel, UNIT 2 (R240, R400). -/
def State.hbmError (s : State) (pa : Nat) : State :=
  let s := { s with poison := s.poison.add (pa / 8), bad := s.bad.remove (pa / 8) }
  if s.remote pa then s
  else
    let d := homeDie pa
    let x := s.die d
    let h := channelOf pa
    let (w, n, lasting) := x.count (x.hbm.get ⟨0, 0⟩ h) s.sidereal
    let s := s.setDie d { x with hbm := x.hbm.set h w }
    if lasting then s.lasts 2 (8 * h + d) (dieCoord d) (BitVec.ofNat 64 pa) n else s

/-! ## The management space (R412) -/

/-- The identity block (R1, R412), a word for each field after the part number: stepping, serial,
image version, BOOTSTAT. What pads the part number, the serial and what follows are open. DEDUCED,
log 55. -/
def State.identity (s : State) (i : Nat) : Word :=
  let open_ := Config.word 0 (0x1000000 + 8 * i)
  if i = 0 then 0x363558592D534B56
  else if i = 1 then open_.extractLsb' 0 48 ++ 0x4D2D#16
  else if i = 2 then 0xB1
  else if i = 4 then BitVec.ofNat 64 s.image.version
  else if i = 5 then s.bootstat.setWidth 64
  else open_

/-- The 8-byte word at a local address at or above 2^40. -/
def State.mgmtWord (s : State) (a : Nat) : Word :=
  let o := a - 2 ^ 40
  if o < 0x40 then s.identity (o / 8)
  else if 0x1000 ≤ o ∧ o < 0x9000 then
    let d := o / 0x1000 - 1
    let x := s.die d
    let q := o % 0x1000
    if q < 0x200 then
      let e := vget x.steps ⟨0, 0, 0, 0⟩ (q / 32)
      if q / 8 % 4 = 0 then e.time else if q / 8 % 4 = 1 then e.dcyc
      else if q / 8 % 4 = 2 then e.ncyc else e.info
    else if q = 0x200 then x.feRefused
    else if q = 0x208 then x.errqRefused
    else if 0x400 ≤ q ∧ q < 0xB00 then
      let k := (q - 0x400) / 4
      (s.cluster (d * 512 + k + 1)).traceDrops ++ (s.cluster (d * 512 + k)).traceDrops
    else 0
  else if o = 0x10000 then (s.serial - s.epoch.setWidth 88 <<< 64).setWidth 64
  else if o = 0x10008 then s.forged
  else if 0x20000 ≤ o then Config.word 0 (0x1000000 + o)
  else 0

/-- `n` bytes at a local address of the management space. -/
def State.mgmtRead (s : State) (a : Nat) : Nat → Nat
  | 0 => 0
  | n + 1 => (s.mgmtWord (a / 8 * 8)).toNat / 2 ^ (8 * (a % 8)) % 256 + 256 * s.mgmtRead (a + 1) n

end Sys2Proof.Machine
end

