-- ==== Sys2Proof/Machine/Links.lean ====
section
/-! DEFINITION. The Goaskund ports, planes and links (R335, R336), the flows and their line tables
(R337), and the sealing of packets (R343, R344). -/

namespace Sys2Proof.Machine

/-! ## Ports and planes (R335) -/

/-- The switch plane of port `p` of die `d`. -/
def planeOf (d p : Nat) : Nat := (d + 2 * p) % 8

/-- Where plane `x` delivers a packet whose target's home is on die `home`: the die, and its port. A
die without a port on the plane gets it over the mesh from its neighbour. -/
def inbound (home x : Nat) : Nat × Nat :=
  let d := if (home + x) % 2 = 0 then home else home ^^^ 1
  (d, (x + 8 - d % 8) % 8 / 2)

/-! ## Links -/

/-- Link directions: those outwards by port, and from 32 on those inwards. -/
def linkCount : Nat := 64

/-- A link direction; its first key is the image's (R343, R409). -/
def State.link (s : State) (l : Nat) : Link :=
  s.links.get { Link.reset with keys := vset Link.reset.keys 0 (some (s.image.firstKeys.get 0 l)) } l
def State.setLink (s : State) (l : Nat) (x : Link) : State := { s with links := s.links.set l x }

/-- Which register KI selects, and which it does not. -/
def Link.current (x : Link) : Nat := if x.ki then 1 else 0
def Link.other (x : Link) : Nat := if x.ki then 0 else 1

/-- The key that KI selects (R343). -/
def Link.key (x : Link) : BitVec 256 := (vget x.keys none x.current).getD 0

/-- How many packets may be sent under one key (R344). -/
def keyLimit : Nat := 2 ^ 32

/-- The link partner has acknowledged the `n` oldest packets: they leave the replay buffer (R343). -/
def Link.acked (x : Link) (n : Nat) : Link := { x with replay := x.replay.drop n }

/-- Some of the packets in a replay buffer may have been acknowledged by now: how many, is open. -/
def State.linkAcked (s : State) (l : Nat) : State :=
  let x := s.link l
  s.setLink l (x.acked (Config.choice s.free (0x720 + l) % (x.replay.length + 1)))

/-- The packets under the old key have been acknowledged, and its register is cleared (R344 step 4). -/
def Link.retired (x : Link) : Link :=
  { x with keys := vset x.keys x.other none, rotation := .none
           replay := x.replay.filter fun e => e.ki == x.ki }

/-- KI flips to a key that stands in the other register (R344 step 3). -/
def Link.flip (x : Link) : Link := { x with ki := !x.ki, rotation := .flipped, underKey := 0 }

/-- The next key comes into the register that KI does not select (R344 steps 1 and 2). -/
def Link.install (x : Link) (key : BitVec 256) : Link :=
  { x with keys := vset x.keys x.other (some key), rotation := .loaded }

/-- A rotation that has become mandatory is made before the next packet: steps 1 to 3, as far as they
are still to be made, after step 4 of an earlier one (R344). The wait for the acknowledgement of what is
left under the old key passes within the step (DESIGN CHOICE, log 10). -/
def Link.renew (x : Link) (key : BitVec 256) : Link :=
  if x.underKey < keyLimit then x
  else
    match x.rotation with
    | .loaded => x.flip
    | .none => (x.install key).flip
    | .flipped => (x.retired.install key).flip

/-- The bytes of a number of `n` bytes, the highest first. -/
def bytesBE (n v : Nat) : List Nat := (List.range n).map fun i => v / 256 ^ (n - 1 - i) % 256

/-- A packet is encrypted once, under the key current at its first transmission: its IV is the
identifier of the link direction and the counter (R343). -/
def sealPacket (id : BitVec 32) (x : Link) (flits : List Byte) : Sealed :=
  let r := gcmSeal (bytesBE 32 x.key.toNat) (bytesBE 4 id.toNat ++ bytesBE 8 x.counter)
    (flits.map (·.toNat))
  ⟨x.counter, x.ki, r.1.map (BitVec.ofNat 8), BitVec.ofNat 128 r.2, 0⟩

/-- The header flit and the payload flits of a packet (R336). What the header holds and what fills the
last flit is open (DESIGN CHOICE, log 36). -/
def State.flits (s : State) (payload : List Byte) : List Byte :=
  let pad (i : Nat) : List Byte :=
    bytesLE 16 (Config.quad s.free (0x700 + i)).toNat
  (List.range 4).flatMap pad ++
    (if payload.isEmpty then [] else
      (payload ++ (List.range 4).flatMap fun i => pad (4 + i)).take ((payload.length + 63) / 64 * 64))

/-! ## Flows (R336, R337) -/

/-- The flow of a die to a package. -/
def flowKey (d pkg : Nat) : Nat := 1024 * d + pkg
def State.flow (s : State) (d pkg : Nat) : Flow := s.flows.get ⟨0, 0, []⟩ (flowKey d pkg)
def State.setFlow (s : State) (d pkg : Nat) (f : Flow) : State :=
  { s with flows := s.flows.set (flowKey d pkg) f }

/-- The link, 0 to 31, that a flow's next packet takes: the first of the die's four ports from the
one in turn that is up (R335, R336); with none up, the one in turn (DESIGN CHOICE, log 36). -/
def State.portOf (s : State) (d : Nat) (f : Flow) : Nat :=
  let order := (List.range 4).map fun i => 4 * d + (f.port + i) % 4
  (order.find? fun l => (s.link l).up && (s.link l).portUp).getD (4 * d + f.port % 4)

/-- A packet of a flow is first transmitted: the port in turn moves on, the counter of its link
advances, and its ciphertext stands in the replay buffer (R336, R343). The answer gives the link and
the counter. -/
def State.transmit (s : State) (d pkg : Nat) (payload : List Byte) : State × Nat × Nat :=
  let f := s.flow d pkg
  let l := s.portOf d f
  let s := s.linkAcked l
  let x := (s.link l).renew (Config.quad s.free 0x710 ++ Config.quad s.free 0x711)
  let x := { x with counter := (x.counter + 1) % 2 ^ 64, underKey := x.underKey + 1 }
  let e := sealPacket (s.image.linkIds.getD l 0) x (s.flits payload)
  ((s.setLink l { x with replay := x.replay ++ [e] }).setFlow d pkg { f with port := (l + 1) % 4 },
    l, x.counter)

/-- Entries of a line table (R337). -/
def lineEntries : Nat := 256

/-- A write to a line is numbered: its sequence number, and the flow's previous write to the line
where the table has it (R337). The line used least recently leaves a full table. -/
def Flow.number (f : Flow) (line : Nat) : Flow × BitVec 32 × Option (BitVec 32) :=
  let prev := (f.lines.find? fun e => e.1 == line).map (·.2)
  let rest := f.lines.filter fun e => e.1 != line
  ({ f with seq := f.seq + 1, lines := (line, f.seq) :: rest.take (lineEntries - 1) }, f.seq, prev)

/-! ## Failures (R336, R345, R400) -/

/-- The die of a link direction. -/
def linkDie (l : Nat) : Nat := l % 32 / 4

/-- Flits of a link direction are replayed: the error counts against their lane, UNIT 3, which lane is open
(R400). -/
def State.badFlits (s : State) (l : Nat) : State :=
  let x := s.link l
  let lane := Config.choice s.free 0x171
  let (w, n, lasting) := (s.die (linkDie l)).count (x.windows.get ⟨0, 0⟩ lane) s.sidereal
  let s := s.setLink l { x with windows := x.windows.set lane w }
  if lasting then s.lasts 3 (64 * lane + l) (dieCoord (linkDie l)) 0 n else s

/-- The packet was last sent over the link. -/
def Packet.over (p : Packet) (l : Nat) : Bool := p.link.any fun e => e.1 == l

/-- The packets of a link that their targets have not acknowledged are sent again over the die's other
ports (R336). -/
def State.respray (s : State) (l : Nat) : State :=
  let s := s.setLink l { s.link l with replay := [] }
  s.fabric.zipIdx.foldl (fun (s : State) e =>
    if e.1.over l then
      let (s, i, n) := s.transmit (linkDie l) (pkgOf e.1.loc) e.1.bytes
      { s with fabric := s.fabric.set e.2 { e.1 with link := some (i, n) } }
    else s) s

/-- The packet that a link direction sent under a counter fails its tag once more, and is replayed; the
fourth time in a row the direction is taken down (R345). -/
def State.failTag (s : State) (l n : Nat) : State :=
  let x := s.link l
  let down := (x.replay.find? fun e => e.counter == n).any fun e => decide (3 ≤ e.fails)
  let one (e : Sealed) : Sealed := if e.counter = n then { e with fails := e.fails + 1 } else e
  let s := (s.setLink l { x with replay := x.replay.map one, up := x.up && !down }).badFlits l
  if down then s.respray l else s

/-- Its tag fails so many times. -/
def State.failTags (s : State) (l n : Nat) : Nat → State
  | 0 => s
  | k + 1 => (s.failTag l n).failTags l n k

/-- A request or an answer crosses the fabric in one step, with the failures of its tag, up to the four that
take its link down and send it over another (DESIGN CHOICE, log 10). -/
def State.cross (s : State) (d pkg : Nat) (payload : List Byte) : State :=
  let (s, l, n) := s.transmit d pkg payload
  let k := Config.choice s.free 0x730 % 5
  let s := s.failTags l n k
  if k = 4 then (s.transmit d pkg payload).1 else s

/-- A request that its slot or engine waits for crosses the fabric and is answered (R336): one packet,
since it reaches one line. -/
def State.exchange (s : State) (d pa : Nat) (payload : List Byte) : State :=
  if s.remote pa && !s.reachAlias pa then s.cross d (pkgOf pa) payload else s

/-- A read of `n` lines of another package: one packet for each (R336). -/
def State.readLines (s : State) (d pa : Nat) : Nat → State
  | 0 => s
  | n + 1 => (s.exchange d pa []).readLines d (pa + 64) n

/-- A request to the package of an ORIGIN field, or an answer to it, leaves die `d`; to another pod it goes
over Ultra Ethernet (R336, R347). -/
def State.toOrigin (s : State) (d : Nat) (origin : BitVec 16) (payload : List Byte) : State :=
  if origin.extractLsb' 10 6 = s.image.pod then s.cross d (origin.extractLsb' 0 10).toNat payload else s

/-- The sender is in another package. -/
def State.elsewhere (s : State) (o : Sender) : Bool := o.otherPod || o.pkg != s.image.pkg

/-- An answer leaves a die for the package of a sender (R336); to another pod it takes no Goaskund link
(R347). -/
def State.answerTo (s : State) (d : Nat) (o : Sender) : State :=
  if s.elsewhere o && !o.otherPod then s.cross d o.pkg.toNat [] else s

/-- The key a packet on a link was sent under is live at the receiver (R345). -/
def State.keyLive (s : State) (k : Option (Nat × Nat)) : Bool :=
  match k with
  | none => true
  | some (l, n) =>
    match (s.link l).replay.find? fun e => e.counter == n with
    | some e => (vget (s.link l).keys none (if e.ki then 1 else 0)).isSome
    | none => true

end Sys2Proof.Machine
end

