-- ==== Sys2Proof/Machine/Homes.lean ====
section
/-! DEFINITION. Global memory between a slot and its homes: poison (R240), the cluster read cache and
write-through buffer (R236, R299), stores on their way (R243, R293, R337), and the performing of
loads (R286). An access of one slot keeps its place among the slot's accesses to the same bytes (R290);
every other order comes out of when each is performed, which is open (DESIGN CHOICE, log 1). -/

namespace Sys2Proof.Machine

/-! ## Poison (R240) -/

/-- The word with number `w` lies in the range. -/
def wordIn (pa n w : Nat) : Bool := decide (pa / 8 ≤ w) && decide (w ≤ (pa + n - 1) / 8)

/-- The range fills the whole word. -/
def wordFilled (pa n w : Nat) : Bool := decide (pa ≤ 8 * w) && decide (8 * w + 8 ≤ pa + n)

/-- Some 8-byte word of the range is poisoned, or holds an uncorrectable error. -/
def State.poisoned (s : State) (pa n : Nat) : Bool :=
  s.poison.any (wordIn pa n) || s.bad.any (wordIn pa n)

/-- Some such word is one that a store of the range would not fill. -/
def State.narrowPoison (s : State) (pa n : Nat) : Bool :=
  s.poison.any (fun w => wordIn pa n w && !wordFilled pa n w)
    || s.bad.any (fun w => wordIn pa n w && !wordFilled pa n w)

/-- A whole 8-byte word written clears its poison. -/
def State.unpoison (s : State) (pa n : Nat) : State :=
  { s with poison := s.poison.filter fun w => !wordFilled pa n w
           bad := s.bad.filter fun w => !wordFilled pa n w }

/-- An access meets the uncorrectable errors of its range: their words are poisoned (R240). -/
def State.meet (s : State) (pa n : Nat) : State :=
  (s.bad.filter (wordIn pa n)).foldl (fun (s : State) w => s.hbmError (8 * w)) s

/-! ## Pending errors (R240, R395) -/

/-- Record a fault of a relaxed access at issue position `pos`: the oldest in issue order is the one
reported, the others are counted. -/
def PendErr.record (e : PendErr) (c : Cause) (addr info : Word) (pos : Nat) : PendErr :=
  if e.valid then
    let e := { e with count := if e.count = BitVec.allOnes 16 then e.count else e.count + 1 }
    if pos < e.pos then { e with cause := c.code, addr := addr, info := info, pos := pos } else e
  else { e with valid := true, cause := c.code, addr := addr, info := info, pos := pos }

def State.recordErr (s : State) (c : Nat) (cause : Cause) (addr info : Word) (pos : Nat) : State :=
  s.modSlot c fun x => { x with err := x.err.record cause addr info pos }

/-! ## What a home answers -/

/-- What an access to another package meets there, which is open: nothing, no answer within FABLIMIT,
a refusal, or an uncorrectable error (R240, R339 to R341). -/
def State.remoteFault (s : State) (pa : Nat) : Option Cause :=
  if s.remote pa then
    match Config.choice s.free pa % 4 with
    | 1 => some .fabric
    | 2 => some .prot
    | 3 => some .memErr
    | _ => none
  else none

/-- FABLIMIT, times ten over Ultra Ethernet (R339, R347), in nanoseconds. -/
def State.fabLimit (s : State) (pa : Nat) : Nat :=
  if s.reachAlias pa then 10 * s.image.fabLimit else s.image.fabLimit

/-- The fault a home finds on a read of global memory. -/
def State.readFault (s : State) (pa n : Nat) : Option Cause :=
  match s.remoteFault pa with
  | some c => some c
  | none => if s.poisoned pa n then some .memErr else none

/-- The fault a home finds on a store: a narrow store to poison (R240), or what another package
answers. A DET page there may refuse it (R104). Whether a store that fills a word meets the error the word
has come to hold, is open (R316). -/
def State.writeFault (s : State) (pa n : Nat) : Option Cause :=
  if s.narrowPoison pa n || (s.bad.any (wordIn pa n) && Config.flag s.free (pa + 2 ^ 58)) then some .memErr
  else if s.remote pa && Config.flag s.free (pa + 2 ^ 57) then some .capability
  else s.remoteFault pa

/-- An access has met a fault at a home: where it is MEMERR, the error counts and the word stays
poisoned, in another package too (R240, R341). -/
def State.found (s : State) (c : Cause) (pa n : Nat) : State :=
  if c ≠ .memErr then s else if s.poisoned pa n then s.meet pa n else s.hbmError pa

/-- `n` bytes that no part of this package holds. -/
def State.openBytes (s : State) (site : Nat) : Nat → Nat
  | 0 => 0
  | n + 1 => (Config.word s.free site).toNat % 256 + 256 * s.openBytes (site + 1) n

/-- `n` bytes at a physical address, as its home holds them. What another package's management space holds
is open (R340). -/
def State.homeRead (s : State) (pa n : Nat) : Nat :=
  if localOf pa < 2 ^ 40 then s.mem.readLE pa n
  else if s.remote pa then s.openBytes pa n
  else s.mgmtRead (localOf pa) n

/-- Where the link windows of the management space begin; each is 64 bytes long, with the next key in its first
32 and the install command in the word after it (R412; DESIGN CHOICE, log 55). -/
def linkWindows : Nat := 2 ^ 40 + 0x20000
def windowCommand : Nat := 0x20

/-- A write over the install command of a link's window installs the key that stands there, unless a rotation is
under way (R344, R412). -/
def State.installWritten (s : State) (pa n : Nat) : State :=
  let o := localOf pa - linkWindows
  let l := o / 64
  if s.remote pa ∨ localOf pa < linkWindows ∨ linkCount ≤ l ∨ windowCommand + 8 ≤ o % 64 ∨ o % 64 + n ≤ windowCommand
      ∨ (s.link l).rotation ≠ .none then s
  else s.setLink l ((s.link l).install (BitVec.ofNat 256 (s.mem.readLE (s.physOf (linkWindows + 64 * l)) 32)))

/-- Write the low `n` bytes of `v` at a physical address, in memory itself. In the management space
only the windows of the link keys take writes (R344, R412). -/
def State.pokePhys (s : State) (pa n v : Nat) : State :=
  if localOf pa < 2 ^ 40 then { s with mem := s.mem.writeLE pa n v }
  else if linkWindows ≤ localOf pa then { s with mem := s.mem.writeLE pa n v }.installWritten pa n
  else s

/-- A write performed at its home. -/
def State.homeWrite (s : State) (pa n v : Nat) : State := (s.unpoison pa n).pokePhys pa n v

/-! ## Acknowledgement classes (R243) -/

/-- The acknowledgement class of a write by slot `c` (R243, R347). -/
def State.ackClass (s : State) (c : Nat) (pa : Nat) : AckClass :=
  if s.reachAlias pa then .ultra
  else if s.remote pa then .fabric
  else if homeDie pa = dieOf c then .die
  else .package

def Acks.get (a : Acks) : AckClass → BitVec 16
  | .die => a.die
  | .package => a.pkg
  | .fabric => a.fabric
  | .ultra => a.ue

def Acks.set (a : Acks) (k : AckClass) (v : BitVec 16) : Acks :=
  match k with
  | .die => { a with die := v }
  | .package => { a with pkg := v }
  | .fabric => { a with fabric := v }
  | .ultra => { a with ue := v }

/-- One acknowledgement less is outstanding. -/
def State.ackDown (s : State) (c : Nat) (k : AckClass) : State :=
  s.modSlot c fun x => { x with acks := x.acks.set k (x.acks.get k - 1) }

/-! ## The cluster read cache (R236, R299) -/

def lineOf (pa : Nat) : Nat := pa / 64

/-- Lines of a read cache: 64 KiB. -/
def cacheLines : Nat := 1024

/-- The store covers the byte. -/
def Packet.covers (p : Packet) (a : Nat) : Bool :=
  decide (p.loc ≤ a) && decide (a < p.loc + p.bytes.length)

/-- The store has entered the write-through buffer of the cluster and is not acknowledged. -/
def Packet.unacked (p : Packet) (cl : Nat) : Bool := p.buffered && clusterOf p.slot == cl

/-- A store of the cluster to the line is not acknowledged: the line is not evicted (R299). -/
def State.lineHeld (s : State) (cl line : Nat) : Bool :=
  s.fabric.any fun p => p.unacked cl && lineOf p.loc == line

/-- The byte is of a store of the cluster that its home has not performed: no discard takes it
(R299). DEDUCED, log 57. -/
def State.byteHeld (s : State) (cl a : Nat) : Bool :=
  s.fabric.any fun p => p.unacked cl && p.stage != .applied && p.covers a

/-- Keep of a cluster's valid bytes those that `keep` names. -/
def State.keepCache (s : State) (cl : Nat) (keep : Nat → Bool) : State :=
  s.modCluster cl fun k => { k with cache := k.cache.filter fun e => keep e.1 }

/-- An acquire at sector or wider discards every line (R236, R244). -/
def State.discard (s : State) (cl : Nat) : State := s.keepCache cl (s.byteHeld cl)

/-- A line leaves the cache, but for what is still on its way to the home. -/
def State.dropLine (s : State) (cl line : Nat) : State :=
  s.keepCache cl fun a => lineOf a != line || s.byteHeld cl a

/-- The lines of which a cluster holds valid bytes. -/
def Cluster.lineList (k : Cluster) : List Nat := (k.cache.map fun e => lineOf e.1).eraseDups

/-- Room for a line: in a full cache some line without unacknowledged stores is evicted; which, is
open. -/
def State.makeRoom (s : State) (cl line : Nat) : State :=
  let ls := (s.cluster cl).lineList
  if ls.contains line || decide (ls.length < cacheLines) then s
  else
    let free := ls.filter fun l => !s.lineHeld cl l
    match free[Config.choice s.free 0x3100 % free.length]? with
    | some l => s.dropLine cl l
    | none => s

/-- Write bytes into a cluster's cache. -/
def putBytes (m : AMap Byte) (a : Nat) : List Byte → AMap Byte
  | [] => m
  | b :: l => putBytes (m.set a b) (a + 1) l

/-- The bytes are all valid in the cluster's cache. -/
def State.valid (s : State) (cl pa n : Nat) : Bool :=
  (List.range n).all fun i => ((s.cluster cl).cache.find (pa + i)).isSome

/-- `n` valid bytes of a cache, as a little-endian number. -/
def cacheRead (m : AMap Byte) (a : Nat) : Nat → Nat
  | 0 => 0
  | n + 1 => (AMap.get m 0 a).toNat + 256 * cacheRead m (a + 1) n

/-- A line comes from its home and goes beneath the valid bytes (R236). Words that the home finds
poisoned stay invalid. -/
def State.fillLine (s : State) (cl line : Nat) : State :=
  let s := s.makeRoom cl line
  let put (m : AMap Byte) (i : Nat) : AMap Byte :=
    let a := 64 * line + i
    if (m.find a).isSome || s.poisoned a 1 then m else m.set a (s.mem.read a)
  s.modCluster cl fun k => { k with cache := (List.range 64).foldl put k.cache }

/-! ## Stores on their way (R236, R243, R337) -/

/-- The stores of a slot that have not been performed at the cluster yet. -/
def State.setStores (s : State) (c : Nat) (l : List Packet) : State :=
  s.modSlot c fun x => { x with stores := l }

/-- A store is performed at the cluster: its bytes enter the read cache and the store the
write-through buffer; one of a page that lets no line enter leaves for its home (R236, R293). -/
def State.enter (s : State) (p : Packet) : State :=
  let cl := clusterOf p.slot
  let s := if p.buffered then
      (s.makeRoom cl (lineOf p.loc)).modCluster cl fun k =>
        { k with cache := putBytes k.cache p.loc p.bytes }
    else s
  { s with fabric := s.fabric ++ [p] }

/-- The stores of slot `c` that `hit` names are performed at the cluster, in issue order. -/
def State.enterStores (s : State) (c : Nat) (hit : Packet → Bool) : State :=
  let l := (s.slot c).stores
  (l.filter hit).foldl State.enter (s.setStores c (l.filter fun p => !hit p))

/-- The stores of two packets lie in one line and come from one die: their order at the home is the
order in which they left (R334, R337). -/
def Packet.sameLine (p q : Packet) : Bool :=
  dieOf p.slot == dieOf q.slot && lineOf p.loc == lineOf q.loc

/-- A store to another package is handed to the gateway: it is numbered, and leaves by a port (R336,
R337); over Ultra Ethernet it takes none (R347). -/
def State.sendPacket (s : State) (p : Packet) : State × Packet :=
  let p := { p with stage := .sent, sent := s.sidereal }
  if s.reachAlias p.loc then (s, p)
  else
    let d := dieOf p.slot
    let (f, n, prev) := (s.flow d (pkgOf p.loc)).number (lineOf p.loc)
    let (s, l, k) := (s.setFlow d (pkgOf p.loc) f).transmit d (pkgOf p.loc) p.bytes
    (s, { p with seq := n, prev := prev, link := some (l, k) })

/-- A scope covers an acknowledgement class (R243): scope codes 3 and 4 cover die, 5 die and
package, 6 and 7 add fabric, 8 and 9 Ultra Ethernet, the others none. -/
def scopeCovers (scope : BitVec 4) (k : AckClass) : Bool :=
  let n := scope.toNat
  match k with
  | .die => decide (3 ≤ n ∧ n ≤ 9)
  | .package => decide (5 ≤ n ∧ n ≤ 9)
  | .fabric => decide (6 ≤ n ∧ n ≤ 9)
  | .ultra => decide (8 ≤ n ∧ n ≤ 9)

/-- The scope is sector or wider, and not home (R236, R244, R283). -/
def scopeWide (scope : BitVec 4) : Bool := decide (3 ≤ scope.toNat ∧ scope.toNat ≤ 9)

/-- The STATUS bits of a join cell (R59). -/
def bitMem : BitVec 16 := 0x01
def bitProt : BitVec 16 := 0x02
def bitFabric : BitVec 16 := 0x04
def bitName : BitVec 16 := 0x08
def bitStray : BitVec 16 := 0x10
def bitAge : BitVec 16 := 0x20
def bitDet : BitVec 16 := 0x40

/-- The bit a fault at a home sets (R258, R297). -/
def Cause.bit : Cause → BitVec 16
  | .fabric => bitFabric
  | .prot => bitProt
  | .capability => bitDet
  | _ => bitMem

/-- SCOPE and REL of a command (R254). -/
def Cmd.scope (c : Cmd) : BitVec 4 := (vget c.words 0 0).extractLsb' 52 4
def Cmd.isRel (c : Cmd) : Bool := (vget c.words 0 0).getLsbD 50
def Cmd.isAcq (c : Cmd) : Bool := (vget c.words 0 0).getLsbD 51

/-- The slot issued the store before the command's ENG word. -/
def Cmd.after (c : Cmd) (p : Packet) : Bool :=
  p.slot == c.slot && p.orphan == c.orphan && decide (p.pos < c.pos)

/-- A fault at the home of a store is one of the release of every REL command that covers the store
(R297). -/
def State.markRel (s : State) (p : Packet) (c : Cause) : State :=
  let hit (x : Cmd) : Bool := x.isRel && x.after p
    && (scopeCovers x.scope (s.ackClass p.slot p.loc) || (scopeWide x.scope && p.buffered))
  s.modCore (coreOf p.slot) fun k =>
    { k with queue := k.queue.map fun x => if hit x then { x with rel := x.rel ||| c.bit } else x }

/-- The home performs a store, or finds a fault, writes nothing, and the fault becomes pending in the
slot that stored, if its activation is still there (R240, R297, R340). -/
def State.perform (s : State) (p : Packet) (fault : Option Cause) : State :=
  match fault with
  | none => s.homeWrite p.loc p.bytes.length (ofBytesLE p.bytes)
  | some c =>
    let s := (s.found c p.loc p.bytes.length).markRel p c
    if p.orphan then s else s.recordErr p.slot c p.va 0 p.pos

/-- A store is acknowledged by its target: its slot counts one less. -/
def State.ackPacket (s : State) (p : Packet) : State :=
  if p.orphan then s else s.ackDown p.slot (s.ackClass p.slot p.loc)

/-- A store is performed at its home now, and sent before where it has to be: again, where the key it went
under is live no more (R345). -/
def State.finishStore (s : State) (p : Packet) : State × Packet :=
  if p.stage = .applied then (s, p)
  else
    let (s, p) := if p.stage = .entered ∧ s.remote p.loc then s.sendPacket p
      else if s.keyLive p.link then (s, p)
      else
        let (s, l, n) := s.transmit (dieOf p.slot) (pkgOf p.loc) p.bytes
        (s, { p with link := some (l, n) })
    (s.perform p (s.writeFault p.loc p.bytes.length), { p with stage := .applied })

/-- The line has left the flow's table, or the packets go over Ultra Ethernet: what is written to it next is
sent only when the earlier writes to it have been acknowledged (R337, R347). -/
def State.lineLeft (s : State) (d pa : Nat) : Bool :=
  s.reachAlias pa || !(s.flow d (pkgOf pa)).lines.any fun e => e.1 == lineOf pa

/-- Of the stores of a list, those that `hit` names are performed at their homes, and before each the earlier
ones from the same die to its line. `done` are the stores before the list. -/
def State.finishFrom (s : State) (hit : Packet → Bool) (done : List Packet) :
    List Packet → State × List Packet
  | [] => (s, done)
  | p :: ps =>
    if hit p || ps.any (fun q => hit q && q.sameLine p) then
      let wait := p.stage == .entered && s.remote p.loc && s.lineLeft (dieOf p.slot) p.loc
      let gone (q : Packet) : Bool := wait && q.sameLine p && q.stage == .applied
      let (t, q) := ((done.filter gone).foldl State.ackPacket s).finishStore p
      t.finishFrom hit (done.filter (!gone ·) ++ [q]) ps
    else s.finishFrom hit (done ++ [p]) ps

/-- The stores on their way that `hit` names are performed at their homes. -/
def State.finishStores (s : State) (hit : Packet → Bool) : State :=
  let (t, l) := s.finishFrom hit [] s.fabric
  { t with fabric := l }

/-- The performed stores that `hit` names are acknowledged. -/
def State.ackStores (s : State) (hit : Packet → Bool) : State :=
  let go (p : Packet) : Bool := hit p && p.stage == .applied
  (s.fabric.filter go).foldl State.ackPacket { s with fabric := s.fabric.filter fun p => !go p }

/-- Every store of the slot that `hit` names, and every earlier one to its line, is performed and the
slot's are acknowledged. -/
def State.settleStores (s : State) (c : Nat) (hit : Packet → Bool) : State :=
  let mine (p : Packet) : Bool := p.slot == c && !p.orphan && hit p
  ((s.enterStores c hit).finishStores mine).ackStores mine

/-- The slot's stores to the line, and those in its cluster's write-through buffer, are performed at their
home, as a strong access of the slot or a load that goes there finds them (R236, R293, R337). -/
def State.flushLine (s : State) (c pa : Nat) : State :=
  let line := lineOf pa
  (s.enterStores c fun p => lineOf p.loc == line).finishStores fun p =>
    clusterOf p.slot == clusterOf c && (p.buffered || p.slot == c) && lineOf p.loc == line

/-- What die `d` has handed to the gateway for a line is performed: what it sends to the line now comes
after (R338). -/
def State.lineSent (s : State) (d pa : Nat) : State :=
  s.finishStores fun p => p.stage == .sent && dieOf p.slot == d && lineOf p.loc == lineOf pa

/-- A write to a line of another package that its slot or engine waits for: it is numbered in its flow, and
crosses the fabric after the die's earlier ones (R336 to R338). -/
def State.exchangeWrite (s : State) (d pa : Nat) (bytes : List Byte) : State :=
  if s.remote pa then
    let s := s.lineSent d pa
    let s := if s.lineLeft d pa then s.ackStores fun p => dieOf p.slot == d && lineOf p.loc == lineOf pa
      else s
    if s.reachAlias pa then s
    else (s.setFlow d (pkgOf pa) ((s.flow d (pkgOf pa)).number (lineOf pa)).1).cross d (pkgOf pa) bytes
  else s

/-- A write of whole lines: one packet for each (R336). -/
def State.writeLines (s : State) (d pa : Nat) (bytes : List Byte) : Nat → State
  | 0 => s
  | n + 1 => (s.exchangeWrite d pa (bytes.take 64)).writeLines d (pa + 64) (bytes.drop 64) n

/-! ## Performing loads (R236, R286) -/

/-- A read of global memory by slot `c`, performed now: served by the cluster read cache, or by the
home. A line may have been evicted before, whether it has is open; else the fetched bytes go beneath those
that are still valid. -/
def State.readGlobal (s : State) (c pa : Nat) (cached : Bool) (n : Nat) :
    State × Except Cause Nat :=
  let cl := clusterOf c
  let line := lineOf pa
  let s := s.enterStores c fun p => lineOf p.loc == line
  let s := if s.fabric.any fun p => p.slot == c && !p.buffered && lineOf p.loc == line
    then s.flushLine c pa else s
  if !cached || decide (2 ^ 40 ≤ localOf pa) then
    let s := (s.flushLine c pa).exchange (dieOf c) pa []
    match s.readFault pa n with
    | some e => (s.found e pa n, .error e)
    | none => (s.dropLine cl line, .ok (s.homeRead pa n))
  else if s.valid cl pa n && (s.lineHeld cl line || Config.flag s.free (pa + 2 ^ 56)) then
    (s, .ok (cacheRead (s.cluster cl).cache pa n))
  else
    let s := if s.lineHeld cl line || Config.flag s.free (pa + 2 ^ 55) then s else s.dropLine cl line
    let s := s.exchange (dieOf c) pa []
    match s.readFault pa n with
    | some e => (s.found e pa n, .error e)
    | none =>
      let s := s.fillLine cl line
      (s, .ok (cacheRead (s.cluster cl).cache pa n))

/-- The register value of loaded bytes. -/
def Fit.value (f : Fit) (v : Nat) : RV :=
  match f with
  | .zext => ⟨BitVec.ofNat 128 (v % 2 ^ 64), .i64⟩
  | .sext n => ⟨((BitVec.ofNat (8 * n) v).signExtend 64).setWidth 128, .i64⟩
  | .quad t => ⟨BitVec.ofNat 128 v, t⟩

/-- A loaded value reaches the register it is bound for and, where the word's result enters l0, the
value that waits for l0. -/
def Slot.landLoad (x : Slot) (i : Nat) (v : RV) : Slot :=
  match x.outs[i]? with
  | none => x
  | some o =>
    { x with
      file := match o.dst with
        | some d => vset x.file d v
        | none => x.file
      outs := x.outs.set i { o with load := none, l0 := o.l0.map fun _ => v } }

/-- The load with index `i` among the slot's outstanding results is performed: a fault found at the
home delivers zero, RAW, and becomes pending (R240). -/
def State.performLoad (s : State) (c i : Nat) : State :=
  match ((s.slot c).outs[i]?).bind fun o => o.load.map fun q => (o, q) with
  | none => s
  | some (o, q) =>
    match s.readGlobal c q.pa q.cached q.n with
    | (s, .ok v) => (s.modSlot c (·.landLoad i (q.fit.value v))).bump
    | (s, .error e) =>
      ((s.recordErr c e q.va 0 o.issued).modSlot c (·.landLoad i .zero)).bump

/-- The loads of the slot at these indices that `hit` names are performed, one after another. -/
def State.performLoads (s : State) (c : Nat) (hit : Load → Bool) (idx : List Nat) : State :=
  idx.foldl (fun (s : State) i =>
    if (((s.slot c).outs[i]?).bind (·.load)).any hit then s.performLoad c i else s) s

/-- The indices of a slot's outstanding results from `i` on, the oldest result first. -/
def State.outIdx (s : State) (c i : Nat) : List Nat :=
  (List.range' i ((s.slot c).outs.length - i)).reverse

/-- The unit is LOADING for slot `c` (R203). -/
def MUnit.loads (u : MUnit) (c : Nat) : Bool := u.state == .loading && u.owner == BitVec.ofNat 2 c

/-- Piece `k` of a unit of slot `c` is performed: a fault found at the home marks the unit, and is
reported as for a relaxed load (R206). -/
def State.readPiece (s : State) (c u k : Nat) : State :=
  let core := coreOf c
  let x := vget (s.core core).units .reset u
  match x.load.bind fun l => (l.pieces[k]?).map fun p => (l, p) with
  | none => s
  | some (l, p) =>
    let put (s : State) (v : Nat) (e : Option Cause) : State :=
      s.modCore core fun y => { y with units := vset y.units u { x with
        load := some { l with pieces := l.pieces.set k { p with got := some v } }
        poison := match x.poison with
          | some q => some q
          | none => e.map (·.code) } }
    if p.got.isSome then s
    else
      match p.core with
      | some j => put s ((s.core j).scratch.readLE p.pa p.n) none
      | none =>
        match s.readGlobal c p.pa p.cached p.n with
        | (s, .ok v) => (put s v none).bump
        | (s, .error e) => (put (s.recordErr c e p.va 0 l.pos) 0 (some e)).bump

/-- The pieces of one unit of the slot that `hit` names, by number, are performed. -/
def State.readUnit (s : State) (c u : Nat) (hit : Nat → UnitPiece → Bool) : State :=
  let x := vget (s.core (coreOf c)).units .reset u
  match x.load with
  | some l =>
    if x.loads c then
      l.pieces.zipIdx.foldl (fun (s : State) e => if hit e.2 e.1 then s.readPiece c u e.2 else s) s
    else s
  | none => s

/-- The pieces of the slot's unit loads that `hit` names are performed. -/
def State.readPieces (s : State) (c : Nat) (hit : UnitPiece → Bool) : State :=
  (List.range 8).foldl (fun (s : State) u => s.readUnit c u fun _ => hit) s

/-- Every load of the slot is performed. -/
def State.allLoads (s : State) (c : Nat) : State :=
  (s.performLoads c (fun _ => true) (s.outIdx c 0)).readPieces c fun _ => true

/-- The load reads a byte of the range. -/
def Load.meets (q : Load) (pa n : Nat) : Bool := decide (q.pa < pa + n) && decide (pa < q.pa + q.n)

/-- The slot's loads of bytes of the range are performed: an access to them that the slot makes now
comes after (R290). -/
def State.earlierLoads (s : State) (c pa n : Nat) : State :=
  (s.performLoads c (·.meets pa n) (s.outIdx c 0)).readPieces c fun p =>
    p.core.isNone && decide (p.pa < pa + n) && decide (pa < p.pa + p.n)

/-- The load with index `i`, and the older ones of its bytes before it, are performed (R290). -/
def State.loadNow (s : State) (c i : Nat) : State :=
  match ((s.slot c).outs[i]?).bind (·.load) with
  | none => s
  | some q => s.performLoads c (·.meets q.pa q.n) (s.outIdx c i)

/-- The range as a strong access of the slot finds it at its home: the slot's earlier loads of it and
the cluster's stores to its line have been performed. -/
def State.atHome (s : State) (c pa n : Nat) : State := (s.earlierLoads c pa n).flushLine c pa

/-! ## Releases, acquires and waits (R243, R244) -/

/-- Wait until the classes that `cover` names are zero: every write of the slot in them has been
performed and acknowledged (R243, R339). -/
def State.waitAcks (s : State) (c : Nat) (cover : AckClass → Bool) : State :=
  (s.settleStores c fun p => cover (s.ackClass c p.loc)).modSlot c fun x =>
    { x with acks := {
        die := if cover .die then 0 else x.acks.die
        pkg := if cover .package then 0 else x.acks.pkg
        fabric := if cover .fabric then 0 else x.acks.fabric
        ue := if cover .ultra then 0 else x.acks.ue } }

/-- The write-through buffer of a cluster is drained: every store in it has been acknowledged by its
home, whichever core issued it (R236, R294). -/
def State.drainBuffer (s : State) (cl : Nat) : State :=
  (s.finishStores (·.unacked cl)).ackStores (·.unacked cl)

/-- A release by slot `c` at a scope, but for the errors it looks for before and after (R244, R297):
its loads have returned, and what it covers is performed: its buffered stores (R292, R293), from sector up
all that the cluster's buffer holds, and the classes of its scope. -/
def State.releaseBy (s : State) (c : Nat) (scope : BitVec 4) : State :=
  let s := s.allLoads c
  let n := scope.toNat
  let s := if 1 ≤ n ∧ n ≤ 9 then s.enterStores c (·.buffered) else s
  let s := if n = 1 ∨ n = 2 then s.finishStores fun p => p.slot == c && !p.orphan && p.buffered else s
  let s := if scopeWide scope then s.drainBuffer (clusterOf c) else s
  s.waitAcks c (scopeCovers scope)

/-- The acquire part of a scope: from sector up the cluster's read cache is discarded (R244). -/
def State.acquireBy (s : State) (c : Nat) (scope : BitVec 4) : State :=
  if scopeWide scope then s.discard (clusterOf c) else s

/-- Every earlier memory operation of the slot has been answered by its home (R252). -/
def State.answered (s : State) (c : Nat) : State := (s.allLoads c).waitAcks c fun _ => true

/-- The stores of a slot whose activation is gone go on to their homes; nobody waits for them
(R368). Nor has the slot's engine a slot to report to. -/
def State.orphanStores (s : State) (c : Nat) : State :=
  let s := (s.enterStores c fun _ => true).modCore (coreOf c) fun k =>
    { k with queue := k.queue.map fun x => if x.slot = c then { x with orphan := true } else x }
  { s with fabric := s.fabric.map fun p => if p.slot == c then { p with orphan := true } else p }

end Sys2Proof.Machine
end

