-- ==== Sys2Proof/Machine/Units.lean ====
section
/-! DEFINITION. Lanes (R33), the patterns of SLC8 (R154 to R156), and the completion of what a unit of the
matrix unit waits for (R203 to R206, R210, R212). -/

namespace Sys2Proof.Machine

/-! ## Lanes (R33) -/

/-- The width of a lane in bits; RAW counts as bytes where lanes of it are counted (R183, R191). -/
def Tag.width : Tag → Nat
  | .raw | .i8x16 | .b8x16 | .e4m3x16 | .e5m2x16 | .e8m0x16 => 8
  | .i64 | .f64x2 => 64
  | .i32x4 | .f32x4 => 32
  | .i16x8 | .f16x8 | .bf16x8 | .slc8 => 16
  | .e2m1x32 => 4
  | .name => 128

/-- `n` lanes of width `w`, lane 0 in the low bits. -/
def lanesOf (w n v : Nat) : List Nat := (List.range n).map fun i => v / 2 ^ (w * i) % 2 ^ w

/-- Lanes of width `w` as one number. -/
def packLanes (w : Nat) : List Nat → Nat
  | [] => 0
  | x :: l => x % 2 ^ w + 2 ^ w * packLanes w l

/-- The lanes at even places, and at odd places. -/
def evens : List Nat → List Nat
  | a :: _ :: l => a :: evens l
  | l => l
def odds : List Nat → List Nat
  | _ :: b :: l => b :: odds l
  | _ => []

/-! ## SLC8 (R154 to R156) -/

/-- What a code adds to the squared norm, halved (R156). -/
def slcCost : Nat → Nat
  | 0 => 0
  | 1 => 1
  | 2 => 3
  | _ => 6

/-- The patterns of `k` codes whose costs add up to `c`, in ascending value. -/
def patternsOf : Nat → Nat → List Nat
  | 0, c => if c = 0 then [0] else []
  | k + 1, c =>
    (List.range 4).flatMap fun d =>
      if slcCost d ≤ c then (patternsOf k (c - slcCost d)).map (d * 4 ^ k + ·) else []

/-- The default pattern table (R156): by norm, then by value, the first 256. -/
def defaultPatterns : List Nat := ((List.range 6).flatMap (patternsOf 8)).take 256

/-- An entry of a pattern table (R154). -/
def patternAt (t : Option (Vector Byte 512)) (p : Nat) : Nat :=
  match t with
  | some v => (vget v 0 (2 * p)).toNat + 256 * (vget v 0 (2 * p + 1)).toNat
  | none => defaultPatterns.getD p 0

/-- Magnitudes as E4M3 codes (R155). -/
def slcMag : Nat → Nat
  | 0 => 0x30
  | 1 => 0x3C
  | 2 => 0x42
  | _ => 0x46

/-- The eight E4M3 elements of an index (R154, R155). -/
def decodeIndex (t : Option (Vector Byte 512)) (x : Nat) : List Nat :=
  let e := patternAt t (x / 256 % 256)
  (List.range 8).map fun w => slcMag (e / 4 ^ w % 4) + 128 * (x / 2 ^ w % 2)

/-! ## Loads into operand slots (R203, R206, R210, R212) -/

/-- The numbers read by consecutive pieces, the first in the low bytes. -/
def piecesValue : List UnitPiece → Nat
  | [] => 0
  | p :: l => p.got.getD 0 + 2 ^ (8 * p.n) * piecesValue l

/-- The value of row `r` of a load. -/
def UnitLoad.row (l : UnitLoad) (r : Nat) : Nat := piecesValue ((l.pieces.drop (l.per * r)).take l.per)

/-- Rows from a function. -/
def rowsOf (f : Nat → Nat) : Vector (BitVec 2048) 16 := Vector.ofFn fun i => BitVec.ofNat 2048 (f i.val)

/-- A load's rows and scales reach the unit (R210, R212). -/
def MUnit.fill (x : MUnit) (l : UnitLoad) : MUnit :=
  match l.kind with
  | .rows => { x with rows := rowsOf l.row }
  | .columns =>
    let w := x.tag.width
    let vs := (List.range (l.pieces.length / l.per)).map l.row
    { x with rows := rowsOf fun r => packLanes w (vs.map fun v => v / 2 ^ (w * r)) }
  | .indices t scales =>
    let scale (r : Nat) : Nat := l.row 16 / 256 ^ r % 256 * 0x0101010101010101
    { x with rows := rowsOf fun r => packLanes 8 ((lanesOf 16 32 (l.row r)).flatMap (decodeIndex t))
             scales := if scales then Vector.ofFn fun i => BitVec.ofNat 64 (scale i.val) else x.scales }

/-- A LOADING unit becomes READY (R203). -/
def MUnit.complete (x : MUnit) : MUnit :=
  { (match x.load with
    | some l => x.fill l
    | none => x) with state := .ready, load := none, pend := [] }

end Sys2Proof.Machine
end

