-- ==== Sys2Proof/Machine/Pool.lean ====
section
/-! DEFINITION. Records (R51), the queues of a cluster and their pool: accepting and refilling (R95,
R97 to R99), and the service error queue (R368, R419). -/

namespace Sys2Proof.Machine

/-! ## Records (R51) -/

def recEntry (r : BitVec 256) : Word := (r.extractLsb' 0 54).setWidth 64
def recFrame (r : BitVec 256) : Word := r.extractLsb' 64 64
def recArg (r : BitVec 256) : Word := r.extractLsb' 128 64
def recMeta (r : BitVec 256) : Word := r.extractLsb' 192 64
def recPri (r : BitVec 256) : Nat := (r.extractLsb' 62 2).toNat
def recSeq (r : BitVec 256) : BitVec 32 := r.extractLsb' 208 32

/-- The record with another STATUS or SEQ (R51). -/
def recWithStatus (r : BitVec 256) (v : BitVec 16) : BitVec 256 :=
  r.extractLsb' 208 48 ++ v ++ r.extractLsb' 0 192
def recWithSeq (r : BitVec 256) (v : BitVec 32) : BitVec 256 :=
  r.extractLsb' 240 16 ++ v ++ r.extractLsb' 0 208

/-! ## Pool entries (R95, R97) -/

/-- The queue at an index of a cluster (R93, R97). -/
def Cluster.queue (k : Cluster) (q : Nat) : Queue := k.queues.get .none q
def Cluster.setQueue (k : Cluster) (q : Nat) (x : Queue) : Cluster :=
  { k with queues := k.queues.set q x }

/-- Entries of a cluster's pool. -/
def poolSize : Nat := 2048

/-- The pool entries a record takes: an error record takes two (R368). -/
def QRec.width (r : QRec) : Nat :=
  match r.err with
  | some (.slot _) => 2
  | _ => 1

/-- Pool entries held by a queue, and free in the cluster (R97). -/
def Queue.use (q : Queue) : Nat := (q.pool.map QRec.width).sum
def Cluster.freeEntries (k : Cluster) : Nat := poolSize - (k.queues.map fun e => e.2.use).sum

/-- `n` free entries of the pool; which are taken is open. -/
def Cluster.takeEntries (k : Cluster) (n pick : Nat) : List Nat :=
  let taken := k.queues.flatMap fun e => e.2.pool.flatMap (·.entries)
  (((List.range poolSize).map fun i => (i + pick) % poolSize).filter fun i =>
    !taken.contains i).take n

/-! ## Accepting and refilling (R97 to R99) -/

/-- MIN and CAP of a queue as they govern in die cycle `now` (R136). -/
def Queue.limits (x : Queue) (now : Word) : Nat × Nat :=
  let g := governs x.was now (x.min, x.cap)
  (g.1.toNat, g.2.toNat)

/-- What the other queues are still owed (R98). -/
def Cluster.reserve (k : Cluster) (now : Word) (q : Nat) : Nat :=
  (k.queues.map fun e => if e.1 = q then 0 else (e.2.limits now).1 - e.2.use).sum

/-- The queue may take `n` more pool entries in die cycle `now` (R98). -/
def Cluster.poolRoom (k : Cluster) (now : Word) (q n : Nat) : Bool :=
  let x := k.queue q
  (decide (x.use + n ≤ (x.limits now).1) && decide (n ≤ k.freeEntries))
    || (decide (x.use + n ≤ (x.limits now).2) && decide (k.reserve now q + n ≤ k.freeEntries))

/-- A stage queue's window refuses the record (R63, R102). -/
def Queue.windowRefuses (x : Queue) (r : BitVec 256) : Bool :=
  x.kind == .stage && (decide (x.win.toNat ≤ (recSeq r - x.nextRel).toNat)
    || (x.pool ++ x.ext).any fun e => recSeq e.body == recSeq r)

/-- The record at place `i` of an extension, from its oldest on, stands here (R95). -/
def Queue.extAt (x : Queue) (i : Nat) : Nat :=
  x.extBase.toNat + 32 * ((x.extHead + i) % max 1 x.extCap.toNat)

/-- The accept of R98: the cluster with the record in it and, where the extension takes it, the
address at which it stands; or the status of the refusal (R63). -/
def Cluster.accept (k : Cluster) (now : Word) (q : Nat) (r : QRec) (pick : Nat) :
    Except Nat (Cluster × Option Nat) :=
  let x := k.queue q
  if !x.attached then .error 2
  else if x.windowRefuses r.body then .error 1
  else if x.sealed_ then .error 3
  else if x.ext.isEmpty && k.poolRoom now q r.width then
    let r := { r with entries := k.takeEntries r.width pick }
    .ok (k.setQueue q { x with pool := x.pool ++ [r] }, none)
  else if x.ext.length < x.extCap.toNat then
    .ok (k.setQueue q { x with ext := x.ext ++ [r] }, some (x.extAt x.ext.length))
  else .error 1

/-- The queue, in rotation, whose extension's oldest record takes a freed pool entry (R99). -/
def Cluster.refillQueue (k : Cluster) (now : Word) : Option Nat :=
  ((List.range 256).map fun i => (k.frot + i) % 256).find? fun q =>
    match (k.queue q).ext with
    | [] => false
    | r :: _ => k.poolRoom now q r.width

/-- A freed pool entry takes the oldest extension record of a queue in rotation (R99), as it stands
in memory. -/
def State.refill (s : State) (cl : Nat) : State :=
  let k := s.cluster cl
  match k.refillQueue (s.die (cl / 512)).dcyc with
  | none => s
  | some q =>
    let x := k.queue q
    match x.ext with
    | [] => s
    | r :: rs =>
      let r := { r with
        body := BitVec.ofNat 256 (s.homeRead (x.extAt 0) 32)
        entries := k.takeEntries r.width (Config.choice s.free 0x3200) }
      s.setCluster cl { k.setQueue q { x with
        pool := x.pool ++ [r], ext := rs, extHead := (x.extHead + 1) % max 1 x.extCap.toNat }
        with frot := (q + 1) % 256 }

/-- One refill for each of `n` freed entries. -/
def State.refills (s : State) (cl : Nat) : Nat → State
  | 0 => s
  | n + 1 => (s.refill cl).refills cl n

/-- A record comes to a queue of this package (R98). -/
def State.pushRec (s : State) (cl q : Nat) (r : QRec) : Except Nat State :=
  match (s.cluster cl).accept (s.die (cl / 512)).dcyc q r (Config.choice s.free 0x3201) with
  | .ok (k, none) => .ok (s.setCluster cl k)
  | .ok (k, some a) => .ok ((s.setCluster cl k).homeWrite a 32 r.body.toNat)
  | .error n => .error n

/-- Push a record onto a queue of this package (R98). -/
def State.push (s : State) (cl q : Nat) (r : BitVec 256) (env : Envelope) : Except Nat State :=
  s.pushRec cl q ⟨r, env, (s.die (cl / 512)).dcyc.toNat, s.sidereal, [], none⟩

/-! ## The service error queue (R368, R419) -/

/-- The record under which an item stands in the error queue: its low 256 bits where it holds a
record. -/
def ErrItem.body (e : ErrItem) : BitVec 256 :=
  match e with
  | .slot r => r.setWidth 256
  | .release r _ _ | .mailbox r _ _ => r
  | .decrement cell amount coord => 0#110 ++ coord ++ amount ++ cell

def ErrItem.env (e : ErrItem) : Envelope :=
  match e with
  | .release _ _ x | .mailbox _ _ x => x
  | _ => .zero

/-- The service cluster of a die (R15). -/
def serviceCluster (d : Nat) : Nat := 512 * d + 452

/-- Send an item to the service error queue of die `d`, which accepts it by R98 or refuses it and
counts the refusal (R419). The answer says whether it was accepted. -/
def State.sendErr (s : State) (d : Nat) (e : ErrItem) : State × Bool :=
  match s.pushRec (serviceCluster d) errIndex
      ⟨e.body, e.env, (s.die d).dcyc.toNat, s.sidereal, [], some e⟩ with
  | .ok s => (s, true)
  | .error _ => (s.modDie d fun x => { x with errqRefused := x.errqRefused + 1 }, false)

/-- Send an item that its sender keeps, when it is refused, behind what it keeps already (R419). -/
def State.sendKept (s : State) (d : Nat) (e : ErrItem) : State :=
  if (s.die d).errHold.isEmpty then
    match s.sendErr d e with
    | (s, true) => s
    | (s, false) => s.modDie d fun x => { x with errHold := [e] }
  else s.modDie d fun x => { x with errHold := x.errHold ++ [e] }

end Sys2Proof.Machine
end

