-- ==== Sys2Proof/Machine/Ops.lean ====
section
/-! DEFINITION. The completion of results (R24 to R30), taking a trap (R367), parking on a PAGE
(R371), aborting an activation (R368), the returns from a trap (R143, R378), and the frame in which
every word issues (R47). -/

namespace Sys2Proof.Machine

/-! ## Results -/

/-- The later of two last-result candidates: the later completion, and of two at one position
the later instruction's (R30). -/
def Last.later (a b : Last) : Last :=
  if a.done < b.done ∨ (a.done = b.done ∧ a.issued ≤ b.issued) then b else a

/-- The pending bit an outstanding result keeps set at issue position `p` (R24). -/
def Out.pending (o : Out) (p : Nat) : Bool :=
  match o.ready with
  | some q => p < q
  | none => true

/-- A variable result is written: its last-result values complete at the position of the next
word the slot issues (R30). -/
def Slot.arrive (x : Slot) (o : Out) : Slot :=
  { x with
    l0 := match o.l0 with
      | some v => x.l0.later ⟨v, x.pos, o.issued⟩
      | none => x.l0
    l1 := match o.l1 with
      | some v => x.l1.later ⟨v, x.pos, o.issued⟩
      | none => x.l1 }

/-- The results of a list that are still variable, each written. -/
def Slot.arriveAll (x : Slot) : List Out → Slot
  | [] => x
  | o :: os => (if o.ready.isNone then x.arrive o else x).arriveAll os

/-- The results that a wait has had written before their completion positions (R26, R30). -/
def Slot.early (x : Slot) (f : Out → Option RV) : List Last :=
  x.outs.filterMap fun o =>
    match o.ready, f o with
    | some q, some v => if x.pos < q then some ⟨v, q, o.issued⟩ else none
    | _, _ => none

/-- The result that a last-result register holds has been written by issue position `p`. -/
def Last.writtenBy (l : Last) (p : Nat) : Last := { l with done := min l.done p }

/-- Every outstanding result has been written (R26, R27). A fixed one stands in its last-result register from
now on, and takes it again at its completion position (R30; DEDUCED, log 70). -/
def Slot.drain (x : Slot) : Slot :=
  { Slot.arriveAll { x with l0 := x.l0.writtenBy x.pos, l1 := x.l1.writtenBy x.pos } x.outs with
    due0 := x.due0 ++ x.early (·.l0), due1 := x.due1 ++ x.early (·.l1), outs := [] }

/-- The slot comes to issue position `p`: results that complete there are held (R30), and the pending bits of
those that clear there are gone (R24). -/
def Slot.reach (x : Slot) (p : Nat) : Slot :=
  let now (l : List Last) : List Last := l.filter fun r => decide (r.done ≤ p)
  let later (l : List Last) : List Last := l.filter fun r => decide (p < r.done)
  { x with
    pos := p, outs := x.outs.filter (·.pending p)
    l0 := (now x.due0).foldl Last.later x.l0, due0 := later x.due0
    l1 := (now x.due1).foldl Last.later x.l1, due1 := later x.due1 }

/-- The slot waits for a result that a SPAWNQ still has to bring, and issues nothing (R26, R64). -/
def Slot.owes (x : Slot) : Bool := x.sending.any fun e => !x.outs.any fun o => o.issued == e.pos

/-- The results of words that can accrue a flag are written (R136): the variable ones arrive, and
none has a flag left to bring. -/
def Slot.drainFlags (x : Slot) : Slot :=
  { Slot.arriveAll x (x.outs.filter (·.flags.isSome)) with
    outs := (x.outs.filter fun o => !(o.flags.isSome && o.ready.isNone)).map
      fun o => { o with flags := none } }

/-- The flags that a list of results brings when it is written (R138). -/
def dueFlags (l : List Out) : BitVec 5 := l.foldl (fun f o => f ||| o.flags.getD 0) 0

/-- Flags accrue to a cluster in die cycle `now` (R139). -/
def Cluster.accrue (k : Cluster) (now : Word) (f : BitVec 5) : Cluster :=
  { k with flagsUnion := k.flagsUnion ||| f
           flagsNow := (if k.flagsAt = now then k.flagsNow else 0) ||| f
           flagsAt := now }

/-- FLAGSUNION is written: what accrues in the same die cycle stays set (R139). -/
def Cluster.writeUnion (k : Cluster) (now : Word) (f : BitVec 5) : Cluster :=
  { k with flagsUnion := f ||| (if k.flagsAt = now then k.flagsNow else 0) }

/-- Flags accrue to slot `c` and to its cluster (R138, R139). -/
def State.accrue (s : State) (c : Nat) (f : BitVec 5) : State :=
  if f = 0 then s
  else (s.modCluster (clusterOf c) (·.accrue (s.die (dieOf c)).dcyc f)).modSlot c
    fun x => { x with fpflags := x.fpflags ||| f }

/-- Pieces of an object are written into a core's scratchpad: offset, bytes, value. -/
def Mem.writePieces (m : Mem) (l : List (Nat × Nat × Nat)) : Mem :=
  l.foldl (fun m p => m.writeLE p.1 p.2.1 p.2.2) m

/-- What slot `c` still has to write into the scratchpad is written (R196, R225). -/
def State.writeLate (s : State) (c : Nat) : State :=
  if (s.slot c).late.isEmpty then s
  else
    let x := s.slot c
    (s.modCore (coreOf c) fun k => { k with scratch := k.scratch.writePieces x.late }).modSlot c
      fun x => { x with late := [] }

/-- That, and what the slot's unit loads still have to read in a scratchpad is read (R206). -/
def State.finishLate (s : State) (c : Nat) : State :=
  (s.readPieces c (·.core.isSome)).writeLate c

/-! ## Units (R203 to R205, R219) -/

/-- Die cycles for which an MMA occupies the matrix unit (R205). -/
def mmaCycles : Word := 256

/-- The slot that owns a unit of a core. -/
def ownerSlot (core : Nat) (x : MUnit) : Nat := 4 * core + x.owner.toNat

/-- The oldest MMA that a core's unit has accepted writes its tile, and its flags accrue (R205, R219). -/
def State.writeTile (s : State) (core : Nat) : State :=
  match (s.core core).mmas with
  | [] => s
  | u :: l =>
    let x := vget (s.core core).units .reset u
    (s.accrue (ownerSlot core x) (x.pend.headD 0)).modCore core fun k =>
      { k with mmas := l, units := vset k.units u { x with pend := x.pend.tail } }

/-- The oldest `n` of them do. -/
def State.writeTiles (s : State) (core : Nat) : Nat → State
  | 0 => s
  | n + 1 => (s.writeTile core).writeTiles core n

/-- How many MMAs have to be written, in the order of their acceptance, before none is left of the units
that `hit` names. -/
def lastOf (hit : Nat → Bool) : List Nat → Nat
  | [] => 0
  | u :: l =>
    let n := lastOf hit l
    if n = 0 then (if hit u then 1 else 0) else n + 1

/-- A unit of slot `c` of the core. -/
def Core.holds (k : Core) (c u : Nat) : Bool :=
  let x := vget k.units .reset u
  x.state != .free && x.owner == BitVec.ofNat 2 c

/-- The tiles of slot `c` are written (R204, R205). -/
def State.settleTiles (s : State) (c : Nat) : State :=
  let k := s.core (coreOf c)
  s.writeTiles (coreOf c) (lastOf (k.holds c) k.mmas)

/-- A LOADING unit of the core becomes READY, its pieces performed (R203). -/
def State.completeUnit (s : State) (core u : Nat) : State :=
  let x := vget (s.core core).units .reset u
  let s := s.accrue (ownerSlot core x) (x.pend.foldl (· ||| ·) 0)
  s.modCore core fun k => { k with units := vset k.units u x.complete }

/-- The LOADING units of slot `c` that `hit` names become READY, their pieces performed. -/
def State.settleUnits (s : State) (c : Nat) (hit : MUnit → Bool) : State :=
  (List.range 8).foldl (fun (s : State) u =>
    let x := vget (s.core (coreOf c)).units .reset u
    if x.loads c && hit x then s.completeUnit (coreOf c) u else s) s

/-- The variable result with index `k` of slot `c` is written, its load performed first (R24, R138, R286). -/
def State.writeResult (s : State) (c k : Nat) : State :=
  let s := s.loadNow c k
  match (s.slot c).outs[k]? with
  | some o =>
    (s.accrue c (dueFlags [o])).modSlot c fun x => { x.arrive o with outs := x.outs.eraseIdx k }
  | none => s

/-- Wait for all outstanding results of slot `c`, registers and units (R26, R27, R204): its loads are
performed and its objects written. -/
def State.drain (s : State) (c : Nat) : State :=
  let s := (s.allLoads c).finishLate c
  let s := (s.settleTiles c).settleUnits c fun _ => true
  (s.accrue c (dueFlags (s.slot c).outs)).modSlot c Slot.drain

/-- Wait for every earlier word of slot `c` that can accrue a flag (R136). -/
def State.drainFlags (s : State) (c : Nat) : State :=
  let s := (s.settleTiles c).settleUnits c fun x => !x.pend.isEmpty
  (s.accrue c (dueFlags (s.slot c).outs)).modSlot c Slot.drainFlags

/-- STATE codes of R217. -/
def UnitState.code : UnitState → BitVec 2
  | .free => 0
  | .owned => 1
  | .loading => 2
  | .ready => 3

/-- The unit's snapshot (R217): a slot that loads is not marked poisoned yet (R206). -/
def MUnit.snapshot (u : MUnit) : BitVec 12 :=
  (if u.state = .free then 0 else u.owner)
    ++ BitVec.ofBool (u.poison.isSome && u.state != .loading) ++ BitVec.ofBool u.scaled
    ++ u.tag.code ++ BitVec.ofBool (u.state != .loading && !u.pend.isEmpty) ++ u.state.code

/-- The operand units of a slot are released; their contents are lost (R68). -/
def State.releaseUnits (s : State) (c : Nat) : State :=
  s.modCore (coreOf c) fun k =>
    { k with mmas := k.mmas.filter fun u => !k.holds c u
             units := k.units.map fun u =>
               if u.owner = BitVec.ofNat 2 c ∧ u.state ≠ .free then .reset else u }

/-! ## The error queue and the ends of an activation -/

/-- The error record of R368. -/
def errRecord (info addr pc : Word) (coord : BitVec 18) (reason : BitVec 3) (pend eff : Bool)
    (cause : BitVec 6) (rec : BitVec 256) : BitVec 512 :=
  info ++ addr ++ pc ++ 0#14 ++ coord ++ 0#20 ++ reason ++ BitVec.ofBool pend ++ 0#1
    ++ BitVec.ofBool eff ++ cause ++ rec

/-- Saturating sum of two 64-bit sums (R404). -/
def satAdd64 (a b : Word) : Word :=
  if a.toNat + b.toNat < 2 ^ 64 then a + b else BitVec.allOnes 64

/-- The Chronograph row that accounts an envelope (R404): the lowest matching row with a key in
force, else the lowest wild row. -/
def chronoRow (rows : Vector ChronoRow 16) (e : Envelope) : Option Nat :=
  let idx := List.range 16
  let hit (i : Nat) : Bool := match rows[i]? with
    | some r => r.valid && r.pkg == e.spkg && r.die == e.scoord.extractLsb' 15 3
        && r.cluster == e.scoord.extractLsb' 6 9
    | none => false
  let wild (i : Nat) : Bool := match rows[i]? with
    | some r => r.wild
    | none => false
  match idx.find? hit with
  | some i => some i
  | none => idx.find? wild

/-- What is accounted of an activation that ends at `now` (R403). -/
def Slot.account (x : Slot) (now : Word) : Account :=
  let transit : BitVec 40 := if x.env.otherPod then 0 else x.arrived.setWidth 40 - x.env.sent
  ⟨x.env, transit.setWidth 64, x.started - x.arrived, now - x.started⟩

/-- One activation accounted in its row (R403, R404). -/
def ChronoRow.account (r : ChronoRow) (a : Account) : ChronoRow :=
  { r with
    count := if r.count = BitVec.allOnes 32 then r.count else r.count + 1
    transit := satAdd64 r.transit a.transit
    qwait := satAdd64 r.qwait a.qwait
    run := satAdd64 r.run a.run }

/-- One activation accounted in the row that takes it, if one does (R404). -/
def accountIn (rows : Vector ChronoRow 16) (a : Account) : Vector ChronoRow 16 :=
  match chronoRow rows a.env with
  | some i => vmod rows i (·.account a)
  | none => rows

/-- An activation that ends in die cycle `now` is accounted, and kept in mind for a LOAD of that cycle
(R403, R404). -/
def Core.accountEnd (k : Core) (now : Word) (a : Account) : Core :=
  let (was, l) := match k.ended with
    | some (t, was, l) => if t = now then (was, l) else (k.chrono, [])
    | none => (k.chrono, [])
  { k with chrono := accountIn k.chrono a, ended := some (now, was, l ++ [a]) }

/-- The Chronograph of slot `c`'s core accounts its activation at its end (R403). -/
def State.account (s : State) (c : Nat) : State :=
  s.modCore (coreOf c) (·.accountEnd (s.die (dieOf c)).dcyc ((s.slot c).account s.sidereal))

/-- The trace record of R405. -/
def traceRecord (x : Slot) (c : Nat) (now : Word) (aborted : Bool) : BitVec 512 :=
  now ++ x.started ++ x.arrived ++ 0#40 ++ x.env.sent ++ x.env.launch
    ++ x.record.extractLsb' 240 16 ++ x.record.extractLsb' 0 64 ++ 0#6
    ++ (if aborted then 1#2 else 0#2) ++ x.env.kind.setWidth 8 ++ x.env.spkg ++ x.env.scoord
    ++ coordOf c ++ 0#66

/-- An activation with TRACE writes its trace record, or is dropped and counted when the ring is
full (R405). -/
def State.traceEnd (s : State) (c : Nat) (aborted : Bool) : State :=
  let x := s.slot c
  if x.record.getLsbD 60 then
    s.modCluster (clusterOf c) fun k =>
      if k.trace.length < k.traceSize then
        { k with trace := k.trace ++ [traceRecord x c s.sidereal aborted] }
      else
        { k with traceDrops :=
            if k.traceDrops = BitVec.allOnes 32 then k.traceDrops else k.traceDrops + 1 }
  else s

/-- What the slot becomes when its activation ends: HELD, empty, when it was DRAINING (R370). -/
def Phase.ended : Phase → Phase
  | .draining _ => .held false
  | _ => .idle

/-- What slot `c` has told other slots to do is not waited for any more (R372). -/
def State.forgetOps (s : State) (c : Nat) : State :=
  if (s.slot c).nameOp = some .slots then
    { s with slots := s.slots.map fun e =>
        (e.1, if e.2.opBy = some c then { e.2 with opBy := none } else e.2) }
  else s

/-- The activation of slot `c` ends: it is accounted and traced, its units are released, the stores
it has issued go on without it, and the slot becomes idle (R68, R106, R368, R403, R405). -/
def State.endActivation (s : State) (c : Nat) (aborted : Bool) (ph : Phase) : State :=
  let s := ((s.finishLate c).orphanStores c).forgetOps c
  (((s.account c).traceEnd c aborted).releaseUnits c).modSlot c fun x =>
    { x with phase := ph, wait := none, align := none, hints := .empty, outs := [], heart := 0, seen := none, sending := [],
             drainAt := none, parkNext := false, haltNext := false, atBreak := false, nameOp := none, opBy := none }

/-- A wait at a home is withdrawn (R242, R324): the access leaves the retry list. -/
def State.withdraw (s : State) (c : Nat) : State :=
  match (s.slot c).wait with
  | none => s
  | some _ =>
    let out (e : Nat × Die) : Nat × Die := (e.1, { e.2 with retry := e.2.retry.filter (· ≠ .slot c) })
    ({ s with dies := s.dies.map out }).modSlot c fun x => { x with wait := none }

/-- Send a slot's error record, or hold it at the core until the queue accepts it (R368). -/
def State.postErr (s : State) (c : Nat) (r : BitVec 512) : State :=
  match s.sendErr (dieOf c) (.slot r) with
  | (s, true) => s
  | (s, false) => s.modSlot c fun x => { x with heldErr := some r }

/-- The activation of slot `c` is aborted (R368), for a trap or by KILL (R379). `ph` is what the
slot becomes. -/
def State.abort (s : State) (c : Nat) (reason : BitVec 3) (pend : Bool) (cause : BitVec 6)
    (pc addr info : Word) (ph : Phase) : State :=
  let x := s.slot c
  let r := errRecord info addr pc (coordOf c) reason pend x.eff cause x.record
  (((s.withdraw c).endActivation c true ph).postErr c r)

/-! ## Traps -/

/-- The address of the first word of the slot's group (R43). -/
def Slot.groupStart (x : Slot) : Word := x.hints.first.getD x.pc

/-- The 64-bit address a trap register's word address stands for (R140). -/
def wordAddr (v : BitVec 52) : Word := 0#10 ++ v ++ 0#2

/-- TRAPVEC and TRAPPC hold bits 53:2 of an address (R140). -/
def addrField (a : Word) : BitVec 52 := a.extractLsb' 2 52

/-- What a slot's activation does, with the state the slot is in kept (R370). -/
def Phase.withRun (p : Phase) (r : Run) : Phase :=
  match p with
  | .draining _ => .draining r
  | _ => .active r

/-- A user-trap cause is taken by slot `c` (R367): it waits for its outstanding results, the trap
registers are written, the hint state is cleared, and it enters its handler, or its activation is
aborted when TRAPVEC is zero or a handler already runs (R368). -/
def State.takeTrap (s : State) (c : Nat) (cause : Cause) (addr info : Word) (pend : Bool) :
    State :=
  let s := s.drain c
  let x := s.slot c
  let first := x.groupStart
  let x := { x with
    trapPc := addrField first, trapCause := cause.code, trapPend := pend, trapAddr := addr,
    trapInfo := info, hints := .empty, align := none, wait := none, nameOp := none, seen := none,
    parkNext := false
    opBy := if x.parkNext then none else x.opBy,
    phase := x.phase.withRun (if x.parkNext then .stopped else .running) }
  let s := s.setSlot c x
  if x.inTrap then
    s.abort c 2 pend cause.code (wordAddr x.trapPc) addr info x.phase.ended
  else if x.trapVec = 0 then
    s.abort c 1 pend cause.code (wordAddr x.trapPc) addr info x.phase.ended
  else s.setSlot c { x with inTrap := true, pc := wordAddr x.trapVec }

/-- The code of an access in a page event (R371). -/
def accCode : Access → BitVec 2
  | .load => 0
  | .store => 1
  | .fetch => 2

/-- A PAGE parks slot `c` and posts a page event (R371). A fault on a fetch keeps the hint state
and reports the word itself; one on a data access reports the group and clears the state. -/
def State.pagePark (s : State) (c : Nat) (addr : Word) (acc : Access) : State :=
  let s := s.drain c
  let x := s.slot c
  let at_ := if acc = .fetch then x.pc else x.groupStart
  let x := { x with
    trapPc := addrField at_, trapCause := Cause.page.code, trapPend := false, trapAddr := addr,
    trapInfo := 0, hints := if acc = .fetch then x.hints else .empty,
    align := if acc = .fetch then x.align else none,
    pc := at_, seen := none, phase := x.phase.withRun .faulted }
  let info : Word := 0#16 ++ x.asid ++ 0#12 ++ accCode acc ++ coordOf c
  { s.setSlot c x with service := s.service ++ [.page addr info (wordAddr x.trapPc)] }

/-! ## Issue -/

/-- Which hints an instruction takes (R40, R41), whether it is reserved to supervisor mode (R44,
R45), and whether it sets the effect flag (R398). ALIGN may precede any instruction. -/
structure Takes where
  imm : Bool := false
  rnd : Bool := false
  sat : Bool := false
  ftz : Bool := false
  fmt : Bool := false
  stream : Bool := false
  super : Bool := false
  eff : Bool := false
  deriving DecidableEq, Repr

/-- The fields of an HMOD payload (R40). -/
def modRnd (m : BitVec 22) : BitVec 3 := m.extractLsb' 19 3
def modSat (m : BitVec 22) : Bool := m.getLsbD 18
def modFtz (m : BitVec 22) : Bool := m.getLsbD 17
def modFmt (m : BitVec 22) : BitVec 5 := m.extractLsb' 12 5

/-- An HMOD whose non-zero fields the instruction takes (R40). -/
def Takes.mod (h : Takes) (m : BitVec 22) : Bool :=
  (modRnd m == 0 || (h.rnd && decide ((modRnd m).toNat ≤ 5))) && (!modSat m || h.sat)
    && (!modFtz m || h.ftz) && (modFmt m == 0 || (h.fmt && decide ((modFmt m).toNat < 16)))
    && m.extractLsb' 0 12 == 0

/-- An HSCHED the instruction takes (R41). -/
def Takes.sched (h : Takes) (m : BitVec 22) : Bool :=
  m.extractLsb' 16 2 == 0 &&
    (m.extractLsb' 18 4 == 0 || (m.extractLsb' 18 4 == 1 && h.stream && m.extractLsb' 0 16 == 0))

/-- The group of hints is one the main instruction takes (R42). -/
def Takes.group (h : Takes) (g : Hints) : Bool :=
  !g.bad && decide (g.imm.length ≤ 2) && (g.imm.isEmpty || h.imm)
    && decide (g.mod.length ≤ 1) && g.mod.all h.mod
    && decide (g.sched.length ≤ 1) && g.sched.all h.sched

/-- A trap without address or information. -/
def Stop.plain (c : Cause) : Stop := .trap c 0 0 false

/-- A trap with TRAPINFO only. -/
def Stop.info (c : Cause) (n : Nat) : Stop := .trap c 0 (BitVec.ofNat 64 n) false

/-- How the slot whose turn it is takes a stop. -/
def State.stop (s : State) : Stop → State
  | .trap c addr info pend => s.takeTrap s.focus c addr info pend
  | .page addr acc => s.pagePark s.focus addr acc
  | .hold => s.modMe fun x => { x with slow := true }
  | .became t => t

/-- A stop that comes after part of the instruction has been performed, in state `s`. -/
def during {α : Type} (s : State) : Except Stop α → Except Stop α
  | .ok a => .ok a
  | .error .hold => .error .hold
  | .error e => .error (.became (s.stop e))

/-- The frame in which a main instruction issues (R47): ILLEGAL for a refused group, PRIV in user
mode, and then its own checks and effect. When EFF is set is DEDUCED, log 50. -/
def issue (h : Takes) (s : State) (body : State → Except Stop State) :
    Host.Outcome State Fault Refusal :=
  let s := s.bump
  if !h.group s.me.hints then .next (s.stop (.plain .illegal))
  else if h.super && !s.me.super then .next (s.stop (.plain .priv))
  else
    match body (if h.eff then s.modMe fun x => { x with eff := true } else s) with
    | .ok t => .next t
    | .error e => .next (s.stop e)

/-- The fixed results due at the next issue position bring their flags (R138). -/
def State.written (s : State) (c : Nat) : State :=
  let x := s.slot c
  s.accrue c (dueFlags (x.outs.filter fun o => !o.pending (x.pos + 1)))

/-- The wait of a switch marker: with S = 1 the slot waits for every outstanding result, and its next word
may still be held by then (R26, R112). -/
def State.settle (s : State) (c : Nat) (mark : Bool) : State :=
  if mark then (s.drain c).modSlot c fun x => { x with slow := true } else s

/-- The word of slot `c` takes an issue position, the hint state is spent, and the slot goes on at
`target` (R24, R118, R128). -/
def State.goOn (s : State) (c : Nat) (target : Word) : State :=
  (s.written c).modSlot c fun x =>
    { x.reach (x.pos + 1) with pc := target, hints := .empty, slow := false, seen := none }

/-- The word of slot `c` retires: it goes on, and a switch marker waits. -/
def State.retireSlot (s : State) (c : Nat) (mark : Bool) (target : Word) : State :=
  (s.goOn c target).settle c mark

/-- The word retires and the slot goes on at `target`. -/
def State.retireTo (s : State) (mark : Bool) (target : Word) : State :=
  s.retireSlot s.focus mark target

/-- The word retires and the following one is next. -/
def State.retire (s : State) (mark : Bool) : State := s.retireTo mark (s.me.pc + 4)

/-- The return from a trap: INTRAP clears and the slot continues at TRAPPC, where the group there
issues again (R143); ERET also leaves supervisor mode (R378). -/
def State.trapReturn (s : State) (mark toUser : Bool) : State :=
  (s.modMe fun x => { x with inTrap := false, super := if toUser then false else x.super }).retireTo
    mark (wordAddr s.me.trapPc)

end Sys2Proof.Machine
end

