-- ==== Sys2Proof/Machine/Floats.lean ====
section
/-! DEFINITION. Number formats (R145 to R151), exact values, the one rounding of R148 with its flags
(R149) and flush-to-zero (R150), and the operations on one lane. Lanes are numbers; finite values
are exact. -/

namespace Sys2Proof.Machine

/-! ## Formats (R145) -/

/-- Which codes of a format are not finite. -/
inductive Special where
  /-- Infinity and NaN at the top exponent. -/
  | ieee
  /-- The top code alone is NaN (E4M3). -/
  | top
  /-- None (E2M1). -/
  | none
  deriving DecidableEq, Repr

/-- A floating-point format: width, mantissa bits, bias, its special codes, its largest finite code,
and whether FTZ applies to it (R150). -/
structure Fmt where
  w : Nat
  m : Nat
  bias : Nat
  special : Special
  largest : Nat
  ftz : Bool
  deriving DecidableEq, Repr

def fp64 : Fmt := ⟨64, 52, 1023, .ieee, 0x7FEFFFFFFFFFFFFF, true⟩
def fp32 : Fmt := ⟨32, 23, 127, .ieee, 0x7F7FFFFF, true⟩
def fp16 : Fmt := ⟨16, 10, 15, .ieee, 0x7BFF, true⟩
def bf16 : Fmt := ⟨16, 7, 127, .ieee, 0x7F7F, true⟩
def e4m3 : Fmt := ⟨8, 3, 7, .top, 0x7E, false⟩
def e5m2 : Fmt := ⟨8, 2, 15, .ieee, 0x7B, false⟩
def e2m1 : Fmt := ⟨4, 1, 1, .none, 0x7, false⟩

/-- Bits of the exponent field, and the exponent of the quantum of subnormals. -/
def Fmt.eb (f : Fmt) : Nat := f.w - 1 - f.m
def Fmt.qmin (f : Fmt) : Int := 1 - (f.bias : Int) - f.m

/-- The canonical NaN (R146); E2M1 has none. -/
def Fmt.qnan (f : Fmt) : Nat :=
  match f.special with
  | .ieee => (2 ^ f.eb - 1) * 2 ^ f.m + 2 ^ (f.m - 1)
  | .top => 0x7F
  | .none => 0

/-- Infinity with a sign. -/
def Fmt.inf (f : Fmt) (neg : Bool) : Nat :=
  (2 ^ f.eb - 1) * 2 ^ f.m + if neg then 2 ^ (f.w - 1) else 0

/-- The largest finite value with a sign. -/
def Fmt.large (f : Fmt) (neg : Bool) : Nat := f.largest + if neg then 2 ^ (f.w - 1) else 0

/-- Zero with a sign. -/
def Fmt.zero (f : Fmt) (neg : Bool) : Nat := if neg then 2 ^ (f.w - 1) else 0

/-! ## Values -/

/-- What a code stands for: NaN, infinity, or (-1)^neg × m × 2^e. -/
inductive Num where
  | nan (signalling : Bool)
  | inf (neg : Bool)
  | fin (neg : Bool) (m : Nat) (e : Int)
  deriving DecidableEq, Repr

/-- The value of a code (R145). -/
def Fmt.decode (f : Fmt) (b : Nat) : Num :=
  let neg := decide (2 ^ (f.w - 1) ≤ b % 2 ^ f.w)
  let e := b / 2 ^ f.m % 2 ^ f.eb
  let m := b % 2 ^ f.m
  if f.special = .ieee ∧ e = 2 ^ f.eb - 1 then
    if m = 0 then .inf neg else .nan (decide (m < 2 ^ (f.m - 1)))
  else if f.special = .top ∧ e = 2 ^ f.eb - 1 ∧ m = 2 ^ f.m - 1 then .nan false
  else if e = 0 then .fin neg m f.qmin
  else .fin neg (2 ^ f.m + m) (e - f.bias - f.m)

/-- The code is a subnormal. -/
def Fmt.subnormal (f : Fmt) (b : Nat) : Bool :=
  decide (b / 2 ^ f.m % 2 ^ f.eb = 0) && decide (b % 2 ^ f.m ≠ 0)

/-- The lane after the input flush of R150. -/
def Fmt.flush (f : Fmt) (ftz : Bool) (b : Nat) : Nat :=
  if ftz && f.ftz && f.subnormal b then f.zero (decide (2 ^ (f.w - 1) ≤ b)) else b

/-- An input lane as a value, under FTZ (R150). -/
def Fmt.input (f : Fmt) (ftz : Bool) (b : Nat) : Num := f.decode (f.flush ftz b)

/-- Signalling NaN. -/
def Num.snan : Num → Bool
  | .nan s => s
  | _ => false
def Num.isNan : Num → Bool
  | .nan _ => true
  | _ => false
def Num.isZero : Num → Bool
  | .fin _ 0 _ => true
  | _ => false
def Num.neg : Num → Bool
  | .nan _ => false
  | .inf s => s
  | .fin s .. => s
/-- The value with the other sign. -/
def Num.negate : Num → Num
  | .nan s => .nan s
  | .inf s => .inf !s
  | .fin s m e => .fin (!s) m e

/-- An exact finite value: m × 2^e. -/
structure Dy where
  m : Int
  e : Int
  deriving DecidableEq, Repr

/-- 2^k for an integer that is not negative. -/
def pow2 (k : Int) : Nat := 2 ^ k.toNat

def Dy.add (a b : Dy) : Dy :=
  let e := min a.e b.e
  ⟨a.m * pow2 (a.e - e) + b.m * pow2 (b.e - e), e⟩
def Dy.mul (a b : Dy) : Dy := ⟨a.m * b.m, a.e + b.e⟩
def Dy.zero : Dy := ⟨0, 0⟩
/-- Exact comparison. -/
def Dy.lt (a b : Dy) : Bool :=
  let e := min a.e b.e
  decide (a.m * pow2 (a.e - e) < b.m * pow2 (b.e - e))

/-- The exact value of a finite number; others count as zero. -/
def Num.dy : Num → Dy
  | .fin s m e => ⟨if s then -(m : Int) else m, e⟩
  | _ => .zero

/-! ## Flags (R138) -/

abbrev Flags5 := BitVec 5
def flNV : Flags5 := 16
def flDZ : Flags5 := 8
def flOF : Flags5 := 4
def flUF : Flags5 := 2
def flNX : Flags5 := 1

/-- NV where the condition holds. -/
def nvIf (b : Bool) : Flags5 := if b then flNV else 0
def nxIf (b : Bool) : Flags5 := if b then flNX else 0

/-- A result lane with the flags it raises. -/
structure Lane where
  bits : Nat
  fl : Flags5
  deriving DecidableEq, Repr

/-! ## Rounding (R148 to R150) -/

/-- The five modes (R148). -/
inductive Round where
  | rne
  | rtz
  | rup
  | rdn
  | rna
  deriving DecidableEq, Repr

/-- The mode with a code; 0, 6 and 7 name none. -/
def Round.ofCode (c : BitVec 3) : Option Round :=
  if c = 1 then some .rne else if c = 2 then some .rtz else if c = 3 then some .rup
  else if c = 4 then some .rdn else if c = 5 then some .rna else none

/-- Bits of a number: 0 for 0. -/
def bitLen (n : Nat) : Nat := if n = 0 then 0 else n.log2 + 1

/-- A magnitude (m + δ) × 2^e, δ in (0, 1) when `sticky` and else 0, rounded to a multiple of 2^q: the
multiple, and whether it differs from the magnitude. -/
def roundAt (mode : Round) (neg : Bool) (m : Nat) (e : Int) (sticky : Bool) (q : Int) : Nat × Bool :=
  if q ≤ e then (m * pow2 (e - q) + (if sticky && (mode == .rup && !neg || mode == .rdn && neg)
    then 1 else 0), sticky)
  else
    let sh := (q - e).toNat
    let n := m >>> sh
    let r := m % 2 ^ sh
    let half := 2 ^ (sh - 1)
    let inexact := r ≠ 0 || sticky
    let up : Bool := match mode with
      | .rne => decide (half < r) || (r == half && (sticky || n % 2 == 1))
      | .rna => decide (half ≤ r)
      | .rtz => false
      | .rup => inexact && !neg
      | .rdn => inexact && neg
    (if up then n + 1 else n, inexact)

/-- The code of n × 2^q, which the format holds, without its sign. -/
def Fmt.encode (f : Fmt) (n : Nat) (q : Int) : Nat :=
  if n < 2 ^ f.m then n
  else
    let (n, q) := if n = 2 ^ (f.m + 1) then (2 ^ f.m, q + 1) else (n, q)
    (q + f.m + f.bias).toNat * 2 ^ f.m + (n - 2 ^ f.m)

/-- The value of the largest finite code. -/
def Fmt.maxDy (f : Fmt) : Dy := (f.decode f.largest).dy

/-- What an overflow delivers (R148): under SAT, or in a format without infinity, the largest
finite value. -/
def Fmt.overflow (f : Fmt) (mode : Round) (neg sat : Bool) : Nat :=
  let toInf : Bool := match mode with
    | .rne | .rna => true
    | .rtz => false
    | .rup => !neg
    | .rdn => neg
  if sat || f.special != .ieee || !toInf then f.large neg else f.inf neg

/-- One rounding of an exact magnitude with a sign into a format (R148 to R150). -/
def Fmt.round (f : Fmt) (mode : Round) (ftz sat neg : Bool) (m : Nat) (e : Int) (sticky : Bool) :
    Lane :=
  if m = 0 ∧ !sticky then ⟨f.zero neg, 0⟩
  else
    let qu := (bitLen m : Int) + e - (f.m + 1)
    let (nu, _) := roundAt mode neg m e sticky qu
    let q := max qu f.qmin
    let (n, inexact) := roundAt mode neg m e sticky q
    let isOver := f.maxDy.lt ⟨nu, qu⟩
    let tiny := Dy.lt ⟨nu, qu⟩ ⟨1, 1 - (f.bias : Int)⟩
    if isOver then ⟨f.overflow mode neg sat, flOF ||| flNX⟩
    else if tiny && ftz && f.ftz then ⟨f.zero neg, flUF ||| flNX⟩
    else ⟨f.zero neg + f.encode n q, (if tiny && inexact then flUF else 0) ||| nxIf inexact⟩

/-- Round an exact value; a zero takes the sign given. -/
def Fmt.roundDy (f : Fmt) (mode : Round) (ftz sat zeroNeg : Bool) (d : Dy) : Lane :=
  f.round mode ftz sat (if d.m = 0 then zeroNeg else decide (d.m < 0)) d.m.natAbs d.e false

/-- The sign of an exact zero sum of two addends (R147). -/
def zeroSign (mode : Round) (a b : Bool) : Bool := if a == b then a else mode == .rdn

/-! ## The four operations (R166) -/

/-- How an instruction rounds. -/
structure Ctx where
  mode : Round
  ftz : Bool
  sat : Bool
  deriving DecidableEq, Repr

/-- An invalid operation (R149). -/
def Fmt.invalid (f : Fmt) : Lane := ⟨f.qnan, flNV⟩

def Fmt.rnd (f : Fmt) (c : Ctx) (zeroNeg : Bool) (d : Dy) : Lane :=
  f.roundDy c.mode c.ftz c.sat zeroNeg d

/-- A NaN among the operands: the canonical NaN, with NV for a signalling one. -/
def Fmt.nanOf (f : Fmt) (l : List Num) : Option Lane :=
  if l.any Num.isNan then some ⟨f.qnan, nvIf (l.any Num.snan)⟩ else none

/-- A sum of two values that are not NaN. -/
def Fmt.addNum (f : Fmt) (c : Ctx) (x y : Num) : Lane :=
  match x, y with
  | .inf s, .inf t => if s = t then ⟨f.inf s, 0⟩ else f.invalid
  | .inf s, _ => ⟨f.inf s, 0⟩
  | _, .inf t => ⟨f.inf t, 0⟩
  | x, y => f.rnd c (zeroSign c.mode x.neg y.neg) (x.dy.add y.dy)

def Fmt.add (f : Fmt) (c : Ctx) (a b : Nat) : Lane :=
  let x := f.input c.ftz a
  let y := f.input c.ftz b
  (f.nanOf [x, y]).getD (f.addNum c x y)

def Fmt.sub (f : Fmt) (c : Ctx) (a b : Nat) : Lane :=
  let x := f.input c.ftz a
  let y := f.input c.ftz b
  (f.nanOf [x, y]).getD (f.addNum c x y.negate)

def Fmt.mul (f : Fmt) (c : Ctx) (a b : Nat) : Lane :=
  let x := f.input c.ftz a
  let y := f.input c.ftz b
  let s := x.neg != y.neg
  (f.nanOf [x, y]).getD <|
    match x, y with
    | .inf _, y => if y.isZero then f.invalid else ⟨f.inf s, 0⟩
    | x, .inf _ => if x.isZero then f.invalid else ⟨f.inf s, 0⟩
    | x, y => f.rnd c s (x.dy.mul y.dy)

/-- A quotient of finite magnitudes, the divisor not zero. -/
def Fmt.quot (f : Fmt) (c : Ctx) (s : Bool) (m1 : Nat) (e1 : Int) (m2 : Nat) (e2 : Int) : Lane :=
  let k := 64 + bitLen m2
  f.round c.mode c.ftz c.sat s (m1 * 2 ^ k / m2) (e1 - e2 - k) (m1 * 2 ^ k % m2 != 0)

def Fmt.divNum (f : Fmt) (c : Ctx) (x y : Num) : Lane :=
  let s := x.neg != y.neg
  match x, y with
  | .inf _, .inf _ => f.invalid
  | .inf _, _ => ⟨f.inf s, 0⟩
  | _, .inf _ => ⟨f.zero s, 0⟩
  | .fin _ m1 e1, .fin _ m2 e2 =>
    if m2 = 0 then if m1 = 0 then f.invalid else ⟨f.inf s, flDZ⟩
    else f.quot c s m1 e1 m2 e2
  | _, _ => f.invalid

def Fmt.div (f : Fmt) (c : Ctx) (a b : Nat) : Lane :=
  let x := f.input c.ftz a
  let y := f.input c.ftz b
  (f.nanOf [x, y]).getD (f.divNum c x y)

/-! ## Roots and reciprocals (R168) -/

/-- The integer square root, bit by bit from bit `k` down. -/
def isqrtFrom (n r : Nat) : Nat → Nat
  | 0 => r
  | k + 1 =>
    let t := r + 2 ^ k
    isqrtFrom n (if t * t ≤ n then t else r) k

def isqrt (n : Nat) : Nat := isqrtFrom n 0 (bitLen n / 2 + 1)

/-- A finite value as m × 2^e with e even. -/
def evenExp (m : Nat) (e : Int) : Nat × Int := if e % 2 = 0 then (m, e) else (2 * m, e - 1)

def Fmt.sqrt (f : Fmt) (c : Ctx) (a : Nat) : Lane :=
  match f.input c.ftz a with
  | .nan s => ⟨f.qnan, nvIf s⟩
  | .inf s => if s then f.invalid else ⟨f.inf false, 0⟩
  | .fin s m e =>
    if m = 0 then ⟨f.zero s, 0⟩
    else if s then f.invalid
    else
      let (m, e) := evenExp m e
      let n := m * 2 ^ 128
      let r := isqrt n
      f.round c.mode c.ftz c.sat false r (e / 2 - 64) (r * r != n)

def Fmt.rcp (f : Fmt) (c : Ctx) (a : Nat) : Lane :=
  match f.input c.ftz a with
  | .nan s => ⟨f.qnan, nvIf s⟩
  | x => f.divNum c (.fin false 1 0) x

def Fmt.rsqrt (f : Fmt) (c : Ctx) (a : Nat) : Lane :=
  match f.input c.ftz a with
  | .nan s => ⟨f.qnan, nvIf s⟩
  | .inf s => if s then f.invalid else ⟨f.zero false, 0⟩
  | .fin s m e =>
    if m = 0 then ⟨f.inf s, flDZ⟩
    else if s then f.invalid
    else
      let (m, e) := evenExp m e
      let r := isqrt (2 ^ 280 / m)
      f.round c.mode c.ftz c.sat false r (-(e / 2) - 140) (r * r * m != 2 ^ 280)

/-! ## Powers and logarithms of two (R168)

Results that are not exact are irrational. They are taken to 320 binary digits, some 200 beyond
the rounding position of FP64, and rounded as inexact (DEDUCED, log 13). -/

/-- Binary digits carried. -/
def digits : Nat := 320

/-- ln 2 in units of 2^-digits: the sum of 1 / (k 2^k). -/
def ln2 : Nat := (List.range 330).foldl (fun s k => s + 2 ^ digits / ((k + 1) * 2 ^ (k + 1))) 0

/-- e^y for y in [0, 1) in units of 2^-digits, by its series, `n` more terms. -/
def expSeries (y : Nat) : Nat → Nat → Nat → Nat → Nat
  | 0, _, _, s => s
  | n + 1, k, t, s => expSeries y n (k + 1) (t * y / (k * 2 ^ digits)) (s + t)

/-- 2^f for f in [0, 1) in units of 2^-digits. -/
def exp2Frac (f : Nat) : Nat :=
  expSeries (f * ln2 / 2 ^ digits) 90 1 (2 ^ digits) 0

/-- A finite value as a fixed-point number of units 2^-digits, toward -∞. -/
def fixedOf (m : Int) (e : Int) : Int :=
  if 0 ≤ e + digits then m * pow2 (e + digits) else m / (pow2 (-(e + digits)) : Int)

def Fmt.exp2 (f : Fmt) (c : Ctx) (a : Nat) : Lane :=
  match f.input c.ftz a with
  | .nan s => ⟨f.qnan, nvIf s⟩
  | .inf s => ⟨if s then f.zero false else f.inf false, 0⟩
  | .fin s m e =>
    let out (m : Nat) (e : Int) (sticky : Bool) : Lane := f.round c.mode c.ftz c.sat false m e sticky
    let size := (bitLen m : Int) + e
    if m = 0 then out 1 0 false
    else if 16 < size then if s then out (2 ^ 200) (-40000) true else out (2 ^ 200) 40000 true
    else if size < -220 then
      if s then out (2 ^ 230 - 1) (-230) true else out (2 ^ 230) (-230) true
    else
      let x := fixedOf (if s then -(m : Int) else m) e
      let n := x / (2 ^ digits : Int)
      let fr := (x - n * 2 ^ digits).toNat
      if fr = 0 then out 1 n false else out (exp2Frac fr) (n - digits) true

/-- The series of atanh in units of 2^-digits: z^(2k+1) / (2k+1), `n` more terms, `t` being
z^(2k+1) and `z2` z². -/
def atanhSeries (z2 : Nat) : Nat → Nat → Nat → Nat → Nat
  | 0, _, _, s => s
  | n + 1, k, t, s => atanhSeries z2 n (k + 1) (t * z2 / 2 ^ digits) (s + t / (2 * k + 1))

/-- log2 of y in [1, 2), y and the result in units of 2^-digits. -/
def log2Frac (y : Nat) : Nat :=
  let z := (y - 2 ^ digits) * 2 ^ digits / (y + 2 ^ digits)
  2 * atanhSeries (z * z / 2 ^ digits) 110 0 z 0 * 2 ^ digits / ln2

def Fmt.log2 (f : Fmt) (c : Ctx) (a : Nat) : Lane :=
  match f.input c.ftz a with
  | .nan s => ⟨f.qnan, nvIf s⟩
  | .inf s => if s then f.invalid else ⟨f.inf false, 0⟩
  | .fin s m e =>
    if m = 0 then ⟨f.inf true, flDZ⟩
    else if s then f.invalid
    else
      let top := bitLen m - 1
      let n : Int := e + top
      let out (v : Int) (e : Int) (sticky : Bool) : Lane :=
        f.round c.mode c.ftz c.sat (decide (v < 0)) v.natAbs e sticky
      if m = 2 ^ top then out n 0 false
      else out (n * 2 ^ digits + log2Frac (m * 2 ^ (digits - top))) (-(digits : Int)) true

/-! ## Minima, compares, classes (R169, R170, R173) -/

/-- The order of two values that are not NaN, -0 below +0. -/
def Num.below (x y : Num) : Bool :=
  match x, y with
  | .inf s, .inf t => s && !t
  | .inf s, _ => s
  | _, .inf t => !t
  | x, y => x.dy.lt y.dy || (x.isZero && y.isZero && x.neg && !y.neg)

/-- x < y as numbers, -0 equal to +0. -/
def Num.lt (x y : Num) : Bool :=
  match x, y with
  | .inf s, .inf t => s && !t
  | .inf s, _ => s
  | _, .inf t => !t
  | x, y => x.dy.lt y.dy

/-- x = y as numbers. -/
def Num.eq (x y : Num) : Bool := !x.lt y && !y.lt x

/-- VMIN (`big` false) and VMAX; `num` for VMINN and VMAXN (R169). -/
def Fmt.pick (f : Fmt) (ftz big num : Bool) (a b : Nat) : Lane :=
  let a := f.flush ftz a
  let b := f.flush ftz b
  let x := f.decode a
  let y := f.decode b
  let fl := nvIf (x.snan || y.snan)
  if x.isNan && y.isNan then ⟨f.qnan, fl⟩
  else if x.isNan then ⟨if num then b else f.qnan, fl⟩
  else if y.isNan then ⟨if num then a else f.qnan, fl⟩
  else ⟨if big then (if x.below y then b else a) else (if y.below x then b else a), fl⟩

/-- The relations of R170. -/
inductive Rel where
  | eq
  | ne
  | lt
  | le
  | un
  deriving DecidableEq, Repr

/-- A compare of two lanes (R170). -/
def Fmt.compare (f : Fmt) (ftz : Bool) (r : Rel) (a b : Nat) : Bool × Flags5 :=
  let x := f.input ftz a
  let y := f.input ftz b
  let un := x.isNan || y.isNan
  let ordered := r = .lt || r = .le
  let fl := nvIf (x.snan || y.snan || (un && ordered))
  (match r with
    | .eq => !un && x.eq y
    | .ne => un || !x.eq y
    | .lt => !un && x.lt y
    | .le => !un && !y.lt x
    | .un => un, fl)

/-- The class bit of VCLASS (R170), on the code as it stands. -/
def Fmt.classBit (f : Fmt) (b : Nat) : Nat :=
  match f.decode b with
  | .nan s => if s then 8 else 9
  | .inf s => if s then 0 else 7
  | .fin s m _ =>
    if m = 0 then (if s then 3 else 4)
    else if f.subnormal b then (if s then 2 else 5)
    else (if s then 1 else 6)

/-- VROUND (R173). -/
def Fmt.integral (f : Fmt) (c : Ctx) (a : Nat) : Lane :=
  match f.input c.ftz a with
  | .nan s => ⟨f.qnan, nvIf s⟩
  | .inf s => ⟨f.inf s, 0⟩
  | .fin s m e =>
    let (n, inexact) := roundAt c.mode s m e false 0
    if 0 ≤ e then ⟨f.flush c.ftz (a % 2 ^ f.w), 0⟩
    else ⟨(f.round .rtz false false s n 0 false).bits, nxIf inexact⟩

/-! ## Fused sums (R174, R175) -/

/-- An exact sum of products and addends, rounded once. A product of infinity and zero, or two
infinities that disagree, is invalid; then NaN prevails; then infinity. DEDUCED, log 26. -/
structure Term where
  nan : Bool
  snan : Bool
  bad : Bool
  pinf : Bool
  ninf : Bool
  sum : Dy
  /-- Every addend so far is a zero of this sign. -/
  negZero : Bool
  posZero : Bool
  deriving DecidableEq, Repr

def Term.empty : Term := ⟨false, false, false, false, false, .zero, false, false⟩

/-- Add a value. -/
def Term.addNum (t : Term) (x : Num) : Term :=
  match x with
  | .nan s => { t with nan := true, snan := t.snan || s }
  | .inf s => { t with pinf := t.pinf || !s, ninf := t.ninf || s }
  | .fin s .. =>
    { t with sum := t.sum.add x.dy, negZero := t.negZero || s, posZero := t.posZero || !s }

/-- Add an exact product. -/
def Term.addMul (t : Term) (x y : Num) : Term :=
  let s := x.neg != y.neg
  match x, y with
  | .nan a, .nan b => { t with nan := true, snan := t.snan || a || b }
  | .nan a, _ => { t with nan := true, snan := t.snan || a }
  | _, .nan b => { t with nan := true, snan := t.snan || b }
  | .inf _, y =>
    if y.isZero then { t with bad := true } else { t with pinf := t.pinf || !s, ninf := t.ninf || s }
  | x, .inf _ =>
    if x.isZero then { t with bad := true } else { t with pinf := t.pinf || !s, ninf := t.ninf || s }
  | x, y =>
    { t with sum := t.sum.add (x.dy.mul y.dy), negZero := t.negZero || s,
             posZero := t.posZero || !s }

/-- The one rounding of the sum. -/
def Term.result (t : Term) (f : Fmt) (c : Ctx) : Lane :=
  if t.bad then f.invalid
  else if t.nan then ⟨f.qnan, nvIf (t.snan || (t.pinf && t.ninf))⟩
  else if t.pinf && t.ninf then f.invalid
  else if t.pinf then ⟨f.inf false, 0⟩
  else if t.ninf then ⟨f.inf true, 0⟩
  else f.rnd c (if t.negZero && t.posZero then c.mode == .rdn else t.negZero) t.sum

/-- ±a × b + d (R174). `neg` negates the product. -/
def Fmt.fma (f : Fmt) (c : Ctx) (neg : Bool) (a b d : Nat) : Lane :=
  let x := f.input c.ftz a
  let x := if neg then x.negate else x
  ((Term.empty.addMul x (f.input c.ftz b)).addNum (f.input c.ftz d)).result f c

/-! ## Conversions between formats (R178, R179) -/

/-- A value rounded into a format (R178, R179); `nv` is the format's flags for a NaN and an infinity
where it holds neither. -/
def Fmt.fromNum (f : Fmt) (c : Ctx) (x : Num) : Lane :=
  match x with
  | .nan s =>
    match f.special with
    | .none => ⟨0, flNV⟩
    | _ => ⟨f.qnan, nvIf s⟩
  | .inf s =>
    match f.special with
    | .ieee => ⟨f.inf s, 0⟩
    | _ => ⟨f.large s, flNV⟩
  | .fin s m e => f.round c.mode c.ftz c.sat s m e false

/-- E8M0 from a value (R179). -/
def toE8m0 (x : Num) : Lane :=
  match x with
  | .nan s => ⟨0xFF, nvIf s⟩
  | .inf _ => ⟨0xFE, flNV⟩
  | .fin _ m e =>
    if m = 0 then ⟨0, flNX⟩
    else
      let k : Int := e + (bitLen m - 1 : Nat) + 127
      let exact := m = 2 ^ (bitLen m - 1)
      if k < 0 then ⟨0, flNX⟩
      else if 254 < k then ⟨0xFE, flNX⟩
      else ⟨k.toNat, nxIf (!exact)⟩

/-- The value of an E8M0 code (R145). -/
def e8m0Num (b : Nat) : Num := if b = 0xFF then .nan false else .fin false 1 (b - 127)

/-- A value rounded to an integer of a range (R180). -/
def toInt (mode : Round) (lo hi : Int) (x : Num) : Int × Flags5 :=
  match x with
  | .nan _ => (0, flNV)
  | .inf s => (if s then lo else hi, flNV)
  | .fin s m e =>
    let (n, inexact) := roundAt mode s m e false 0
    let v : Int := if s then -(n : Int) else n
    if hi < v then (hi, flNV) else if v < lo then (lo, flNV) else (v, nxIf inexact)

end Sys2Proof.Machine
end

