-- ==== Sys2Proof/Machine/Operands.lean ====
section
/-! DEFINITION. Register operands: which register a field names, pending checks, tags, and the
writing of results (R24 to R36). -/

namespace Sys2Proof.Machine

/-- What a register field names (R28): z, an entry of the file, l0 or l1. -/
inductive RegRef where
  | zero
  | file (i : Nat)
  | l0
  | l1
  deriving DecidableEq, Repr

/-- The register that field `r` names when WBASE is `wbase` (R28, R31): entries 0 to 38 of the
file are m1 to m39, 39 to 44 are o0 to o5, 45 to 92 the ring. -/
def regRef (wbase : BitVec 6) (r : Reg) : RegRef :=
  let n := r.toNat
  if n = 0 then .zero
  else if n < 40 then .file (n - 1)
  else if n < 56 then .file (45 + (wbase.toNat + (n - 40)) % 48)
  else if n < 62 then .file (n - 17)
  else if n = 62 then .l0
  else .l1

/-- The value and tag of a register (R28 to R31). -/
def Slot.read (x : Slot) (r : Reg) : RV :=
  match regRef x.wbase r with
  | .zero => .zero
  | .file i => vget x.file .zero i
  | .l0 => x.l0.rv
  | .l1 => x.l1.rv

/-- The register's pending bit (R24, R30); z is never pending (R29). -/
def Slot.pending (x : Slot) (r : Reg) : Bool :=
  match regRef x.wbase r with
  | .zero => false
  | .file i => x.outs.any fun o => o.dst == some i && o.pending x.pos
  | .l0 => x.outs.any fun o => o.l0.isSome && o.pending x.pos
  | .l1 => x.outs.any fun o => o.l1.isSome && o.pending x.pos

/-- No register of the list is pending, or HAZARD (R25). -/
def touch (s : State) (rs : List Reg) : Except Stop Unit :=
  if rs.any s.me.pending then .error (.plain .hazard) else .ok ()

/-- A source of the integer and address pipe: I64 or RAW, or FORMAT (R34, R119). -/
def srcInt (s : State) (r : Reg) : Except Stop Word :=
  let v := s.me.read r
  if v.tag = .i64 ∨ v.tag = .raw then .ok (v.val.setWidth 64) else .error (.plain .format)

/-- An operand that must carry the NAME tag, or FORMAT (R61, R84). -/
def srcName (s : State) (r : Reg) : Except Stop Quad :=
  let v := s.me.read r
  if v.tag = .name then .ok v.val else .error (.plain .format)

/-- An operand that takes a name as well as I64 and RAW (R61). -/
inductive NameOr where
  | name (n : Quad)
  | word (w : Word)
  deriving DecidableEq, Repr

/-- A queue, cell, port or region operand (R61). -/
def srcNameOr (s : State) (r : Reg) : Except Stop NameOr :=
  let v := s.me.read r
  if v.tag = .name then .ok (.name v.val)
  else if v.tag = .i64 ∨ v.tag = .raw then .ok (.word (v.val.setWidth 64))
  else .error (.plain .format)

/-- A 64-bit result with its tag (R34). -/
def RV.int (w : Word) : RV := ⟨w.setWidth 128, .i64⟩

/-- The last-result register an instruction's register result enters (R30). -/
inductive Pipe where
  | none
  | l0
  | l1
  deriving DecidableEq, Repr

/-- The latency of a result (R49): fixed, or variable. -/
inductive Lat where
  | fixed (n : Nat)
  | var
  deriving DecidableEq, Repr

/-- The entry of the register file that a destination is. -/
def fileOf (wbase : BitVec 6) (d : Reg) : Option Nat :=
  match regRef wbase d with
  | .file i => some i
  | _ => Option.none

/-- An instruction's results, as one outstanding result: `v` for the destination `d`, and the
values for l0 and l1 (R24, R29, R30). Naming a last-result register as the destination writes it
there only. -/
def Slot.put (x : Slot) (d : Reg) (v : RV) (to0 to1 : Option RV) (lat : Lat) : Slot :=
  let ref := regRef x.wbase d
  let dst := fileOf x.wbase d
  let to0 := if ref = .l0 then some (to0.getD v) else to0
  let to1 := if ref = .l1 then some (to1.getD v) else to1
  let x := match ref with
    | .file i => { x with file := vset x.file i v }
    | _ => x
  match lat with
  | .fixed n =>
    { x with
      l0 := match to0 with
        | some w => x.l0.later ⟨w, x.pos + n, x.pos⟩
        | Option.none => x.l0
      l1 := match to1 with
        | some w => x.l1.later ⟨w, x.pos + n, x.pos⟩
        | Option.none => x.l1
      outs := ⟨dst, to0, to1, x.pos, some (x.pos + n), Option.none, Option.none⟩ :: x.outs }
  | .var => { x with outs := ⟨dst, to0, to1, x.pos, Option.none, Option.none, Option.none⟩ :: x.outs }

/-- A register result of the pipe `p`. -/
def Slot.write (x : Slot) (d : Reg) (v : RV) (p : Pipe) (lat : Lat) : Slot :=
  match p with
  | .none => x.put d v Option.none Option.none lat
  | .l0 => x.put d v (some v) Option.none lat
  | .l1 => x.put d v Option.none (some v) lat

/-- A relaxed load of memory that is still to be performed is outstanding for `d`, and for l0 when its
class feeds it (R24, R30, R286). -/
def Slot.await (x : Slot) (d : Reg) (q : Load) (p : Pipe) : Slot :=
  { x with
      outs := ⟨fileOf x.wbase d, if p = .l0 then some .zero else Option.none, Option.none, x.pos, Option.none,
        Option.none, some q⟩ :: x.outs }

/-- A register written with no last-result register (the link register of CALL, the count of
LOOP, load data, R30, R119). -/
def State.wr (s : State) (d : Reg) (v : RV) (p : Pipe) (lat : Lat) : State :=
  s.modMe fun x => x.write d v p lat

/-- The combined immediate of R40: the HIMM payloads, most significant first, then the field,
sign-extended from its top bit. -/
def immOf (g : Hints) {n : Nat} (field : BitVec n) : Word :=
  match g.imm with
  | [a] => (a ++ field).signExtend 64
  | [a, b] => (a ++ b ++ field).signExtend 64
  | _ => field.signExtend 64

/-- The HMOD payload in force, zero when there is none (R40). -/
def modOf (g : Hints) : BitVec 22 :=
  match g.mod with
  | m :: _ => m
  | [] => 0

/-- Add `n` bytes to an address, modulo 2^64 (R38). -/
def addr (b off : Word) : Word := b + off

/-- Instructions of the integer pipe with two sources (R119). -/
def intOp2 (mark : Bool) (d a b : Reg) (lat : Lat) (f : Word → Word → Word) (s : State) :
    Host.Outcome State Fault Refusal :=
  issue {} s fun s => do
    touch s [a, b, d]
    let x ← srcInt s a
    let y ← srcInt s b
    .ok ((s.wr d (.int (f x y)) .l0 lat).retire mark)

/-- Instructions of the integer pipe with one source (R119). -/
def intOp1 (mark : Bool) (d a : Reg) (f : Word → Word) (s : State) :
    Host.Outcome State Fault Refusal :=
  issue {} s fun s => do
    touch s [a, d]
    let x ← srcInt s a
    .ok ((s.wr d (.int (f x)) .l0 (.fixed 1)).retire mark)

/-- Instructions of the integer pipe with a source and an immediate; `imm` says whether the field
takes HIMM (R40, R123, R124). -/
def intImm {n : Nat} (takesImm : Bool) (mark : Bool) (d a : Reg) (i : BitVec n)
    (f : Word → Word → Word) (s : State) : Host.Outcome State Fault Refusal :=
  issue { imm := takesImm } s fun s => do
    touch s [a, d]
    let x ← srcInt s a
    .ok ((s.wr d (.int (f x (immOf s.me.hints i))) .l0 (.fixed 1)).retire mark)

/-- Instructions that read their destination as a source too: INS and MOVC (R126, R127). -/
def intOp3 (mark : Bool) (d a b : Reg) (f : Word → Word → Word → Word) (s : State) :
    Host.Outcome State Fault Refusal :=
  issue {} s fun s => do
    touch s [a, b, d]
    let x ← srcInt s a
    let y ← srcInt s b
    let o ← srcInt s d
    .ok ((s.wr d (.int (f o x y)) .l0 (.fixed 1)).retire mark)

end Sys2Proof.Machine
end

