-- ==== Sys2Proof/Machine/Flags.lean ====
section
/-! DEFINITION. Lanes and their tags (R33, R34), the rounding state a word issues under (R136, R148,
R150), and results that bring flags (R138, R139, R161). -/

namespace Sys2Proof.Machine

/-! ## Lanes (R33) -/

/-- How many lanes a register of the tag has; I64 holds one number. -/
def Tag.lanes (t : Tag) : Nat := if t = .i64 then 1 else 128 / t.width

/-- The floating-point format of the lanes. -/
def Tag.fmt : Tag → Option Fmt
  | .f64x2 => some fp64
  | .f32x4 => some fp32
  | .f16x8 => some fp16
  | .bf16x8 => some bf16
  | .e4m3x16 => some e4m3
  | .e5m2x16 => some e5m2
  | .e2m1x32 => some e2m1
  | _ => none

/-- "Float" of R162. -/
def Tag.isFloat (t : Tag) : Bool := t == .f64x2 || t == .f32x4 || t == .f16x8 || t == .bf16x8
/-- "Int" of R162. -/
def Tag.isInt (t : Tag) : Bool := t == .i32x4 || t == .i16x8 || t == .i8x16 || t == .b8x16
/-- The lanes are signed integers (R167). -/
def Tag.signed (t : Tag) : Bool := t == .i64 || t == .i32x4 || t == .i16x8 || t == .i8x16

/-- The lanes of a register read as the tag `t`. -/
def RV.lanesAs (v : RV) (t : Tag) : List Nat := lanesOf t.width t.lanes v.val.toNat

/-- A register of lanes. -/
def RV.ofLanes (t : Tag) (w : Nat) (l : List Nat) : RV := ⟨BitVec.ofNat 128 (packLanes w l), t⟩

/-- A lane as an integer (R151, R167). -/
def laneInt (t : Tag) (x : Nat) : Int :=
  if t.signed then (x % 2 ^ t.width : Nat) - (if x % 2 ^ t.width < 2 ^ (t.width - 1) then 0 else 2 ^ t.width)
  else (x % 2 ^ t.width : Nat)

/-- The least and the greatest value of an integer lane (R151). -/
def Tag.lo (t : Tag) : Int := if t.signed then -(2 ^ (t.width - 1)) else 0
def Tag.hi (t : Tag) : Int := if t.signed then 2 ^ (t.width - 1) - 1 else 2 ^ t.width - 1

/-- An integer modulo 2^w as a lane. -/
def wrapLane (w : Nat) (v : Int) : Nat := (v % (2 ^ w : Int)).toNat

/-- An integer result: wrapped, or clamped with NV where the clamp changes it (R163). -/
def Tag.intLane (t : Tag) (sat : Bool) (v : Int) : Lane :=
  if sat then
    let c := if v < t.lo then t.lo else if t.hi < v then t.hi else v
    ⟨wrapLane t.width c, nvIf (decide (c ≠ v))⟩
  else ⟨wrapLane t.width v, 0⟩

/-! ## Element types (R34, R161) -/

/-- The element type of a list of sources: that of the typed ones, which must agree; RAW where all
are RAW and the operation allows it. -/
def elemType (ts : List Tag) (rawOk : Bool) : Except Stop Tag :=
  if ts.any (fun t => t == .i64 || t == .name) then .error (.plain .format)
  else
    match ts.filter (· != .raw) with
    | [] => if rawOk then .ok .raw else .error (.plain .format)
    | t :: l => if l.all (· == t) then .ok t else .error (.plain .format)

/-! ## Rounding state and flags -/

/-- The rounding mode of an RND field. It holds none only where a restored context brought none: then any of
the five may act. DESIGN CHOICE, log 54. -/
def State.roundOf (s : State) (c : BitVec 3) : Round :=
  match Round.ofCode c with
  | some r => r
  | none =>
    (Round.ofCode (BitVec.ofNat 3 (1 + Config.choice s.free 0x200 % 5))).getD .rne

/-- The rounding mode in force (R148). -/
def State.mode (s : State) : Round :=
  let m := modRnd (modOf s.me.hints)
  s.roundOf (if m = 0 then s.me.rnd else m)

/-- How the word whose turn it is rounds (R161). -/
def State.ctx (s : State) : Ctx :=
  let m := modOf s.me.hints
  ⟨s.mode, s.me.ftz || modFtz m, modSat m⟩

/-- A register result whose word can accrue flags; they accrue when it is written (R138). -/
def State.wrFlags (s : State) (d : Reg) (v : RV) (p : Pipe) (lat : Lat) (fl : Flags5) : State :=
  s.modMe fun x =>
    let x := x.write d v p lat
    { x with outs := match x.outs with
      | o :: os => { o with flags := some fl } :: os
      | [] => [] }

/-- The bits and the flags of a list of lanes. -/
def lanesBits (l : List Lane) : List Nat := l.map (·.bits)
def lanesFlags (l : List Lane) : Flags5 := l.foldl (fun f x => f ||| x.fl) 0

end Sys2Proof.Machine
end

