-- ==== Sys2Proof/Machine/Translate.lean ====
section
/-! DEFINITION. Address translation (R238, R239, R358 to R362) and the core-address form of R233. -/

namespace Sys2Proof.Machine

/-! ## The core-address form (R233) -/

/-- A byte in a core's scratchpad: package, core number, offset. -/
structure CoreAddr where
  pkg : BitVec 10
  core : Nat
  off : Nat
  deriving DecidableEq, Repr

/-- The core address a value stands for: FORM 0b10, reserved bits zero, and a cluster that names
something (R14, R15, R233). -/
def coreAddr (v : Word) : Option CoreAddr :=
  let cl := (v.extractLsb' 40 9).toNat
  let core := (v.extractLsb' 36 4).toNat
  let die := (v.extractLsb' 49 3).toNat
  if v.extractLsb' 62 2 = 2#2 ∧ v.extractLsb' 15 21 = 0#21 ∧ cl ≤ 452 ∧ (cl = 452 → core < 4) then
    some ⟨v.extractLsb' 52 10, (die * 512 + cl) * 16 + core, (v.extractLsb' 0 15).toNat⟩
  else none

/-- The core-address form of an offset in a core of package `pkg` (R233). -/
def mkCoreAddr (pkg : BitVec 10) (core off : Nat) : Word :=
  2#2 ++ pkg ++ BitVec.ofNat 16 core ++ 0#21 ++ BitVec.ofNat 15 off

/-! ## Page-table entries (R238) -/

def pteV (e : Word) : Bool := e.getLsbD 0
def pteR (e : Word) : Bool := e.getLsbD 1
def pteW (e : Word) : Bool := e.getLsbD 2
def pteX (e : Word) : Bool := e.getLsbD 3
def pteU (e : Word) : Bool := e.getLsbD 4
def pteG (e : Word) : Bool := e.getLsbD 7
def pteD (e : Word) : Bool := e.getLsbD 6
def pteDet (e : Word) : Bool := e.getLsbD 8
def pteAged (e : Word) : Bool := e.getLsbD 9
def pteFe (e : Word) : Bool := e.getLsbD 10

/-- A leaf: any of R, W and X set. -/
def pteLeaf (e : Word) : Bool := pteR e || pteW e || pteX e

/-- PPN << 16. -/
def ptePpn (e : Word) : Nat := (e.extractLsb' 16 40).toNat * 65536

/-- The entry is malformed at its level (1 to 3). -/
def pteMalformed (level : Nat) (e : Word) : Bool :=
  e.extractLsb' 60 4 != 0#4 || e.extractLsb' 12 4 != 0#4
    || (pteLeaf e && level == 1)
    || (pteLeaf e && level == 2 && e.extractLsb' 16 13 != 0#13)
    || (pteLeaf e && decide (1 < (pteDet e).toNat + (pteAged e).toNat + (pteFe e).toNat))
    || (!pteLeaf e && level == 3)

/-- What a walk ends in (R359): a leaf with the physical address of its entry, PAGE, a malformed
entry, or an entry whose word is poisoned. -/
inductive Walk where
  | leaf (entry : Nat) (e : Word) (large : Bool)
  | page
  | malformed
  | memErr (entry : Nat)
  deriving DecidableEq, Repr

/-- Read one entry of a table (R359). -/
def State.pte (s : State) (a : Nat) : Option Word :=
  if s.poisoned a 8 then none else some (BitVec.ofNat 64 (s.mem.readLE a 8))

/-- The walk from the table at `table` on, for `va`, `level` being 1, 2 or 3 (R359). -/
def State.walkFrom (s : State) (va : Nat) (level table : Nat) : Nat → Walk
  | 0 => .page
  | fuel + 1 =>
    let index := if level = 1 then va / 2 ^ 42 % 4096
      else if level = 2 then va / 2 ^ 29 % 8192 else va / 2 ^ 16 % 8192
    let a := table + 8 * index
    match s.pte a with
    | none => .memErr a
    | some e =>
      if !pteV e then .page
      else if pteMalformed level e then .malformed
      else if pteLeaf e then .leaf a e (level == 2)
      else s.walkFrom va (level + 1) (ptePpn e) fuel

/-- The walk of an address under a root (R359). -/
def State.walk (s : State) (root : BitVec 40) (va : Nat) : Walk :=
  s.walkFrom va 1 (root.toNat * 65536) 3

/-! ## Access checks (R239) -/

/-- The kinds of access that R239, R111 and R258 tell apart. -/
inductive AccKind where
  | load
  | store
  | atomic
  | fetch
  | feLoad
  | feStore
  | aged
  | engineLoad
  | engineStore
  | agedStore
  deriving DecidableEq, Repr

/-- The access reads, writes. -/
def AccKind.reads : AccKind → Bool
  | .load | .atomic | .feLoad | .aged | .engineLoad => true
  | _ => false
def AccKind.writes : AccKind → Bool
  | .store | .atomic | .feStore | .engineStore | .agedStore => true
  | _ => false

/-- How a page event names the access (R371). -/
def AccKind.event : AccKind → Access
  | .fetch => .fetch
  | k => if k.writes then .store else .load

/-- The TRAPINFO of the PROT with which a leaf refuses the access, in the order of R239. -/
def leafRefuses (k : AccKind) (super : Bool) (e : Word) : Option Nat :=
  if !super && !pteU e then some 0
  else if k.reads && !pteR e then some 0
  else if k.writes && !pteW e then some 0
  else if k = .fetch ∧ !pteX e then some 0
  else if pteAged e ∧ (k = .load ∨ k = .store ∨ k = .atomic) then some 22
  else if pteAged e ∧ (k = .engineLoad ∨ k = .engineStore) then some 22
  else if !pteFe e ∧ (k = .feLoad ∨ k = .feStore) then some 23
  else if !pteAged e ∧ (k = .aged ∨ k = .agedStore) then some 28
  else none

/-! ## Cached translations (R360 to R362) -/

/-- The page of an address: 64 KiB, or 512 MiB. -/
def pageBase (large : Bool) (va : Nat) : Nat :=
  if large then va / 2 ^ 29 * 2 ^ 29 else va / 65536 * 65536

/-- The entry maps the address in the address space. -/
def TlbEntry.maps (t : TlbEntry) (asid : BitVec 16) (va : Nat) : Bool :=
  t.base == pageBase t.large va && (t.asid == asid || pteG t.leaf)

/-- The physical address a leaf gives. -/
def leafPa (e : Word) (large : Bool) (va : Nat) : Nat :=
  ptePpn e + (if large then va % 2 ^ 29 else va % 65536)

/-- The cached entries an access may use: those that map the address and allow the access, with D
set for a write (R362). -/
def usable (l : List TlbEntry) (asid : BitVec 16) (va : Nat) (k : AccKind) (super : Bool) :
    List TlbEntry :=
  l.filter fun t =>
    t.maps asid va && (leafRefuses k super t.leaf).isNone && (!k.writes || pteD t.leaf)

/-- The result of a translation. -/
inductive Xlate where
  | ok (s : State) (pa : Nat) (leaf : Word)
  | page
  | prot (info : Nat)
  | memErr (s : State) (entry : Nat)
  deriving Repr

/-- Fill the core's TLB and the second level with a leaf (R360). An entry of the same page and
address space that a write found with D clear is dropped (R362). -/
def State.fill (s : State) (core : Nat) (fetch : Bool) (t : TlbEntry) : State :=
  let put (l : List TlbEntry) : List TlbEntry :=
    t :: l.filter fun u => !(u.base == t.base && u.large == t.large && u.asid == t.asid)
  (s.modCore core fun k =>
    if fetch then { k with itlb := put k.itlb } else { k with dtlb := put k.dtlb }).modCluster
      (coreCluster core) fun c => { c with tlb := put c.tlb }

/-- Write the leaf back at its home with A, and D for a write (R361). -/
def State.setAD (s : State) (entry : Nat) (e : Word) (writes : Bool) : State × Word :=
  let n := e ||| (if writes then 0x60 else 0x20)
  if n = e then (s, e) else ({ s with mem := s.mem.writeLE entry 8 n.toNat }, n)

/-- Walk, check, set A and D and fill (R359, R361); an entry that cannot be read counts as an error of
its channel (R400). -/
def State.walkFill (s : State) (core : Nat) (asid : BitVec 16) (root : BitVec 40) (super : Bool)
    (va : Nat) (k : AccKind) : Xlate :=
  match s.walk root va with
  | .page => .page
  | .malformed => .prot 21
  | .memErr a => .memErr (s.meet a 8) a
  | .leaf a e large =>
    match leafRefuses k super e with
    | some n => .prot n
    | none =>
      let (s, e) := s.setAD a e k.writes
      let s := s.fill core (k == .fetch) ⟨pageBase large va, large, asid, e⟩
      .ok s (leafPa e large va) e

/-- Translate an address below 2^54 for an access (R358 to R362): through a cached entry that
allows it, or by a walk; which of them the access meets is open (R360). DESIGN CHOICE, log 52. -/
def State.translate (s : State) (core : Nat) (asid : BitVec 16) (root : BitVec 40) (super : Bool)
    (va : Nat) (k : AccKind) : Xlate :=
  let cached :=
    usable ((if k = .fetch then (s.core core).itlb else (s.core core).dtlb)
      ++ (s.cluster (coreCluster core)).tlb) asid va k super
  match cached with
  | [] => s.walkFill core asid root super va k
  | t :: ts =>
    match (t :: ts)[Config.choice s.free va % (ts.length + 2)]? with
    | some u => .ok s (leafPa u.leaf u.large va) u.leaf
    | none => s.walkFill core asid root super va k

end Sys2Proof.Machine
end

