-- ==== Sys2Proof/Machine/Memory.lean ====
section
/-! DEFINITION. Loads and stores at their locations: the checks of R245, pending errors (R240),
relaxed loads and stores on their way (R236, R243), accesses at the home (R240, R250), releases and
acquires (R244), full-empty words and their waiters (R241, R242). When a relaxed access is performed
is open (DESIGN CHOICE, log 1). -/

namespace Sys2Proof.Machine

/-- Where an access lands: an offset in a core's scratchpad, or a physical address with the leaf
it was reached through. -/
inductive Target where
  | scratch (core : Nat) (off : Nat)
  | phys (pa : Nat) (leaf : Word)
  deriving DecidableEq, Repr

/-- A memory trap: its address, and its information (R366). -/
def Stop.at_ (c : Cause) (va : Word) (n : Nat) : Stop := .trap c va (BitVec.ofNat 64 n) false

/-- A region of the core's capability table covers the address (R103, R104). -/
def State.holdsDet (s : State) (core : Nat) (asid : BitVec 16) (va : Word) : Bool :=
  (s.core core).det.any fun r => r.asid == asid && decide (r.base ≤ va) && decide (va - r.base < r.size)

/-- The checks of an access of the issuing slot, in the order of R245: the address bits (R232),
alignment to `align`, translation with the checks of R239, and the capability of a DET page
(R104; `float` is AFADD's own). -/
def target (s : State) (va : Word) (align : Nat) (k : AccKind) (float : Bool) :
    Except Stop (State × Target) :=
  let x := s.me
  if va.extractLsb' 54 10 ≠ 0#10 then .error (.at_ .prot va 20)
  else if va.toNat % align ≠ 0 then .error (.at_ .misalign va 0)
  else if va.toNat < 0x8000 then
    if k = .feLoad ∨ k = .feStore then .error (.at_ .prot va 23)
    else if k = .aged then .error (.at_ .prot va 28)
    else .ok (s, .scratch (coreOf s.focus) va.toNat)
  else
    match s.translate (coreOf s.focus) x.asid x.root x.super va.toNat k with
    | .page => .error (.page va k.event)
    | .prot n => .error (.at_ .prot va n)
    | .memErr t a => during t (.error (.at_ .memErr va a))
    | .ok t pa leaf =>
      if k.writes && pteDet leaf && float then .error (.at_ .capability va 3)
      else if k.writes && pteDet leaf && !s.holdsDet (coreOf s.focus) x.asid va then
        .error (.at_ .capability va 0)
      else if s.reachAlias pa && k ≠ .store then .error (.at_ .prot va 30)
      else .ok (t, .phys pa leaf)

/-- An own-scratchpad operand on a boundary of `align` bytes (R195, R227, R267). DEDUCED, log 46. -/
def ownScratch (v : Word) (align : Nat) : Except Stop Nat :=
  if 0x8000 ≤ v.toNat then .error (.trap .prot v 10 false)
  else if v.toNat % align ≠ 0 then .error (.at_ .misalign v 0)
  else .ok v.toNat

/-- Several own-scratchpad operands with their boundaries: each step of the checks goes over all of
them in turn (R195, R227). -/
def ownScratchAll (l : List (Word × Nat)) : Except Stop Unit :=
  match l.find? (fun p => decide (0x8000 ≤ p.1.toNat)) with
  | some p => .error (.trap .prot p.1 10 false)
  | none =>
    match l.find? (fun p => p.1.toNat % p.2 ≠ 0) with
    | some p => .error (.at_ .misalign p.1 0)
    | none => .ok ()

/-! ## Pending errors, releases and acquires (R240, R244) -/

/-- A strong instruction raises the pending error before it has any effect (R240). -/
def strong (s : State) : Except Stop Unit :=
  let e : PendErr := s.me.err
  if e.valid then
    let t := s.modMe fun x => { x with err := { e with valid := false, cause := 0 } }
    .error (.became (t.takeTrap s.focus (.ofCode e.cause) e.addr e.info true))
  else .ok ()

/-- A release at a scope by the issuing slot, after the pending-error check: what it waits for has
been performed, and a fault that the wait has met traps before anything is written (R244, R297). -/
def release (s : State) (scope : BitVec 4) : Except Stop State :=
  let t := s.releaseBy s.focus scope
  match strong t with
  | .ok _ => .ok t
  | .error e => .error e

/-- The acquire part at a scope, after the load part (R244). -/
def State.acquire (s : State) (scope : BitVec 4) : State := s.acquireBy s.focus scope

/-- Package scope (scope code 5). -/
def scopePackage : BitVec 4 := 5

/-! ## Relaxed accesses (R236, R240, R243) -/

/-- The page lets its lines enter a cluster read cache (R236). -/
def leafCached (e : Word) : Bool := !e.getLsbD 11 && !pteFe e && !pteAged e

/-- One more outstanding write of the class; it holds issue when the count stands at 65,535
(R298). -/
def countAck (s : State) (k : AckClass) : Except Stop State :=
  let a := s.me.acks
  if a.get k = BitVec.allOnes 16 then .error .hold
  else .ok (s.modMe fun x => { x with acks := a.set k (a.get k + 1) })

/-- A write that its slot waits for counts in its class too: it holds issue while that stands at 65,535
(R243, R298). -/
def ackRoom (s : State) (pa : Nat) : Except Stop Unit :=
  if s.me.acks.get (s.ackClass s.focus pa) = BitVec.allOnes 16 then .error .hold else .ok ()

/-- Stores that a cluster's write-through buffer holds or is about to take. -/
def State.buffered (s : State) (cl : Nat) : Nat :=
  (s.fabric.filter (·.unacked cl)).length
    + ((s.slots.filter fun e => clusterOf e.1 == cl).map fun e =>
        (e.2.stores.filter (·.buffered)).length).sum

/-- A relaxed store of the low `n` bytes of `v` at a physical address is outstanding from now on; a
full write-through buffer holds issue (R236, R243). -/
def storeGlobal (s : State) (pa : Nat) (leaf va : Word) (n v : Nat) : Except Stop State := do
  let cl := clusterOf s.focus
  if leafCached leaf && decide ((s.cluster cl).bufCap ≤ s.buffered cl) then .error .hold else
  let s ← countAck (s.earlierLoads s.focus pa n) (s.ackClass s.focus pa)
  .ok (s.modMe fun x =>
    { x with stores := x.stores ++
        [{ slot := s.focus, pos := x.pos, loc := pa, va := va, bytes := bytesLE n v
           buffered := leafCached leaf, stage := .entered, orphan := false, seq := 0, prev := none
           sent := 0, link := none, asid := x.asid }] })

/-- A relaxed store: performed at once in a scratchpad. -/
def storeRelaxed (s : State) (t : Target) (va : Word) (n v : Nat) : Except Stop State :=
  match t with
  | .scratch k off => .ok (s.modCore k fun c => { c with scratch := c.scratch.writeLE off n v })
  | .phys pa leaf => storeGlobal s pa leaf va n v

/-- A relaxed load of `n` bytes into `t`: performed at once in a scratchpad, outstanding for global
memory (R24, R286). -/
def State.loadRelaxed (s : State) (d : Reg) (t : Target) (va : Word) (n : Nat) (fit : Fit) (p : Pipe) :
    State :=
  match t with
  | .scratch k off => s.wr d (fit.value ((s.core k).scratch.readLE off n)) p .var
  | .phys pa leaf => s.modMe fun x => x.await d ⟨va, pa, leafCached leaf, n, fit, x.asid⟩ p

/-! ## Accesses at the home (R240, R250) -/

/-- `n` bytes at a target, as its home holds them. -/
def State.readAt (s : State) (t : Target) (n : Nat) : Nat :=
  match t with
  | .scratch k off => (s.core k).scratch.readLE off n
  | .phys pa _ => s.homeRead pa n

/-- A write performed at its home at once, by a strong instruction or an engine. -/
def State.storeHome (s : State) (t : Target) (n v : Nat) : State :=
  match t with
  | .scratch k off => s.modCore k fun c => { c with scratch := c.scratch.writeLE off n v }
  | .phys pa _ => s.homeWrite pa n v

/-- The trap of a fault that a strong access has met at its home (R240). -/
def trapFound {α : Type} (s : State) (c : Cause) (pa n : Nat) (va : Word) : Except Stop α :=
  during (s.found c pa n) (.error (.at_ c va 0))

/-- A write that its source has given up on is still on its way: nobody waits for it (R339). -/
def State.stray (s : State) (c pa : Nat) (va : Word) (n v : Nat) : State :=
  { s with fabric := s.fabric ++
      [{ slot := c, pos := (s.slot c).pos, loc := pa, va := va, bytes := bytesLE n v
         buffered := false, stage := .sent, orphan := true, seq := 0, prev := none
         sent := s.sidereal, link := none, asid := (s.slot c).asid }] }

/-- A sender's envelope, for what a slot has left behind at another package. -/
def State.asSender (s : State) (c : Nat) : Sender :=
  ⟨s.image.pkg, coordOf c, (s.slot c).asid, (s.slot c).env.launch, false⟩

/-- A request that its source has given up on is still on its way to its home (R339). -/
def State.strayOp (s : State) (c pa : Nat) (op : InOp) : State :=
  { s with incoming := s.incoming ++ [⟨s.asSender c, none, none, BitVec.ofNat 64 pa, op⟩] }

/-- What becomes of a request that has been reported FABRIC is open: it is lost, it has been applied, as `now`
says, or it is still on its way (R339). -/
def State.lost (s : State) (c pa : Nat) (op : InOp) (now : State → State) : State :=
  match Config.choice s.free (pa + 1) % 3 with
  | 0 => s
  | 1 => now s
  | _ => s.strayOp c pa op

/-- What a word does at the home of an address: its slot holds issue while the home stands (R387). -/
def homeRuns (s : State) (pa : Nat) : Except Stop Unit := if s.homeStands pa then .error .hold else .ok ()

/-- The load of an acquire (R244, R247): from sector up at its home, and then the read cache is
discarded; at a narrower scope and at home it is served as a relaxed load is. A fault is precise. -/
def loadAcquire (s : State) (t : Target) (va : Word) (scope : BitVec 4) (n : Nat) :
    Except Stop (State × Nat) :=
  match t with
  | .scratch .. => .ok (s.acquire scope, s.readAt t n)
  | .phys pa leaf =>
    if s.homeStands pa then .error .hold
    else if scopeWide scope then
      let s := (s.atHome s.focus pa n).exchange (dieOf s.focus) pa []
      match s.readFault pa n with
      | some c => trapFound s c pa n va
      | none => .ok (s.acquire scope, s.readAt t n)
    else
      match (s.earlierLoads s.focus pa n).readGlobal s.focus pa (leafCached leaf) n with
      | (s, .ok v) => .ok (s, v)
      | (s, .error c) => during s (.error (.at_ c va 0))

/-- The store of a release, performed at its home (R244, R247): a fault found there is precise, and a
write that went unanswered may be applied then, later or never (R339). The bytes stand in the read
cache too (R236). -/
def storeRelease (s : State) (t : Target) (va : Word) (n v : Nat) : Except Stop State :=
  match t with
  | .scratch .. => .ok (s.storeHome t n v)
  | .phys pa leaf =>
    if s.homeStands pa ∨ (ackRoom s pa).isOk = false then .error .hold else
    let s := (s.atHome s.focus pa n).exchangeWrite (dieOf s.focus) pa (bytesLE n v)
    match s.writeFault pa n with
    | some .fabric =>
      let s := match Config.choice s.free (pa + 1) % 3 with
        | 0 => s
        | 1 => s.storeHome t n v
        | _ => s.stray s.focus pa va n v
      trapFound s .fabric pa n va
    | some c => trapFound s c pa n va
    | none =>
      let s := s.storeHome t n v
      let cl := clusterOf s.focus
      .ok (if leafCached leaf then
          (s.makeRoom cl (lineOf pa)).modCluster cl fun k =>
            { k with cache := putBytes k.cache pa (bytesLE n v) }
        else s)

/-- Bytes that another access of the cluster has changed at their home leave its read cache. -/
def State.changed (s : State) (t : Target) : State :=
  match t with
  | .scratch .. => s
  | .phys pa _ => s.dropLine (clusterOf s.focus) (lineOf pa)

/-! ## Full-empty words (R241, R242) -/

/-- The words of an access: one, or two for .q. -/
def feWords (pa : Nat) (quad : Bool) : List Nat := if quad then [pa / 8, pa / 8 + 1] else [pa / 8]

/-- Bytes of a full-empty access. -/
def feBytes (quad : Bool) : Nat := if quad then 16 else 8

/-- The access delivers data, and is an acquire; the others are releases (R241). -/
def FeOp.reads : FeOp → Bool
  | .rff | .rfe | .rawfe => true
  | .wef | .waf | .wae | .sete => false

/-- The condition to proceed (R241). -/
def State.feReady (s : State) (op : FeOp) (ws : List Nat) : Bool :=
  match op with
  | .rff | .rfe => ws.all s.full.contains
  | .wef => ws.all fun w => !s.full.contains w
  | .rawfe | .waf | .wae | .sete => true

/-- The state bits that LDFE .rawfe delivers (R241). -/
def State.feState (s : State) (ws : List Nat) : Word :=
  match ws with
  | [w] => if s.full.contains w then 1 else 0
  | [w, v] => (if s.full.contains w then 1 else 0) + (if s.full.contains v then 2 else 0)
  | _ => 0

/-- The words become full, or empty. -/
def State.feFill (s : State) (ws : List Nat) : State := { s with full := ws.foldl NSet.add s.full }
def State.feEmpty (s : State) (ws : List Nat) : State :=
  { s with full := ws.foldl NSet.remove s.full }

/-- The effect of a full-empty access at its home, and the data read (R241). -/
def State.feApply (s : State) (op : FeOp) (pa : Nat) (quad : Bool) (data : Quad) : State × Nat :=
  let n := feBytes quad
  let ws := feWords pa quad
  let v := s.homeRead pa n
  match op with
  | .rff | .rawfe => (s, v)
  | .rfe | .sete => (s.feEmpty ws, v)
  | .wef | .waf => ((s.homeWrite pa n data.toNat).feFill ws, v)
  | .wae => ((s.homeWrite pa n data.toNat).feEmpty ws, v)

/-- A full-empty access that its condition lets proceed reads a poisoned word (R240, R341). -/
def State.fePoison (s : State) (op : FeOp) (pa : Nat) (quad : Bool) : Bool :=
  op.reads && s.poisoned pa (feBytes quad)

/-- A slot that PARK has stopped at the end of its wait has its results written first (R27, R373). -/
def State.settleStop (s : State) (c : Nat) : State :=
  if (s.slot c).phase = .active .stopped then s.drain c else s

/-- The word of a slot that has waited at a home ends (R26, R370, R373). -/
def State.settleWait (s : State) (c : Nat) (mark : Bool) : State := (s.settle c mark).settleStop c

/-- The result of a full-empty access is delivered and its word goes on (R241, R249); a load is an
acquire at its scope. -/
def State.feDeliver (s : State) (c : Nat) (op : FeOp) (quad : Bool) (reg : Reg) (scope : BitVec 4)
    (v : Nat) (state : Word) : State :=
  let rv : RV := ⟨BitVec.ofNat 128 v, if quad then .raw else .i64⟩
  let s := s.modSlot c fun x =>
    match op with
    | .rff | .rfe => x.write reg rv .none .var
    | .rawfe => x.put reg rv (some (.int state)) none .var
    | .wef | .waf | .wae | .sete => x
  let s := if op.reads then s.acquireBy c scope else s
  s.goOn c ((s.slot c).pc + 4)

/-- A WAITING slot goes on: RUNNING, or STOPPED when PARK has reached it (R373). -/
def Slot.resumeWait (x : Slot) : Slot :=
  { x with wait := none, parkNext := false, opBy := if x.parkNext then none else x.opBy
           phase := x.phase.withRun (if x.parkNext then .stopped else .running) }

/-- The home of an address: a die of the own package by its number, a home of another package
by a number past them (R234, R340). -/
def State.homeOf (s : State) (pa : Nat) : Nat :=
  if s.remote pa then 8 * (pkgOf pa + 1) + homeDie pa else homeDie pa

/-- Entries of a die's retry list (R242). -/
def retryCap : Nat := 4096

/-- A waiter leaves the retry list of a home. -/
def State.unlist (s : State) (d : Nat) (w : Waiter) : State :=
  s.modDie d fun x => { x with retry := x.retry.filter (· ≠ w) }

/-- An access joins the tail of a home's retry list, or, when the list is full, is refused and
counted (R242). The answer says whether it was accepted. -/
def State.enlist (s : State) (d : Nat) (w : Waiter) : State × Bool :=
  let x := s.die d
  if x.retry.length < retryCap then (s.setDie d { x with retry := x.retry ++ [w] }, true)
  else (s.setDie d { x with feRefused := x.feRefused + 1 }, false)

/-- A slot parks at a home (R242, R324). A refused access is sent again later. -/
def State.parkAt (s : State) (c : Nat) (w : Wait) : State :=
  let (s, room) := s.enlist (s.homeOf w.loc) (.slot c)
  s.modSlot c fun y =>
    { y with wait := some { w with accepted := room }, phase := y.phase.withRun .waiting }

/-- The full-empty access of a waiter: its mode, location, size and data. -/
def State.feWaiter (s : State) : Waiter → Option (FeOp × Nat × Bool × Quad)
  | .slot c =>
    match (s.slot c).wait with
    | some w =>
      match w.op with
      | .fe op quad data => some (op, w.loc, quad, data)
      | .aged .. => none
    | none => none
  | .away r =>
    match r.op with
    | .fe op quad data => some (op, r.loc.toNat, quad, data)
    | _ => none
  | .engine .. => none

/-- A waiter's access has been performed, with the data and the state read. -/
def State.feServed (s : State) (w : Waiter) (op : FeOp) (quad : Bool) (v : Nat) (state : Word) :
    State :=
  match w with
  | .slot c =>
    match (s.slot c).wait with
    | some x =>
      ((s.modSlot c Slot.resumeWait).feDeliver c op quad x.reg x.scope v state).settleWait c x.marked
    | none => s
  | .away r => s.answerTo (homeDie r.loc.toNat) r.origin
  | .engine .. => s

/-- A waiter's access has met an uncorrectable error (R240). -/
def State.feFailed (s : State) (w : Waiter) : State :=
  match w with
  | .slot c => s.takeTrap c .memErr (((s.slot c).wait.map (·.addr)).getD 0) 0 false
  | .away r => s.answerTo (homeDie r.loc.toNat) r.origin
  | .engine .. => s

/-- One pass over the waiters of a home in arrival order: each whose condition holds is served,
its effect applied before the next is tested (R242). The answer says whether any was served. -/
def State.fePass (s : State) (d : Nat) : List Waiter → State × Bool
  | [] => (s, false)
  | w :: ws =>
    match s.feWaiter w with
    | none => s.fePass d ws
    | some (op, pa, quad, data) =>
      if !s.feReady op (feWords pa quad) then s.fePass d ws
      else if s.fePoison op pa quad then
        (((s.unlist d w).meet pa (feBytes quad)).feFailed w).fePass d ws
      else
        let state := s.feState (feWords pa quad)
        let (s, v) := (s.unlist d w).feApply op pa quad data
        (((s.feServed w op quad v state).fePass d ws).1, true)

/-- Passes over the waiters of a home, until one serves none (R242); each pass that serves takes
a waiter off the list, so `fuel` passes suffice when it is the list's length. -/
def State.feServe (s : State) (d : Nat) : Nat → State
  | 0 => s
  | fuel + 1 =>
    match s.fePass d (s.die d).retry with
    | (s, true) => s.feServe d fuel
    | (s, false) => s

/-- A change of a word's bit at its home: the home serves its waiters (R242). A change of data
alone leaves every waiter's condition as it was. -/
def State.feChanged (s : State) (pa : Nat) : State :=
  s.feServe (s.homeOf pa) ((s.die (s.homeOf pa)).retry.length + 1)

end Sys2Proof.Machine
end

