-- ==== Sys2Proof/Machine/Exact.lean ====
section
/-! DEFINITION. The long accumulator (R157) and the meanings of LACC (R195 to R200). -/

namespace Sys2Proof.Machine

/-- A long accumulator (R157): its value as an unsigned number of 384 bits, its status bits and its
count. -/
structure LongAcc where
  val : Nat
  nan : Bool
  pinf : Bool
  ninf : Bool
  count : Nat
  deriving DecidableEq, Repr

/-- A cleared accumulator. -/
def LongAcc.zero : LongAcc := ⟨0, false, false, false, 0⟩

/-- Read from its 64 bytes. -/
def LongAcc.ofNat (v : Nat) : LongAcc :=
  ⟨v % 2 ^ 384, v.testBit 447, v.testBit 446, v.testBit 445, v / 2 ^ 384 % 2 ^ 61⟩

/-- Bits 447:384, as LAST delivers them (R200). -/
def LongAcc.status (a : LongAcc) : Nat :=
  a.count % 2 ^ 61 + 2 ^ 61 * (a.ninf.toNat + 2 * a.pinf.toNat + 4 * a.nan.toNat)

/-- As 64 bytes. -/
def LongAcc.toNat (a : LongAcc) : Nat := a.val % 2 ^ 384 + 2 ^ 384 * a.status

/-- The count stops at 2^61 - 1 (R157). -/
def capCount (n : Nat) : Nat := min n (2 ^ 61 - 1)

/-- m × 2^160 × 2^e as an integer; the accepted formats leave nothing below bit 0 (R157). -/
def scale160 (d : Dy) : Int :=
  if 0 ≤ d.e + 160 then d.m * pow2 (d.e + 160) else d.m / (pow2 (-(d.e + 160)) : Int)

/-- Add one value, or subtract it (R197). -/
def LongAcc.add (a : LongAcc) (neg : Bool) (x : Num) : LongAcc :=
  let a := { a with count := capCount (a.count + 1) }
  match if neg then x.negate else x with
  | .nan _ => { a with nan := true }
  | .inf s => { a with pinf := a.pinf || !s, ninf := a.ninf || s }
  | x@(.fin ..) => { a with val := ((a.val + scale160 x.dy) % (2 ^ 384 : Int)).toNat }

/-- Merge another accumulator in (R199). -/
def LongAcc.merge (a b : LongAcc) : LongAcc where
  val := (a.val + b.val) % 2 ^ 384
  nan := a.nan || b.nan
  pinf := a.pinf || b.pinf
  ninf := a.ninf || b.ninf
  count := capCount (a.count + b.count)

/-- V as an exact value. -/
def LongAcc.value (a : LongAcc) : Dy :=
  ⟨(a.val : Int) - (if a.val < 2 ^ 383 then 0 else 2 ^ 384), -160⟩

/-- Rounded once into a format; FTZ is never applied (R157, R198). -/
def LongAcc.round (a : LongAcc) (f : Fmt) (mode : Round) : Lane :=
  if a.nan || (a.pinf && a.ninf) then ⟨f.qnan, 0⟩
  else if a.pinf then ⟨f.inf false, 0⟩
  else if a.ninf then ⟨f.inf true, 0⟩
  else f.roundDy mode false false false a.value

/-! ## The instructions (R195 to R200) -/

/-- The slot's word has begun to read objects: the places of an object lie in the scratchpad, those of the
rows that the matrix unit reads past it. -/
def Slot.readsObject (x : Slot) : Bool :=
  match x.seen with
  | some l => l.all fun p => decide (p.1 < 0x8000)
  | none => false

/-- A unit that works on objects of the scratchpad takes a word: one at a time, and after what it has written for
the core's slots before. What the other unit has begun is not waited for: LACC and BLK words are not atomic with
Survey words (R196, R224, R225, R352). -/
def objectUnit (s : State) (u : ObjUnit) : Except Stop State :=
  let mates := ((List.range 4).map fun i => 4 * coreOf s.focus + i).filter fun c => (s.slot c).unit == u
  if mates.any fun c => c != s.focus && (s.slot c).readsObject then .error .hold
  else .ok (mates.foldl State.writeLate s)

/-- `n` bytes at an offset as pieces of `g` bytes each. -/
def piecesOf (g off n v : Nat) : List (Nat × Nat × Nat) :=
  (List.range ((n + g - 1) / g)).map fun i =>
    (off + g * i, min g (n - g * i), v / 2 ^ (8 * g * i) % 2 ^ (8 * g))

/-- Ranges of the scratchpad as a word of the unit reads them: its pieces of `g` bytes are read one by
one, so that another slot or an engine may write between two of them (R196, R225, R300). The word may
hold issue once, with some pieces read; which, is open. -/
def torn (s : State) (u : ObjUnit) (g : Nat) (l : List (Nat × Nat)) : Except Stop Mem :=
  let sp := s.myCore.scratch
  match s.me.seen with
  | some ps => .ok (sp.writePieces ps)
  | none =>
    if Config.flag s.free 0x410 then
      let ps := (l.flatMap fun r => piecesOf g r.1 r.2 (sp.readLE r.1 r.2)).filter fun p =>
        Config.flag s.free (2 ^ 16 + p.1)
      .error (.became (s.modMe fun x => { x with seen := some ps, unit := u, slow := true }))
    else .ok sp

/-- Pieces are written into the own scratchpad, some of them only before the slot goes on (R196, R225);
which, is open. -/
def State.writeTorn (s : State) (u : ObjUnit) (l : List (Nat × Nat × Nat)) : State :=
  let late (p : Nat × Nat × Nat) : Bool := Config.flag s.free (2 ^ 17 + p.1)
  (s.modMyCore fun k =>
    { k with scratch := k.scratch.writePieces (l.filter fun p => !late p) }).modMe fun x =>
      { x with late := x.late ++ l.filter late, unit := u }

/-- An accumulator of a scratchpad; FORMAT where its reserved bits are not zero (R195). -/
def accAt (sp : Mem) (off : Nat) : Except Stop LongAcc :=
  let v := sp.readLE off 64
  if v / 2 ^ 448 ≠ 0 then .error (.plain .format) else .ok (.ofNat v)

/-- Write it, in its eight words. -/
def State.setAcc (s : State) (off : Nat) (a : LongAcc) : State :=
  s.writeTorn .lacc (piecesOf 8 off 64 a.toNat)

/-- LAZ (R197). -/
def execLaz (m : Bool) (a : Reg) (s : State) : Host.Outcome State Fault Refusal :=
  issue {} s fun s => do
    touch s [a]
    let v ← srcInt s a
    let off ← ownScratch v 64
    let s ← objectUnit s .lacc
    .ok ((s.setAcc off .zero).retire m)

/-- The tags whose lanes an accumulator takes (R197). -/
def Tag.isExact (t : Tag) : Bool := t.fmt.isSome && t != .f64x2

/-- The lanes of a register as values, without FTZ (R197). -/
def RV.values (v : RV) : List Num :=
  match v.tag.fmt with
  | some f => (v.lanesAs v.tag).map f.decode
  | none => []

/-- LAADD and LASUB (R197). -/
def laccAdd (neg : Bool) (m : Bool) (a b : Reg) (s : State) : Host.Outcome State Fault Refusal :=
  issue {} s fun s => do
    touch s [a, b]
    let v ← srcInt s a
    let x := s.me.read b
    if !x.tag.isExact then .error (.plain .format) else
    let off ← ownScratch v 64
    let s ← objectUnit s .lacc
    let sp ← torn s .lacc 8 [(off, 64)]
    let l ← accAt sp off
    .ok ((s.setAcc off (x.values.foldl (·.add neg ·) l)).retire m)

def execLaadd (m : Bool) (a b : Reg) := laccAdd false m a b
def execLasub (m : Bool) (a b : Reg) := laccAdd true m a b

/-- LARND and LARNDB (R198). -/
def laccRound (f : Fmt) (t : Tag) (m : Bool) (d a : Reg) (s : State) :
    Host.Outcome State Fault Refusal :=
  issue { rnd := true } s fun s => do
    touch s [a, d]
    let v ← srcInt s a
    let off ← ownScratch v 64
    let s ← objectUnit s .lacc
    let sp ← torn s .lacc 8 [(off, 64)]
    let l ← accAt sp off
    let r := l.round f s.mode
    .ok ((s.wrFlags d ⟨BitVec.ofNat 128 r.bits, t⟩ .none .var r.fl).retire m)

def execLarnd (m : Bool) (d a : Reg) := laccRound fp32 .f32x4 m d a
def execLarndb (m : Bool) (d a : Reg) := laccRound bf16 .bf16x8 m d a

/-- LAMRG (R199). -/
def execLamrg (m : Bool) (a b : Reg) (s : State) : Host.Outcome State Fault Refusal :=
  issue {} s fun s => do
    touch s [a, b]
    let v ← srcInt s a
    let w ← srcInt s b
    ownScratchAll [(v, 64), (w, 64)]
    let s ← objectUnit s .lacc
    let sp ← torn s .lacc 8 [(v.toNat, 64), (w.toNat, 64)]
    let x ← accAt sp v.toNat
    let y ← accAt sp w.toNat
    .ok ((s.setAcc v.toNat (x.merge y)).retire m)

/-- LAST (R200). -/
def execLast (m : Bool) (d a : Reg) (s : State) : Host.Outcome State Fault Refusal :=
  issue {} s fun s => do
    touch s [a, d]
    let v ← srcInt s a
    let off ← ownScratch v 64
    let s ← objectUnit s .lacc
    let sp ← torn s .lacc 8 [(off, 64)]
    let l ← accAt sp off
    .ok ((s.wr d (.int (BitVec.ofNat 64 l.status)) .none .var).retire m)

end Sys2Proof.Machine
end

