-- ==== Sys2Proof/Machine/Vector.lean ====
section
/-! DEFINITION. The meanings of VOP, VFMA and VCVT (R161 to R182, R418). -/

namespace Sys2Proof.Machine

/-- The latency of a VOP word by element type (R45, R113). -/
def vlat (t : Tag) : Lat := .fixed (if t.isInt then 2 else 4)

/-! ## Words of one and two sources (R161) -/

/-- A vector word with two sources, lane by lane. `rt` gives the tag of the result. -/
def vop2 (h : Takes) (m : Bool) (d a b : Reg) (ok : Tag → Bool) (lat : Tag → Lat) (rt : Tag → Tag)
    (f : Ctx → Tag → Nat → Nat → Lane) (s : State) : Host.Outcome State Fault Refusal :=
  issue h s fun s => do
    touch s [a, b, d]
    let x := s.me.read a
    let y := s.me.read b
    let t ← elemType [x.tag, y.tag] false
    if !ok t then .error (.plain .format) else
    let l := List.zipWith (f s.ctx t) (x.lanesAs t) (y.lanesAs t)
    let v := RV.ofLanes (rt t) t.width (lanesBits l)
    .ok ((s.wrFlags d v .l1 (lat t) (lanesFlags l)).retire m)

/-- A vector word with one source, lane by lane. -/
def vop1 (h : Takes) (m : Bool) (d a : Reg) (ok : Tag → Bool) (lat : Tag → Lat) (rt : Tag → Tag)
    (f : Ctx → Tag → Nat → Lane) (s : State) : Host.Outcome State Fault Refusal :=
  issue h s fun s => do
    touch s [a, d]
    let x := s.me.read a
    let t ← elemType [x.tag] false
    if !ok t then .error (.plain .format) else
    let l := (x.lanesAs t).map (f s.ctx t)
    let v := RV.ofLanes (rt t) t.width (lanesBits l)
    .ok ((s.wrFlags d v .l1 (lat t) (lanesFlags l)).retire m)

/-- HMOD fields by row of R162. -/
def takesArith : Takes := { rnd := true, sat := true, ftz := true }
def takesRound : Takes := { rnd := true, ftz := true }
def takesFtz : Takes := { ftz := true }

/-- "Float" or "Int" (R162). -/
def Tag.isNum (t : Tag) : Bool := t.isFloat || t.isInt

/-- A lane operation with a float and an integer form; the integer form saturates under SAT where
`sat` is not given (R163, R167). -/
def arithLane (fop : Fmt → Ctx → Nat → Nat → Lane) (iop : Int → Int → Int) (c : Ctx) (t : Tag)
    (x y : Nat) : Lane :=
  match t.fmt with
  | some f => fop f c x y
  | none => t.intLane c.sat (iop (laneInt t x) (laneInt t y))

def execVadd (m : Bool) (d a b : Reg) :=
  vop2 takesArith m d a b Tag.isNum vlat id (arithLane Fmt.add (· + ·))
def execVsub (m : Bool) (d a b : Reg) :=
  vop2 takesArith m d a b Tag.isNum vlat id (arithLane Fmt.sub (· - ·))
def execVmul (m : Bool) (d a b : Reg) :=
  vop2 takesArith m d a b Tag.isNum vlat id (arithLane Fmt.mul (· * ·))

/-- A float lane operation; other tags are refused before it is reached. -/
def floatLane2 (fop : Fmt → Ctx → Nat → Nat → Lane) (c : Ctx) (t : Tag) (x y : Nat) : Lane :=
  match t.fmt with
  | some f => fop f c x y
  | none => ⟨x, 0⟩
def floatLane1 (fop : Fmt → Ctx → Nat → Lane) (c : Ctx) (t : Tag) (x : Nat) : Lane :=
  match t.fmt with
  | some f => fop f c x
  | none => ⟨x, 0⟩

def latV (_ : Tag) : Lat := .var

def execVdiv (m : Bool) (d a b : Reg) :=
  vop2 takesRound m d a b Tag.isFloat latV id (floatLane2 Fmt.div)
def execVsqrt (m : Bool) (d a : Reg) :=
  vop1 takesRound m d a Tag.isFloat latV id (floatLane1 Fmt.sqrt)
def execVrcp (m : Bool) (d a : Reg) :=
  vop1 takesRound m d a Tag.isFloat latV id (floatLane1 Fmt.rcp)
def execVrsq (m : Bool) (d a : Reg) :=
  vop1 takesRound m d a Tag.isFloat latV id (floatLane1 Fmt.rsqrt)
def execVexp2 (m : Bool) (d a : Reg) :=
  vop1 takesRound m d a Tag.isFloat latV id (floatLane1 Fmt.exp2)
def execVlog2 (m : Bool) (d a : Reg) :=
  vop1 takesRound m d a Tag.isFloat latV id (floatLane1 Fmt.log2)

/-- The minima and maxima of R167 and R169. -/
def pickLane (big num : Bool) (c : Ctx) (t : Tag) (x y : Nat) : Lane :=
  match t.fmt with
  | some f => f.pick c.ftz big num x y
  | none =>
    let less := decide (laneInt t x < laneInt t y)
    ⟨if less == big then y else x, 0⟩

def execVmin (m : Bool) (d a b : Reg) :=
  vop2 takesFtz m d a b Tag.isNum vlat id (pickLane false false)
def execVmax (m : Bool) (d a b : Reg) :=
  vop2 takesFtz m d a b Tag.isNum vlat id (pickLane true false)
def execVminn (m : Bool) (d a b : Reg) :=
  vop2 takesFtz m d a b Tag.isNum vlat id (pickLane false true)
def execVmaxn (m : Bool) (d a b : Reg) :=
  vop2 takesFtz m d a b Tag.isNum vlat id (pickLane true true)

/-- Types with a sign: floats and I types (R162). -/
def Tag.isSigned (t : Tag) : Bool := t.isFloat || t == .i32x4 || t == .i16x8 || t == .i8x16

/-- VABS and VNEG: sign operations on floats (R418), modulo 2^w on integers (R167). -/
def absLane (_ : Ctx) (t : Tag) (x : Nat) : Lane :=
  match t.fmt with
  | some f => ⟨x % 2 ^ (f.w - 1), 0⟩
  | none => t.intLane false (laneInt t x).natAbs
def negLane (_ : Ctx) (t : Tag) (x : Nat) : Lane :=
  match t.fmt with
  | some f => ⟨(x + 2 ^ (f.w - 1)) % 2 ^ f.w, 0⟩
  | none => t.intLane false (-laneInt t x)

def execVabs (m : Bool) (d a : Reg) := vop1 {} m d a Tag.isSigned vlat id absLane
def execVneg (m : Bool) (d a : Reg) := vop1 {} m d a Tag.isSigned vlat id negLane

/-! ## Bitwise words (R171) -/

/-- A bitwise word with two sources. -/
def vbit2 (m : Bool) (d a b : Reg) (f : Quad → Quad → Quad) (s : State) :
    Host.Outcome State Fault Refusal :=
  issue {} s fun s => do
    touch s [a, b, d]
    let x := s.me.read a
    let y := s.me.read b
    let t ← elemType [x.tag, y.tag] true
    .ok ((s.wr d ⟨f x.val y.val, t⟩ .l1 (.fixed 2)).retire m)

def execVand (m : Bool) (d a b : Reg) := vbit2 m d a b (· &&& ·)
def execVor (m : Bool) (d a b : Reg) := vbit2 m d a b (· ||| ·)
def execVxor (m : Bool) (d a b : Reg) := vbit2 m d a b (· ^^^ ·)
def execVandn (m : Bool) (d a b : Reg) := vbit2 m d a b fun x y => x &&& ~~~y

/-- VNOT. -/
def execVnot (m : Bool) (d a : Reg) (s : State) : Host.Outcome State Fault Refusal :=
  issue {} s fun s => do
    touch s [a, d]
    let x := s.me.read a
    let t ← elemType [x.tag] true
    .ok ((s.wr d ⟨~~~x.val, t⟩ .l1 (.fixed 2)).retire m)

/-- VSEL: the mask is the old D, whose tag may be any but NAME and I64 (R171). -/
def execVsel (m : Bool) (d a b : Reg) (s : State) : Host.Outcome State Fault Refusal :=
  issue {} s fun s => do
    touch s [a, b, d]
    let x := s.me.read a
    let y := s.me.read b
    let k := s.me.read d
    if k.tag = .i64 ∨ k.tag = .name then .error (.plain .format) else
    let t ← elemType [x.tag, y.tag] true
    .ok ((s.wr d ⟨(k.val &&& x.val) ||| (~~~k.val &&& y.val), t⟩ .l1 (.fixed 2)).retire m)

/-! ## Shifts (R172) -/

def shlLane (t : Tag) (x c : Nat) : Nat := if c < t.width then x * 2 ^ c % 2 ^ t.width else 0
def shrLane (t : Tag) (x c : Nat) : Nat := if c < t.width then x / 2 ^ c else 0
/-- On B8x16 VSAR is VSHR. -/
def sarLane (t : Tag) (x c : Nat) : Nat :=
  if t.signed then wrapLane t.width (laneInt t x / (2 ^ min c (t.width - 1) : Nat) : Int)
  else shrLane t x c

/-- A shift by the lanes of B. -/
def vshift (m : Bool) (d a b : Reg) (f : Tag → Nat → Nat → Nat) :=
  vop2 {} m d a b Tag.isInt vlat id fun _ t x c => ⟨f t x c, 0⟩
/-- A shift by an immediate count. -/
def vshiftI (m : Bool) (d a : Reg) (n : BitVec 6) (f : Tag → Nat → Nat → Nat) :=
  vop1 {} m d a Tag.isInt vlat id fun _ t x => ⟨f t x n.toNat, 0⟩

def execVshl (m : Bool) (d a b : Reg) := vshift m d a b shlLane
def execVshr (m : Bool) (d a b : Reg) := vshift m d a b shrLane
def execVsar (m : Bool) (d a b : Reg) := vshift m d a b sarLane
def execVshli (m : Bool) (d a : Reg) (n : BitVec 6) := vshiftI m d a n shlLane
def execVshri (m : Bool) (d a : Reg) (n : BitVec 6) := vshiftI m d a n shrLane
def execVsari (m : Bool) (d a : Reg) (n : BitVec 6) := vshiftI m d a n sarLane

/-! ## Saturating and averaging words (R167) -/

/-- An integer word with two sources. -/
def vint2 (m : Bool) (d a b : Reg) (sat : Bool) (f : Tag → Int → Int → Int) :=
  vop2 {} m d a b Tag.isInt vlat id fun _ t x y => t.intLane sat (f t (laneInt t x) (laneInt t y))

def execVadds (m : Bool) (d a b : Reg) := vint2 m d a b true fun _ x y => x + y
def execVsubs (m : Bool) (d a b : Reg) := vint2 m d a b true fun _ x y => x - y
def execVavg (m : Bool) (d a b : Reg) := vint2 m d a b false fun _ x y => (x + y + 1) / 2
def execVmulh (m : Bool) (d a b : Reg) :=
  vint2 m d a b false fun t x y => x * y / (2 ^ t.width : Int)

/-! ## Compares and classes (R170) -/

/-- The tag of a mask, by lane width. -/
def maskTag (t : Tag) : Tag :=
  match t.width with
  | 32 => .i32x4
  | 16 => .i16x8
  | 8 => .i8x16
  | _ => .raw

/-- A relation of two integer lanes. -/
def Rel.onInt (r : Rel) (x y : Int) : Bool :=
  match r with
  | .eq => decide (x = y)
  | .ne => decide (x ≠ y)
  | .lt => decide (x < y)
  | .le => decide (x ≤ y)
  | .un => false

def compareLane (r : Rel) (c : Ctx) (t : Tag) (x y : Nat) : Lane :=
  let (b, fl) : Bool × Flags5 := match t.fmt with
    | some f => f.compare c.ftz r x y
    | none => (r.onInt (laneInt t x) (laneInt t y), 0)
  ⟨if b then 2 ^ t.width - 1 else 0, fl⟩

def Tag.isF8 (t : Tag) : Bool := t == .e4m3x16 || t == .e5m2x16
def Tag.isComparable (t : Tag) : Bool := t.isFloat || t.isInt || t.isF8
def Tag.isUnComparable (t : Tag) : Bool := t.isFloat || t.isF8

def execVceq (m : Bool) (d a b : Reg) :=
  vop2 takesFtz m d a b Tag.isComparable vlat maskTag (compareLane .eq)
def execVcne (m : Bool) (d a b : Reg) :=
  vop2 takesFtz m d a b Tag.isComparable vlat maskTag (compareLane .ne)
def execVclt (m : Bool) (d a b : Reg) :=
  vop2 takesFtz m d a b Tag.isComparable vlat maskTag (compareLane .lt)
def execVcle (m : Bool) (d a b : Reg) :=
  vop2 takesFtz m d a b Tag.isComparable vlat maskTag (compareLane .le)
def execVcun (m : Bool) (d a b : Reg) :=
  vop2 takesFtz m d a b Tag.isUnComparable vlat maskTag (compareLane .un)

def execVclass (m : Bool) (d a : Reg) :=
  vop1 {} m d a Tag.isFloat vlat maskTag (floatLane1 fun f _ x => ⟨2 ^ f.classBit x, 0⟩)
def execVround (m : Bool) (d a : Reg) :=
  vop1 takesRound m d a Tag.isFloat vlat id (floatLane1 Fmt.integral)

/-! ## VFMA (R174, R175) -/

/-- A fused multiply-add; `neg` negates the product, and the factors and the addend are chosen from
a, b and d by `pick`. -/
def vfma (neg : Bool) (pick : Nat → Nat → Nat → Nat × Nat × Nat) (m : Bool) (d a b : Reg)
    (s : State) : Host.Outcome State Fault Refusal :=
  issue takesArith s fun s => do
    touch s [a, b, d]
    let x := s.me.read a
    let y := s.me.read b
    let z := s.me.read d
    let t ← elemType [x.tag, y.tag, z.tag] false
    match t.isFloat, t.fmt with
    | true, some f =>
      let lane (p : Nat × Nat) (w : Nat) : Lane :=
        let (u, v, e) := pick p.1 p.2 w
        f.fma s.ctx neg u v e
      let l := List.zipWith lane ((x.lanesAs t).zip (y.lanesAs t)) (z.lanesAs t)
      let v := RV.ofLanes t t.width (lanesBits l)
      .ok ((s.wrFlags d v .l1 (.fixed 4) (lanesFlags l)).retire m)
    | _, _ => .error (.plain .format)

def execVfma (m : Bool) (d a b : Reg) := vfma false (fun x y z => (x, y, z)) m d a b
def execVfms (m : Bool) (d a b : Reg) := vfma true (fun x y z => (x, y, z)) m d a b
def execVmad (m : Bool) (d a b : Reg) := vfma false (fun x y z => (x, z, y)) m d a b

/-- A dot product: `n` products of lanes of type `src` go into each lane of type `dst` (R175). -/
def vdot (h : Takes) (src dst : Tag) (lat : Nat) (f : Ctx → List (Nat × Nat) → Nat → Lane)
    (m : Bool) (d a b : Reg) (s : State) : Host.Outcome State Fault Refusal :=
  issue h s fun s => do
    touch s [a, b, d]
    let x := s.me.read a
    let y := s.me.read b
    let z := s.me.read d
    if (x.tag = src ∨ x.tag = .raw) ∧ (y.tag = src ∨ y.tag = .raw) ∧ (z.tag = dst ∨ z.tag = .raw)
    then
      let n := dst.width / src.width
      let ps := (x.lanesAs src).zip (y.lanesAs src)
      let l := (z.lanesAs dst).mapIdx fun i w => f s.ctx ((ps.drop (n * i)).take n) w
      let v := RV.ofLanes dst dst.width (lanesBits l)
      .ok ((s.wrFlags d v .l1 (.fixed lat) (lanesFlags l)).retire m)
    else .error (.plain .format)

/-- A float dot product: exact, rounded once to FP32. -/
def dotFloat (f : Fmt) (c : Ctx) (ps : List (Nat × Nat)) (w : Nat) : Lane :=
  let t := ps.foldl (fun t p => t.addMul (f.input c.ftz p.1) (f.input c.ftz p.2))
    (Term.empty.addNum (fp32.input c.ftz w))
  t.result fp32 c

/-- An integer dot product into INT32. -/
def dotInt (src : Tag) (c : Ctx) (ps : List (Nat × Nat)) (w : Nat) : Lane :=
  Tag.intLane .i32x4 c.sat
    (ps.foldl (fun t p => t + laneInt src p.1 * laneInt src p.2) (laneInt .i32x4 w))

def execVdot2 (m : Bool) (d a b : Reg) :=
  vdot takesArith .bf16x8 .f32x4 4 (dotFloat bf16) m d a b
def execVdot4 (m : Bool) (d a b : Reg) :=
  vdot { sat := true } .i8x16 .i32x4 2 (dotInt .i8x16) m d a b
def execVdot4b (m : Bool) (d a b : Reg) :=
  vdot { sat := true } .b8x16 .i32x4 2 (dotInt .b8x16) m d a b
def execVdote (m : Bool) (d a b : Reg) :=
  vdot takesArith .e4m3x16 .f32x4 4 (dotFloat e4m3) m d a b

/-! ## VCVT (R176 to R182) -/

/-- The class of a pair (R176). -/
inductive CvtClass where
  | same
  | wide
  | half
  | quarter
  | toI64
  | ofI64
  deriving DecidableEq, Repr

/-- The pairs VCVT accepts, by column of R177. -/
def cvtPairs : Tag → List Tag × List Tag × List Tag × List Tag
  | .f64x2 => ([], [], [.f32x4, .i32x4], [.f16x8, .bf16x8])
  | .f32x4 => ([.i32x4], [.f64x2], [.f16x8, .bf16x8, .i16x8], [.e4m3x16, .e5m2x16, .e8m0x16])
  | .f16x8 => ([.bf16x8, .i16x8], [.f32x4], [.e4m3x16, .e5m2x16, .e8m0x16, .i8x16, .b8x16],
      [.e2m1x32])
  | .bf16x8 => ([.f16x8, .i16x8], [.f32x4], [.e4m3x16, .e5m2x16, .e8m0x16, .i8x16, .b8x16],
      [.e2m1x32])
  | .e4m3x16 => ([.e5m2x16, .i8x16, .b8x16], [.f16x8, .bf16x8], [.e2m1x32], [])
  | .e5m2x16 => ([.e4m3x16, .i8x16, .b8x16], [.f16x8, .bf16x8], [.e2m1x32], [])
  | .e2m1x32 => ([], [.e4m3x16, .e5m2x16], [], [])
  | .e8m0x16 => ([], [.bf16x8], [], [])
  | .i32x4 => ([.f32x4], [.f64x2], [.i16x8], [])
  | .i16x8 => ([.f16x8, .bf16x8], [.f32x4, .i32x4], [.i8x16, .b8x16], [])
  | .i8x16 => ([.b8x16], [.f16x8, .bf16x8, .i16x8], [], [])
  | .b8x16 => ([.i8x16], [.f16x8, .bf16x8, .i16x8], [], [])
  | _ => ([], [], [], [])

/-- The class of a pair, if it is listed. -/
def cvtClass (src dst : Tag) : Option CvtClass :=
  if src = .f64x2 ∧ dst = .i64 then some .toI64
  else if src = .i64 ∧ dst = .f64x2 then some .ofI64
  else
    let (p, q, r, u) := cvtPairs src
    if p.contains dst then some .same
    else if q.contains dst then some .wide
    else if r.contains dst then some .half
    else if u.contains dst then some .quarter
    else none

/-- The value of a source lane. -/
def laneNum (t : Tag) (ftz : Bool) (x : Nat) : Num :=
  match t.fmt with
  | some f => f.input ftz x
  | none =>
    if t = .e8m0x16 then e8m0Num x
    else
      let v := laneInt t x
      .fin (decide (v < 0)) v.natAbs 0

/-- The value times 2^k. -/
def Num.scale (x : Num) (k : Int) : Num :=
  match x with
  | .fin s m e => .fin s m (e + k)
  | x => x

/-- One lane converted, without a scale (R178 to R181). -/
def cvtLane (c : Ctx) (src dst : Tag) (x : Nat) : Lane :=
  match dst.fmt with
  | some f => f.fromNum c (laneNum src c.ftz x)
  | none =>
    if dst = .e8m0x16 then toE8m0 (laneNum src c.ftz x)
    else if src.fmt.isSome then
      let (v, fl) := toInt c.mode dst.lo dst.hi (laneNum src c.ftz x)
      ⟨wrapLane dst.width v, fl⟩
    else dst.intLane c.sat (laneInt src x)

/-- One lane converted under the scale code `e` (R182). -/
def cvtScaled (c : Ctx) (src dst : Tag) (e : Nat) (x : Nat) : Lane :=
  match dst.fmt with
  | some f =>
    if e = 0xFF then ⟨f.qnan, 0⟩
    else
      let k : Int := e - 127
      f.fromNum c ((laneNum src c.ftz x).scale (if src = .i8x16 then k - 6 else k))
  | none => ⟨0, 0⟩

/-- What B brings: nothing, a second half, or a scale (R176, R182). B = z stands for zeros. -/
inductive CvtB where
  | none
  | half
  | scale (e : Nat)
  deriving DecidableEq, Repr

/-- The check of B. -/
def cvtB (k : CvtClass) (src dst : Tag) (b : Reg) (v : RV) : Except Stop CvtB :=
  match k with
  | .same | .wide =>
    if b = 0 then .ok .none
    else if v.tag = .e8m0x16 ∧ dst.isFloat then .ok (.scale (v.val.toNat % 256))
    else .error (.plain .format)
  | .half | .quarter =>
    if v.tag = src ∨ v.tag = .raw then .ok .half else .error (.plain .format)
  | .toI64 | .ofI64 => if b = 0 then .ok .none else .error (.plain .format)

/-- The lanes of the target that the word writes, and the first of them (R176). -/
def cvtLanes (c : Ctx) (k : CvtClass) (src dst : Tag) (high : Bool) (x y : RV) (sc : CvtB) :
    List Lane × Nat :=
  let one (v : Nat) : Lane := match sc with
    | .scale e => cvtScaled c src dst e v
    | _ => cvtLane c src dst v
  let a := x.lanesAs src
  match k with
  | .same => (a.map one, 0)
  | .wide => (((a.drop (if high then dst.lanes else 0)).take dst.lanes).map one, 0)
  | .half => ((a ++ y.lanesAs src).map one, 0)
  | .quarter => ((a ++ y.lanesAs src).map one, if high then dst.lanes / 2 else 0)
  | .toI64 => (((a.drop (if high then 1 else 0)).take 1).map one, 0)
  | .ofI64 => (a.map one, if high then 1 else 0)

/-- Old D stays in the lanes that are not written (R176). -/
def CvtClass.keeps : CvtClass → Bool
  | .quarter | .ofI64 => true
  | _ => false

/-- VCVT. DEDUCED, log 27. -/
def execVcvt (m : Bool) (d a b : Reg) (f : BitVec 5) (md : BitVec 2) (s : State) :
    Host.Outcome State Fault Refusal :=
  issue takesArith s fun s => do
    touch s [a, b, d]
    let x := s.me.read a
    let y := s.me.read b
    let old := s.me.read d
    match Tag.ofCode f with
    | none => .error (.plain .illegal)
    | some dst =>
      match cvtClass x.tag dst with
      | none => .error (.plain .format)
      | some k => do
        let sc ← cvtB k x.tag dst b y
        if k.keeps ∧ old.tag ≠ dst ∧ old.tag ≠ .raw then .error (.plain .format) else
        let c := { s.ctx with sat := s.ctx.sat || md.getLsbD 0 }
        let (l, base) := cvtLanes c k x.tag dst (md.getLsbD 1) x y sc
        let keep := if k.keeps then old.lanesAs dst else []
        let all := keep.take base ++ lanesBits l ++ keep.drop (base + l.length)
        let v := RV.ofLanes dst dst.width all
        .ok ((s.wrFlags d v .l1 (.fixed 4) (lanesFlags l)).retire m)

end Sys2Proof.Machine
end

