-- ==== Sys2Proof/Machine/Block.lean ====
section
/-! DEFINITION. The meanings of BLK (R352 to R356). -/

namespace Sys2Proof.Machine

/-- The control word (R352). -/
structure BlkCtl where
  n : Nat
  init : Bool
  scaled : Bool
  tag : Tag
  deriving DecidableEq, Repr

/-- The refusal of a control word. -/
def badCtl {α : Type} : Except Stop α := .error (.info .format 31)

/-- Read a control word: `tags` and `scaledTags` are what the entry takes, `acc` says whether
accumulators are named. -/
def blkCtl (w : Word) (tags scaledTags : List Tag) (acc : Bool → Bool) : Except Stop BlkCtl :=
  let n := (w.extractLsb' 16 13).toNat
  let init := w.getLsbD 9
  let scaled := w.getLsbD 8
  if w.extractLsb' 29 35 ≠ 0#35 ∨ w.extractLsb' 10 6 ≠ 0#6 ∨ w.extractLsb' 5 3 ≠ 0#3 then badCtl
  else if n = 0 ∨ 4096 < n ∨ (acc init ∧ 256 < n) ∨ (scaled ∧ n % 32 ≠ 0) then badCtl
  else
    match Tag.ofCode (w.extractLsb' 0 5) with
    | some t =>
      if tags.contains t && (!scaled || scaledTags.contains t) then .ok ⟨n, init, scaled, t⟩
      else badCtl
    | none => badCtl

/-- The bytes of the elements, and of the elements with their scales. -/
def BlkCtl.bytes (c : BlkCtl) : Nat := (c.n * c.tag.width + 7) / 8
def BlkCtl.allBytes (c : BlkCtl) : Nat := c.bytes + if c.scaled then c.n / 32 else 0

/-- The checks of the two addresses, each step over both (R352): a boundary and a length for each.-/
def blkAddrs (d a : Word) (da dn aa an : Nat) : Except Stop Unit := do
  ownScratchAll [(d, da), (a, aa)]
  if 0x8000 < d.toNat + dn then .error (.trap .prot d 10 false)
  else if 0x8000 < a.toNat + an then .error (.trap .prot a 10 false)
  else .ok ()

/-- The formats of incoming blocks (R353). -/
def blkIn : List Tag := [.f32x4, .bf16x8, .f16x8, .e4m3x16, .e5m2x16, .e2m1x32]
def blkInScaled : List Tag := [.e4m3x16, .e5m2x16, .e2m1x32]

/-- The values of an incoming block, exact, with their scales (R152, R353). -/
def BlkCtl.incoming (c : BlkCtl) (sp : Mem) (a : Nat) : List Num :=
  match c.tag.fmt with
  | none => []
  | some f =>
    let l := lanesOf c.tag.width c.n (sp.readLE a c.bytes)
    if c.scaled then
      l.mapIdx fun k x =>
        let e := (sp.read (a + c.bytes + k / 32)).toNat
        if e = 0xFF then .nan false else (f.decode x).scale ((e : Int) - 127)
    else l.map f.decode

/-- RNE without FTZ, and with saturation. -/
def rneCtx : Ctx := ⟨.rne, false, false⟩
def rneSat : Ctx := ⟨.rne, false, true⟩

/-- The frame of a BLK word: three registers read, each I64 or RAW (R352). -/
def blk (m : Bool) (d a b : Reg) (f : State → Word → Word → Word → Except Stop State) (s : State) :
    Host.Outcome State Fault Refusal :=
  issue {} s fun s => do
    touch s [a, b, d]
    let vd ← srcInt s d
    let va ← srcInt s a
    let w ← srcInt s b
    let s ← objectUnit s .lacc
    let s ← f s vd va w
    .ok (s.retire m)

/-- BADDQ (R353). -/
def execBaddq (m : Bool) (d a b : Reg) :=
  blk m d a b fun s vd va w => do
    let c ← blkCtl w blkIn blkInScaled fun _ => false
    blkAddrs vd va 16 (4 * c.n) 16 c.allBytes
    let sp ← torn s .lacc 8 [(vd.toNat, 4 * c.n), (va.toNat, c.allBytes)]
    let old := lanesOf 32 c.n (sp.readLE vd.toNat (4 * c.n))
    let one (p : Nat × Num) : Lane :=
      if c.init then fp32.fromNum rneCtx p.2
      else
        let x := fp32.decode p.1
        (fp32.nanOf [x, p.2]).getD (fp32.addNum rneCtx x p.2)
    let l := (old.zip (c.incoming sp va.toNat)).map one
    .ok ((s.writeTorn .lacc (piecesOf 8 vd.toNat (4 * c.n) (packLanes 32 (lanesBits l)))).accrue s.focus
      (lanesFlags l))

/-- Whether an accumulator of an array has a reserved bit set (R195). -/
def accsBad (sp : Mem) (a n : Nat) : Bool :=
  (List.range n).any fun k => decide (sp.readLE (a + 64 * k) 64 / 2 ^ 448 ≠ 0)

/-- The accumulators of an array. -/
def accsAt (sp : Mem) (a n : Nat) : List LongAcc :=
  (List.range n).map fun k => .ofNat (sp.readLE (a + 64 * k) 64)

/-- BLACC (R354). With INIT the accumulators are cleared and not read (DEDUCED, log 14). -/
def execBlacc (m : Bool) (d a b : Reg) :=
  blk m d a b fun s vd va w => do
    let c ← blkCtl w blkIn blkInScaled fun _ => true
    blkAddrs vd va 64 (64 * c.n) 16 c.allBytes
    let sp ← torn s .lacc 8 [(vd.toNat, 64 * c.n), (va.toNat, c.allBytes)]
    if !c.init && accsBad sp vd.toNat c.n then .error (.plain .format)
    else
      let old := if c.init then List.replicate c.n LongAcc.zero else accsAt sp vd.toNat c.n
      let l := (old.zip (c.incoming sp va.toNat)).map fun p => (p.1.add false p.2).toNat
      .ok (s.writeTorn .lacc (piecesOf 8 vd.toNat (64 * c.n) (packLanes 512 l)))

/-- The value of an accumulator (R157). -/
def LongAcc.num (a : LongAcc) : Num :=
  if a.nan || (a.pinf && a.ninf) then .nan false
  else if a.pinf then .inf false
  else if a.ninf then .inf true
  else .fin (decide (a.value.m < 0)) a.value.m.natAbs (-160)

/-- floor(log2) of a finite value that is not zero. -/
def Num.log2 : Num → Option Int
  | .fin _ m e => if m = 0 then none else some (e + (bitLen m - 1 : Nat))
  | _ => none

/-- A group of 32 values under a scale of its own (R355): the elements and the scale. -/
def quantGroup (f : Fmt) (top : Nat) (l : List Num) : List Lane × Nat :=
  if l.any fun x => match x with
      | .fin .. => false
      | _ => true then (l.map fun _ => ⟨0, flNV⟩, 0xFF)
  else
    match l.filterMap Num.log2 with
    | [] => (l.map fun x => ⟨f.zero x.neg, 0⟩, 0x7F)
    | k :: ks =>
      let e := ks.foldl max k - top + 127
      let e := if e < 0 then 0 else if 254 < e then 254 else e
      (l.map fun x => f.fromNum rneSat (x.scale (127 - e)), e.toNat)

/-- Consecutive groups of `n` elements, `k` of them. -/
def groupsOf {α : Type} (n : Nat) : Nat → List α → List (List α)
  | 0, _ => []
  | k + 1, l => l.take n :: groupsOf n k (l.drop n)

/-- BQUANT (R355). -/
def execBquant (m : Bool) (d a b : Reg) :=
  blk m d a b fun s vd va w => do
    let c ← blkCtl w [.f32x4, .bf16x8, .f16x8, .e4m3x16, .e5m2x16] [.e4m3x16, .e5m2x16] id
    let bytes := (if c.init then 64 else 4) * c.n
    blkAddrs vd va 16 c.allBytes (if c.init then 64 else 16) bytes
    let sp ← torn s .lacc 8 [(va.toNat, bytes)]
    if c.init && accsBad sp va.toNat c.n then .error (.plain .format)
    else
      match c.tag.fmt with
      | none => badCtl
      | some f =>
        let stage := lanesOf 32 c.n (sp.readLE va.toNat (4 * c.n))
        let src := if c.init then (accsAt sp va.toNat c.n).map LongAcc.num else stage.map fp32.decode
        let (l, sc) : List Lane × List Nat :=
          if c.scaled then
            let g := (groupsOf 32 (c.n / 32) src).map
              (quantGroup f (if c.tag = .e4m3x16 then 8 else 15))
            (g.flatMap (·.1), g.map (·.2))
          else if c.tag = .f32x4 ∧ !c.init then (stage.map fun x => ⟨x, 0⟩, [])
          else (src.map (f.fromNum rneSat), [])
        .ok ((s.writeTorn .lacc (piecesOf 8 vd.toNat c.bytes (packLanes c.tag.width (lanesBits l))
          ++ piecesOf 8 (vd.toNat + c.bytes) sc.length (packLanes 8 sc))).accrue s.focus (lanesFlags l))

end Sys2Proof.Machine
end

