-- ==== Sys2Proof/Machine/Control.lean ====
section
/-! DEFINITION. Control transfer (R128 to R133), the control registers (R134 to R140) and the
system instructions that act on the slot alone (R141 to R143, R378). `m` is the switch marker. -/

namespace Sys2Proof.Machine

/-! ## Branches and jumps (R129 to R132) -/

/-- PC + sext(DISP) x 4 (R22, R129). -/
def branchTo (pc : Word) {n : Nat} (disp : BitVec n) : Word := pc + disp.signExtend 64 * 4

/-- BRC: a branch on one register (R129). -/
def brc (m : Bool) (a : Reg) (i : BitVec 16) (test : Word → Bool) (s : State) :
    Host.Outcome State Fault Refusal :=
  issue {} s fun s => do
    touch s [a]
    let x ← srcInt s a
    .ok (s.retireTo m (if test x then branchTo s.me.pc i else s.me.pc + 4))

def execBeqz (m : Bool) (a : Reg) (i : BitVec 16) := brc m a i fun x => x == 0
def execBnez (m : Bool) (a : Reg) (i : BitVec 16) := brc m a i fun x => x != 0
def execBltz (m : Bool) (a : Reg) (i : BitVec 16) := brc m a i fun x => x.slt 0
def execBgez (m : Bool) (a : Reg) (i : BitVec 16) := brc m a i fun x => !x.slt 0
def execBgtz (m : Bool) (a : Reg) (i : BitVec 16) := brc m a i fun x => (0 : Word).slt x
def execBlez (m : Bool) (a : Reg) (i : BitVec 16) := brc m a i fun x => !(0 : Word).slt x

/-- BCMP: a branch on two registers (R129). -/
def bcmp (m : Bool) (a b : Reg) (i : BitVec 10) (test : Word → Word → Bool) (s : State) :
    Host.Outcome State Fault Refusal :=
  issue {} s fun s => do
    touch s [a, b]
    let x ← srcInt s a
    let y ← srcInt s b
    .ok (s.retireTo m (if test x y then branchTo s.me.pc i else s.me.pc + 4))

def execBeq (m : Bool) (a b : Reg) (i : BitVec 10) := bcmp m a b i fun x y => x == y
def execBne (m : Bool) (a b : Reg) (i : BitVec 10) := bcmp m a b i fun x y => x != y
def execBlt (m : Bool) (a b : Reg) (i : BitVec 10) := bcmp m a b i fun x y => x.slt y
def execBge (m : Bool) (a b : Reg) (i : BitVec 10) := bcmp m a b i fun x y => !x.slt y
def execBltu (m : Bool) (a b : Reg) (i : BitVec 10) := bcmp m a b i fun x y => x.ult y
def execBgeu (m : Bool) (a b : Reg) (i : BitVec 10) := bcmp m a b i fun x y => !x.ult y

/-- The link register, m39 (R28). -/
def lk : Reg := 39#6

/-- JMP (R130). -/
def execJmp (m : Bool) (i : BitVec 25) (s : State) : Host.Outcome State Fault Refusal :=
  issue {} s fun s => .ok (s.retireTo m (branchTo s.me.pc i))

/-- CALL also writes lk, which does not enter l0 (R119, R130). -/
def execCall (m : Bool) (i : BitVec 25) (s : State) : Host.Outcome State Fault Refusal :=
  issue {} s fun s => do
    touch s [lk]
    let pc := s.me.pc
    .ok ((s.wr lk (.int (pc + 4)) .none (.fixed 1)).retireTo m (branchTo pc i))

/-- A jump target that is not a multiple of 4 traps MISALIGN at the jump (R23). -/
def jumpTarget (t : Word) : Except Stop Unit :=
  if t.extractLsb' 0 2 ≠ 0#2 then .error (.trap .misalign t 0 false) else .ok ()

/-- JR (R131). -/
def execJr (m : Bool) (a : Reg) (s : State) : Host.Outcome State Fault Refusal :=
  issue {} s fun s => do
    touch s [a]
    let t ← srcInt s a
    jumpTarget t
    .ok (s.retireTo m t)

/-- CALLR reads its target before it writes lk (R131). -/
def execCallr (m : Bool) (a : Reg) (s : State) : Host.Outcome State Fault Refusal :=
  issue {} s fun s => do
    touch s [a, lk]
    let t ← srcInt s a
    jumpTarget t
    .ok ((s.wr lk (.int (s.me.pc + 4)) .none (.fixed 1)).retireTo m t)

/-- WBASE - 1 modulo 48 (R31, R132). -/
def wbasePred (w : BitVec 6) : BitVec 6 := if w = 0 then 47 else w - 1

/-- A written WBASE of 48 to 63 is stored minus 48 (R32, R133). -/
def wbaseOf (v : BitVec 6) : BitVec 6 := if 48 ≤ v.toNat then v - 48 else v

/-- LOOP: the count stays in the entry its name meant before the rotation (R132). -/
def execLoop (m : Bool) (a : Reg) (i : BitVec 16) (s : State) :
    Host.Outcome State Fault Refusal :=
  issue {} s fun s => do
    touch s [a]
    let x ← srcInt s a
    let c := x - 1
    let pc := s.me.pc
    let s := s.wr a (.int c) .none (.fixed 1)
    let s := s.modMe fun y => { y with wbase := wbasePred y.wbase }
    .ok (s.retireTo m (if c = 0 then pc + 4 else branchTo pc i))

/-- WSET (R133). -/
def execWset (m : Bool) (a : Reg) (s : State) : Host.Outcome State Fault Refusal :=
  issue {} s fun s => do
    touch s [a]
    let x ← srcInt s a
    .ok ((s.modMe fun y => { y with wbase := wbaseOf (x.setWidth 6) }).retire m)

/-! ## Control registers (R134, R135) -/

/-- RECMETA shows the envelope (R54). -/
def Envelope.recmeta (e : Envelope) : Word :=
  0#2 ++ e.kind ++ e.spkg ++ e.scoord ++ e.sent.setWidth 32

/-- The value of a control register at issue, as the slot whose turn it is reads it (R134 to
R140). -/
def State.creg (s : State) (c : Creg) : Word :=
  let x := s.me
  let k := s.myCore
  let l := s.myCluster
  let d := s.myDie
  let row := vget k.chrono (.reset false) (k.delaySel.toNat % 16)
  let q := l.queue l.poolSel.toNat
  match c with
  | .threadst =>
    0#48 ++ BitVec.ofBool x.super ++ BitVec.ofBool x.inTrap ++ 0#6 ++ BitVec.ofBool x.ftz
      ++ x.rnd ++ 0#4
  | .fpflags => x.fpflags.setWidth 64
  | .flagsunion => l.flagsUnion.setWidth 64
  | .trapvec => wordAddr x.trapVec
  | .trappc => wordAddr x.trapPc
  | .trapcause => 0#55 ++ BitVec.ofBool x.trapPend ++ 0#2 ++ x.trapCause
  | .trapaddr => x.trapAddr
  | .trapinfo => x.trapInfo
  | .coord => (coordOf s.focus).setWidth 64
  | .pkgid => s.image.pkg.setWidth 64
  | .stage => k.stage.setWidth 64
  | .recmeta => x.env.recmeta
  | .fetchgrp => k.fetchGrp.setWidth 64
  | .wbase => x.wbase.setWidth 64
  | .sidereal => s.sidereal
  | .dcyc => d.dcyc
  | .ncyc => d.ncyc
  | .dfreq => d.mhz.setWidth 64
  | .steplog => d.stepCount ++ 0#28 ++ d.newest
  | .hbint => k.hbint.setWidth 64
  | .hblast => x.heart.setWidth 64
  | .agwaitmax => x.agWaitMax.setWidth 64
  | .fewaitmax => x.feWaitMax.setWidth 64
  | .acks => x.acks.ue ++ x.acks.fabric ++ x.acks.pkg ++ x.acks.die
  | .errpend => x.err.count ++ 0#40 ++ BitVec.ofBool x.err.valid ++ 0#1 ++ x.err.cause
  | .barstray => k.barStray.setWidth 64
  | .barstep => l.barStep.setWidth 64
  | .dwellmax => l.dwellMax.setWidth 64
  | .poolsel => l.poolSel.setWidth 64
  | .poolmin => q.min.setWidth 64
  | .poolcap => q.cap.setWidth 64
  | .pooluse =>
    0#8 ++ BitVec.ofNat 24 q.ext.length ++ 0#4 ++ BitVec.ofNat 12 l.freeEntries ++ 0#4
      ++ BitVec.ofNat 12 q.use
  | .delaysel => k.delaySel
  | .delaycnt => row.count.setWidth 64
  | .delaytrn => row.transit
  | .delayqw => row.qwait
  | .delayrun => row.run
  | .asid => x.asid.setWidth 64
  | .ptbase => 0#8 ++ x.root ++ 0#16
  | .eolpred => 0#40 ++ d.eolSource ++ d.eolDays
  | .errwin => d.errWin.setWidth 64
  | .errthr => d.errThr.setWidth 64

/-- A write that governs units of the die does so from the next die cycle on (R136). -/
def State.governing (s : State) : State := s.modMyDie fun d => { d with ctrlAt := some d.dcyc }

/-- POOLMIN or POOLCAP written on the selected queue, refused with PROT when the minimums would
sum past 2,048 or CAP would be 0 or below MIN (R97). -/
def writePool (s : State) (f : Queue → Queue) : Except Stop State :=
  let k := s.myCluster
  let q := f (k.queue k.poolSel.toNat)
  let qs := k.queues.set k.poolSel.toNat q
  if 2048 < (qs.map fun e => e.2.min.toNat).sum ∨ q.cap < q.min ∨ q.cap = 0 then
    .error (.info .prot 6)
  else
    let old := k.queue k.poolSel.toNat
    let q := { q with was := keepWas old.was s.myDie.dcyc (old.min, old.cap) }
    .ok (s.modMyCluster fun k => { k with queues := k.queues.set k.poolSel.toNat q })

/-- The key that a write of DELAYSEL loads, its sums clear (R404). -/
def delayRow (v : Word) : ChronoRow where
  pkg := v.extractLsb' 44 10
  die := v.extractLsb' 41 3
  cluster := v.extractLsb' 32 9
  valid := v.getLsbD 18
  wild := v.getLsbD 17
  count := 0
  transit := 0
  qwait := 0
  run := 0

/-- A row of the Chronograph is loaded in die cycle `now`: the activations that have ended in that cycle are
accounted after it (R404). -/
def Core.loadRow (k : Core) (now : Word) (i : Nat) (row : ChronoRow) : Core :=
  match k.ended with
  | some (t, was, l) =>
    if t = now then
      { k with chrono := l.foldl accountIn (vset was i row), ended := some (t, vset was i row, l) }
    else { k with chrono := vset k.chrono i row }
  | none => { k with chrono := vset k.chrono i row }

/-- DELAYSEL: the selection is kept, and LOAD loads the selected row's key and clears its sums
(R404). -/
def writeDelaySel (s : State) (v : Word) : State :=
  s.modMyCore fun k =>
    let k := { k with delaySel := v &&& 0x003FFFFF0006000F }
    if v.getLsbD 16 then k.loadRow s.myDie.dcyc (v.toNat % 16) (delayRow v) else k

/-- A write of a control register: writable fields take the value, the others keep theirs; a
write the register's own rule refuses traps PROT (R134 to R140). Registers that are read-only in
both modes are never written (R20). -/
def writeCreg (s : State) (c : Creg) (v : Word) : Except Stop State :=
  match c with
  | .threadst =>
    let r := v.extractLsb' 4 3
    if r = 0#3 ∨ r = 6#3 ∨ r = 7#3 then .error (.info .prot 7)
    else .ok (s.modMe fun x => { x with ftz := v.getLsbD 7, rnd := r })
  | .fpflags => .ok (s.modMe fun x => { x with fpflags := v.setWidth 5 })
  | .flagsunion => .ok (s.modMyCluster (·.writeUnion s.myDie.dcyc (v.setWidth 5)))
  | .trapvec => .ok (s.modMe fun x => { x with trapVec := addrField v })
  | .trappc => .ok (s.modMe fun x => { x with trapPc := addrField v })
  | .fetchgrp => .ok (s.modMyCore fun k =>
      { k with fetchGrp := v.setWidth 16, fetchWas := keepWas k.fetchWas s.myDie.dcyc k.fetchGrp })
  | .wbase => .ok (s.modMe fun x => { x with wbase := wbaseOf (v.setWidth 6) })
  | .hbint => .ok (s.modMyCore fun k =>
      { k with hbint := v.setWidth 32, hbWas := keepWas k.hbWas s.myDie.dcyc k.hbint })
  | .agwaitmax => .ok (s.modMe fun x => { x with agWaitMax := v.setWidth 32 })
  | .fewaitmax => .ok (s.modMe fun x => { x with feWaitMax := v.setWidth 32 })
  | .barstray => .ok (s.modMyCore fun k => { k with barStray := v.setWidth 32 })
  | .barstep => .ok (s.modMyCluster fun k =>
      { k with barStep := v.setWidth 16, barWas := keepWas k.barWas s.myDie.dcyc k.barStep })
  | .dwellmax => .ok (s.governing.modMyCluster fun k => { k with dwellMax := v.setWidth 32 })
  | .poolsel => .ok (s.modMyCluster fun k => { k with poolSel := v.setWidth 8 })
  | .poolmin => writePool s fun q => { q with min := v.setWidth 12 }
  | .poolcap => writePool s fun q => { q with cap := v.setWidth 12 }
  | .delaysel => .ok (writeDelaySel s v)
  | .asid => .ok (s.modMe fun x => { x with asid := v.setWidth 16 })
  | .ptbase => .ok (s.modMe fun x => { x with root := v.extractLsb' 16 40 })
  | .errwin => .ok (s.modMyDie fun d =>
      { d with errWin := v.setWidth 32, errWas := keepWas d.errWas d.dcyc (d.errWin, d.errThr) })
  | .errthr => .ok (s.modMyDie fun d =>
      { d with errThr := v.setWidth 16, errWas := keepWas d.errWas d.dcyc (d.errWin, d.errThr) })
  | .trapcause | .trapaddr | .trapinfo | .coord | .pkgid | .stage | .recmeta | .sidereal | .dcyc
  | .ncyc | .dfreq | .steplog | .hblast | .acks | .errpend | .pooluse | .delaycnt | .delaytrn
  | .delayqw | .delayrun | .eolpred => .ok s

/-- The access needs supervisor mode (R134, R135). -/
def cregSuper (c : Creg) (write : Bool) : Bool := if write then c.user != .rw else c.user == .none

/-- An access to FPFLAGS holds issue until every earlier word that can accrue a flag has written
its result (R136). -/
def awaitFlags (c : Creg) (s : State) : State :=
  if c = .fpflags then s.drainFlags s.focus else s

/-- The operations with a value: `d` receives the old value where there is a destination, and
`f` gives the new one from the old and A (R134). -/
def ctrlWrite (m : Bool) (d : Option Reg) (c : Creg) (a : Reg) (f : Word → Word → Word)
    (s : State) : Host.Outcome State Fault Refusal :=
  issue { super := cregSuper c true } s fun s => do
    touch s (a :: d.toList)
    let x ← srcInt s a
    let s := awaitFlags c s
    let old := s.creg c
    let s := match d with
      | some d => s.wr d (.int old) .l0 (.fixed 1)
      | none => s
    let s ← writeCreg s c (f old x)
    .ok (s.retire m)

/-- RDC (R134). -/
def execRdc (m : Bool) (d : Reg) (c : Creg) (s : State) : Host.Outcome State Fault Refusal :=
  issue { super := cregSuper c false } s fun s => do
    touch s [d]
    let s := awaitFlags c s
    .ok ((s.wr d (.int (s.creg c)) .l0 (.fixed 1)).retire m)

def execWrc (m : Bool) (a : Reg) (c : Creg) := ctrlWrite m none c a fun _ x => x
def execSetc (m : Bool) (d a : Reg) (c : Creg) := ctrlWrite m (some d) c a fun old x => old ||| x
def execClrc (m : Bool) (d a : Reg) (c : Creg) :=
  ctrlWrite m (some d) c a fun old x => old &&& ~~~x
def execSwpc (m : Bool) (d a : Reg) (c : Creg) := ctrlWrite m (some d) c a fun _ x => x

/-! ### The access steps the table lists without a word

Each is the access a CTRL word makes to one register, with the value it brings, as one step. -/

/-- A write of `v` to the register, as a whole step of the slot. -/
def cregStep (c : Creg) (v : Word) (s : State) : Host.Outcome State Fault Refusal :=
  issue { super := cregSuper c true } s fun s => do
    let s ← writeCreg s c v
    .ok (s.retire false)

/-- THREADST written (R137). -/
def execThreadstWrite (v : Word) := cregStep .threadst v
/-- The minimum of the selected queue written (R97). -/
def execPoolminWrite (v : Word) := cregStep .poolmin v
/-- The cap of the selected queue written (R97). -/
def execPoolcapWrite (v : Word) := cregStep .poolcap v
/-- DELAYSEL written with LOAD set (R404). -/
def execDelayselLoad (v : Word) := cregStep .delaysel (v ||| 0x10000)

/-- FPFLAGS read into `d` and written: operation 0 reads only, 1 and 4 write, 2 sets, 3 clears
(R134, R136). -/
def execFpflagsAccess (op : BitVec 3) (d : Reg) (v : Word) (s : State) :
    Host.Outcome State Fault Refusal :=
  issue {} s fun s => do
    touch s [d]
    let s := awaitFlags .fpflags s
    let old := s.creg .fpflags
    let s := if op = 1#3 then s else s.wr d (.int old) .l0 (.fixed 1)
    let new := if op = 2#3 then old ||| v else if op = 3#3 then old &&& ~~~v
      else if op = 0#3 then old else v
    let s ← writeCreg s .fpflags new
    .ok (s.retire false)

/-! ## System instructions of the slot (R141 to R143, R378) -/

/-- NOP (R141). -/
def execNop (m : Bool) (s : State) : Host.Outcome State Fault Refusal :=
  issue {} s fun s => .ok (s.retire m)

/-- HBEAT sets the heartbeat count to zero (R106, R141). -/
def execHbeat (m : Bool) (s : State) : Host.Outcome State Fault Refusal :=
  issue {} s fun s => .ok ((s.modMe fun x => { x with heart := 0 }).retire m)

/-- Words from the group's first word to the main one, inclusive (R142). -/
def Slot.groupLength (x : Slot) : Nat := (x.pc - x.groupStart).toNat / 4 + 1

/-- TRAPINFO of TRAP and BREAK (R142). -/
def trapWord (x : Slot) (n : BitVec 6) : Word :=
  BitVec.ofNat 64 (x.groupLength % 32 * 256 + n.toNat)

/-- TRAP raises TRAPI precisely at itself (R142). -/
def execTrap (_ : Bool) (n : BitVec 6) (s : State) : Host.Outcome State Fault Refusal :=
  issue {} s fun s => .error (.trap .trapI 0 (trapWord s.me n) false)

/-- BREAK traps, or stops the slot before the next word when a debug session has claimed it
(R142, R408). -/
def execBrk (m : Bool) (s : State) : Host.Outcome State Fault Refusal :=
  issue {} s fun s =>
    if s.myCore.claimed then
      .ok (((s.retire m).drain s.focus).modMe fun x =>
        { x with phase := x.phase.withRun .stopped, atBreak := true })
    else .error (.trap .brk 0 (trapWord s.me 0) false)

/-- TRET ends a user trap handler; outside one it is ILLEGAL (R143). -/
def execTret (m : Bool) (s : State) : Host.Outcome State Fault Refusal :=
  issue {} s fun s =>
    if !s.me.inTrap then .error (.info .illegal 1)
    else .ok (s.trapReturn m false)

/-- ERET continues at TRAPPC in user mode (R378). -/
def execEret (m : Bool) (s : State) : Host.Outcome State Fault Refusal :=
  issue { super := true } s fun s => .ok (s.trapReturn m true)

/-! ## Hints (R39 to R42, R118) -/

/-- The hint state with one more hint word of the slot in it (R118). -/
def Slot.hint (x : Slot) (f : Hints → Hints) : Slot :=
  { x.reach (x.pos + 1) with
    hints := f { x.hints with first := some x.groupStart }, pc := x.pc + 4, slow := false }

/-- The word is a hint word of its run: the seventeenth is not (R48). -/
def Slot.isHint (x : Slot) (w : BitVec 32) : Bool :=
  w.extractLsb' 25 6 == 0x3F#6 && decide (x.groupLength ≤ 16)

/-- The line holds the word at an address of the address space. -/
def Line.holds (l : Line) (asid : BitVec 16) (va : Nat) : Bool :=
  l.base == va / 64 * 64 && (l.global || l.asid == asid)

/-- The word of a line at an address; none where it was found poisoned. -/
def Line.word (l : Line) (va : Nat) : Option (BitVec 32) := l.words.getD (va / 4 % 16) none

/-- The line of the core's instruction buffer that holds the next word of slot `c` (R109). -/
def State.nextLine (s : State) (c : Nat) : Option Line :=
  (s.core (coreOf c)).buffer.find? fun l => l.holds (s.slot c).asid (s.slot c).pc.toNat

/-- An address no word is fetched from: the scratchpad range, or bits 63:54 set (R131). -/
def noCode (va : Word) : Bool := va.extractLsb' 54 10 != 0#10 || decide (va.toNat < 0x8000)

/-- The translation of an address that slot `c` fetches from. -/
def State.fetchXlate (s : State) (c va : Nat) : Xlate :=
  let x := s.slot c
  s.translate (coreOf c) x.asid x.root x.super va .fetch

/-- The word that slot `c` issues next, where its fetch meets no fault: as the buffer, the cluster's cache or
its home holds it. -/
def State.peekWord (s : State) (c : Nat) : Option (BitVec 32) :=
  let x := s.slot c
  let va := x.pc.toNat
  if noCode x.pc then none
  else
    match s.fetchXlate c va with
    | .ok _ pa _ =>
      match s.nextLine c, (s.cluster (clusterOf c)).lines.find? (·.holds x.asid va) with
      | some l, _ | none, some l => l.word va
      | none, none => if s.poisoned pa 4 then none else some (BitVec.ofNat 32 (s.homeRead pa 4))
    | _ => none

/-- Slot `c` stands at the main instruction of its group. -/
def State.atMain (s : State) (c : Nat) : Bool :=
  match s.peekWord c with
  | some w => !(s.slot c).isHint w
  | none => false

/-- What the slot's activation does, if it has one. -/
def Phase.run? : Phase → Option Run
  | .active r => some r
  | .draining r => some r
  | _ => none

/-- Slot `c` waits at an ALIGN before its main instruction (R116). -/
def State.aligned (s : State) (c : Nat) : Bool :=
  (s.slot c).align.isSome && (s.slot c).phase.run? == some .running && s.atMain c

/-- Slot `c` may have come to wait at an ALIGN in this die cycle (R116). -/
def State.cameToWait (s : State) (c : Nat) : State :=
  if (s.slot c).align.isSome then
    s.modCluster (clusterOf c) fun k => { k with alignAt := (s.die (dieOf c)).dcyc }
  else s

/-- A hint word issues: it adds itself to the hint state, and has no other effect. The
seventeenth of a run is taken as the main instruction, and no instruction takes it (R48). -/
def hintWord (f : Hints → Hints) (s : State) : Host.Outcome State Fault Refusal :=
  let s := s.bump
  if 17 ≤ s.me.groupLength then .next (s.stop (.plain .illegal))
  else .next (((s.written s.focus).modMe (·.hint f)).cameToWait s.focus)

/-- HNOP (R39). -/
def execHnop (s : State) : Host.Outcome State Fault Refusal := hintWord id s

/-- HIMM supplies a prefix (R40). -/
def execHimm (v : BitVec 22) := hintWord fun h => { h with imm := h.imm ++ [v] }

/-- HMOD supplies modifiers (R40). -/
def execHmod (r : BitVec 3) (q f : BitVec 1) (t : BitVec 5) :=
  hintWord fun h => { h with mod := h.mod ++ [r ++ q ++ f ++ t ++ 0#12] }

/-- HSCHED ALIGN: the wait before the main instruction ends at the latest after `n` die cycles; 0
makes the hint inert (R41, R116). -/
def execHschedAlign (n : BitVec 16) (s : State) : Host.Outcome State Fault Refusal :=
  let now := s.myDie.dcyc.toNat
  let s := if n = 0 then s else s.modMe fun x => { x with align := some (now + n.toNat) }
  hintWord (fun h => { h with sched := h.sched ++ [0#4 ++ 0#2 ++ n], t0 := now }) s

/-- HSCHED STREAM asks that lines are not kept in the read cache: no result changes (R41). -/
def execHschedStream := hintWord fun h => { h with sched := h.sched ++ [1#4 ++ 0#2 ++ 0#16] }

/-- A malformed hint word: its group will raise ILLEGAL (R42). -/
def hintMalformed := hintWord fun h => { h with bad := true }

end Sys2Proof.Machine
end

