-- ==== Sys2Proof/Machine/Access.lean ====
section
/-! DEFINITION. The meanings of loads, stores, the acquire and release forms, full-empty accesses,
the integer atomics and the fences (R244 to R252). `m` is the switch marker. -/

namespace Sys2Proof.Machine

/-! ## Relaxed loads and stores (R246, R248) -/

/-- A relaxed load of `n` bytes (R245). `fit` says what becomes of them. -/
def loadWord (h : Takes) (m : Bool) (t base : Reg) (off : State → Word) (n : Nat)
    (tagOk : State → Bool) (fit : State → Fit) (s : State) : Host.Outcome State Fault Refusal :=
  issue h s fun s => do
    touch s [base, t]
    let b ← srcInt s base
    if !tagOk s then .error (.plain .format) else
    let va := b + off s
    let f := fit s
    let (s, tg) ← target s va n .load false
    .ok ((s.loadRelaxed t tg va n f .none).retire m)

/-- OFF10, OFF6 or OFF8, or the combined immediate, times the access size (R38, R40). -/
def scaled {k : Nat} (off : BitVec k) (n : Nat) (s : State) : Word :=
  immOf s.me.hints off * BitVec.ofNat 64 n

/-- 16 loaded bytes with a tag. -/
def quadLoad (t : Tag) (v : Nat) : RV := (Fit.quad t).value v

/-- The HMOD FMT override, or RAW (R40). -/
def fmtTag (s : State) : Tag := (Tag.ofCode (modFmt (modOf s.me.hints))).getD .raw

/-- HMOD FMT does not ask for NAME (R36). -/
def fmtNotName (s : State) : Bool := fmtTag s != .name

/-- What LDS takes (R40, R41). -/
def takesLds : Takes := { imm := true, stream := true }

/-- A load of LDS: a number of `n` bytes. -/
def loadNumber (m : Bool) (t b : Reg) (o : BitVec 10) (n : Nat) (fit : Fit) :=
  loadWord takesLds m t b (scaled o n) n (fun _ => true) fun _ => fit

def execLdb (m : Bool) (t b : Reg) (o : BitVec 10) := loadNumber m t b o 1 .zext
def execLdbs (m : Bool) (t b : Reg) (o : BitVec 10) := loadNumber m t b o 1 (.sext 1)
def execLdh (m : Bool) (t b : Reg) (o : BitVec 10) := loadNumber m t b o 2 .zext
def execLdhs (m : Bool) (t b : Reg) (o : BitVec 10) := loadNumber m t b o 2 (.sext 2)
def execLdw (m : Bool) (t b : Reg) (o : BitVec 10) := loadNumber m t b o 4 .zext
def execLdws (m : Bool) (t b : Reg) (o : BitVec 10) := loadNumber m t b o 4 (.sext 4)
def execLdd (m : Bool) (t b : Reg) (o : BitVec 10) := loadNumber m t b o 8 .zext
/-- LDQ alone takes HMOD FMT (R246). With I64 all 128 bits stay (DESIGN CHOICE, log 58). -/
def execLdq (m : Bool) (t b : Reg) (o : BitVec 10) :=
  loadWord { takesLds with fmt := true } m t b (scaled o 16) 16 fmtNotName fun s => .quad (fmtTag s)
/-- LDV tags its result FMT (R248); NAME traps FORMAT (R36). With I64 all 128 bits stay (DESIGN
CHOICE, log 58). -/
def execLdv (m : Bool) (t b : Reg) (f : BitVec 5) (o : BitVec 8) :=
  loadWord { imm := true, stream := true } m t b (scaled o 16) 16 (fun _ => f != 0x0F#5)
    fun _ => .quad ((Tag.ofCode f).getD .raw)

/-- A relaxed store of the low `n` bytes of the data register (R245). -/
def storeWord (m : Bool) (t base : Reg) (off : State → Word) (n : Nat) (tagOk : Tag → Bool)
    (s : State) : Host.Outcome State Fault Refusal :=
  issue { imm := true } s fun s => do
    touch s [base, t]
    let b ← srcInt s base
    if !tagOk (s.me.read t).tag then .error (.plain .format) else
    let va := b + off s
    let (s, tg) ← target s va n .store false
    let s ← storeRelaxed s tg va n ((s.me.read t).val.toNat % 2 ^ (8 * n))
    .ok (s.retire m)

def execStb (m : Bool) (t b : Reg) (o : BitVec 10) :=
  storeWord m t b (scaled o 1) 1 fun _ => true
def execSth (m : Bool) (t b : Reg) (o : BitVec 10) :=
  storeWord m t b (scaled o 2) 2 fun _ => true
def execStw (m : Bool) (t b : Reg) (o : BitVec 10) :=
  storeWord m t b (scaled o 4) 4 fun _ => true
def execStd (m : Bool) (t b : Reg) (o : BitVec 10) :=
  storeWord m t b (scaled o 8) 8 fun _ => true
def execStq (m : Bool) (t b : Reg) (o : BitVec 10) :=
  storeWord m t b (scaled o 16) 16 fun _ => true
/-- STV with FMT 0 stores any tag, else the data register's tag must equal FMT (R36, R248). -/
def execStv (m : Bool) (t b : Reg) (f : BitVec 5) (o : BitVec 8) :=
  storeWord m t b (scaled o 16) 16 fun g => f == 0 || g.code == f

/-! ## Acquire loads and release stores (R247) -/

/-- Bytes selected by SZ of LDAQ and STRL: 1, 2, 4, 8, 16 (R247). -/
def sizeOf (z : BitVec 3) : Nat := 2 ^ z.toNat

/-- What the bytes of LDAQ become: RAW for 16, else a number (R247). -/
def fitOf (n : Nat) : Fit := if n = 16 then .quad .raw else .zext

/-- LDAQ: the load is the acquire's load part at SCOPE (R244, R247). -/
def execLdaq (m : Bool) (t b : Reg) (o : BitVec 6) (z : BitVec 3) (c : BitVec 4) (s : State) :
    Host.Outcome State Fault Refusal :=
  issue { imm := true, stream := true } s fun s => do
    touch s [b, t]
    let x ← srcInt s b
    let n := sizeOf z
    let va := x + scaled o n s
    let (s, tg) ← target s va n .load false
    strong s
    let (s, v) ← loadAcquire s tg va c n
    .ok ((s.wr t ((fitOf n).value v) .none .var).retire m)

/-- STRL: a release at SCOPE, then the store (R244, R247). -/
def execStrl (m : Bool) (t b : Reg) (o : BitVec 6) (z : BitVec 3) (c : BitVec 4) (s : State) :
    Host.Outcome State Fault Refusal :=
  issue { imm := true } s fun s => do
    touch s [b, t]
    let x ← srcInt s b
    let n := sizeOf z
    let va := x + scaled o n s
    let v := (s.me.read t).val.toNat % 2 ^ (8 * n)
    let (s, tg) ← target s va n .store false
    strong s
    let s ← release s c
    let s ← storeRelease s tg va n v
    .ok (s.retire m)

/-! ## Full-empty accesses (R241, R242, R249) -/

/-- A full-empty access at its home (R241, R242): a fault of another package traps, an access whose
condition does not hold parks its slot, and one that reads poison traps MEMERR. -/
def feHome (op : FeOp) (m : Bool) (t : Reg) (va : Word) (quad : Bool) (data : Quad) (c : BitVec 4)
    (s : State) (pa : Nat) : Except Stop State :=
  if s.homeStands pa ∨ (!op.reads ∧ (ackRoom s pa).isOk = false) then .error .hold else
  let s := s.atHome s.focus pa (feBytes quad)
  let s := if op.reads then s.exchange (dieOf s.focus) pa []
    else s.exchangeWrite (dieOf s.focus) pa (bytesLE (feBytes quad) data.toNat)
  match if op.reads then s.remoteFault pa else s.writeFault pa (feBytes quad) with
  | some .fabric =>
    let s := if op = .rff ∨ op = .rawfe then s
      else s.lost s.focus pa (.fe op quad data) fun s =>
        if s.feReady op (feWords pa quad) then (s.feApply op pa quad data).1.feChanged pa else s
    trapFound s .fabric pa (feBytes quad) va
  | some e => trapFound s e pa (feBytes quad) va
  | none =>
    if !s.feReady op (feWords pa quad) then
      .ok (s.parkAt s.focus ⟨.fe op quad data, t, pa, va, c, m, s.nominal s.focus, false, false,
        s.sidereal, false⟩)
    else if s.fePoison op pa quad then trapFound s .memErr pa (feBytes quad) va
    else
      let state := s.feState (feWords pa quad)
      let (s, v) := s.feApply op pa quad data
      .ok (((s.feDeliver s.focus op quad t c v state).feChanged pa).settle s.focus m)

/-- LDFE and STFE: checks, release for a store part, and the access at its home. -/
def feAccess (op : FeOp) (h : Takes) (m : Bool) (t b : Reg) (z : BitVec 3) (c : BitVec 4)
    (s : State) : Host.Outcome State Fault Refusal :=
  issue h s fun s => do
    touch s [b, t]
    let va ← srcInt s b
    let quad := z == 4#3
    let data := (s.me.read t).val
    let (s, tg) ← target s va (feBytes quad) (if op.reads then .feLoad else .feStore) false
    strong s
    let s ← if op.reads then .ok s else release s c
    match tg with
    | .scratch .. => .error (.at_ .prot va 23)
    | .phys pa _ => feHome op m t va quad data c s pa

def execLdfeRff (m : Bool) (t b : Reg) (z : BitVec 3) (c : BitVec 4) :=
  feAccess .rff {} m t b z c
def execLdfeRfe (m : Bool) (t b : Reg) (z : BitVec 3) (c : BitVec 4) :=
  feAccess .rfe { eff := true } m t b z c
def execLdfeRawfe (m : Bool) (t b : Reg) (z : BitVec 3) (c : BitVec 4) :=
  feAccess .rawfe {} m t b z c
def execStfeWef (m : Bool) (t b : Reg) (z : BitVec 3) (c : BitVec 4) :=
  feAccess .wef { eff := true } m t b z c
def execStfeWaf (m : Bool) (t b : Reg) (z : BitVec 3) (c : BitVec 4) :=
  feAccess .waf { eff := true } m t b z c
def execStfeWae (m : Bool) (t b : Reg) (z : BitVec 3) (c : BitVec 4) :=
  feAccess .wae { eff := true } m t b z c
/-- STFE .sete has T = z (R249). -/
def execStfeSete (m : Bool) (b : Reg) (z : BitVec 3) (c : BitVec 4) :=
  feAccess .sete { eff := true } m 0#6 b z c

/-! ## Atomics (R250) -/

/-- The read and the write of an atomic, in one step at its home (R250). -/
def State.modify (s : State) (t : Target) (n : Nat) (new : Nat → Option Nat) : State :=
  match new (s.readAt t n) with
  | some v => s.storeHome t n v
  | none => s

/-- The fault an atomic meets at its home: poison, or what another package answers. -/
def State.atomicFault (s : State) (t : Target) (n : Nat) : Option Cause :=
  match t with
  | .scratch .. => none
  | .phys pa _ => if s.poisoned pa n then some .memErr else s.writeFault pa n

/-- The home of an atomic's location, as the atomic finds it. -/
def State.atomicHome (s : State) (t : Target) (n : Nat) (src : Quad) : State :=
  match t with
  | .scratch .. => s
  | .phys pa _ => (s.atHome s.focus pa n).exchangeWrite (dieOf s.focus) pa (bytesLE n src.toNat)

/-- The home of an atomic can take it now: its die runs (R387), and its class has room (R298). -/
def atomicRoom (s : State) (t : Target) : Except Stop Unit :=
  match t with
  | .scratch .. => .ok ()
  | .phys pa _ => do
    homeRuns s pa
    ackRoom s pa

/-- What becomes of an atomic that has gone unanswered is open (R339). -/
def State.atomicLost (s : State) (t : Target) (n : Nat) (op : AtomOp) (src : Quad)
    (new : Nat → Option Nat) : State :=
  match t with
  | .scratch .. => s
  | .phys pa _ => s.lost s.focus pa (.atomic op n src) fun s => s.modify t n new

/-- An atomic (R244, R250): poison at its home traps before the release (R341); then, for ORD 2 and 3,
the release, the read-modify-write, and for ORD 1 and 3 the acquire. The old value goes into T.
`new` gives what is written, if anything, and `res` the result; `op` and `src` name the same operation. -/
def atomicAt (s : State) (m : Bool) (t : Reg) (va : Word) (n : Nat) (o : BitVec 2) (c : BitVec 4)
    (float : Bool) (op : AtomOp) (src : Quad) (new : Nat → Option Nat) (res : Nat → RV) :
    Except Stop State := do
  let (s, tg) ← target s va n .atomic float
  strong s
  atomicRoom s tg
  let s := s.atomicHome tg n src
  let pa := match tg with
    | .scratch _ off => off
    | .phys pa _ => pa
  let fault := s.atomicFault tg n
  if fault = some .memErr then trapFound s .memErr pa n va else
  let s ← if o.getLsbD 1 then release s c else .ok s
  match fault with
  | some e =>
    let s := if e = .fabric then s.atomicLost tg n op src new else s
    trapFound s e pa n va
  | none =>
    let old := s.readAt tg n
    let s := (s.modify tg n new).changed tg
    let s := if o.getLsbD 0 then s.acquire c else s
    .ok ((s.wr t (res old) .none .var).retire m)

/-- The bytes an atomic covers (R250). -/
def atomicBytes (w : BitVec 1) : Nat := if w = 1#1 then 8 else 4

/-- An old value of `n` bytes as a result, sign-extended or zero-extended (R250). -/
def oldSext (n v : Nat) : RV := .int ((BitVec.ofNat (8 * n) v).signExtend 64)
def oldZext (v : Nat) : RV := .int (BitVec.ofNat 64 v)

/-- The integer atomics but ACAS: SRC is I64 or RAW. `f n old src` is the new value. -/
def atomicInt (m : Bool) (t b r : Reg) (o : BitVec 2) (w : BitVec 1) (c : BitVec 4)
    (signed : Bool) (op : AtomOp) (f : (n : Nat) → BitVec (8 * n) → BitVec (8 * n) → BitVec (8 * n))
    (s : State) : Host.Outcome State Fault Refusal :=
  issue { eff := true } s fun s => do
    touch s [b, r, t]
    let va ← srcInt s b
    let v ← srcInt s r
    let n := atomicBytes w
    atomicAt s m t va n o c false op (v.setWidth 128)
      (fun old => some (f n (BitVec.ofNat _ old) (v.setWidth _)).toNat)
      (fun old => if signed then oldSext n old else oldZext old)

def execAadd (m : Bool) (t b r : Reg) (o : BitVec 2) (w : BitVec 1) (c : BitVec 4) :=
  atomicInt m t b r o w c true .add fun _ x y => x + y
def execAmin (m : Bool) (t b r : Reg) (o : BitVec 2) (w : BitVec 1) (c : BitVec 4) :=
  atomicInt m t b r o w c true .min fun _ x y => if y.slt x then y else x
def execAmax (m : Bool) (t b r : Reg) (o : BitVec 2) (w : BitVec 1) (c : BitVec 4) :=
  atomicInt m t b r o w c true .max fun _ x y => if x.slt y then y else x
def execAminu (m : Bool) (t b r : Reg) (o : BitVec 2) (w : BitVec 1) (c : BitVec 4) :=
  atomicInt m t b r o w c false .minu fun _ x y => if y.ult x then y else x
def execAmaxu (m : Bool) (t b r : Reg) (o : BitVec 2) (w : BitVec 1) (c : BitVec 4) :=
  atomicInt m t b r o w c false .maxu fun _ x y => if x.ult y then y else x
def execAand (m : Bool) (t b r : Reg) (o : BitVec 2) (w : BitVec 1) (c : BitVec 4) :=
  atomicInt m t b r o w c true .and fun _ x y => x &&& y
def execAor (m : Bool) (t b r : Reg) (o : BitVec 2) (w : BitVec 1) (c : BitVec 4) :=
  atomicInt m t b r o w c true .or fun _ x y => x ||| y
def execAxor (m : Bool) (t b r : Reg) (o : BitVec 2) (w : BitVec 1) (c : BitVec 4) :=
  atomicInt m t b r o w c true .xor fun _ x y => x ^^^ y
def execAswp (m : Bool) (t b r : Reg) (o : BitVec 2) (w : BitVec 1) (c : BitVec 4) :=
  atomicInt m t b r o w c true .swap fun _ _ y => y

/-- ACAS: SRC and T are I64 or RAW, and T is the expected value (R250). -/
def execAcas (m : Bool) (t b r : Reg) (o : BitVec 2) (w : BitVec 1) (c : BitVec 4) (s : State) :
    Host.Outcome State Fault Refusal :=
  issue { eff := true } s fun s => do
    touch s [b, r, t]
    let va ← srcInt s b
    let v ← srcInt s r
    let e ← srcInt s t
    let n := atomicBytes w
    atomicAt s m t va n o c false (.cas (e.setWidth 128)) (v.setWidth 128)
      (fun old => if old = e.toNat % 2 ^ (8 * n) then some (v.toNat % 2 ^ (8 * n)) else none)
      (fun old => oldSext n old)

/-- ACAS2 and NMCAS share their words: on NAME operands the result is a NAME, on others RAW, and
exactly one NAME traps FORMAT (R89, R250). -/
def acas2At (m : Bool) (t b r : Reg) (o : BitVec 2) (c : BitVec 4) (s : State) :
    Host.Outcome State Fault Refusal :=
  issue { eff := true } s fun s => do
    touch s [b, r, t]
    let va ← srcInt s b
    let v := s.me.read r
    let e := s.me.read t
    if (v.tag == .name) != (e.tag == .name) then .error (.plain .format) else
    atomicAt s m t va 16 o c false (.cas e.val) v.val
      (fun old => if old = e.val.toNat then some v.val.toNat else none)
      (fun old => quadLoad (if e.tag = .name then .name else .raw) old)

def execAcas2 (m : Bool) (t b r : Reg) (o : BitVec 2) (c : BitVec 4) := acas2At m t b r o c
/-- NMCAS is ACAS2 on NAME operands; the tags select at issue (R50, R89). -/
def execNmcas (m : Bool) (t b r : Reg) (o : BitVec 2) (c : BitVec 4) := acas2At m t b r o c

/-! ## Fences (R251, R252) -/

/-- The four FENCE kinds, all strong. -/
def fenceWord (m : Bool) (f : State → Except Stop State) (s : State) :
    Host.Outcome State Fault Refusal :=
  issue {} s fun s => do
    strong s
    let s ← f s
    .ok (s.retire m)

/-- FENCE: a release and then an acquire (R244; DEDUCED beside R305, log 77). -/
def execFence (m : Bool) (c : BitVec 4) := fenceWord m fun s => do
  let s ← release s c
  .ok (s.acquire c)
/-- FENCEW: the release alone. -/
def execFencew (m : Bool) (c : BitVec 4) := fenceWord m (release · c)
/-- FENCER: the acquire alone, after the earlier loads. -/
def execFencer (m : Bool) (c : BitVec 4) := fenceWord m fun s => .ok ((s.allLoads s.focus).acquire c)
/-- ACKWAIT: the wait for the classes alone. -/
def execAckwait (m : Bool) (c : BitVec 4) :=
  fenceWord m fun s => .ok (s.waitAcks s.focus (scopeCovers c))

/-- EFENCE waits for every earlier memory operation and then raises a pending error (R252). -/
def execEfence (m : Bool) (s : State) : Host.Outcome State Fault Refusal :=
  issue {} s fun s => do
    let s := s.answered s.focus
    strong s
    .ok (s.retire m)

end Sys2Proof.Machine
end

