-- ==== Sys2Proof/Machine/Names.lean ====
section
/-! DEFINITION. Names and the Almanac (R69 to R89): check codes, the table, resolution, and the
meanings of the NAME instructions and events. A location is a physical address or a core address
(R74). -/

namespace Sys2Proof.Machine

/-! ## The name (R69 to R71) -/

def nameOrigin (n : Quad) : BitVec 16 := n.extractLsb' 112 16
def nameClass (n : Quad) : Byte := n.extractLsb' 104 8
def nameSerial (n : Quad) : BitVec 88 := n.extractLsb' 0 88

/-- The classes of R70. -/
def clsQueue : Byte := 0x01
def clsBarrier : Byte := 0x02
def clsRegion : Byte := 0x03
def clsAged : Byte := 0x05
def clsJoin : Byte := 0x06
def clsPort : Byte := 0x07

/-- The `n` low bytes of a number, lowest first. -/
def natBytes (v n : Nat) : List Nat := (List.range n).map fun i => v / 256 ^ i % 256

/-- The check code of a name's other fields under a key (R71). -/
def checkCode (key : Quad) (origin : BitVec 16) (cls : Byte) (serial : BitVec 88) : BitVec 16 :=
  let t := aesCmac (natBlock key.toNat)
    (natBytes (origin ++ cls).toNat 3 ++ natBytes serial.toNat 11)
  BitVec.ofNat 16 (t.getD 0 0 + 256 * t.getD 1 0)

/-- The origin field of the package's own names. -/
def State.origin (s : State) : BitVec 16 := s.image.pod ++ s.image.pkg

/-- A name of this package with its check code (R69). -/
def State.mkName (s : State) (cls : Byte) (serial : BitVec 88) : Quad :=
  s.origin ++ cls ++ checkCode s.image.key s.origin cls serial ++ serial

/-- The name was never issued by this package, or its check code is wrong (R78). -/
def State.forgedName (s : State) (n : Quad) : Bool :=
  decide (s.serial < nameSerial n)
    || n.extractLsb' 88 16 != checkCode s.image.key (nameOrigin n) (nameClass n) (nameSerial n)

/-! ## The table (R74 to R77) -/

/-- The sector of a core (R17); gateway and service cores have none. -/
def sectorOf (core : Nat) : Option Nat :=
  let cl := clusterNum (coreCluster core)
  if cl < 448 then some (coreDie core * 28 + cl / 16) else none

/-- The positions of the table where a name may stand: four entries of each of sixteen buckets,
from the home bucket on (R75). -/
def State.probes (s : State) (n : Quad) : List Nat :=
  let k := s.image.almanacK
  let home := (nameSerial n).toNat % 2 ^ 64 * 0x9E3779B97F4A7C15 % 2 ^ 64 / 2 ^ (66 - k)
  (List.range 64).map fun i => (home + i / 4) % 2 ^ (k - 2) * 4 + i % 4

/-! ### The names of bring-up (R93)

The QUEUE names of the ready queues and mailboxes, and of the service error queues, are the first that
bring-up issues. Their entries stand in the table where R75 places them, and are not listed as long as they
are as bring-up made them (DESIGN CHOICE, log 19). -/

/-- How many names bring-up issues: of twenty queues of each of 453 clusters of eight dies, and of the
eight error queues. -/
def bornCount : Nat := 72488

/-- The queue that gets the `i`-th of them. -/
def bornQueue (i : Nat) : Nat × Nat :=
  if i < 72480 then (i / 20 / 453 * 512 + i / 20 % 453, i % 20) else ((i - 72480) * 512 + 452, 20)

/-- Which of them a queue gets. -/
def bornIndex (cl q : Nat) : Option Nat :=
  if 4096 ≤ cl ∨ 453 ≤ clusterNum cl then none
  else if q < 20 then some ((cl / 512 * 453 + clusterNum cl) * 20 + q)
  else if q = 20 ∧ clusterNum cl = 452 then some (72480 + cl / 512)
  else none

/-- Where the service keeps the descriptor of a queue that bring-up names. -/
def State.bornLoc (s : State) (cl q : Nat) : Word :=
  BitVec.ofNat 64 (s.physOf (s.image.qdesc.toNat + 64 * (256 * cl + q)))

/-- The name. -/
def State.bornName (s : State) (i : Nat) : Quad :=
  s.mkName clsQueue (s.epoch ++ BitVec.ofNat 64 (i + 1))

/-- The hash of the `i`-th of them, a turn being 2^64 (R75). -/
def bornHash (i : Nat) : Nat := (i + 1) * 0x9E3779B97F4A7C15 % 2 ^ 64

/-- How far 377 names take the hash back. It is more than a bucket is wide, so that of the names whose
numbers agree modulo 377 one at most falls into a bucket. -/
def bornStep : Nat := 2 ^ 64 - 377 * 0x9E3779B97F4A7C15 % 2 ^ 64

/-- The names of bring-up whose home bucket is `h` in a table of 2^k entries. -/
def bornIn (k h : Nat) : List Nat :=
  (List.range 377).filterMap fun b =>
    let t := (bornHash b + 2 ^ 64 - h * 2 ^ (66 - k)) % 2 ^ 64
    let i := b + 377 * (t / bornStep)
    if t % bornStep < 2 ^ (66 - k) ∧ i < bornCount then some i else none

/-- The earlier ones in the home bucket of the `i`-th. -/
def bornRank (k i : Nat) : Nat := ((bornIn k (bornHash i / 2 ^ (66 - k))).filter (decide <| · < i)).length

/-- Where the `i`-th stands. From 2^17 entries on its home bucket has room for it; for what a table of 2^16
entries has no room for, a position past the table stands (DESIGN CHOICE, log 19). -/
def State.bornPos (s : State) (i : Nat) : Nat :=
  let k := s.image.almanacK
  if bornRank k i < 4 then bornHash i / 2 ^ (66 - k) * 4 + bornRank k i else 2 ^ k + i

/-- The name of bring-up that is placed at a position of the table. -/
def State.bornHere (s : State) (p : Nat) : Option Nat :=
  let k := s.image.almanacK
  (bornIn k (p / 4)).find? fun i => bornRank k i == p % 4

/-- The position is FREE (R74, R75). -/
def State.freeAt (s : State) (p : Nat) : Bool :=
  match s.almanac.find p with
  | some e => e.name == 0
  | none => (s.bornHere p).isNone

/-- The entry of such a name as bring-up makes it. Its owner is service core 0 of the cluster's die
(DESIGN CHOICE, log 19). -/
def State.bornEntry (s : State) (n : Quad) (i : Nat) : Entry :=
  let (cl, q) := bornQueue i
  let owner : BitVec 28 := s.image.pkg ++ BitVec.ofNat 18 (4 * (cl / 512 * 8192 + 7232))
  ⟨n, .live, owner, s.bornLoc cl q, 0, [], 0, false, false⟩

/-- The number of a name that bring-up has issued. -/
def State.bornOf (s : State) (n : Quad) : Option Nat :=
  let i := (nameSerial n).toNat % 2 ^ 64
  if (nameSerial n).toNat / 2 ^ 64 = s.epoch.toNat ∧ nameClass n = clsQueue ∧ 1 ≤ i ∧ i ≤ bornCount
  then some (i - 1) else none

/-- The entry of a name of bring-up, with its position. -/
def State.bornAt (s : State) (n : Quad) : Option (Nat × Entry) :=
  (s.bornOf n).bind fun i =>
    match s.almanac.find (s.bornPos i) with
    | none => some (s.bornPos i, s.bornEntry n i)
    | some e => if e.name = n then some (s.bornPos i, e) else none

/-- The entry of a name, with its position. The null name, which marks what bring-up had placed and is FREE
now, has none (R71). -/
def State.entryAt (s : State) (n : Quad) : Option (Nat × Entry) :=
  if n = 0 then none
  else
    match s.bornAt n with
    | some e => some e
    | none =>
      (s.probes n).findSome? fun p =>
        match s.almanac.find p with
        | some e => if e.name = n then some (p, e) else none
        | none => none

/-- The location that a queue's QUEUE name is bound to; 0 for none. -/
def State.descOf (s : State) (cl q : Nat) (x : Queue) : Word :=
  if x.desc ≠ 0 then x.desc
  else if (bornIndex cl q).isSome ∧ (q < 20 ∨ x.kind = .service) then s.bornLoc cl q
  else 0

/-- The queue of bring-up whose descriptor may lie at a location. -/
def State.bornThere (s : State) (l : Word) : Option (Nat × Nat) :=
  let o := localOf l.toNat - s.image.qdesc.toNat
  if l.toNat < 2 ^ 56 ∧ !s.remote l.toNat ∧ s.image.qdesc.toNat ≤ localOf l.toNat ∧ o % 64 = 0 then
    (bornIndex (o / 64 / 256) (o / 64 % 256)).map fun _ => (o / 64 / 256, o / 64 % 256)
  else none

/-- The queue a descriptor at a location is attached to (R93). -/
def State.queueAt (s : State) (l : Word) : Option (Nat × Nat) :=
  if l = 0 then none
  else
    let listed := s.clusters.findSome? fun c =>
      c.2.queues.findSome? fun q => if q.2.attached && q.2.desc == l then some (c.1, q.1) else none
    match s.bornThere l with
    | none => listed
    | some (cl, q) =>
      let x := (s.cluster cl).queue q
      if x.attached && s.descOf cl q x == l then some (cl, q) else listed

/-- Replace the entry at a position. -/
def State.setEntry (s : State) (p : Nat) (e : Entry) : State :=
  { s with almanac := s.almanac.set p e }

/-- The names a sector's cache holds. -/
def State.cacheOf (s : State) (q : Nat) : List (Quad × Word) := s.caches.get [] q
def State.setCache (s : State) (q : Nat) (l : List (Quad × Word)) : State :=
  { s with caches := s.caches.set q l }

/-- The set of a sector's name cache that a name falls into, and the ways of a set (R77). -/
def nameSet (n : Quad) : Nat := (nameSerial n).toNat % 512
def nameWays : Nat := 8

/-- A name leaves a sector's cache. -/
def State.dropName (s : State) (q : Nat) (n : Quad) : State :=
  s.setCache q ((s.cacheOf q).filter fun e => e.1 != n)

/-- A sector's cache takes a name; in a full set some entry is dropped for it, which is open (R77). -/
def State.keepName (s : State) (q : Nat) (n : Quad) (l : Word) : State :=
  let s := s.dropName q n
  let set := (s.cacheOf q).filter fun e => nameSet e.1 == nameSet n
  let s := if set.length < nameWays then s
    else
      match set[Config.choice s.free 0x3300 % set.length]? with
      | some e => s.dropName q e.1
      | none => s
  s.setCache q ((n, l) :: s.cacheOf q)

/-! ## Resolution (R78, R79) -/

/-- What a resolution answers: gone, wait for a move, a location, that the name is another package's,
whose Almanac answers, or that this package cannot be reached. -/
inductive Res where
  | gone
  | moving
  | loc (l : Word)
  | remote
  | unreached
  deriving DecidableEq, Repr

/-- The class is the one expected (R61, R78). -/
def classOk (n : Quad) (cls : Option Byte) : Bool :=
  match cls with
  | some c => nameClass n == c
  | none => true

/-- The lookup at the Almanac agent, which fills the sector's cache (R78). -/
def State.lookup (s : State) (core : Nat) (n : Quad) (answer : Word → Res) : State × Res :=
  match s.entryAt n with
  | none => (s, .gone)
  | some (p, e) =>
    match e.state with
    | .retiring => (s, .gone)
    | .moving => (s, .moving)
    | .live =>
      match sectorOf core with
      | none => (s, answer e.loc)
      | some q =>
        ((s.setEntry p { e with presence := e.presence ||| BitVec.ofNat 224 (2 ^ q) }).keepName q n
          e.loc, answer e.loc)

/-- Resolve a name of this package for an access issued by a core (R78). A sector's cache may drop an
entry at any time (R77): whether it has is open. DEDUCED, log 23. -/
def State.resolveOwn (s : State) (core : Nat) (n : Quad) (cls : Option Byte) : State × Res :=
  if s.forgedName n then ({ s with forged := s.forged + 1 }, .gone)
  else
    let answer (l : Word) : Res := if classOk n cls then .loc l else .gone
    match sectorOf core with
    | none => s.lookup core n answer
    | some q =>
      match (s.cacheOf q).find? fun e => e.1 == n with
      | none => s.lookup core n answer
      | some e =>
        if Config.flag s.free 0x104 then (s.dropName q n).lookup core n answer else (s, answer e.2)

/-- The origin of a name of another package cannot be reached (R78): whether it can is open. -/
def State.unreached (s : State) : Bool := Config.flag s.free 0x100

/-- Resolve a name for an access issued by a core (R78). The null name is gone everywhere (R71), and so
is a name of another class wherever its origin answers (R61). -/
def State.resolve (s : State) (core : Nat) (n : Quad) (cls : Option Byte) : State × Res :=
  if nameOrigin n = s.origin then s.resolveOwn core n cls
  else if n = 0 then (s, .gone)
  else if s.unreached then (s, .unreached)
  else if !classOk n cls then (s, .gone)
  else (s, .remote)

/-! ## Locations -/

/-- The core address a location stands for, when it is one. -/
def locCore (l : Word) : Option CoreAddr := if l.getLsbD 63 then coreAddr l else none

/-- The location lies in a core of another package: what stands there is not seen here. -/
def State.foreign (s : State) (l : Word) : Bool :=
  match locCore l with
  | some a => a.pkg != s.image.pkg
  | none => false

/-- `n` bytes at a location: of a scratchpad of this package, of memory as its home holds it, or of a
core of another package, which are open. -/
def State.readLoc (s : State) (l : Word) (n : Nat) : Nat :=
  match locCore l with
  | some a =>
    if a.pkg = s.image.pkg then (s.core a.core).scratch.readLE a.off n else s.openBytes l.toNat n
  | none => s.homeRead l.toNat n

/-- Write the low `n` bytes of a number at a location. -/
def State.writeLoc (s : State) (l : Word) (n v : Nat) : State :=
  match locCore l with
  | some a =>
    if a.pkg = s.image.pkg then
      s.modCore a.core fun c => { c with scratch := c.scratch.writeLE a.off n v }
    else s
  | none => s.homeWrite l.toNat n v

/-- The location of an access target of the issuing slot. -/
def State.targetLoc (s : State) (t : Target) : Word :=
  match t with
  | .scratch k off => mkCoreAddr s.image.pkg k off
  | .phys pa _ => BitVec.ofNat 64 pa

/-- The narrowest scope that holds a package of another number (R57, R283): tray and pod cover the
same classes (R243), so that either stands for the other. -/
def State.scopePkg (s : State) (pkg : BitVec 10) : BitVec 4 :=
  if s.image.reach.any fun r => r.1 == pkg then 8 else 7

/-- The narrowest scope that holds the origin of a name. -/
def State.scopeName (s : State) (n : Quad) : BitVec 4 :=
  if (nameOrigin n).extractLsb' 10 6 = s.image.pod then 7 else 8

/-- The package that a package number of an address stands for: one of the own pod, or the reach alias of
one of another pod (R347), as an ORIGIN field. -/
def State.originPkg (s : State) (pkg : BitVec 10) : BitVec 16 :=
  match s.image.reach.find? fun r => r.1 == pkg with
  | some r => r.2.1 ++ r.2.2
  | none => s.image.pod ++ pkg

/-- Where an object stands: at a location, or in another package within a scope. -/
inductive Place where
  | at (l : Word)
  | away (scope : BitVec 4) (origin : BitVec 16)
  deriving DecidableEq, Repr

/-- The place of a location. -/
def State.placeOf (s : State) (l : Word) : Place :=
  match locCore l with
  | some a => if a.pkg = s.image.pkg then .at l else .away (s.scopePkg a.pkg) (s.originPkg a.pkg)
  | none => .at l

/-- A request of the slot whose turn it is for an object of another package crosses the fabric (R336). -/
def State.ask (s : State) (p : Place) (bytes : List Byte) : State :=
  match p with
  | .at _ => s
  | .away _ origin => s.toOrigin (dieOf s.focus) origin bytes

/-- `n` bytes of an object from `off` on; those of another package's are open. -/
def State.readPlace (s : State) (p : Place) (off n : Nat) : Nat :=
  match p with
  | .at l => s.readLoc (l + BitVec.ofNat 64 off) n
  | .away .. => s.openBytes (2 ^ 54 + off) n

/-- Write `n` bytes of an object at `off`. -/
def State.writePlace (s : State) (p : Place) (off n v : Nat) : State :=
  match p with
  | .at l => s.writeLoc (l + BitVec.ofNat 64 off) n v
  | .away .. => s

/-- A name an instruction of the issuing slot uses: a gone one traps NAMEGONE, one that is moving
holds issue (R79, R82); the origin of another package's name may be out of reach, and the instruction
traps FABRIC (R78). -/
def useName (s : State) (n : Quad) (cls : Byte) : Except Stop (State × Place) :=
  match s.resolve (coreOf s.focus) n (some cls) with
  | (t, .gone) => during t (.error (.plain .nameGone))
  | (_, .moving) => .error .hold
  | (t, .loc l) => .ok (t, t.placeOf l)
  | (_, .unreached) => .error (.plain .fabric)
  | (t, .remote) =>
    let p : Place := .away (t.scopeName n) (nameOrigin n)
    if Config.flag s.free 0x101 then during (t.ask p []) (.error (.plain .nameGone)) else .ok (t, p)

/-- A descriptor address as NMINT and NMMOVE take it (R84): a scratchpad offset, a core address,
or a global virtual address, on a 64-byte boundary; with it, whether its page is FE or DET. A global
address is checked as a load of it is (DESIGN CHOICE, log 59). -/
def descLoc (s : State) (v : Word) : Except Stop (State × Word × Bool) :=
  if v.extractLsb' 0 6 ≠ 0#6 then .error (.at_ .misalign v 0)
  else if v.extractLsb' 62 2 = 2#2 then
    if (coreAddr v).isSome then .ok (s, v, false) else .error (.at_ .prot v 0)
  else do
    let (s, t) ← target s v 64 .load false
    let odd : Bool := match t with
      | .scratch .. => false
      | .phys _ leaf => pteFe leaf || pteDet leaf
    .ok (s, s.targetLoc t, odd)

/-! ## NMINT (R84) -/

/-- The region a REGION descriptor gives (R103). -/
def State.regionAt (s : State) (l : Word) (n : Quad) : DetRegion :=
  ⟨BitVec.ofNat 64 (s.readLoc l 8), BitVec.ofNat 64 (s.readLoc (l + 8) 8),
   BitVec.ofNat 16 (s.readLoc (l + 16) 8), n⟩

/-- The capability of a region passes to a core: its table takes the region and the descriptor's
word 3 its address (R67, R103). -/
def State.giveRegion (s : State) (core : Nat) (l : Word) (r : DetRegion) : State :=
  (s.modCore core fun k => { k with det := k.det ++ [r] }).writeLoc (l + 24) 8
    (mkCoreAddr s.image.pkg core 0).toNat

/-- The capability leaves a core (R67). -/
def State.dropRegion (s : State) (core : Nat) (n : Quad) : State :=
  s.modCore core fun k => { k with det := k.det.filter fun r => r.name != n }

/-- The 32 reserved bytes of a REGION descriptor are zero (R103). -/
def State.regionPlain (s : State) (l : Word) : Bool := s.readLoc (l + 32) 32 == 0

/-- Draw a serial and place an entry (R72, R75): a full table, or a count that would pass its
end, traps QUEUEFULL; the serial a full table refuses is never issued. -/
def State.mint (s : State) (cls : Byte) (owner : BitVec 28) (loc : Word) (odd : Bool) :
    Except (State × Nat) (State × Quad) :=
  if s.serial.setWidth 64 = BitVec.allOnes 64 then .error (s, 5)
  else
    let serial := s.serial + 1
    let s := { s with serial := serial }
    let n := s.mkName cls serial
    match (s.probes n).find? s.freeAt with
    | none => .error (s, 4)
    | some p => .ok (s.setEntry p ⟨n, .live, owner, loc, 0, [], 0, odd, false⟩, n)

/-- The owner of a name minted by a core (R74). -/
def State.ownerOf (s : State) (core : Nat) : BitVec 28 := s.image.pkg ++ BitVec.ofNat 18 (4 * core)

/-- NMINT (R84). A REGION descriptor with a reserved byte set traps FORMAT (R6; DESIGN CHOICE,
log 61). -/
def execNmint (m : Bool) (d a b : Reg) (s : State) : Host.Outcome State Fault Refusal :=
  issue { eff := true } s fun s => do
    touch s [a, b, d]
    let c ← srcInt s a
    let v ← srcInt s b
    let core := coreOf s.focus
    if c = 0 ∨ (0x08 ≤ c.toNat ∧ c.toNat ≤ 0x7F) ∨ 0xFF < c.toNat then .error (.info .format 2)
    else if 0x80 ≤ c.toNat ∧ !s.me.super then .error (.info .prot 2)
    else
      let (s, loc, odd) ← descLoc s v
      let region : Bool := c == 3
      if region && decide (8 ≤ s.myCore.det.length) then during s (.error (.info .capability 2)) else
      strong s
      let s ← release s scopePackage
      if region && !s.regionPlain loc then during s (.error (.info .format 2)) else
      match s.mint (c.setWidth 8) (s.ownerOf core) loc odd with
      | .error (t, n) => during t (.error (.info .queueFull n))
      | .ok (s, n) =>
        let s := if region then s.giveRegion core loc (s.regionAt loc n) else s
        .ok ((s.wr d ⟨n, .name⟩ .l0 .var).retire m)

/-! ## Reading names (R85, R86) -/

/-- NMRES answers a class, never a trap for a gone name (R85). -/
def execNmres (m : Bool) (d a : Reg) (s : State) : Host.Outcome State Fault Refusal :=
  issue {} s fun s => do
    touch s [a, d]
    let n ← srcName s a
    let done (s : State) (v : Word) : State := (s.wr d (.int v) .l0 .var).retire m
    match s.resolve (coreOf s.focus) n none with
    | (s, .gone) => .ok (done s 0)
    | (_, .moving) => .error .hold
    | (s, .loc _) => .ok (done s ((nameClass n).setWidth 64))
    | (_, .unreached) => .error (.plain .fabric)
    | (s, .remote) =>
      let s := s.toOrigin (dieOf s.focus) (nameOrigin n) []
      if Config.flag s.free 0x101 then .ok (done s 0)
      else .ok (done s ((nameClass n).setWidth 64))

/-- A number read off a name (R85). -/
def nameOp1 (m : Bool) (d a : Reg) (f : Quad → Word) (s : State) :
    Host.Outcome State Fault Refusal :=
  issue {} s fun s => do
    touch s [a, d]
    let n ← srcName s a
    .ok ((s.wr d (.int (f n)) .l0 (.fixed 1)).retire m)

def execNmcls (m : Bool) (d a : Reg) := nameOp1 m d a fun n => (nameClass n).setWidth 64
def execNmorg (m : Bool) (d a : Reg) := nameOp1 m d a fun n => (nameOrigin n).setWidth 64

def execNmeq (m : Bool) (d a b : Reg) (s : State) : Host.Outcome State Fault Refusal :=
  issue {} s fun s => do
    touch s [a, b, d]
    let x ← srcName s a
    let y ← srcName s b
    .ok ((s.wr d (.int (if x = y then 1 else 0)) .l0 (.fixed 1)).retire m)

/-- NMLD: a relaxed load of 16 bytes with tag NAME (R86). -/
def execNmld (m : Bool) (d a : Reg) (s : State) : Host.Outcome State Fault Refusal :=
  issue {} s fun s => do
    touch s [a, d]
    let va ← srcInt s a
    let (s, t) ← target s va 16 .load false
    .ok ((s.loadRelaxed d t va 16 (.quad .name) .l0).retire m)

/-- NMST: a relaxed store of a name's 16 bytes (R86). -/
def execNmst (m : Bool) (a b : Reg) (s : State) : Host.Outcome State Fault Refusal :=
  issue { eff := true } s fun s => do
    touch s [a, b]
    let va ← srcInt s a
    let n ← srcName s b
    let (s, t) ← target s va 16 .store false
    let s ← storeRelaxed s t va 16 n.toNat
    .ok (s.retire m)

/-! ## Retirement and moving (R80 to R83, R87, R88) -/

/-- Accesses through the name are in flight, resolved through sector `q` by an engine command that has
started, or at the agent itself where the core lies in no sector or the access comes from another
package (R78, R81). -/
def State.inFlight (s : State) (n : Quad) (q : Option Nat) : Bool :=
  (s.cores.any fun e => decide (sectorOf e.1 = q) && e.2.queue.any fun c => c.names.contains n)
    || (q.isNone && s.incoming.any fun r => r.via == some n)

/-- The sectors whose cache may hold a name. -/
def presentIn (p : BitVec 224) : List Nat := (List.range 224).filter p.getLsbD

/-- The retirement of a name is complete: its entry is free (R81 step 5). That bring-up's entry there is
gone has to be listed: by the null name. -/
def State.freeName (s : State) (p : Nat) : State :=
  if 2 ^ s.image.almanacK ≤ p ∨ (s.bornHere p).isSome then
    s.setEntry p ⟨0, .live, 0, 0, 0, [], 0, false, false⟩
  else { s with almanac := s.almanac.erase p }

/-- A move is complete: the 64 bytes are copied, the entry has the new location and is live, and
a queue bound to the descriptor stays bound to it (R82 steps 3 to 5). -/
def State.moveName (s : State) (p : Nat) (e : Entry) (dst : Word) (odd : Bool) : State :=
  let s := s.writeLoc dst 64 (s.readLoc e.loc 64)
  let s := match if nameClass e.name = clsQueue then s.queueAt e.loc else none with
    | some (cl, q) => s.modCluster cl fun k => k.setQueue q { k.queue q with desc := dst }
    | none => s
  s.setEntry p { e with
    state := .live, loc := dst, odd := odd, presence := 0, awaiting := [], newLoc := 0, newOdd := false }

/-- The slot holds issue until the step it waits for has come (R81 to R83). -/
def holdName (s : State) (o : NameOp) : Except Stop State :=
  .error (.became (s.modMe fun x => { x with nameOp := some o, slow := true }))

/-- Retiring or moving a name of another package is forwarded to its origin (R78, R87): what it meets
there is nothing, or the trap. -/
def awayName (s : State) (n : Quad) (owned : Bool) (bytes : List Byte) : Except Stop State :=
  if s.unreached then .error (.plain .fabric)
  else
    let s := s.toOrigin (dieOf s.focus) (nameOrigin n) bytes
    if Config.flag s.free 0x101 then during s (.error (.plain .nameGone))
    else if owned && Config.flag s.free 0x102 && !s.me.super then during s (.error (.plain .prot))
    else .ok s

/-- A name of this package that an instruction retires or moves, with its entry: a forged one counts,
and traps as a gone one does (R78, R87). -/
def ownEntry (s : State) (n : Quad) : Except Stop (Nat × Entry) :=
  if s.forgedName n then during { s with forged := s.forged + 1 } (.error (.plain .nameGone))
  else
    match s.entryAt n with
    | none => .error (.plain .nameGone)
    | some e => .ok e

/-- NMRET (R81, R83, R87). The word that has begun a retirement, or found one under way, holds
issue until the entry is free; then D says which of the two it was. -/
def execNmret (m : Bool) (d a : Reg) (s : State) : Host.Outcome State Fault Refusal :=
  issue { eff := true } s fun s => do
    touch s [a, d]
    let n ← srcName s a
    let done (s : State) (v : Word) : State :=
      ((s.modMe fun x => { x with nameOp := none }).wr d (.int v) .l0 .var).retire m
    match s.me.nameOp with
    | some o =>
      match s.entryAt n with
      | some _ => holdName s o
      | none => .ok (done s (if o = .other then 1 else 0))
    | none =>
      if nameOrigin n ≠ s.origin then
        if n = 0 then .error (.plain .nameGone)
        else do
          let s ← awayName s n true []
          .ok (done s (if Config.flag s.free 0x103 then 1 else 0))
      else do
        let (p, e) ← ownEntry s n
        if !s.me.super && e.owner != s.ownerOf (coreOf s.focus) then .error (.plain .prot)
        else
          match e.state with
          | .retiring => holdName s .other
          | .moving => .error .hold
          | .live =>
            if e.presence = 0 ∧ !s.inFlight n none then .ok (done (s.freeName p) 0)
            else
              let e := { e with state := .retiring, awaiting := presentIn e.presence }
              holdName (s.setEntry p e) .retire

/-- NMMOVE (R82, R83, R88). B is checked before the name in A is looked up (DESIGN CHOICE, log 60). -/
def execNmmove (m : Bool) (a b : Reg) (s : State) : Host.Outcome State Fault Refusal :=
  issue { super := true, eff := true } s fun s => do
    touch s [a, b]
    let n ← srcName s a
    let v ← srcInt s b
    let done (s : State) : State := (s.modMe fun x => { x with nameOp := none }).retire m
    match s.me.nameOp with
    | some o =>
      match s.entryAt n with
      | some (_, e) => if e.state = .moving then holdName s o else .ok (done s)
      | none => .ok (done s)
    | none => do
      let (s, dst, odd) ← descLoc s v
      during s <|
        if nameOrigin n ≠ s.origin then
          if n = 0 then .error (.plain .nameGone)
          else do
            let s ← awayName s n false (bytesLE 8 dst.toNat)
            .ok (done s)
        else do
          let (p, e) ← ownEntry s n
          match e.state with
          | .retiring => .error (.plain .nameGone)
          | .moving => .error .hold
          | .live =>
            if e.presence = 0 ∧ !s.inFlight n none then .ok (done (s.moveName p e dst odd))
            else
              let e := { e with
                state := .moving, awaiting := presentIn e.presence, newLoc := dst, newOdd := odd }
              holdName (s.setEntry p e) .move

/-! ## Events -/

/-- The frame of a step that no word makes: it comes about only where `ok` holds. -/
def event (s : State) (ok : Bool) (f : State → State) : Host.Outcome State Fault Refusal :=
  if ok then .next (f s.bump) else .refused .notEnabled

/-- A request from another package that waits for its name to be resolved here. -/
def State.unresolved (s : State) (n : Quad) (cls : Byte) : Option Nat :=
  s.incoming.findIdx? fun r => r.name == some (n, cls)

/-- A request goes, answered. From which die the answer leaves is open. -/
def State.dropIncoming (s : State) (k : Nat) : State :=
  let t : State := { s with incoming := s.incoming.eraseIdx k }
  match s.incoming[k]? with
  | none => t
  | some r => t.answerTo (Config.choice s.free 0x106 % 8) r.origin

/-- Another package retires a name of this one (R81, R83, R87): a caller that does not own it is
refused when it is in user mode, which is open. -/
def State.retireFor (s : State) (p : Nat) (e : Entry) (o : Sender) : State :=
  let owner : BitVec 28 := o.pkg ++ (o.coord &&& 0x3FFFC)
  if e.state ≠ .live ∨ (e.owner ≠ owner ∧ Config.flag s.free 0x105) then s
  else if e.presence = 0 ∧ !s.inFlight e.name none then s.freeName p
  else s.setEntry p { e with state := .retiring, awaiting := presentIn e.presence }

/-- Another package moves a name of this one (R82, R88). Whether the page of the new location is FE or DET, its
own translation has found. -/
def State.moveFor (s : State) (p : Nat) (e : Entry) (dst : Word) : State :=
  let odd := Config.flag s.free 0x107
  if e.state ≠ .live then s
  else if e.presence = 0 ∧ !s.inFlight e.name none then s.moveName p e dst odd
  else s.setEntry p { e with
    state := .moving, awaiting := presentIn e.presence, newLoc := dst, newOdd := odd }

/-- An access through a name of this package from another one, or of a join cell here, is resolved at the
Almanac, and never cached elsewhere (R78): a gone name answers the request, one that is moving waits, and an
access to a live one is in flight at the agent from then on. -/
def execRemoteNameResolution (n : Quad) (cls : Byte) (s : State) :
    Host.Outcome State Fault Refusal :=
  event s (nameOrigin n == s.origin && ((s.entryAt n).map (·.2.state)) != some .moving) fun s =>
    let forged := s.forgedName n
    let s := if forged then { s with forged := s.forged + 1 } else s
    match s.unresolved n cls with
    | none => s
    | some k =>
      match s.incoming[k]? with
      | none => s
      | some r =>
        let gone (s : State) : State :=
          match r.op with
          | .release .. =>
            { s with incoming := s.incoming.set k { r with name := none, loc := 0 } }
          | _ => s.dropIncoming k
        match if forged then none else s.entryAt n with
        | none => gone s
        | some (p, e) =>
          match r.op with
          | .retire => (s.retireFor p e r.origin).dropIncoming k
          | .move dst => (s.moveFor p e dst).dropIncoming k
          | _ =>
            if e.state ≠ .live ∨ nameClass n ≠ cls then gone s
            else
              { s with incoming := s.incoming.set k { r with name := none, via := some n, loc := e.loc } }

/-- A sector drops a name that is being retired or moved, and acknowledges once no access through
it is in flight there (R81 step 3). What a slot does through a name it does in the step that issues the word
(DESIGN CHOICE, log 1). -/
def execNameInvalidation (n : Quad) (q : Nat) (s : State) : Host.Outcome State Fault Refusal :=
  match s.entryAt n with
  | none => .refused .notEnabled
  | some (p, e) =>
    event s (e.state != .live && e.awaiting.contains q && !s.inFlight n (some q)) fun s =>
      (s.dropName q n).setEntry p
        { e with awaiting := e.awaiting.filter (· ≠ q)
                 presence := e.presence &&& ~~~BitVec.ofNat 224 (2 ^ q) }

/-- Every acknowledgement is in: the entry of a retiring name becomes free (R81 step 5). -/
def execNameRetireComplete (n : Quad) (s : State) : Host.Outcome State Fault Refusal :=
  match s.entryAt n with
  | none => .refused .notEnabled
  | some (p, e) =>
    event s (e.state == .retiring && e.awaiting.isEmpty && !s.inFlight n none) fun s => s.freeName p

/-- Every acknowledgement is in: the move of a name is done (R82). -/
def execNameMoveComplete (n : Quad) (s : State) : Host.Outcome State Fault Refusal :=
  match s.entryAt n with
  | none => .refused .notEnabled
  | some (p, e) =>
    event s (e.state == .moving && e.awaiting.isEmpty && !s.inFlight n none) fun s =>
      s.moveName p e e.newLoc e.newOdd

end Sys2Proof.Machine
end

