-- ==== Sys2Proof/Machine/Queues.lean ====
section
/-! DEFINITION. Records and queues (R51 to R53, R93 to R102), join cells (R58 to R60), and what a
sender of records does (R57, R63). -/

namespace Sys2Proof.Machine

/-! ## Records (R51, R52) -/

/-- The check of R52. -/
def checkRecord (r : BitVec 256) : Except Stop Unit :=
  if r.extractLsb' 0 2 ≠ 0#2 then .error (.info .misalign 1)
  else if r.extractLsb' 54 6 ≠ 0#6 then .error (.info .format 1)
  else .ok ()

/-- The mailbox of a core: its cluster and index (R93). -/
def mailboxOf (core : Nat) : Nat × Nat := (coreCluster core, 4 + core % 16)

/-! ## Scopes (R57) -/

/-- The narrowest scope containing a slot and a cluster of this package. -/
def scopeTo (c cl : Nat) : BitVec 4 :=
  if clusterOf c = cl then 2
  else if clusterOf c / 512 = cl / 512 then
    if clusterOf c % 512 / 16 = cl % 512 / 16 ∧ clusterOf c % 512 < 448 ∧ cl % 512 < 448 then 3
    else 4
  else 5

/-- The narrowest scope containing a slot and a location (R57, R65). -/
def State.scopeLoc (s : State) (c : Nat) (l : Word) : BitVec 4 :=
  match locCore l with
  | some a => if a.pkg = s.image.pkg then scopeTo c (coreCluster a.core) else s.scopePkg a.pkg
  | none =>
    if s.remote l.toNat then s.scopePkg (BitVec.ofNat 10 (pkgOf l.toNat))
    else if homeDie l.toNat = dieOf c then 4 else 5

/-! ## Join cells (R58 to R60) -/

/-- The core number that stands for a place of no sector (R17, R78). -/
def noSector : Nat := 452 * 16

/-- What another package answers to a record: a status of R63, or 5 when no answer comes.
DESIGN CHOICE, log 35. -/
def State.awayStatus (s : State) : Nat :=
  match Config.choice s.free 0x122 with
  | 0 => 0
  | 1 => 1
  | 2 => 2
  | 3 => 3
  | _ => 5

/-- Where a record goes: a queue of this package, none, a move to wait for, another package within a scope,
or one that cannot be reached. -/
inductive QTarget where
  | at (cl q : Nat)
  | none
  | moving
  | away (scope : BitVec 4) (origin : BitVec 16)
  | lost
  deriving DecidableEq, Repr

/-- The queue that is attached to the descriptor at a location. -/
def State.targetAt (s : State) (l : Word) : QTarget :=
  match s.placeOf l with
  | .away scope origin => .away scope origin
  | .at l =>
    match s.queueAt l with
    | some (cl, q) => .at cl q
    | Option.none => .none

/-- What a name leads to, whose location is `at_`. -/
def State.nameTarget (s : State) (core : Nat) (n : Quad) (cls : Byte) (at_ : State → Word → QTarget) :
    State × QTarget :=
  match s.resolve core n (some cls) with
  | (s, .gone) => (s, .none)
  | (s, .loc l) => (s, at_ s l)
  | (s, .moving) => (s, .moving)
  | (s, .unreached) => (s, .lost)
  | (s, .remote) => (s, .away (s.scopeName n) (nameOrigin n))

/-- The queue a name leads to. -/
def State.queueOf (s : State) (core : Nat) (n : Quad) : State × QTarget :=
  s.nameTarget core n clsQueue State.targetAt

/-- The die at which a cell or barrier stands (R419). -/
def locDie (l : Word) : Nat :=
  match locCore l with
  | some a => coreDie a.core
  | none => homeDie l.toNat

/-- The core or home at a location stands (R387). -/
def State.locStands (s : State) (l : Word) : Bool :=
  match locCore l with
  | some a => a.pkg == s.image.pkg && s.stands (coreDie a.core)
  | none => s.homeStands l.toNat

/-- A word that needs a die whose clock stands holds issue (R387). -/
def Place.runs (p : Place) (s : State) : Except Stop Unit :=
  match p with
  | .at l => if s.locStands l then .error .hold else .ok ()
  | .away .. => .ok ()
def QTarget.runs (t : QTarget) (s : State) : Except Stop Unit :=
  match t with
  | .at cl _ => if s.stands (cl / 512) then .error .hold else .ok ()
  | .moving => .error .hold
  | _ => .ok ()

/-- A push has been answered with a status; a refused record goes to the service error queue with its
cause (R60). -/
def State.reportPush (s : State) (die : Nat) (r : BitVec 256) (env : Envelope) (n : Nat) : State :=
  if n = 0 then s
  else s.sendKept die (.release r (if n = 2 then Cause.nameGone else Cause.queueFull).code env)

/-- Push a released record (R60). A queue of another package accepts or refuses it, which is open. -/
def State.pushOrReport (s : State) (die : Nat) (t : QTarget) (r : BitVec 256) (env : Envelope) :
    State :=
  match t with
  | .none | .moving | .lost => s.reportPush die r env 2
  | .away _ origin =>
    (s.toOrigin die origin (bytesLE 32 r.toNat)).reportPush die r env (Config.choice s.free 0x122 % 4)
  | .at cl q =>
    match s.push cl q r env with
    | .ok s => s
    | .error n => s.reportPush die r env n

/-- Every store on its way is performed and acknowledged. -/
def State.allStores (s : State) : State :=
  ((s.slots.foldl (fun (s : State) e => s.enterStores e.1 fun _ => true) s).finishStores
    fun _ => true).ackStores fun _ => true

/-- What every decrement has released at the scope of its cell is released at the scope of the queue, where
that lies in another cluster (R57). DEDUCED, log 71. -/
def State.spread (s : State) (l : Word) (t : QTarget) : State :=
  match locCore l, t with
  | some a, .at cl _ => if coreCluster a.core = cl then s else s.allStores
  | none, .at .. | _, .away .. => s.allStores
  | _, _ => s

/-- A released record waits at the Almanac while the name of its queue moves (R78, R82). -/
def State.waitMove (s : State) (die : Nat) (n : Quad) (r : BitVec 256) (env : Envelope) : State :=
  let o : Sender := ⟨env.spkg, env.scoord, env.asid, env.launch, env.otherPod⟩
  { s with incoming := s.incoming ++ [⟨o, some (n, clsQueue), none, 0, .release r env die⟩] }

/-- A join cell releases its record (R60). Its QUEUE name is resolved from the sector of the core that holds
the cell, and for a cell in memory at the Almanac itself (DESIGN CHOICE, log 72). -/
def State.releaseCell (s : State) (l : Word) (env : Envelope) : State :=
  let r := recWithStatus (BitVec.ofNat 256 (s.readLoc l 32)) (BitVec.ofNat 16 (s.readLoc (l + 56) 2))
  let core := match locCore l with
    | some a => a.core
    | none => noSector
  let n := BitVec.ofNat 128 (s.readLoc (l + 32) 16)
  let (s, t) := s.queueOf core n
  if t = .moving then s.waitMove (locDie l) n r env
  else (s.spread l t).pushOrReport (locDie l) t r env

/-- A decrement by `d` with error bits `e`, applied at the cell's home (R60). A count that leaves the
signed 64-bit numbers wraps (DESIGN CHOICE, log 62). -/
def State.joinDec (s : State) (l : Word) (d : Word) (e : BitVec 16) (env : Envelope) : State :=
  let status := BitVec.ofNat 64 (s.readLoc (l + 56) 8)
  if status.getLsbD 15 then s
  else
    let status := status ||| e.setWidth 64
    let old := BitVec.ofNat 64 (s.readLoc (l + 48) 8)
    let new := old - d
    let s := s.writeLoc (l + 48) 8 new.toNat
    if new.slt 0 then s.writeLoc (l + 56) 8 (status ||| 0x8000).toNat
    else
      let s := s.writeLoc (l + 56) 8 status.toNat
      if (0 : Word).slt old ∧ new = 0 then s.releaseCell l env else s

/-- The core of this package whose scratchpad holds the location is fenced or contained (R107). -/
def State.closed (s : State) (l : Word) : Bool :=
  match locCore l with
  | some a => a.pkg == s.image.pkg && ((s.core a.core).fenced || (s.core a.core).contained)
  | none => false

/-- The envelope of a record a slot's decrement or signal completes (R53). -/
def State.relEnv (s : State) (c : Nat) : Envelope :=
  ⟨2, s.image.pkg, coordOf c, s.sidereal.setWidth 40, (s.slot c).asid, (s.slot c).env.launch, false,
    (s.slot c).env.of_⟩

/-- A decrement sent by slot `c`: to a cell in a closed core it goes to the error queue (R107). -/
def State.decBy (s : State) (c : Nat) (l d : Word) : State :=
  if s.closed l then s.sendKept (locDie l) (.decrement l d (coordOf c))
  else s.joinDec l d 0 (s.relEnv c)

/-- A release by a word that goes on when the release meets an error only now (R63, R65): whether it
has, and the error is pending. -/
def State.quietRelease (s : State) (c : Nat) (scope : BitVec 4) : State × Bool :=
  let t := s.releaseBy c scope
  (t, (t.slot c).err.valid)

/-- The page of a cell refuses it (R58): a name's location is refused where its page was FE or DET when
the name was issued or moved. DEDUCED, log 47. -/
def State.oddName (s : State) (n : Quad) : Bool := ((s.entryAt n).map (·.2.odd)).getD false

/-- The cell an operand names (R58, R61). DEDUCED, log 47. -/
def cellOperand (s : State) (v : NameOr) : Except Stop (State × Place) :=
  match v with
  | .name n => do
    let (s, p) ← useName s n clsJoin
    if s.oddName n then during s (.error (.plain .prot)) else .ok (s, p)
  | .word w =>
    if w.extractLsb' 62 2 = 2#2 then
      if (coreAddr w).isNone then .error (.at_ .prot w 20)
      else if w.extractLsb' 0 6 ≠ 0#6 then .error (.at_ .misalign w 0)
      else .ok (s, s.placeOf w)
    else if w.extractLsb' 54 10 ≠ 0#10 then .error (.at_ .prot w 20)
    else if w.extractLsb' 0 6 ≠ 0#6 then .error (.at_ .misalign w 0)
    else if w.toNat < 0x8000 then .ok (s, .at (mkCoreAddr s.image.pkg (coreOf s.focus) w.toNat))
    else
      let x := s.me
      match s.translate (coreOf s.focus) x.asid x.root x.super w.toNat .atomic with
      | .page => .error (.page w .store)
      | .prot n => .error (.at_ .prot w (if n = 22 then 0 else n))
      | .memErr t a => during t (.error (.at_ .memErr w a))
      | .ok t pa leaf =>
        if pteFe leaf || pteDet leaf then .error (.at_ .prot w 0)
        else if s.reachAlias pa then .error (.at_ .prot w 30)
        else .ok (t, .at (BitVec.ofNat 64 pa))

/-- The narrowest scope containing the issuing slot and a cell. -/
def State.scopeOf (s : State) (p : Place) : BitVec 4 :=
  match p with
  | .at l => s.scopeLoc s.focus l
  | .away scope _ => scope

/-- What an update of a cell meets at its home: a fault, or nothing (R107, R240). DEDUCED, log 25. -/
def State.cellFault (s : State) (p : Place) : Option Cause :=
  match p with
  | .away .. => if Config.flag s.free 0x121 then some .fabric else none
  | .at l =>
    match locCore l with
    | some _ => none
    | none => s.readFault l.toNat 64

/-- A cell in memory as its home finds it: the earlier stores to its line have been performed. -/
def State.cellHome (s : State) (p : Place) : State :=
  match p with
  | .away .. => s
  | .at l =>
    match locCore l with
    | some _ => s
    | none => (s.atHome s.focus l.toNat 64).dropLine (clusterOf s.focus) (lineOf l.toNat)

/-! ## Sending (R57, R61 to R64) -/

/-- The local selectors of R62. -/
def localQueue (cl : Nat) (v : Word) (pri : Nat) : QTarget :=
  if v.toNat < 4 then .at cl v.toNat
  else if v = 0xFF then .at cl pri
  else if 0x100 ≤ v.toNat ∧ v.toNat < 0x110 then .at cl (4 + (v.toNat - 0x100))
  else .none

/-- The mailbox a core address with offset zero names (R64). -/
def State.mailboxAt (s : State) (v : Word) : QTarget :=
  match coreAddr v with
  | Option.none => .none
  | some a =>
    if a.off ≠ 0 then .none
    else if a.pkg ≠ s.image.pkg then .away (s.scopePkg a.pkg) (s.originPkg a.pkg)
    else .at (mailboxOf a.core).1 (mailboxOf a.core).2

/-- The mailbox that a PORT descriptor names; one with a reserved byte set is answered as no queue
(R6, R64, R96; DESIGN CHOICE, log 61). -/
def State.portAt (s : State) (l : Word) : QTarget :=
  match s.placeOf l with
  | .away scope origin => .away scope origin
  | .at l =>
    if s.readLoc (l + 8) 56 = 0 then s.mailboxAt (BitVec.ofNat 64 (s.readLoc l 8)) else .none

/-- The queue operand of SPAWN, SPAWNQ, SENDSEQ and ENDS, or of SEND when `port` (R61 to R64). -/
def State.queueOperand (s : State) (v : NameOr) (port : Bool) (pri : Nat) : State × QTarget :=
  match v with
  | .word w => (s, if port then s.mailboxAt w else localQueue (clusterOf s.focus) w pri)
  | .name n =>
    if port then s.nameTarget (coreOf s.focus) n clsPort State.portAt else s.queueOf (coreOf s.focus) n

/-- Read the 32-byte record at an address (R61); its faults are precise. -/
def recordOperand (s : State) (b : Word) : Except Stop (State × BitVec 256) := do
  let (s, t) ← target s b 32 .load false
  let (s, v) ← match t with
    | .scratch .. => .ok (s, s.readAt t 32)
    | .phys pa leaf =>
      if s.homeStands pa then .error .hold else
      match (s.earlierLoads s.focus pa 32).readGlobal s.focus pa (leafCached leaf) 32 with
      | (s, .ok v) => Except.ok (s, v)
      | (s, .error c) => during s (.error (.at_ c b 0))
  during s do
    let r := BitVec.ofNat 256 v
    checkRecord r
    .ok (s, recWithStatus r 0)

/-- The envelope of a record that slot `c` sends (R53). -/
def State.sendEnv (s : State) (c : Nat) : Envelope :=
  ⟨0, s.image.pkg, coordOf c, s.sidereal.setWidth 40, (s.slot c).asid, (s.slot c).env.launch, false,
    (s.slot c).env.of_⟩

/-- The scope of the release with which a record leaves (R57): none where no queue takes it. -/
def QTarget.scope (t : QTarget) (c : Nat) : Option (BitVec 4) :=
  match t with
  | .none | .moving | .lost => Option.none
  | .away scope _ => some scope
  | .at cl _ => some (scopeTo c cl)

/-- Send a record of slot `c` to a queue, its release done. `f` fits the record to the accepting queue (SENDSEQ);
a stage queue of another package stamps it, and the number is open (R64). The answer is the status
(R63) and the record as accepted. -/
def State.sendTo (s : State) (c : Nat) (t : QTarget) (r : BitVec 256) (stamped : Bool)
    (f : Queue → Except Nat (BitVec 256 × Queue)) : State × Nat × BitVec 256 :=
  match t with
  | .none | .moving => (s, 2, r)
  | .lost => (s, 5, r)
  | .away _ origin =>
    (s.toOrigin (dieOf c) origin (bytesLE 32 r.toNat), s.awayStatus,
      if stamped then recWithSeq r ((Config.word s.free 0x123).setWidth 32) else r)
  | .at cl q =>
    match f ((s.cluster cl).queue q) with
    | .error n => (s, n, r)
    | .ok (r, x) =>
      match s.push cl q r (s.sendEnv c) with
      | .error n => (s, n, r)
      | .ok t =>
        let y := (t.cluster cl).queue q
        (t.modCluster cl fun k => k.setQueue q { y with nextSeq := x.nextSeq }, 0, r)

/-- The trap of a plain form for a status (R63). -/
def statusTrap (n : Nat) : Except Stop Unit :=
  if n = 0 then .ok ()
  else if n = 2 then .error (.info .nameGone 2)
  else if n = 5 then .error (.plain .fabric)
  else .error (.info .queueFull n)

/-- The record as it is, for every queue. -/
def asSent (r : BitVec 256) (x : Queue) : Except Nat (BitVec 256 × Queue) := .ok (r, x)

/-- A stage queue stamps NEXTSEQ on a record it accepts (R64). -/
def stamp (r : BitVec 256) (x : Queue) : Except Nat (BitVec 256 × Queue) :=
  if x.kind = .stage then .ok (recWithSeq r x.nextSeq, { x with nextSeq := x.nextSeq + 1 })
  else .error 2

/-- A plain send: issue is held until the answer, and a refusal traps with nothing sent (R63). -/
def sendPlain (s : State) (v : NameOr) (b : Word) (port stamped : Bool) :
    Except Stop (State × BitVec 256) := do
  let (s, r) ← recordOperand s b
  strong s
  let (s, t) := s.queueOperand v port (recPri r)
  t.runs s
  let s ← match t.scope s.focus with
    | some scope => release s scope
    | Option.none => Except.ok s
  let (s, n, r) := s.sendTo s.focus t r stamped (if stamped then stamp r else asSent r)
  during s (statusTrap n)
  .ok (s, r)

/-- The decrement of JDEC and ENDJ (R65, R68). Where a fault is found only by the release or at the
home, ENDJ traps it; after JDEC it is pending, and nothing is sent. -/
def decrementBy (s : State) (v : NameOr) (d : Word) (precise : Bool) : Except Stop State := do
  let (s, p) ← cellOperand s v
  strong s
  p.runs s
  let (s, late) := s.quietRelease s.focus (s.scopeOf p)
  if late then
    if precise then do
      strong s
      .ok s
    else .ok s
  else
    let s := (s.cellHome p).ask p (bytesLE 8 d.toNat)
    match s.cellFault p with
    | some c =>
      let va : Word := match v with
        | .word w => w
        | .name _ => 0
      let s := match p with
        | .at l => s.found c l.toNat 64
        | .away .. => s
      if precise then during s (.error (.trap c va 0 false))
      else .ok (s.recordErr s.focus c va 0 s.me.pos)
    | none =>
      match p with
      | .at l => .ok (s.decBy s.focus l d)
      | .away .. => .ok s

end Sys2Proof.Machine
end

