-- ==== Sys2Proof/Machine/Records.lean ====
section
/-! DEFINITION. The queue and join instructions (R61 to R67), the ends of an activation (R68) and
RET (R131). `m` is the switch marker. -/

namespace Sys2Proof.Machine

/-! ## Sends (R63, R64) -/

/-- SPAWN and SEND. -/
def sendWord (m : Bool) (a b : Reg) (port : Bool) (s : State) : Host.Outcome State Fault Refusal :=
  issue { eff := true } s fun s => do
    touch s [a, b]
    let v ← srcNameOr s a
    let x ← srcInt s b
    let (s, _) ← sendPlain s v x port false
    .ok (s.retire m)

def execSpawn (m : Bool) (a b : Reg) := sendWord m a b false
def execSend (m : Bool) (a b : Reg) := sendWord m a b true

/-- Send the record of a SPAWNQ of slot `c`: its status. A pending error that the release finds leaves the
record unsent, with status 4 (R63). -/
def State.sendQuiet (s : State) (c : Nat) (t : QTarget) (r : BitVec 256) : State × Nat :=
  match t.scope c with
  | none => (s, if t = .lost then 5 else 2)
  | some scope =>
    match s.quietRelease c scope with
    | (s, true) => (s, 4)
    | (s, false) =>
      let (s, n, _) := s.sendTo c t r false (asSent r)
      (s, n)

/-- SPAWNQ: the status goes to D (R63). Issue is not held while the name of its queue moves: the
resolution waits, and D with it (R64, R78, R82). -/
def execSpawnq (m : Bool) (d a b : Reg) (s : State) : Host.Outcome State Fault Refusal :=
  issue { eff := true } s fun s => do
    touch s [a, b, d]
    let v ← srcNameOr s a
    let x ← srcInt s b
    let (s, r) ← recordOperand s x
    strong s
    let done (s : State) (n : Nat) : State :=
      (s.wr d (.int (BitVec.ofNat 64 n)) .l0 .var).retire m
    let (s, t) := s.queueOperand v false (recPri r)
    match t, v with
    | .moving, .name n =>
      .ok (done (s.modMe fun x => { x with sending := x.sending ++ [⟨x.pos, fileOf x.wbase d, n, r⟩] }) 0)
    | _, _ => do
      t.runs s
      let (s, n) := s.sendQuiet s.focus t r
      .ok (done s n)

/-- SENDSEQ: its queue is a name (R61, R64). -/
def execSendseq (m : Bool) (d a b : Reg) (s : State) : Host.Outcome State Fault Refusal :=
  issue { eff := true } s fun s => do
    touch s [a, b, d]
    let n ← srcName s a
    let x ← srcInt s b
    let (s, r) ← sendPlain s (.name n) x false true
    .ok ((s.wr d (.int ((recSeq r).setWidth 64)) .l0 .var).retire m)

/-! ## Join cells (R65) -/

/-- JDEC. A B field of z stands for the amount 1. -/
def execJdec (m : Bool) (a b : Reg) (s : State) : Host.Outcome State Fault Refusal :=
  issue { eff := true } s fun s => do
    touch s [a, b]
    let v ← srcNameOr s a
    let x ← srcInt s b
    let s ← decrementBy s v (if b = 0 then 1 else x) false
    .ok (s.retire m)

/-- Arm a cell: COUNT and STATUS in one update, then a release or an underflow (R65). -/
def State.armCell (s : State) (l : Word) (n : Word) (env : Envelope) : State :=
  let s := s.writeLoc (l + 48) 8 n.toNat
  let s := s.writeLoc (l + 56) 8 (if n.slt 0 then 0x8000 else 0)
  if n = 0 then s.releaseCell l env else s

/-- JINIT. A record released at once names the slot of JINIT as its sender (DESIGN CHOICE, log 63). In
another package the record's checks are made there, and what they find is open. -/
def execJinit (m : Bool) (a b : Reg) (s : State) : Host.Outcome State Fault Refusal :=
  issue { eff := true } s fun s => do
    touch s [a, b]
    let v ← srcNameOr s a
    let n ← srcInt s b
    let (s, p) ← cellOperand s v
    strong s
    p.runs s
    let s ← release s (s.scopeOf p)
    let s := (s.cellHome p).ask p (bytesLE 8 n.toNat)
    during s <| match s.cellFault p, p with
    | some c, .at l => during (s.found c l.toNat 64) (.error (.plain c))
    | some c, .away .. => .error (.plain c)
    | none, .away .. =>
      match Config.choice s.free 0x124 % 3 with
      | 0 => .ok (s.retire m)
      | 1 => .error (.info .misalign 1)
      | _ => .error (.info .format 1)
    | none, .at l =>
      if s.closed l then .error (.plain .fabric)
      else do
        checkRecord (BitVec.ofNat 256 (s.readLoc l 32))
        .ok ((s.armCell l n (s.relEnv s.focus)).retire m)

/-! ## QLEN (R66) -/

def QKind.code : QKind → BitVec 2
  | .ready => 0
  | .mailbox => 1
  | .stage => 2
  | .service => 3

/-- The descriptor of a queue as the cluster writes it back (R95). HEAD and TAIL of an empty pool are
open. -/
def State.queueDesc (s : State) (cl q : Nat) : BitVec 512 :=
  let x := (s.cluster cl).queue q
  let pool := x.pool.flatMap (·.entries)
  let head := (pool.head?.map (BitVec.ofNat 11)).getD ((Config.word s.free 0x131).setWidth 11)
  let tail := (pool.getLast?.map (BitVec.ofNat 11)).getD ((Config.word s.free 0x132).setWidth 11)
  x.extBase ++ x.extCap ++ BitVec.ofNat 24 x.ext.length
    ++ BitVec.ofNat 24 x.extHead ++ 0#24 ++ x.nextRel ++ x.nextSeq ++ x.win ++ x.cores
    ++ 0#64 ++ head ++ tail ++ BitVec.ofNat 12 x.pool.length ++ 0#94
    ++ BitVec.ofNat 3 (cl / 512) ++ BitVec.ofNat 9 cl ++ BitVec.ofNat 8 q ++ x.cls ++ x.kind.code
    ++ BitVec.ofBool x.sealed_ ++ 0#39

/-- The cluster writes a queue's descriptor back where its QUEUE name is bound (R95). -/
def State.writeBack (s : State) (cl q : Nat) : State :=
  let l := s.descOf cl q ((s.cluster cl).queue q)
  if l = 0 then s else s.writeLoc l 64 (s.queueDesc cl q).toNat

/-- Records held by a queue, in its pool and in its extension. -/
def Queue.held (x : Queue) : Nat := x.pool.length + x.ext.length

/-- QLEN; a supervisor's QLEN on a queue's name also writes its descriptor back (R95). -/
def execQlen (m : Bool) (d a : Reg) (s : State) : Host.Outcome State Fault Refusal :=
  issue {} s fun s => do
    touch s [a, d]
    let v ← srcNameOr s a
    let done (s : State) (cl q : Nat) : Except Stop State := do
      QTarget.runs (.at cl q) s
      let n := ((s.cluster cl).queue q).held
      .ok ((s.wr d (.int (BitVec.ofNat 64 n)) .l0 .var).retire m)
    match v with
    | .word w =>
      match localQueue (clusterOf s.focus) w 0 with
      | .at cl q => if w = 0xFF then .error (.plain .nameGone) else done s cl q
      | _ => .error (.plain .nameGone)
    | .name n => do
      let port : Bool := nameClass n == clsPort
      let (s, p) ← useName s n (if port then clsPort else clsQueue)
      let target : QTarget := match p with
        | .away scope origin => .away scope origin
        | .at l => if port then s.portAt l else s.targetAt l
      during s <| match target with
      | .at cl q => done (if s.me.super && !port then s.writeBack cl q else s) cl q
      | .away _ origin =>
        let s := s.toOrigin (dieOf s.focus) origin []
        .ok ((s.wr d (.int (Config.word s.free 0x133)) .l0 .var).retire m)
      | .none | .moving | .lost => .error (.plain .nameGone)

/-! ## HANDOVER (R67) -/

/-- Every store that the slots of a core have issued is performed at its home (R67). -/
def State.coreStores (s : State) (core : Nat) : State :=
  (List.range 4).foldl (fun (s : State) i => s.waitAcks (4 * core + i) fun _ => true) s

/-- The target of a HANDOVER does not take the capability: it is fenced, contained or full (R67, R103);
of another package's core, whether it is, is open. -/
def State.heirRefuses (s : State) (t : CoreAddr) : Option Nat :=
  if t.pkg ≠ s.image.pkg then
    if Config.flag s.free 0x135 then some 1 else if Config.flag s.free 0x136 then some 2 else none
  else if (s.core t.core).fenced || (s.core t.core).contained then some 1
  else if 8 ≤ (s.core t.core).det.length then some 2
  else none

/-- HANDOVER. The capability's holder is the core the descriptor's word 3 names (R103); of a region
whose descriptor another package holds, the core whose table has it. A descriptor with a reserved
byte set traps FORMAT (R6; DESIGN CHOICE, log 61). DEDUCED, log 22. -/
def execHandover (m : Bool) (a b : Reg) (s : State) : Host.Outcome State Fault Refusal :=
  issue { eff := true } s fun s => do
    touch s [a, b]
    let n ← srcName s a
    let v ← srcInt s b
    let core := coreOf s.focus
    let (s, p) ← useName s n clsRegion
    p.runs s
    let s := s.ask p []
    let own := (s.core core).det.find? fun r => r.name == n
    let holds : Bool := match p with
      | .at l => s.readLoc (l + 24) 8 == (mkCoreAddr s.image.pkg core 0).toNat
      | .away .. => own.isSome
    let plain : Bool := match p with
      | .at l => s.regionPlain l
      | .away .. => true
    during s <|
      if !plain then .error (.info .format 2)
      else if !holds then .error (.plain .capability)
      else
        match coreAddr v with
        | none => .error (.plain .prot)
        | some t =>
          if t.pkg = s.image.pkg ∧ t.core = core then .ok (s.retire m)
          else do
            Place.runs (s.placeOf v) s
            let s := (s.coreStores core).ask (s.placeOf v) []
            match s.heirRefuses t with
            | some k => during s (.error (.info .capability k))
            | none =>
              let r := match p with
                | .at l => s.regionAt l n
                | .away .. => own.getD ⟨0, 0, 0, n⟩
              let s := s.dropRegion core n
              let s := if t.pkg = s.image.pkg then
                  s.modCore t.core fun k => { k with det := k.det ++ [r] }
                else s
              let s := match p with
                | .at l => s.writeLoc (l + 24) 8 (mkCoreAddr t.pkg t.core 0).toNat
                | .away .. => s
              .ok (s.retire m)

/-! ## Ends (R68) -/

/-- The activation of the issuing slot ends: its records sent and its results written, then clean memory, then a pending error,
then `last`, the JDEC or SPAWN with its own traps, and the slot is idle. -/
def endBody (s : State) (last : State → Except Stop State) : Except Stop State := do
  if s.me.sending ≠ [] then .error .hold else
  let s := (s.drain s.focus).answered s.focus
  strong s
  let s ← during s (last s)
  .ok (s.endActivation s.focus false s.me.phase.ended)

def execEndAct (_ : Bool) (s : State) : Host.Outcome State Fault Refusal :=
  issue {} s fun s => endBody s .ok

def execEndj (_ : Bool) (a : Reg) (s : State) : Host.Outcome State Fault Refusal :=
  issue {} s fun s => do
    touch s [a]
    let v ← srcNameOr s a
    endBody s fun s => decrementBy s v 1 true

def execEnds (_ : Bool) (a b : Reg) (s : State) : Host.Outcome State Fault Refusal :=
  issue {} s fun s => do
    touch s [a, b]
    let v ← srcNameOr s a
    let x ← srcInt s b
    endBody s fun s => do
      let (s, _) ← sendPlain s v x false false
      .ok s

/-- RET jumps to lk, or ends the activation when lk is zero (R56, R131). -/
def execRet (m : Bool) (s : State) : Host.Outcome State Fault Refusal :=
  issue {} s fun s => do
    touch s [lk]
    let t ← srcInt s lk
    if t = 0 then endBody s .ok
    else do
      jumpTarget t
      .ok (s.retireTo m t)

end Sys2Proof.Machine
end

