-- ==== Sys2Proof/Machine/Barriers.lean ====
section
/-! DEFINITION. Barrier objects (R263 to R266), the BAR instructions (R267), and the steps in which
a signal, a decrement or a staggered record arrives. -/

namespace Sys2Proof.Machine

/-! ## The object (R263, R264) -/

/-- A record released by a barrier goes to the mailbox of its core, at once or after the stagger
delay (R264, R266). -/
def State.barrierFire (s : State) (core : Nat) (stagger : Bool) (r : BitVec 256) (env : Envelope) :
    State :=
  if stagger then
    let now := (s.die (coreDie core)).dcyc
    s.modCluster (coreCluster core) fun k =>
      let step := (governs k.barWas now k.barStep).toNat
      { k with pushes := k.pushes ++ [⟨core, now.toNat + step * (core % 64), r, env⟩] }
  else s.pushOrReport (coreDie core) (.at (mailboxOf core).1 (mailboxOf core).2) r env

/-- Sum of two unsigned 64-bit numbers, saturating. -/
def satAdd (a b : Nat) : Nat := min (a + b) (2 ^ 64 - 1)

/-- A 32-bit count that stops at its top. -/
def satSucc32 (n : BitVec 32) : BitVec 32 := if n = BitVec.allOnes 32 then n else n + 1

/-- A signal applied at the owning core: 0 applied, 1 stray, 2 applied and fired (R264, R267). -/
def State.signal (s : State) (core off : Nat) (a : Word) (env : Envelope) : State × Nat :=
  let sp := (s.core core).scratch
  if sp.readLE (off + 48) 1 ≠ 0xA5 then
    (s.modCore core fun k => { k with barStray := satSucc32 k.barStray }, 1)
  else
    let n := satAdd (sp.readLE (off + 40) 8) a.toNat
    let fired := decide (sp.readLE (off + 32) 8 ≤ n)
    let s := s.modCore core fun k =>
      let sp := k.scratch.writeLE (off + 40) 8 n
      { k with scratch := if fired then sp.writeLE (off + 48) 1 0x5A else sp }
    if fired then
      let r := recWithStatus (BitVec.ofNat 256 (sp.readLE off 32)) 0
      (s.barrierFire core (decide (sp.readLE (off + 49) 1 / 2 % 2 = 1)) r env, 2)
    else (s, 0)

/-! ## The instructions (R267) -/

/-- BARINIT: the record's check and its own, then the arming as a release at scope core. -/
def execBarinit (m : Bool) (a b : Reg) (s : State) : Host.Outcome State Fault Refusal :=
  issue { eff := true } s fun s => do
    touch s [a, b]
    let v ← srcInt s a
    let t ← srcInt s b
    let off ← ownScratch v 64
    let sp := s.myCore.scratch
    checkRecord (BitVec.ofNat 256 (sp.readLE off 32))
    if t = 0 ∨ sp.readLE (off + 48) 8 / 2 ^ 10 ≠ 0 ∨ sp.readLE (off + 56) 8 ≠ 0 then
      .error (.info .format 26)
    else do
      strong s
      let s ← release s 1
      let arm (sp : Mem) : Mem :=
        ((sp.writeLE (off + 32) 8 t.toNat).writeLE (off + 40) 8 0).writeLE (off + 48) 1 0xA5
      .ok ((s.modMyCore fun k => { k with scratch := arm k.scratch }).retire m)

/-- The status of a signal goes to D with the answer (R113, R267). -/
def statusTo (s : State) (m : Bool) (d : Reg) (n : Nat) : State :=
  (s.wr d (.int (BitVec.ofNat 64 n)) .none .var).retire m

/-- BARSIG. -/
def execBarsig (m : Bool) (d a b : Reg) (s : State) : Host.Outcome State Fault Refusal :=
  issue { eff := true } s fun s => do
    touch s [a, b, d]
    let v ← srcInt s a
    let n ← srcInt s b
    let off ← ownScratch v 64
    let (s, r) := s.signal (coreOf s.focus) off n (s.relEnv s.focus)
    .ok (statusTo s m d r)

/-- Where a barrier stands: in a core of this package, or in another package within a scope. -/
inductive BarrierPlace where
  | own (core off : Nat)
  | away (scope : BitVec 4) (origin : BitVec 16)
  deriving DecidableEq, Repr

/-- The barrier a name leads to; a location outside every scratchpad holds no barrier (R263), and answers
as gone (DEDUCED, log 12). -/
def barrierAt (s : State) (n : Quad) : Except Stop (State × BarrierPlace) := do
  let (s, p) ← useName s n clsBarrier
  p.runs s
  match p with
  | .away scope origin => .ok (s, .away scope origin)
  | .at l =>
    match locCore l with
    | some a => if s.closed l then during s (.error (.plain .fabric)) else .ok (s, .own a.core a.off)
    | none => during s (.error (.plain .nameGone))

/-- BARSIGN. -/
def execBarsign (m : Bool) (d a b : Reg) (s : State) : Host.Outcome State Fault Refusal :=
  issue { eff := true } s fun s => do
    touch s [a, b, d]
    let n ← srcName s a
    let v ← srcInt s b
    let (s, p) ← barrierAt s n
    strong s
    match p with
    | .away scope origin => do
      let s := (← release s scope).toOrigin (dieOf s.focus) origin (bytesLE 8 v.toNat)
      .ok (statusTo s m d (Config.choice s.free 0x140 % 3))
    | .own core off => do
      let s ← release s (scopeTo s.focus (coreCluster core))
      let (s, r) := s.signal core off v (s.relEnv s.focus)
      .ok (statusTo s m d r)

/-- BARQ: STATE in the top byte, ARRIVED below it. -/
def execBarq (m : Bool) (d a : Reg) (s : State) : Host.Outcome State Fault Refusal :=
  issue { eff := true } s fun s => do
    touch s [a, d]
    let v ← srcNameOr s a
    let snap (s : State) (core off : Nat) : State :=
      let sp := (s.core core).scratch
      let w := BitVec.ofNat 8 (sp.readLE (off + 48) 1) ++ BitVec.ofNat 56 (sp.readLE (off + 40) 8)
      (s.wr d (.int w) .none .var).retire m
    match v with
    | .word w => do
      let off ← ownScratch w 64
      .ok (snap s (coreOf s.focus) off)
    | .name n => do
      let (s, p) ← barrierAt s n
      match p with
      | .away _ origin =>
        let s := s.toOrigin (dieOf s.focus) origin []
        .ok ((s.wr d (.int (Config.word s.free 0x141)) .none .var).retire m)
      | .own core off => .ok (snap s core off)

/-! ## Arrivals -/

/-- The envelope of a record that a sender elsewhere completes (R53). -/
def envOf (o : Sender) (kind : BitVec 2) (sent : BitVec 40) : Envelope :=
  ⟨kind, o.pkg, o.coord, sent, o.asid, o.launch, o.otherPod, o.asid⟩

/-- Bytes that another package sends reach their home (R337, R340). -/
def State.landBytes (s : State) (l : Word) (bytes : List Byte) : State :=
  if s.closed l then s else s.writeLoc l bytes.length (ofBytesLE bytes)

/-- The writes that a sender has on their way to this package, and whose place is known, land: a
record, a decrement and the signal of a PUTSIG leave only after they have been acknowledged (R57,
R65, R342). -/
def State.landWrites (s : State) (o : Sender) : State :=
  let mine (r : Incoming) : Bool := r.origin == o && r.name.isNone
  let s := s.incoming.foldl (fun (s : State) r =>
    match r.op with
    | .write bytes => if mine r then s.landBytes r.loc bytes else s
    | _ => s) s
  { s with incoming := s.incoming.filter fun r =>
      match r.op with
      | .write _ => !mine r
      | _ => true }

/-- A record from another package comes to the queue it is for, or to none, and its sender is answered (R98,
R336). -/
def State.recordFrom (s : State) (t : QTarget) (r : BitVec 256) (o : Sender) (sent : BitVec 40) : State :=
  match t with
  | .at cl q =>
    let s := s.answerTo (cl / 512) o
    match s.push cl q (recWithStatus r 0) (envOf o 1 sent) with
    | .ok s => s
    | .error _ => s
  | _ => s.answerTo (Config.choice s.free 0x106 % 8) o

/-- A record arrives from another package for a queue of this one, is accepted or refused, and the
sender is answered (R53, R98). It arrives checked and with STATUS zero (R52). -/
def execRecordAccept (cl q : Nat) (r : BitVec 256) (o : Sender) (sent : BitVec 40) (s : State) :
    Host.Outcome State Fault Refusal :=
  event s (s.elsewhere o) fun s => (s.landWrites o).recordFrom (.at cl q) r o sent

/-- A decrement from elsewhere is applied at a cell of this package (R60, R107). -/
def execJoinDecrement (l amount : Word) (bits : BitVec 16) (o : Sender) (s : State) :
    Host.Outcome State Fault Refusal :=
  event s true fun s =>
    let s := s.landWrites o
    if s.closed l then s.sendKept (locDie l) (.decrement l amount o.coord)
    else s.joinDec l amount bits (envOf o 2 (s.sidereal.setWidth 40))

/-- A signal from elsewhere is applied by the core that owns the barrier, after the bytes it was sent
behind (R264, R342). -/
def execBarrierSignal (l amount : Word) (o : Sender) (s : State) :
    Host.Outcome State Fault Refusal :=
  match locCore l with
  | none => .refused .notEnabled
  | some a =>
    event s (a.pkg == s.image.pkg && !s.closed l) fun s =>
      ((s.landWrites o).signal a.core a.off amount (envOf o 2 (s.sidereal.setWidth 40))).1

/-- A staggered record's time has come: it is pushed onto its core's mailbox (R266). -/
def execBarrierStaggeredPush (cl k : Nat) (s : State) : Host.Outcome State Fault Refusal :=
  match (s.cluster cl).pushes[k]? with
  | none => .refused .notEnabled
  | some p =>
    event s (decide (p.at_ ≤ (s.die (cl / 512)).dcyc.toNat)) fun s =>
      (s.modCluster cl fun c => { c with pushes := c.pushes.eraseIdx k }).pushOrReport (cl / 512)
        (.at (mailboxOf p.core).1 (mailboxOf p.core).2) p.body p.env

end Sys2Proof.Machine
end

