-- ==== Sys2Proof/Machine/Aged.lean ====
section
/-! DEFINITION. Aged memory (R318 to R330): ages, demands, registrations, LDAG and AGOP, and the
waits at a home that aged and full-empty accesses share (R242, R324, R339). -/

namespace Sys2Proof.Machine

/-! ## Ages and demands (R318, R319, R322) -/

/-- The age of the block that holds a physical address. -/
def State.ageOf (s : State) (pa : Nat) : BitVec 32 := s.ages.get 0 (pa / 256)

/-- An age word (R319). -/
def ageWord (timeout stopped stale : Bool) (age : BitVec 32) : Word :=
  0#29 ++ BitVec.ofBool timeout ++ BitVec.ofBool stopped ++ BitVec.ofBool stale ++ age

/-- The need of a demand (R322). -/
def needOf (dm : Word) : BitVec 32 :=
  let i := dm.extractLsb' 32 32
  let l := dm.extractLsb' 0 32
  if l < i then i - l else 0

/-- The registration record of the page that holds a physical address (R320). -/
def State.regOf (s : State) (pa : Nat) : PageReg := s.regs.get ⟨.idle, 0, 0, 0⟩ (pa / 65536)

/-- The age word of a block's current version. -/
def State.ageWordAt (s : State) (pa : Nat) (stale : Bool) : Word :=
  ageWord false ((s.regOf pa).state != .registered) stale (s.ageOf pa)

/-- The data and the age word reach the slot, its LDAG goes on, and it is an acquire (R327). -/
def State.agedDeliver (s : State) (c : Nat) (reg : Reg) (pa : Nat) (tag : Tag) (scope : BitVec 4)
    (stale : Bool) : State :=
  let v := s.homeRead pa 16
  let w := s.ageWordAt pa stale
  let s := s.modSlot c fun x => x.put reg ⟨BitVec.ofNat 128 v, tag⟩ (some (.int w)) none .var
  (s.acquireBy c scope).goOn c ((s.slot c).pc + 4)

/-! ## Waiters on aged blocks (R324, R332) -/

/-- The words of a command's descriptor. -/
def Cmd.word (c : Cmd) (i : Nat) : Word := vget c.words 0 i

/-- The command of a core's engine with an identity. -/
def State.cmdOf (s : State) (core id : Nat) : Option Cmd :=
  (s.core core).queue.find? fun c => c.id == id

def State.modCmd (s : State) (core id : Nat) (f : Cmd → Cmd) : State :=
  s.modCore core fun k => { k with queue := k.queue.map fun c => if c.id = id then f c else c }

/-- A waiter on an aged block: the location, and the need of its demand. -/
def State.agedWaiter (s : State) : Waiter → Option (Nat × BitVec 32)
  | .slot c =>
    match (s.slot c).wait with
    | some w =>
      match w.op with
      | .aged need _ => some (w.loc, need)
      | .fe .. => none
    | none => none
  | .engine core id =>
    match s.cmdOf core id with
    | some c => c.await.map fun w => (w.loc, needOf (c.word 3))
    | none => none
  | .away r =>
    match r.op with
    | .aged need _ => some (r.loc.toNat, need)
    | _ => none

/-- The wait of an AGGET is answered with the version its block has now (R332). -/
def State.answerAgget (s : State) (core id pa : Nat) (w : Word) : State :=
  if s.poisoned pa 256 then
    (s.meet pa 256).modCmd core id fun c =>
      { c with await := none, stopped := true, errs := c.errs ||| bitMem }
  else
    let v := s.homeRead pa 256
    s.modCmd core id fun c =>
      { c with await := c.await.map fun a => { a with answer := some (v, w) } }

/-- A waiter whose need is met is served with the block's version (R324). -/
def State.agedServed (s : State) (pa : Nat) : Waiter → State
  | .slot c =>
    match (s.slot c).wait with
    | some w =>
      if s.poisoned w.loc 16 then (s.meet w.loc 16).takeTrap c .memErr w.addr 0 false
      else
        match w.op with
        | .aged _ tag =>
          ((s.modSlot c Slot.resumeWait).agedDeliver c w.reg w.loc tag w.scope false).settleWait c
            w.marked
        | .fe .. => s
    | none => s
  | .engine core id => s.answerAgget core id pa (s.ageWordAt pa false)
  | .away r => (if s.poisoned pa 16 then s.meet pa 16 else s).answerTo (homeDie pa) r.origin

/-- Serve, in arrival order, the waiters of a block whose need its age now meets (R324). -/
def State.agedServe (s : State) (pa : Nat) : List Waiter → State
  | [] => s
  | w :: ws =>
    match s.agedWaiter w with
    | some (loc, need) =>
      if loc / 256 = pa / 256 ∧ need ≤ s.ageOf pa then
        ((s.unlist (s.homeOf loc) w).agedServed pa w).agedServe pa ws
      else s.agedServe pa ws
    | none => s.agedServe pa ws

/-- A block takes the data and the age of an accepted AGPUT, and its waiters are served (R331). -/
def State.agedAccept (s : State) (pa : Nat) (data : Nat) (age : BitVec 32) : State :=
  let s := s.homeWrite pa 256 data
  let s := { s with ages := s.ages.set (pa / 256) age }
  s.agedServe pa (s.die (s.homeOf pa)).retry

/-! ## Registrations (R320, R321) -/

/-- A stop answers a waiter: AGESTOP for a slot, the version as it stands for an AGGET (R321, R324,
R332). -/
def State.agedStopped (s : State) (pa : Nat) : Waiter → State
  | .slot c =>
    s.takeTrap c .ageStop (((s.slot c).wait.map (·.addr)).getD 0) (s.ageWordAt pa true) false
  | .engine core id => s.answerAgget core id pa (s.ageWordAt pa true)
  | .away r => s.answerTo (homeDie pa) r.origin

/-- A stop answers the waiters on the pages that `hit` names. -/
def State.stopWaiters (s : State) (hit : Nat → Bool) : List Waiter → State
  | [] => s
  | w :: ws =>
    match s.agedWaiter w with
    | some (loc, _) =>
      if hit (loc / 65536) then
        ((s.unlist (s.homeOf loc) w).agedStopped loc w).stopWaiters hit ws
      else s.stopWaiters hit ws
    | none => s.stopWaiters hit ws

/-- Every waiter on a retry list, home by home. -/
def State.allWaiters (s : State) : List Waiter := s.dies.flatMap fun d => d.2.retry

/-- Pages take their registrations; those that are not REGISTERED any more stop their waiters. -/
def State.setRegs (s : State) (l : List (Nat × PageReg)) : State :=
  let s := { s with regs := l.foldl (fun (m : AMap PageReg) (p : Nat × PageReg) => m.set p.1 p.2) s.regs }
  let ended := (l.filter fun (p : Nat × PageReg) => p.2.state != .registered).map (·.1)
  s.stopWaiters ended.contains s.allWaiters

/-- STATE codes of R320. -/
def RegState.code : RegState → Nat
  | .idle => 0
  | .registered => 1
  | .stopped => 2
  | .done => 3

/-- STATE and WRITER of a region's descriptor (R320). -/
def State.regDesc (s : State) (p : Place) (st : RegState) (writer : Word) : State :=
  (s.writePlace p 40 8 st.code).writePlace p 32 8 writer.toNat

/-- The page records that `hit` names, with another state. -/
def State.regsWith (s : State) (hit : PageReg → Bool) (st : RegState) : List (Nat × PageReg) :=
  (s.regs.filter fun e => hit e.2).map fun e => (e.1, { e.2 with state := st })

/-- The writer number of a core of another package. -/
def farCore (pkg core : Nat) : Nat := 65536 * (pkg + 1) + core
def State.writerOf (s : State) (o : Sender) : Nat :=
  if s.elsewhere o then farCore o.pkg.toNat (coreOf o.coord.toNat) else coreOf o.coord.toNat

/-! ## Requests of other packages (R320, R331, R340) -/

/-- A demand on an aged block: answered, or placed in the retry list, or refused and sent again (R324,
R340). -/
def State.agedIncoming (s : State) (k : Nat) (r : Incoming) (need : BitVec 32) (wait : Bool) : State :=
  let pa := r.loc.toNat
  if need ≤ s.ageOf pa ∨ !wait ∨ (s.regOf pa).state ≠ .registered then
    (if s.poisoned pa 16 then s.meet pa 16 else s).dropIncoming k
  else
    match s.enlist (homeDie pa) (.away r) with
    | (s, true) => s.dropIncoming k
    | (s, false) => s

/-- A block of an AGPUT: the home accepts it or discards it (R331). -/
def State.agputIncoming (s : State) (k : Nat) (r : Incoming) (data : List Byte) (age : BitVec 32) : State :=
  let pa := r.loc.toNat
  let s := s.dropIncoming k
  if (s.regOf pa).state = .registered ∧ (s.regOf pa).writer = s.writerOf r.origin ∧ s.ageOf pa < age then
    s.agedAccept pa (ofBytesLE data) age
  else s

/-- Pages here take their registration in a region of another package (R320, R321): a new one names its
writer, an end of one is its writer's. -/
def State.regsIncoming (s : State) (k : Nat) (r : Incoming) (pages : List (Nat × Nat)) (st : RegState) : State :=
  let w := s.writerOf r.origin
  let s := s.dropIncoming k
  if st = .registered then s.setRegs (pages.map fun p => (p.1, ⟨st, w, r.origin.asid, p.2⟩))
  else
    s.setRegs ((pages.filter fun p => (s.regOf (65536 * p.1)).writer == w).map fun p =>
      (p.1, { s.regOf (65536 * p.1) with state := st }))

/-- A core that is fenced or contained leaves its registrations STOPPED (R321). -/
def State.stopWriter (s : State) (core : Nat) : State :=
  let me := (mkCoreAddr s.image.pkg core 0).toNat
  let s := s.almanac.foldl (fun (s : State) e =>
    let p : Place := .at e.2.loc
    if nameClass e.2.name = clsAged ∧ s.readPlace p 40 8 % 4 = 1 ∧ s.readPlace p 32 8 = me then
      s.regDesc p .stopped (BitVec.ofNat 64 me)
    else s) s
  s.setRegs (s.regsWith (fun r => r.state == .registered && r.writer == core) .stopped)

/-- The pages of a region in ascending address, translated as an access to each would be (R329): the
physical page, the virtual one, and whether it is AGED. -/
def State.regionPages (s : State) (base : Nat) : Nat → Except Stop (List (Nat × Nat × Bool))
  | 0 => .ok []
  | n + 1 =>
    let va := BitVec.ofNat 64 base
    if va.extractLsb' 54 10 ≠ 0#10 then .error (.at_ .prot va 20)
    else
      match s.walk s.me.root va.toNat with
      | .page => .error (.page va .load)
      | .malformed => .error (.at_ .prot va 21)
      | .memErr a => during (s.meet a 8) (.error (.at_ .memErr va a))
      | .leaf _ e large => do
        let ps ← s.regionPages (base + 65536) n
        .ok ((leafPa e large va.toNat / 65536, va.toNat / 65536, pteAged e) :: ps)

/-- The descriptor of an AGEDREG operand, checked (R329): its place, base and size. What another
package's holds is open. -/
def regionOperand (s : State) (a : Reg) : Except Stop (State × Place × Nat × Nat) := do
  touch s [a]
  let n ← srcName s a
  let (s, p) ← useName s n clsAged
  p.runs s
  let s := s.ask p []
  let w (off n : Nat) : Nat := s.readPlace p off n
  during s <|
    if BitVec.ofNat 16 (w 24 2) ≠ s.me.asid then .error (.plain .prot)
    else if w 0 8 % 65536 ≠ 0 ∨ w 8 8 = 0 ∨ w 8 8 % 65536 ≠ 0 ∨ w 16 8 ≠ 0 ∨ w 24 8 / 2 ^ 16 ≠ 0
        ∨ w 40 8 / 4 ≠ 0 ∨ w 48 16 ≠ 0 then
      .error (.info .format 29)
    else .ok (s, p, w 0 8, w 8 8)

/-- The homes of a physical page run (R387). -/
def pageRuns (s : State) (page : Nat) : Except Stop Unit :=
  if (List.range 16).any fun i => s.homeStands (65536 * page + 4096 * i) then .error .hold else .ok ()

/-- Every home of the pages runs. -/
def pagesRun (s : State) : List Nat → Except Stop Unit
  | [] => .ok ()
  | p :: ps => do
    pageRuns s p
    pagesRun s ps

/-- The registrations of pages of other packages cross the fabric (R336). -/
def State.regPackets (s : State) (pages : List Nat) : State :=
  pages.foldl (fun (s : State) p => s.exchange (dieOf s.focus) (65536 * p) []) s

/-- AGREG (R321, R329): every page is translated before any is looked at for AGED. -/
def execAgreg (m : Bool) (a : Reg) (s : State) : Host.Outcome State Fault Refusal :=
  issue { eff := true } s fun s => do
    let (s, p, base, size) ← regionOperand s a
    during s do
      let pages ← s.regionPages base (size / 65536)
      match pages.find? fun e => !e.2.2 with
      | some e => .error (.at_ .prot (BitVec.ofNat 64 (65536 * e.2.1)) 28)
      | none => do
        strong s
        let st := s.readPlace p 40 8 % 4
        let me := mkCoreAddr s.image.pkg (coreOf s.focus) 0
        if st = 1 ∧ s.readPlace p 32 8 ≠ me.toNat then .error (.info .capability 27)
        else if st = 2 ∧ !s.me.super then .error (.info .capability 27)
        else do
          pagesRun s (pages.map (·.1))
          let s := (← release s scopePackage).regPackets (pages.map (·.1))
          let reg (e : Nat × Nat × Bool) : Nat × PageReg :=
            (e.1, ⟨.registered, coreOf s.focus, s.me.asid, e.2.1⟩)
          .ok (((s.regDesc p .registered me).setRegs (pages.map reg)).retire m)

/-- The page record belongs to the region (R320). -/
def PageReg.of (r : PageReg) (asid : BitVec 16) (base size : Nat) : Bool :=
  r.asid == asid && decide (base ≤ 65536 * r.page) && decide (65536 * r.page < base + size)

/-- AGDONE (R321, R329): every page record of the region changes, whatever the pages are mapped to
now. -/
def execAgdone (m : Bool) (a : Reg) (s : State) : Host.Outcome State Fault Refusal :=
  issue { eff := true } s fun s => do
    let (s, p, base, size) ← regionOperand s a
    during s do
      strong s
      let me := mkCoreAddr s.image.pkg (coreOf s.focus) 0
      if s.readPlace p 40 8 % 4 ≠ 1 ∨ s.readPlace p 32 8 ≠ me.toNat then
        .error (.info .capability 27)
      else do
        let l := s.regsWith (·.of s.me.asid base size) .done
        pagesRun s (l.map (·.1))
        let s := (← release s scopePackage).regPackets (l.map (·.1))
        .ok (((s.regDesc p .done me).setRegs l).retire m)

/-- AGAGE (R330). -/
def execAgage (m : Bool) (d a : Reg) (s : State) : Host.Outcome State Fault Refusal :=
  issue {} s fun s => do
    touch s [a, d]
    let va ← srcInt s a
    let (s, t) ← target s va 1 .aged false
    strong s
    match t with
    | .scratch .. => .error (.at_ .prot va 28)
    | .phys pa _ => do
      homeRuns s pa
      let s := s.exchange (dieOf s.focus) pa []
      match s.remoteFault pa with
      | some c => trapFound s c pa 1 va
      | none => .ok ((s.wr d (.int (s.ageWordAt pa false)) .none .var).retire m)

/-! ## LDAG (R322, R323, R327) -/

/-- The three modes of LDAG. -/
inductive AgedMode where
  | wait
  | trap
  | peek
  deriving DecidableEq, Repr

/-- LDAG in a mode at the home of its block: served, parked, or answered by a trap (R323). -/
def agedHome (k : AgedMode) (m : Bool) (t : Reg) (va dm : Word) (tag : Tag) (c : BitVec 4)
    (s : State) (pa : Nat) : Except Stop State := do
  homeRuns s pa
  let s := (s.atHome s.focus pa 16).exchange (dieOf s.focus) pa []
  match s.remoteFault pa with
  | some e => trapFound s e pa 16 va
  | none =>
    let met := decide (needOf dm ≤ s.ageOf pa)
    let info := s.ageWordAt pa true
    if met || k == .peek then
      if s.poisoned pa 16 then trapFound s .memErr pa 16 va
      else .ok ((s.agedDeliver s.focus t pa tag c (!met)).settle s.focus m)
    else during s <|
      if k = .trap then .error (.trap .ageStale va info false)
      else if (s.regOf pa).state ≠ .registered then .error (.trap .ageStop va info false)
      else
        .ok (s.parkAt s.focus ⟨.aged (needOf dm) tag, t, pa, va, c, m, s.nominal s.focus, false,
          false, s.sidereal, false⟩)

/-- LDAG: its checks, and the access at the home. -/
def agedLoad (k : AgedMode) (m : Bool) (t b l : Reg) (c : BitVec 4) (s : State) :
    Host.Outcome State Fault Refusal :=
  issue { fmt := true } s fun s => do
    touch s [b, l, t]
    let va ← srcInt s b
    let dm ← srcInt s l
    if !fmtNotName s then .error (.plain .format) else
    let tag := fmtTag s
    let (s, tg) ← target s va 16 .aged false
    strong s
    match tg with
    | .scratch .. => .error (.at_ .prot va 28)
    | .phys pa _ => agedHome k m t va dm tag c s pa

def execLdagWait (m : Bool) (t b l : Reg) (c : BitVec 4) := agedLoad .wait m t b l c
def execLdagTrap (m : Bool) (t b l : Reg) (c : BitVec 4) := agedLoad .trap m t b l c
def execLdagPeek (m : Bool) (t b l : Reg) (c : BitVec 4) := agedLoad .peek m t b l c

/-! ## Waits at a home (R242, R324, R339) -/

/-- A parked access that its home has not accepted yet arrives there: it is served, placed in the
retry list, answered by a stop, or refused once more (R242, R324). -/
def State.arriveHome (s : State) (c : Nat) (w : Wait) : State :=
  match w.op with
  | .fe op quad data =>
    if !s.feReady op (feWords w.loc quad) then s.parkAt c w
    else if s.fePoison op w.loc quad then
      (s.meet w.loc (feBytes quad)).takeTrap c .memErr w.addr 0 false
    else
      let st := s.feState (feWords w.loc quad)
      let (s, v) := s.feApply op w.loc quad data
      (((s.modSlot c Slot.resumeWait).feDeliver c op quad w.reg w.scope v st).feChanged
        w.loc).settleWait c w.marked
  | .aged need _ =>
    if need ≤ s.ageOf w.loc then s.agedServed w.loc (.slot c)
    else if (s.regOf w.loc).state ≠ .registered then s.agedStopped w.loc (.slot c)
    else s.parkAt c w

/-- A full-empty access on its way reaches its home (R241, R242). -/
def execFeHomeAccess (c : Nat) (s : State) : Host.Outcome State Fault Refusal :=
  match (s.slot c).wait with
  | none => .refused .notEnabled
  | some w =>
    let fe : Bool := match w.op with
      | .fe .. => true
      | .aged .. => false
    event s (fe && !w.accepted) fun s => s.arriveHome c w

/-- An access that a full retry list refused is sent again (R242). -/
def execRetryListResend (c : Nat) (s : State) : Host.Outcome State Fault Refusal :=
  match (s.slot c).wait with
  | none => .refused .notEnabled
  | some w => event s (!w.accepted) fun s => s.arriveHome c w

/-- A wait has passed a limit, in nominal cycles from issue; 0 is no limit. -/
def State.passed (s : State) (c since : Nat) (limit : BitVec 32) : Bool :=
  limit != 0 && decide (limit.toNat < s.nominal c - since)

/-- The source gives up on a parked access of another package: FABRIC. A full-empty access that changes
its words may still be performed there, which is open (R339). -/
def State.abandon (s : State) (c : Nat) (w : Wait) : State :=
  let d := s.homeOf w.loc
  let s := s.unlist d (.slot c)
  let s := match w.op with
    | .fe op quad data =>
      if Config.flag s.free 0x153 then
        (s.enlist d (.away ⟨s.asSender c, none, none, BitVec.ofNat 64 w.loc, .fe op quad data⟩)).1
      else s
    | .aged .. => s
  s.takeTrap c .fabric w.addr 0 false

/-- A parked access is withdrawn at its limit, and traps `cause`; a withdrawal that another package
leaves unanswered traps FABRIC (R242, R324, R339). -/
def State.withdrawAt (s : State) (c : Nat) (w : Wait) (cause : Cause) (info : Word) : State :=
  if s.remote w.loc && Config.flag s.free 0x152 then s.abandon c w
  else (s.unlist (s.homeOf w.loc) (.slot c)).takeTrap c cause w.addr info false

/-- A full-empty wait passes FEWAITMAX and is withdrawn (R242). -/
def execFeWaitTimeout (c : Nat) (s : State) : Host.Outcome State Fault Refusal :=
  match (s.slot c).wait with
  | none => .refused .notEnabled
  | some w =>
    match w.op with
    | .aged .. => .refused .notEnabled
    | .fe .. =>
      event s (s.passed c w.since (s.slot c).feWaitMax) fun s => s.withdrawAt c w .feTimeout 0

/-- An aged wait passes AGWAITMAX and is withdrawn (R324). -/
def execAgedWaitTimeout (c : Nat) (s : State) : Host.Outcome State Fault Refusal :=
  match (s.slot c).wait with
  | none => .refused .notEnabled
  | some w =>
    match w.op with
    | .fe .. => .refused .notEnabled
    | .aged .. =>
      event s (s.passed c w.since (s.slot c).agWaitMax) fun s =>
        s.withdrawAt c w .ageTimeout (s.ageWordAt w.loc true)

/-- A remote home's hold notice reaches the source: FABLIMIT no longer runs, and the source asks again
every FABLIMIT (R339). -/
def execHoldNotice (c : Nat) (s : State) : Host.Outcome State Fault Refusal :=
  match (s.slot c).wait with
  | none => .refused .notEnabled
  | some w =>
    event s (s.remote w.loc && w.accepted && !w.noticed) fun s =>
      s.modSlot c fun x => { x with wait := some { w with noticed := true, probeAt := s.sidereal } }

/-- FABLIMIT has passed since the source of a parked access last heard or asked. -/
def State.probeDue (s : State) (w : Wait) : Bool :=
  decide (s.fabLimit w.loc ≤ (s.sidereal - w.probeAt).toNat)

/-- The source probes the home of a parked remote wait, once every FABLIMIT; a probe left unanswered
within FABLIMIT ends the wait with FABRIC (R339). Whether it is answered is open. -/
def execFabricProbe (c : Nat) (s : State) : Host.Outcome State Fault Refusal :=
  match (s.slot c).wait with
  | none => .refused .notEnabled
  | some w =>
    event s (s.remote w.loc && w.noticed && s.probeDue w) fun s =>
      if w.unheard then s.abandon c w
      else
        s.modSlot c fun x =>
          { x with wait := some { w with probeAt := s.sidereal, unheard := Config.flag s.free 0x150 } }

end Sys2Proof.Machine
end

