-- ==== Sys2Proof/Machine/Dispatcher.lean ====
section
/-! DEFINITION. The cluster dispatcher (R100 to R102), the start of an activation (R55, R92, R369),
and the attachment of queues by the service (R93, R95). -/

namespace Sys2Proof.Machine

/-! ## The start of an activation (R55, R92, R369) -/

/-- An entry of the ASID table (R92): VALID, no reserved bit set, RND from 1 to 5. -/
structure AsidEntry where
  root : BitVec 40
  rnd : BitVec 3
  ftz : Bool
  deriving DecidableEq, Repr

/-- The entry of an address space, read at its home; none when it refuses the record (R92). -/
def State.asidEntry (s : State) (asid : BitVec 16) : Option AsidEntry :=
  let a := s.physOf (s.image.asidTab.toNat + 16 * asid.toNat)
  let e := BitVec.ofNat 128 (s.homeRead a 16)
  let rnd := e.extractLsb' 64 3
  if e.getLsbD 0 && e.extractLsb' 1 15 == 0#15 && e.extractLsb' 56 8 == 0#8
      && e.extractLsb' 68 60 == 0#60 && decide (1 ≤ rnd.toNat ∧ rnd.toNat ≤ 5) then
    some ⟨e.extractLsb' 16 40, rnd, e.getLsbD 67⟩
  else none

/-- The registers at entry (R55): fp, ag, mt and sp, the others zero. -/
def entryFile (r : BitVec 256) (slot : Nat) : Vector RV 93 :=
  let f : Vector RV 93 := Vector.replicate 93 .zero
  let f := vset f 36 (.int (recFrame r))
  let f := vset f 35 (.int (recArg r))
  let f := vset f 34 (.int (recMeta r))
  vset f 37 (.int (BitVec.ofNat 64 (0x7400 + 0x400 * slot)))

/-- The slot as an activation starts in it (R55). No register value survives: what the table does not
name is as after reset (DEDUCED, log 11). Bits 1:0 of an entry that has been stored over since its check are not
held (R22). -/
def Slot.start (x : Slot) (c : Nat) (r : QRec) (e : AsidEntry) (super : Bool) (now : Word) : Slot :=
  { x with
    phase := .active .running
    pc := recEntry r.body &&& ~~~3
    file := entryFile r.body (c % 4)
    l0 := ⟨.zero, 0, 0⟩
    l1 := ⟨.zero, 0, 0⟩
    due0 := []
    due1 := []
    outs := []
    pos := 0
    wbase := 0
    hints := .empty
    super := super
    inTrap := false
    ftz := e.ftz
    rnd := e.rnd
    fpflags := 0
    trapVec := 0
    trapPc := 0
    trapCause := 0
    trapPend := false
    trapAddr := 0
    trapInfo := 0
    agWaitMax := 0x01000000
    feWaitMax := 0x01000000
    asid := r.env.asid
    root := e.root
    acks := ⟨0, 0, 0, 0⟩
    err := .none
    heart := 0
    eff := false
    record := r.body
    env := r.env
    arrived := r.time
    started := now
    drainAt := none
    parkNext := false
    atBreak := false
    wait := none
    align := none
    nameOp := none
    slow := false
    refusedAt := none
    haltNext := false
    late := []
    seen := none
    stores := []
    sending := [] }

/-- A running launch has used a core in which an activation of it starts (R213, R420). -/
def Launch.use (l : Launch) (e : Envelope) (core : Nat) : Launch :=
  if l.asid = e.asid ∧ l.id = e.launch ∧ l.ended.isNone ∧ !l.used.contains core then
    { l with used := l.used ++ [core] }
  else l

/-- To start from a record is an acquire at the narrowest scope that holds the sender and the cluster of the
queue (R57, R244); of a record that a cell or a barrier releases, every decrement and signal counts. -/
def State.acquireStart (s : State) (cl : Nat) (e : Envelope) : State :=
  if e.kind = 0 ∧ e.spkg = s.image.pkg ∧ clusterOf e.scoord.toNat = cl then s else s.discard cl

/-- A granted record starts its activation, or its address space refuses it, the record goes to the error
queue, and the slot is no candidate for the rest of the die cycle (R92, R368). -/
def State.grant (s : State) (c : Nat) (r : QRec) (service : Bool) : State :=
  match s.asidEntry r.env.asid with
  | some e =>
    let s := s.acquireStart (clusterOf c) r.env
    { s with launches := s.launches.map (Launch.use · r.env (coreOf c)) }.modSlot c fun x =>
      x.start c r e (service || isServiceCore (coreOf c)) s.sidereal
  | none =>
    (s.modSlot c fun x => { x with refusedAt := some (s.die (dieOf c)).dcyc }).postErr c
      (errRecord (r.env.asid.setWidth 64) 0 (recEntry r.body) (coordOf c) 5 false false Cause.prot.code r.body)

/-! ## The choice (R100 to R102) -/

/-- The record a queue would release next: the oldest of the pool, or, for a stage queue, the one
whose SEQ is NEXTREL (R100, R102). -/
def Queue.head (x : Queue) : Option QRec :=
  if x.kind = .stage then x.pool.find? fun r => recSeq r.body == x.nextRel else x.pool.head?

/-- The effective class of a head (R101). -/
def effClass (dwell : BitVec 32) (now : Nat) (r : QRec) : Nat :=
  if dwell = 0 then recPri r.body else recPri r.body - (now - r.at_) / dwell.toNat

/-- The collective handler whose record this is, on a gateway core (R350): the index of its block. -/
def State.handlerIndex (s : State) (core : Nat) (r : BitVec 256) : Option (BitVec 32) :=
  let cl := coreCluster core
  if 448 ≤ clusterNum cl ∧ clusterNum cl < 452 then
    if (s.cluster cl).queues.any fun q =>
        match q.2.coll with
        | some x => x.entry.extractLsb' 0 54 == r.extractLsb' 0 54
        | none => false
    then some ((recArg r).setWidth 32) else none
  else none

/-- The slot runs, or is parked in, an activation. -/
def Slot.busy (x : Slot) : Bool :=
  match x.phase with
  | .active _ | .draining _ => true
  | .held context => context
  | .idle => false

/-- An activation started from an earlier record of the block index runs on the core (R350). -/
def State.handlerBusy (s : State) (core : Nat) (i : BitVec 32) : Bool :=
  (List.range 4).any fun k =>
    let x := s.slot (4 * core + k)
    x.busy && s.handlerIndex core x.record == some i

/-- The oldest mailbox record the core may be given (R100, R350). -/
def State.mailHead (s : State) (core : Nat) : Option QRec :=
  ((s.cluster (coreCluster core)).queue (4 + core % 16)).pool.find? fun r =>
    match s.handlerIndex core r.body with
    | some i => !s.handlerBusy core i
    | none => true

/-- The ready, stage and, for service cores, service queues whose head the core may take, with
the head's effective class (R95, R100, R101). -/
def State.offers (s : State) (core : Nat) : List (Nat × Nat) :=
  let cl := coreCluster core
  let k := s.cluster cl
  let now := (s.die (cl / 512)).dcyc.toNat
  k.queues.filterMap fun e =>
    let q := e.2
    if q.attached && q.kind != .mailbox && (q.kind != .service || isServiceCore core)
        && q.cores.getLsbD (core % 16) then
      q.head.map fun r => (effClass k.dwellMax now r, e.1)
    else none

/-- The queue index the core takes from (R100): of the lowest class, the first at or after QROT. -/
def State.choose (s : State) (core : Nat) : Option Nat :=
  let o := s.offers core
  let qrot := (s.cluster (coreCluster core)).qrot
  match o.foldl (fun (m : Option Nat) e => some (match m with
      | some n => min n e.1
      | none => e.1)) none with
  | none => none
  | some cls =>
    let best := o.filter fun e => e.1 == cls
    match best.find? fun e => decide (qrot ≤ e.2) with
    | some e => some e.2
    | none => best.head?.map (·.2)

/-- A slot the dispatcher may grant a record to (R92, R100, R348, R368). -/
def State.candidate (s : State) (c : Nat) : Bool :=
  let k := s.core (coreOf c)
  let x := s.slot c
  let cl := clusterNum (clusterOf c)
  x.phase == .idle && x.heldErr.isNone && x.refusedAt != some (s.die (dieOf c)).dcyc && !k.fenced && !k.contained && !k.stopped
    && !(decide (448 ≤ cl ∧ cl < 452) && c % 4 == 3)
    && (decide (cl < 452) || (cl == 452 && decide (c % 64 < 16)))

/-- Records that a service core takes from the error queue go to the service's code, which the part
does not lay down (R419; DESIGN CHOICE, log 9); the slot stays idle. -/
def State.grantErr (s : State) (c : Nat) (r : QRec) (service : Bool) : State :=
  match r.err with
  | some e => s.post (.error e)
  | none => s.grant c r service

/-- Take a record out of a queue, and release it (R100, R102). -/
def Queue.take (x : Queue) (r : QRec) : Queue :=
  { x with pool := x.pool.erase r, nextRel := if x.kind = .stage then x.nextRel + 1 else x.nextRel }

/-- Grant slot `c` a record, if there is one for it (R100). The answer counts the pool entries it frees. -/
def State.grantSlot (s : State) (c : Nat) : Option (State × Nat) :=
  let core := coreOf c
  let cl := clusterOf c
  match s.mailHead core with
  | some r =>
    let q := 4 + core % 16
    some ((s.modCluster cl fun k => k.setQueue q ((k.queue q).take r)).grant c r false, r.width)
  | none =>
    match s.choose core with
    | none => none
    | some q =>
      let x := (s.cluster cl).queue q
      match x.head with
      | none => none
      | some r =>
        let s := s.modCluster cl fun k =>
          { k.setQueue q (x.take r) with qrot := (q + 1) % 256 }
        some (s.grantErr c r (x.kind == .service), r.width)

/-- The grants of one die cycle over the slots of a list, at most `n` (R100). The answer counts
them, and the pool entries they free. -/
def State.grants (s : State) : List Nat → Nat → State × Nat × Nat
  | [], _ => (s, 0, 0)
  | _ :: _, 0 => (s, 0, 0)
  | c :: cs, n + 1 =>
    if s.candidate c then
      match s.grantSlot c with
      | some (t, w) =>
        let t := t.modCluster (clusterOf c) fun k => { k with srot := (c % 64 + 1) % 64 }
        let (u, k, f) := t.grants cs n
        (u, k + 1, f + w)
      | none => s.grants cs (n + 1)
    else s.grants cs (n + 1)

/-- The slots of a cluster from SROT on (R100). -/
def State.order (s : State) (cl : Nat) : List Nat :=
  (List.range 64).map fun i => cl * 64 + ((s.cluster cl).srot + i) % 64

/-- The control registers written in this die cycle of a die govern from the next on (R136). -/
def State.governed (s : State) (d : Nat) : Bool := (s.die d).ctrlAt != some (s.die d).dcyc

/-- How many grants the cluster has made in the die cycle (R100). -/
def Cluster.granted (k : Cluster) (now : Word) : Nat :=
  match k.grantAt with
  | some (t, n) => if t = now then n else 0
  | none => 0

/-- The dispatcher's grants of a die cycle, then the refills that the freed entries allow (R99, R100). -/
def execDispatchGrant (cl : Nat) (s : State) : Host.Outcome State Fault Refusal :=
  let s := s.bump
  let now := (s.die (cl / 512)).dcyc
  let past := (s.cluster cl).granted now
  let (t, n, freed) := s.grants (s.order cl) (4 - past)
  if n = 0 ∨ !s.governed (cl / 512) then .refused .notEnabled
  else .next ((t.modCluster cl fun k => { k with grantAt := some (now, past + n) }).refills cl freed)

/-! ## Attaching and detaching (R93, R95, R349) -/

/-- The kind with a code (R95). -/
def QKind.ofCode (c : BitVec 2) : QKind :=
  if c = 0 then .ready else if c = 1 then .mailbox else if c = 2 then .stage else .service

/-- The settings of a collective queue lie in their ranges, and its cluster is a port's (R349). -/
def settingsFit (x : QueueSettings) (cl : Nat) : Bool :=
  !x.collective
    || (decide (448 ≤ clusterNum cl ∧ clusterNum cl < 452) && x.kind == 3#2
      && decide (1 ≤ x.ranks ∧ x.ranks ≤ 4096)
      && decide (16 ≤ x.maxLen ∧ x.maxLen ≤ 4096 ∧ x.maxLen % 16 = 0)
      && decide (1 ≤ x.landSlots ∧ x.landSlots ≤ 4)
      && decide (x.land % 16 = 0 ∧ x.land + x.landSlots * x.maxLen ≤ 0x8000))

/-- A queue comes to an index, empty (R93, R95). -/
def State.attach (s : State) (cl q : Nat) (x : QueueSettings) : State :=
  s.modCluster cl fun k =>
    k.setQueue q { k.queue q with
      attached := true, kind := .ofCode x.kind, cls := x.cls, cores := x.cores, sealed_ := false,
      pool := [], ext := [], extCap := x.extCap, extBase := x.extBase, extHead := 0, nextRel := 0
      nextSeq := 0, win := x.win, desc := x.desc, coll := if x.collective then some x else none }

/-- A queue leaves its index: its descriptor is written back, and its pool entries, released, allow
refills (R95, R99). -/
def State.detach (s : State) (cl q : Nat) : State :=
  let x := (s.cluster cl).queue q
  let s := s.writeBack cl q
  (s.modCluster cl fun k =>
    { k.setQueue q { Queue.none with min := x.min, cap := x.cap, was := x.was } with
      blocks := k.blocks.filter fun b => b.queue != q }).refills cl x.use

/-- The service attaches a stage queue or a service queue to an index from 20 on (R93, R349). -/
def execQueueAttach (cl q : Nat) (x : QueueSettings) (s : State) :
    Host.Outcome State Fault Refusal :=
  event s (decide (20 ≤ q ∧ q < 256) && x.kind.getLsbD 1 && !((s.cluster cl).queue q).attached
      && settingsFit x cl) fun s =>
    s.attach cl q x

/-- The service detaches a queue (R95, R99). -/
def execQueueDetach (cl q : Nat) (s : State) : Host.Outcome State Fault Refusal :=
  event s (decide (20 ≤ q) && ((s.cluster cl).queue q).attached) fun s => s.detach cl q

end Sys2Proof.Machine
end

