-- ==== Sys2Proof/Machine/Slots.lean ====
section
/-! DEFINITION. The commands on slots (R372 to R379), the saved context and its seal (R376, R377),
TLBI (R363, R364), and the fence and containment of a core (R107, R394 to R400). -/

namespace Sys2Proof.Machine

/-! ## The saved context (R376, R377) -/

/-- The area of a compute slot (R376), in the own package's memory. -/
def State.ctxBase (s : State) (c : Nat) : Nat :=
  let k := clusterNum (clusterOf c)
  s.physOf (s.image.ctxBase.toNat
    + 0x6000 * ((((dieOf c * 448 + k) * 16) + c / 4 % 16) * 4 + c % 4))

/-- The 95 registers in the order of the area: m, o, l0, l1, ring. -/
def Slot.allRegs (x : Slot) : List RV :=
  x.file.toList.take 45 ++ [x.l0.rv, x.l1.rv] ++ x.file.toList.drop 45

/-- No instruction takes the hints: a malformed one, or more of a kind than a group may have (R42). -/
def Hints.broken (h : Hints) : Bool :=
  h.bad || decide (2 < h.imm.length) || decide (1 < h.mod.length) || decide (1 < h.sched.length)

/-- The four words of the hint state in the area (R376). Hints that no instruction takes stand as the
count 3. DEDUCED, log 31. -/
def Hints.save (h : Hints) : Nat :=
  let p (l : List (BitVec 22)) (i : Nat) : BitVec 22 := l.getD i 0
  let w0 : Word := 0#16 ++ BitVec.ofBool (!h.sched.isEmpty) ++ BitVec.ofBool (!h.mod.isEmpty)
    ++ BitVec.ofNat 2 (if h.broken then 3 else h.imm.length) ++ p h.imm 1 ++ p h.imm 0
  let w1 : Word := 0#20 ++ p h.sched 0 ++ p h.mod 0
  (0#64 ++ h.first.getD 0 ++ w1 ++ w0).toNat

/-- The seal over a context's registers (R377). -/
def sealOf (key : Quad) (regs : List RV) : Nat :=
  let named := regs.zipIdx.flatMap fun e =>
    if e.1.tag = .name then e.2 :: natBytes e.1.val.toNat 16 else []
  ((aesCmac (natBlock key.toNat) named).zipIdx.map fun e => e.1 * 256 ^ e.2).sum

/-- The fifteen control registers of the area, as the slot reads them (R376). -/
def State.savedCregs (s : State) (c : Nat) : List Word :=
  let t := { s with focus := c }
  [t.creg .threadst, t.creg .fpflags, t.creg .trapvec, t.creg .trappc, t.creg .trapcause,
   t.creg .trapaddr, t.creg .trapinfo, t.creg .wbase, t.creg .agwaitmax, t.creg .fewaitmax,
   t.creg .asid, t.creg .ptbase, t.creg .recmeta, t.creg .hblast, t.creg .errpend]

/-- Numbers of `n` bytes each, written one after another. -/
def Mem.writeMany (m : Mem) (a n : Nat) : List Nat → Mem
  | [] => m
  | v :: vs => (m.writeLE a n v).writeMany (a + n) n vs

/-- The data of a unit the slot holds, into its part of the area. -/
def Mem.writeUnit (m : Mem) (a u : Nat) (x : MUnit) : Mem :=
  if u < 4 then
    let b := a + 0x800 + 0x1080 * u
    (m.writeMany b 256 (x.rows.toList.map (·.toNat))).writeMany (b + 4096) 8
      (x.scales.toList.map (·.toNat))
  else m.writeMany (a + 0x4A00 + 0x400 * (u - 4)) 64 (x.rows.toList.map fun r => r.toNat % 2 ^ 512)

/-- The whole context of slot `c`, written with a REASON (R376). -/
def State.writeContext (s : State) (c reason : Nat) : State :=
  let x := s.slot c
  let a := s.ctxBase c
  let units := (s.core (coreOf c)).units.toList
  let mine (u : MUnit) : Bool := u.state != .free && u.owner == BitVec.ofNat 2 c
  let regs := x.allRegs
  let word (u : MUnit) : Nat :=
    if mine u then u.snapshot.toNat - (if u.pend.isEmpty then 0 else 4)
      + 2 ^ 16 * (u.poison.getD 0).toNat
    else 0
  let m := s.mem.writeMany a 16 (regs.map fun r => r.val.toNat)
  let m := m.writeMany (a + 0x5F0) 1 (regs.map fun r => r.tag.code.toNat)
  let m := m.writeLE (a + 0x650) 8 x.pc.toNat
  let m := m.writeLE (a + 0x658) 32 x.hints.save
  let m := m.writeMany (a + 0x678) 8 ((s.savedCregs c).map (·.toNat))
  let m := m.writeMany (a + 0x6F0) 8
    [x.err.cause.toNat, x.err.addr.toNat, x.err.info.toNat, x.err.count.toNat]
  let m := m.writeLE (a + 0x710) 8 reason
  let m := m.writeMany (a + 0x718) 4 (units.map word)
  let m := m.writeLE (a + 0x738) 32 x.record.toNat
  let m := m.writeLE (a + 0x758) 16 (sealOf s.image.key regs)
  let m := m.writeLE (a + 0x768) 152 0
  let m := units.zipIdx.foldl (fun m e => if mine e.1 then m.writeUnit a e.2 e.1 else m) m
  { s with mem := m }

/-- The end of a drain window: the slot is saved and HELD (R375). A WAITING slot's access is
withdrawn and its group issues again; so does a group that waits at an ALIGN (R117). The hint state is
saved as it stands, and the heartbeat count with it (R43, R106). -/
def State.saveSlot (s : State) (c : Nat) : State :=
  let x := s.slot c
  let waiting := x.wait.isSome
  let again := waiting || s.aligned c
  let s := ((s.withdraw c).drain c).answered c
  let s := s.modSlot c fun x => { x with pc := if again then x.groupStart else x.pc }
  let run := (x.phase.run?).getD .running
  let reason := if waiting then 3 else match run with
    | .faulted => 2
    | .stopped => 4
    | _ => 1
  ((s.writeContext c reason).releaseUnits c).modSlot c fun x =>
    { x with phase := .held true, drainAt := none, parkNext := false, haltNext := false, atBreak := false, outs := []
             hints := .empty, align := none, heart := 0, opBy := none, nameOp := none, seen := none }

/-! ### Restoring (R376) -/

/-- The hint state an area holds. The first hint's address is one of a word (R22). -/
def Hints.load (w0 w1 w2 : Word) : Hints :=
  let n := (w0.extractLsb' 44 2).toNat
  { first := if w2 = 0 then none else some (w2 &&& ~~~3#64)
    imm := ([w0.extractLsb' 0 22, w0.extractLsb' 22 22, 0#22]).take n
    mod := if w0.getLsbD 46 then [w1.extractLsb' 0 22] else []
    sched := if w0.getLsbD 47 then [w1.extractLsb' 22 22] else []
    bad := false
    t0 := 0 }

/-- The hint state a slot goes on with at `pc`: none at the group's first hint, which issues again
(R43, R117). -/
def Hints.resume (h : Hints) (pc : Word) : Hints := if h.first = some pc then .empty else h

/-- When the ALIGN wait of a restored group ends, at the latest: the die cycle in which its HSCHED issued
is not saved, and the wait counts from the restore. DEDUCED, log 31. -/
def Hints.alignFrom (h : Hints) (now : Nat) : Option Nat :=
  match h.sched with
  | m :: _ =>
    if m.extractLsb' 18 4 = 0#4 ∧ m.extractLsb' 0 16 ≠ 0#16 then
      some (now + (m.extractLsb' 0 16).toNat)
    else none
  | [] => none

/-- The unit word of an area, as a unit with its data. -/
def State.loadUnit (s : State) (a u slot : Nat) (w : BitVec 32) : MUnit :=
  let rd (b n : Nat) : Nat := s.mem.readLE b n
  { state := if w.extractLsb' 0 2 = 1 then .owned else if w.extractLsb' 0 2 = 2 then .loading
      else .ready
    owner := BitVec.ofNat 2 slot
    tag := (Tag.ofCode (w.extractLsb' 3 5)).getD .raw
    scaled := w.getLsbD 8
    poison := if w.getLsbD 9 then some (w.extractLsb' 16 6) else none
    load := none
    pend := []
    rows := Vector.ofFn fun i : Fin 16 => BitVec.ofNat 2048
      (if u < 4 then rd (a + 0x800 + 0x1080 * u + 256 * i.val) 256
       else rd (a + 0x4A00 + 0x400 * (u - 4) + 64 * i.val) 64)
    scales := Vector.ofFn fun i : Fin 16 => BitVec.ofNat 64
      (if u < 4 then rd (a + 0x800 + 0x1080 * u + 4096 + 8 * i.val) 8 else 0) }

/-- Restore slot `c` from its area, or the trap of the check that refuses it (R376). The answer gives the
saved REASON. A tag byte above 0x1F counts with its low five bits (DESIGN CHOICE, log 31). -/
def State.restoreSlot (s : State) (c : Nat) : Except Stop (State × Nat) :=
  let a := s.ctxBase c
  let rd (o n : Nat) : Nat := s.mem.readLE (a + o) n
  let units := (List.range 8).map fun u => BitVec.ofNat 32 (rd (0x718 + 4 * u) 4)
  let claimed (w : BitVec 32) : Bool := w.extractLsb' 0 2 != 0#2
  let busy := units.zipIdx.find? fun e =>
    claimed e.1 && (vget (s.core (coreOf c)).units .reset e.2).state != .free
  let tags := (List.range 95).map fun i => Tag.ofCode (BitVec.ofNat 5 (rd (0x5F0 + i) 1))
  let badTag := (List.range 95).any fun i => rd (0x5F0 + i) 1 / 16 == 1
  let reason := rd 0x710 8 % 16
  match busy with
  | some e => .error (.info .slotState e.2)
  | none =>
    if badTag ∨ reason = 0 ∨ 4 < reason then .error (.info .format 37)
    else
      let regs := tags.zipIdx.map fun e =>
        (⟨BitVec.ofNat 128 (rd (16 * e.2) 16), e.1.getD .raw⟩ : RV)
      if sealOf s.image.key regs ≠ rd 0x758 16 then .error (.info .format 39)
      else
        let reg (i : Nat) : RV := regs.getD i .zero
        let word (o : Nat) : Word := BitVec.ofNat 64 (rd o 8)
        let cr (i : Nat) : Word := word (0x678 + 8 * i)
        let ep := cr 14
        let meta' := cr 12
        let core := coreOf c
        let pc := word 0x650 &&& ~~~3#64
        let hints := (Hints.load (word 0x658) (word 0x660) (word 0x668)).resume pc
        let put (s : State) (e : BitVec 32 × Nat) : State :=
          if claimed e.1 then
            s.modCore core fun k => { k with units := vset k.units e.2 (s.loadUnit a e.2 c e.1) }
          else s
        let s := units.zipIdx.foldl put s
        let s := s.modSlot c fun x =>
          { x with
            phase := .active .running
            pc := pc
            file := Vector.ofFn fun i : Fin 93 => reg (if i.val < 45 then i.val else i.val + 2)
            l0 := ⟨reg 45, x.pos, 0⟩
            l1 := ⟨reg 46, x.pos, 0⟩
            due0 := []
            due1 := []
            outs := []
            hints := hints
            super := (cr 0).getLsbD 15
            inTrap := (cr 0).getLsbD 14
            ftz := (cr 0).getLsbD 7
            rnd := (cr 0).extractLsb' 4 3
            fpflags := (cr 1).setWidth 5
            trapVec := addrField (cr 2)
            trapPc := addrField (cr 3)
            trapCause := (cr 4).setWidth 6
            trapPend := (cr 4).getLsbD 8
            trapAddr := cr 5
            trapInfo := cr 6
            wbase := wbaseOf ((cr 7).setWidth 6)
            agWaitMax := (cr 8).setWidth 32
            feWaitMax := (cr 9).setWidth 32
            asid := (cr 10).setWidth 16
            root := (cr 11).extractLsb' 16 40
            env := { x.env with
              kind := meta'.extractLsb' 60 2
              spkg := meta'.extractLsb' 50 10
              scoord := meta'.extractLsb' 32 18
              sent := x.env.sent.extractLsb' 32 8 ++ meta'.extractLsb' 0 32 }
            heart := (cr 13).setWidth 32
            err := ⟨ep.getLsbD 7, (word 0x6F0).setWidth 6, word 0x6F8, word 0x700,
              (word 0x708).setWidth 16, 0⟩
            record := BitVec.ofNat 256 (rd 0x738 32)
            wait := none
            seen := none
            late := []
            stores := []
            sending := []
            align := hints.alignFrom (s.die (dieOf c)).dcyc.toNat
            nameOp := none
            slow := false }
        .ok (s, reason)

/-! ## Selectors (R372) -/

/-- A slot selector, checked: its core, its slots in ascending order, ACTION and NOWAIT. -/
structure Selector where
  slots : List Nat
  action : BitVec 3
  nowait : Bool
  deriving DecidableEq, Repr

/-- The checks of R372. `preempt` and `resume` say whose fields may be set. -/
def selector (s : State) (a : Reg) (preempt resume : Bool) : Except Stop Selector := do
  touch s [a]
  let v ← srcInt s a
  let mask := v.extractLsb' 0 4
  let act := v.extractLsb' 4 3
  let core := (v.extractLsb' 36 16).toNat
  let slots := ((List.range 4).filter mask.getLsbD).map fun i => 4 * core + i
  let own := decide (v.extractLsb' 52 10 = s.image.pkg)
  if v.extractLsb' 62 2 ≠ 2#2 ∨ v.extractLsb' 15 21 ≠ 0#21 ∨ v.extractLsb' 8 7 ≠ 0#7 ∨ mask = 0#4
      ∨ 1 < act.toNat ∨ (act ≠ 0#3 ∧ !resume) ∨ (v.getLsbD 7 ∧ !preempt)
      ∨ (own ∧ slots.contains s.focus) then
    .error (.info .format 34)
  else if !own ∨ 448 ≤ (v.extractLsb' 40 9).toNat then .error (.info .prot 36)
  else .ok ⟨slots, act, v.getLsbD 7⟩

/-- One operation at a time runs on a slot (R372): a second one waits for the first, but for a KILL of a
slot that a PREEMPT drains (R379). -/
def Slot.taken (x : Slot) (kill : Bool) : Bool :=
  x.opBy.isSome && !(kill && (match x.phase with
    | .draining _ => true
    | _ => false))

/-- The word acts on its slots, `start` on each, once no other operation runs on any, and holds issue
until `open_` leaves none of them unfinished (R372). What it has begun it does not begin again. -/
def slotsOp (s : State) (t : Selector) (kill : Bool) (m : Bool) (start : State → Nat → State)
    (open_ : Slot → Bool) : Except Stop State :=
  let me := s.focus
  let done (s : State) : State := (s.modMe fun x => { x with nameOp := none }).retire m
  let hold (s : State) : Except Stop State :=
    .error (.became (s.modMe fun x => { x with nameOp := some .slots, slow := true }))
  if s.me.nameOp = some .slots then
    if t.slots.any fun c => (s.slot c).opBy == some me then hold s else .ok (done s)
  else if t.slots.any fun c => (s.slot c).taken kill then .error .hold
  else
    let s := t.slots.foldl start s
    let s := t.slots.foldl (fun (s : State) c => if open_ (s.slot c)
      then s.modSlot c fun x => { x with opBy := some me } else s) s
    if t.slots.any fun c => open_ (s.slot c) then hold s else .ok (done s)

/-! ## PARK, RESUME, PREEMPT, KILL (R373 to R375, R379) -/

/-- PARK on one slot (R373). -/
def State.parkSlot (s : State) (c : Nat) : State :=
  match (s.slot c).phase with
  | .active .running =>
    (s.drain c).modSlot c fun x => { x with phase := .active .stopped, seen := none }
  | .active .waiting => s.modSlot c fun x => { x with parkNext := true }
  | _ => s

def execPark (m : Bool) (a : Reg) (s : State) : Host.Outcome State Fault Refusal :=
  issue { super := true } s fun s => do
    let t ← selector s a false false
    slotsOp s t false m State.parkSlot (·.phase == .active .waiting)

/-- RESUME on one slot (R374). -/
def State.resumeSlot (s : State) (act : BitVec 3) (c : Nat) : Except Stop State :=
  let x := s.slot c
  let run (s : State) : State :=
    (s.modSlot c fun x => { x with phase := .active .running, atBreak := false }).cameToWait c
  match x.phase with
  | .active .faulted =>
    .ok (if act = 1 then (run s).takeTrap c .prot x.trapAddr 32 false else run s)
  | .active .stopped => .ok (run s)
  | .held false => .ok (s.modSlot c fun x => { x with phase := .idle })
  | .held true =>
    match s.restoreSlot c with
    | .error e => .error e
    | .ok (s, reason) =>
      .ok (if act = 1 ∧ reason = 2 then s.takeTrap c .prot (s.slot c).trapAddr 32 false
        else s.cameToWait c)
  | _ => .ok s

/-- The slots of a list, one after another. -/
def State.resumeAll (s : State) (act : BitVec 3) : List Nat → Except Stop State
  | [] => .ok s
  | c :: cs => do
    let s ← s.resumeSlot act c
    s.resumeAll act cs

/-- A slot RESUME refuses (R374). -/
def Slot.noResume (x : Slot) : Bool :=
  match x.phase with
  | .active .faulted | .active .stopped | .held _ => false
  | _ => true

/-- RESUME. A check that fails changes no slot. DEDUCED, log 24. -/
def execResume (m : Bool) (a : Reg) (s : State) : Host.Outcome State Fault Refusal :=
  issue { super := true } s fun s => do
    let t ← selector s a false true
    if t.slots.any fun c => (s.slot c).taken false then .error .hold
    else
      match t.slots.find? fun c => (s.slot c).noResume with
      | some c => .error (.info .slotState (8 + c % 4))
      | none => do
        let s ← s.resumeAll t.action t.slots
        .ok (s.retire m)

/-- The window of a draining slot has ended, and nothing it has begun holds it (R375). -/
def State.windowOver (s : State) (c : Nat) : Bool :=
  let x := s.slot c
  match x.phase, x.drainAt with
  | .draining _, some t => decide (t ≤ s.nominal c) && x.nameOp.isNone && x.sending.isEmpty
  | _, _ => false

/-- PREEMPT on one slot: DRAINING, with the end of its window, and saved at once where that has come
(R375). -/
def State.preemptSlot (window : Nat) (s : State) (c : Nat) : State :=
  let s := s.modSlot c fun x =>
    match x.phase with
    | .idle => { x with phase := .held false }
    | .active r => { x with phase := .draining r, drainAt := some (s.nominal c + window) }
    | _ => x
  if s.windowOver c then s.saveSlot c else s

/-- The slot is DRAINING. -/
def Slot.drains (x : Slot) : Bool :=
  match x.phase with
  | .draining _ => true
  | _ => false

/-- PREEMPT. -/
def execPreempt (m : Bool) (a : Reg) (s : State) : Host.Outcome State Fault Refusal :=
  issue { super := true } s fun s => do
    let t ← selector s a true false
    slotsOp s t false m (State.preemptSlot (if t.nowait then 0 else s.image.preWin)) Slot.drains

/-- PEND of a slot's TRAPCAUSE; of a HELD one, as its area holds it (R368, R376). -/
def State.trapPendOf (s : State) (c : Nat) : Bool :=
  if (s.slot c).phase = .held true then (s.mem.readLE (s.ctxBase c + 0x698) 8).testBit 8
  else (s.slot c).trapPend

/-- KILL on one slot (R379). -/
def State.killSlot (s : State) (c : Nat) : State :=
  let x := s.slot c
  match x.phase with
  | .idle => s
  | .held false => s.modSlot c fun x => { x with phase := .idle }
  | .held true =>
    let a := s.ctxBase c
    let s := s.modSlot c fun x => { x with record := BitVec.ofNat 256 (s.mem.readLE (a + 0x738) 32) }
    s.abort c 3 (s.trapPendOf c) 0 (BitVec.ofNat 64 (s.mem.readLE (a + 0x650) 8)) 0 0 .idle
  | .active .running | .active .stopped => (s.drain c).abort c 3 x.trapPend 0 x.pc 0 0 .idle
  | _ => s.abort c 3 x.trapPend 0 x.pc 0 0 .idle

/-- KILL. -/
def execKill (m : Bool) (a : Reg) (s : State) : Host.Outcome State Fault Refusal :=
  issue { super := true } s fun s => do
    let t ← selector s a false false
    slotsOp s t true m State.killSlot (·.heldErr.isSome)

/-- The end of a drain window (R375). -/
def execPreemptWindowExpiry (c : Nat) (s : State) : Host.Outcome State Fault Refusal :=
  event s (s.windowOver c) fun s => s.saveSlot c

/-- A held error record is sent again, or, where the slot holds none, the oldest item that the
senders of its die keep (R419). -/
def execErrorRecordResend (c : Nat) (s : State) : Host.Outcome State Fault Refusal :=
  match (s.slot c).heldErr with
  | some r =>
    event s true fun s =>
      match s.sendErr (dieOf c) (.slot r) with
      | (s, true) => s.modSlot c fun x => { x with heldErr := none, opBy := none }
      | (s, false) => s
  | none =>
    match (s.die (dieOf c)).errHold with
    | [] => .refused .notEnabled
    | e :: es =>
      event s true fun s =>
        match s.sendErr (dieOf c) e with
        | (s, true) => s.modDie (dieOf c) fun d => { d with errHold := es }
        | (s, false) => s

/-! ## TLBI (R363, R364) -/

/-- The entry of an address space, page size and globality is one the TLBI removes. -/
def tlbiHits (all global : Bool) (asid : BitVec 16) (va base : Nat) (large g : Bool)
    (entryAsid : BitVec 16) : Bool :=
  (all || base == pageBase large va) &&
    (global || (if all then !g && entryAsid == asid else g || entryAsid == asid))

/-- The cached translations of the package that a TLBI removes. -/
def State.struck (s : State) (hit : TlbEntry → Bool) : List TlbEntry :=
  ((s.cores.flatMap fun e => e.2.dtlb ++ e.2.itlb) ++ s.clusters.flatMap (·.2.tlb)).filter hit

/-- An access at an address was translated in an address space through one of the entries. -/
def through (l : List TlbEntry) (asid : BitVec 16) (va : Word) : Bool := l.any (·.maps asid va.toNat)

/-- The loads, the pieces of unit loads and the stores translated through the entries are performed at their
homes. -/
def State.settleThrough (s : State) (l : List TlbEntry) : State :=
  let s := (s.slots.map (·.1)).foldl (fun (s : State) c =>
    ((s.performLoads c (fun q => through l q.asid q.va) (s.outIdx c 0)).readPieces c
      fun p => p.core.isNone && through l p.asid p.va).enterStores c fun p => through l p.asid p.va) s
  s.finishStores fun p => through l p.asid p.va

/-- An access that was translated through one of the entries waits at its home. -/
def State.waitsThrough (s : State) (l : List TlbEntry) : Bool :=
  (s.slots.any fun e => match e.2.wait with
    | some w => through l e.2.asid w.addr
    | none => false)
  || s.cores.any fun e => e.2.queue.any fun c => match c.await with
    | some w => w.answer.isNone
        && through l c.asid (c.word 1 + BitVec.ofNat 64 (256 * (c.piece / 17)))
    | none => false

/-- Remove the matching entries of every TLB and slice, and the lines of the affected pages. -/
def State.shootDown (s : State) (all global : Bool) (asid : BitVec 16) (va : Nat) : State :=
  let keep (t : TlbEntry) : Bool :=
    !tlbiHits all global asid va t.base t.large (pteG t.leaf) t.asid
  let keepLine (l : Line) : Bool :=
    !tlbiHits all global asid va (pageBase l.large l.base) l.large l.global l.asid
  let core (e : Nat × Core) : Nat × Core :=
    (e.1, { e.2 with dtlb := e.2.dtlb.filter keep, itlb := e.2.itlb.filter keep
                     buffer := e.2.buffer.filter keepLine })
  let cluster (e : Nat × Cluster) : Nat × Cluster :=
    (e.1, { e.2 with tlb := e.2.tlb.filter keep, lines := e.2.lines.filter keepLine })
  { s with cores := s.cores.map core, clusters := s.clusters.map cluster }

/-- TLBI holds issue while an access that it must wait for is parked at a home (R364). -/
def execTlbi (m : Bool) (a b : Reg) (s : State) : Host.Outcome State Fault Refusal :=
  issue { super := true } s fun s => do
    touch s [a, b]
    let va ← srcInt s a
    let c ← srcInt s b
    let all := c.getLsbD 16
    let global := c.getLsbD 17
    if c.extractLsb' 18 46 ≠ 0#46 ∨ (!all ∧ va.extractLsb' 54 10 ≠ 0#10) then
      .error (.info .format 35)
    else do
      strong s
      let s ← release s scopePackage
      if !all ∧ va.toNat < 0x8000 then .ok (s.retire m)
      else
        let l := s.struck fun t =>
          tlbiHits all global (c.setWidth 16) va.toNat t.base t.large (pteG t.leaf) t.asid
        if s.waitsThrough l then .error .hold
        else .ok (((s.settleThrough l).shootDown all global (c.setWidth 16) va.toNat).retire m)

/-! ## Errors in windows (R399, R400) -/

/-- An error counted against a core (UNIT 0); a lasting one is reported (R400). The answer gives
the count. -/
def State.coreError (s : State) (core : Nat) : State × Nat :=
  let (w, n, lasting) := (s.die (coreDie core)).count (s.core core).window s.sidereal
  let s := s.modCore core fun k => { k with window := w }
  (if lasting then s.lasts 0 core (coreCoord core) 0 n else s, n)

/-- An error in a cluster's fetch port, caches, pool or walkers is counted against it (UNIT 1). -/
def State.clusterError (s : State) (cl : Nat) : State :=
  let (w, n, lasting) := (s.die (cl / 512)).count (s.cluster cl).window s.sidereal
  let s := s.modCluster cl fun k => { k with window := w }
  if lasting then s.lasts 1 cl (BitVec.ofNat 18 (64 * cl)) 0 n else s

/-! ## Fence and containment (R105, R107, R397) -/

/-- Steps 2 to 4 of R107: the mailbox is sealed and emptied into the error queue, with cause HEARTBEAT, aged
registrations stop, and DET capabilities pass to service core 0 of the die. -/
def State.sealCore (s : State) (core : Nat) : State :=
  let (cl, q) := mailboxOf core
  let x := (s.cluster cl).queue q
  let s := (s.modCluster cl fun k =>
    k.setQueue q { x with sealed_ := true, pool := [], ext := [] }).refills cl x.use
  let s := (x.pool ++ x.ext).foldl
    (fun (s : State) r => s.sendKept (coreDie core) (.mailbox r.body Cause.heartbeat.code r.env)) s
  let s := s.stopWriter core
  let heir := coreDie core * 8192 + noSector
  (s.core core).det.foldl (fun (s : State) r =>
    match s.entryAt r.name with
    | some (_, e) => (s.dropRegion core r.name).giveRegion heir e.loc r
    | none => s.dropRegion core r.name) s

/-- Where a command's join cell is (R58): nowhere that a decrement could reach, behind a page event,
at a location, with whether its page refuses cells, or in another package. -/
inductive JoinRes where
  | none
  | page (va : Word)
  | at (l : Word) (odd : Bool)
  | away (origin : BitVec 16)
  deriving DecidableEq, Repr

/-- The join cell of a command, translated as the issuing slot would (R58, R258). An address that names
no place for a cell reaches none. DEDUCED, log 47. -/
def State.joinRes (s : State) (core : Nat) (c : Cmd) : State × JoinRes :=
  match c.join with
  | .none => (s, .none)
  | .away origin => (s, .away origin)
  | .at l odd => (s, .at l odd)
  | .va v =>
    if v.extractLsb' 0 6 ≠ 0#6 then (s, .none)
    else if v.extractLsb' 62 2 = 2#2 then
      match coreAddr v with
      | some a => (s, if a.pkg = s.image.pkg then .at v false else .away (s.originPkg a.pkg))
      | Option.none => (s, .none)
    else if v.extractLsb' 54 10 ≠ 0#10 then (s, .none)
    else if v.toNat < 0x8000 then (s, .at (mkCoreAddr s.image.pkg core v.toNat) false)
    else
      let place (t : State) (pa : Nat) (odd : Bool) : State × JoinRes :=
        (t, if t.reachAlias pa then .none else .at (BitVec.ofNat 64 pa) odd)
      match s.translate core c.asid c.root c.super v.toNat .atomic with
      | .ok t pa leaf => place t pa (pteFe leaf || pteDet leaf)
      | .page => (s, .page v)
      | .memErr t _ => (t, .none)
      | .prot _ =>
        match s.translate core c.asid c.root c.super v.toNat .agedStore with
        | .ok t pa _ => place t pa true
        | _ => (s, .none)

/-- The decrement of a command's join cell, with its error bits (R60, R258). On a page that refuses cells
only the error bits are set, with bit 1 (R58); in a closed core nothing is (R107). -/
def State.joinDone (s : State) (c : Cmd) (r : JoinRes) (bits : BitVec 16) : State :=
  match r with
  | .at l odd =>
    if s.closed l || (s.cellFault (.at l)).isSome then s
    else if odd then s.writeLoc (l + 56) 8 (s.readLoc (l + 56) 8 ||| (bits ||| bitProt).toNat)
    else s.joinDec l 1 bits { c.env with kind := 2, sent := s.sidereal.setWidth 40 }
  | .away origin => s.toOrigin (dieOf c.slot) origin (bytesLE 8 bits.toNat)
  | .none | .page _ => s

/-- The loads of slot `c` issued before position `pos` are performed. -/
def State.loadsBefore (s : State) (c pos : Nat) : State :=
  let early (i : Nat) : Bool := match (s.slot c).outs[i]? with
    | some o => decide (o.issued < pos)
    | none => false
  let s := s.performLoads c (fun _ => true) ((s.outIdx c 0).filter early)
  (List.range 8).foldl (fun (s : State) u =>
    match (vget (s.core (coreOf c)).units .reset u).load with
    | some l => if l.pos < pos then s.readUnit c u fun _ _ => true else s
    | none => s) s

/-- The lines a command has written leave its cluster's read cache (R256). -/
def State.dropWrote (s : State) (core : Nat) (c : Cmd) : State :=
  c.wrote.foldl (fun (s : State) l => s.dropLine (coreCluster core) l) s

/-- The release of a REL command (R256, R289, R294, R297): the slot's loads before the ENG word have returned;
its stores before it were performed before the first read, and are acknowledged now; from sector up the
cluster's buffer is drained. -/
def State.relNow (s : State) (core : Nat) (c : Cmd) : State :=
  if !c.isRel || c.released then s
  else
    let s := if c.orphan then s else s.loadsBefore c.slot c.pos
    let s := (s.enterStores c.slot c.after).finishStores c.after
    let s := if scopeWide c.scope then s.drainBuffer (coreCluster core) else s
    s.ackStores fun p => c.after p && scopeCovers c.scope (s.ackClass p.slot p.loc)

/-- The commands of the core's engine stop, with STATUS bit 2 (R397): each completes, with what it has written
and its flags (R256, R258, R262). -/
def State.stopEngine (s : State) (core : Nat) : State :=
  let s := (s.core core).queue.foldl (fun (s : State) c =>
    let s := match c.await with
      | some w => s.unlist (s.homeOf w.loc) (.engine core c.id)
      | Option.none => s
    let s := (s.dropWrote core c).relNow core c
    let s := s.modCluster (coreCluster core) (·.accrue (s.die (coreDie core)).dcyc c.flags)
    let rel := ((s.cmdOf core c.id).map (·.rel)).getD 0
    let (s, r) := s.joinRes core c
    s.joinDone c r (c.errs ||| rel ||| bitFabric)) s
  s.modCore core fun k => { k with queue := [] }

/-- The envelope is of an activation of the launch, which runs (R420). -/
def Launch.started (l : Launch) (e : Envelope) : Bool := l.asid == e.of_ && l.id == e.launch && l.ended.isNone

/-- The service restarts a contained activation elsewhere when its record is IDEM and it has had no
effect: the record joins those its launch still has to push, on another cluster that the launch
admits, which one is open. Every other one is reported to the launch's requester, with its error record
(R398). -/
def State.restart (s : State) (c : Nat) (err : BitVec 512) : State :=
  let x := s.slot c
  let others (l : Launch) : List Nat := l.clusters.filter (· ≠ clusterOf c)
  let one (l : Launch) : Launch :=
    match (others l)[Config.choice s.free 0x168 % (others l).length]? with
    | some cl => if l.started x.env then { l with todo := l.todo ++ [(cl, x.record)] } else l
    | none => l
  if x.record.getLsbD 61 && !x.eff && s.launches.any (fun l => l.started x.env && !(others l).isEmpty) then
    { s with launches := s.launches.map one }
  else { s with reports := s.reports ++ [(x.env.of_, x.env.launch, err)] }

/-- The activation of a contained core's slot ends in an error record (R368, R397): what was to be written is
not, and stores that have not left the core are dropped, but for those that a heartbeat fence has found issued
(R107). DEDUCED, log 32. -/
def State.containSlot (s : State) (cause : Cause) (c : Nat) : State :=
  let x := s.slot c
  if x.busy then
    let pc := if x.phase = .held true then BitVec.ofNat 64 (s.mem.readLE (s.ctxBase c + 0x650) 8)
      else x.pc
    let s := if cause = .heartbeat then s else s.setStores c []
    let pend := s.trapPendOf c
    let s := (((s.withdraw c).orphanStores c).forgetOps c).modSlot c fun x =>
      { x with phase := .idle, outs := [], hints := .empty, align := none, nameOp := none, opBy := none, seen := none,
               late := [], sending := [], heart := 0, drainAt := none, parkNext := false, haltNext := false
               atBreak := false }
    let err := errRecord 0 0 pc (coordOf c) 4 pend x.eff cause.code x.record
    (s.postErr c err).restart c err
  else s

/-- Containment of a core (R397), with cause CHECK or HEARTBEAT. -/
def State.contain (s : State) (core : Nat) (cause : Cause) : State :=
  let s := s.modCore core fun k => { k with contained := true, upsets := [] }
  let slots := (List.range 4).map fun i => 4 * core + i
  let s := slots.foldl State.withdraw s
  let s := s.sealCore core
  let s := s.stopEngine core
  let s := s.modCore core fun k => { k with units := Vector.replicate 8 .reset, mmas := [] }
  let s := slots.foldl (State.containSlot · cause) s
  s.post (svcEvent 3 0 (coreCoord core) s.sidereal 0 (s.core core).window.count.toNat 0)

/-- The slot's count exceeds its core's interval, as that has governed at the end of the last die cycle (R106,
R136). -/
def State.heartPassed (s : State) (c : Nat) : Bool :=
  let k := s.core (coreOf c)
  let most := governedEnd k.hbWas (s.die (dieOf c)).dcyc k.hbint
  most != 0 && decide (most < (s.slot c).heart) && !k.fenced

/-- The heartbeat fence, which the service treats as a containment (R107, R396). -/
def execHeartbeatFence (c : Nat) (s : State) : Host.Outcome State Fault Refusal :=
  event s (s.heartPassed c) fun s =>
    let core := coreOf c
    let s := s.modCore core fun k => { k with fenced := true }
    let s := s.post (svcEvent 2 0 (coreCoord core) s.sidereal (s.slot c).pc
      (s.core core).window.count.toNat (BitVec.ofNat 2 c))
    s.contain core .heartbeat

/-- An uncorrectable error in the core's own state contains it (R396). -/
def execCoreStateError (core : Nat) (s : State) : Host.Outcome State Fault Refusal :=
  event s (!(s.core core).contained) fun s => (s.coreError core).1.contain core .check

/-- The Collimator finds a result of slot `c` wrong, at the instruction at `pc` (R394, R399). -/
def State.mismatch (s : State) (c : Nat) (pc : Word) : State :=
  let core := coreOf c
  let (s, n) := s.coreError core
  s.post (svcEvent 1 0 (coreCoord core) s.sidereal pc n (BitVec.ofNat 2 c))

/-- The results of slot `c` that the word at issue position `p` still has to bring are written. -/
def State.writeResultsOf (s : State) (c p : Nat) : State :=
  (s.outIdx c 0).foldl (fun (s : State) k =>
    match (s.slot c).outs[k]? with
    | some o => if o.issued = p ∧ o.ready.isNone then s.writeResult c k else s
    | none => s) s

/-- The Collimator checks an instruction that has retired, from `s` to `t` (R393, R394): where its first
execution disagrees it executes again, with the operands it has read, its result is what that gives, and the slot
waits until it is written; where that disagrees too, no result is written and the core is contained. What comes of
the checks is DESIGN CHOICE, log 49. -/
def State.checked (s t : State) : State :=
  let c := s.focus
  let core := coreOf c
  let next (t : State) (l : List Bool) : State := t.modCore core fun k => { k with upsets := l }
  let again (t : State) : State :=
    (t.modCore core fun k =>
      if k.matUntil ≠ (s.core core).matUntil then { k with matUntil := k.matUntil + mmaCycles } else k)
      |>.writeResultsOf c s.me.pos
  match (s.core core).upsets with
  | [] => t
  | false :: l => next t l
  | true :: true :: _ => ((s.mismatch c s.me.pc).mismatch c s.me.pc).contain core .check
  | true :: l => ((again (next t l.tail)).mismatch c s.me.pc)

end Sys2Proof.Machine
end

