-- ==== Sys2Proof/Machine/Clocks.lean ====
section
/-! DEFINITION. Frequency steps of a die (R385 to R389) and the alignment of the Sidereal counter
(R383). -/

namespace Sys2Proof.Machine

/-- Parts of a nanosecond in which time runs: every die cycle of 600 to 1,800 MHz in steps of 100 is
a whole number of them. -/
def timeUnit : Nat := 12252240

/-! ## Heartbeats (R106) -/

/-- A running slot's heartbeat count advances by `n` nominal cycles and stays at its top. -/
def Slot.beat (x : Slot) (n : Nat) : Slot :=
  if x.phase.run? = some .running then
    { x with heart := BitVec.ofNat 32 (min (x.heart.toNat + n) (2 ^ 32 - 1)) }
  else x

/-- The heartbeat counts of a die's slots advance by `n` nominal cycles. -/
def State.beat (s : State) (d n : Nat) : State :=
  let one (e : Nat × Slot) : Nat × Slot := (e.1, if dieOf e.1 = d then e.2.beat n else e.2)
  { s with slots := s.slots.map one }

/-! ## Steps (R386 to R389) -/

/-- The duration of a relock, 1,500 ns within 20 (R386). -/
def State.relockTime (s : State) : Nat := 1480 + Config.relock s.free % 41

/-- The parts of a nanosecond that the die cycle in progress still takes. -/
def Die.rest (x : Die) : Nat := if x.frac = 0 then 0 else (1000 * timeUnit - x.frac) / x.mhz.toNat

/-- The die has run the cycle in progress to its end. -/
def Die.finish (x : Die) : Die :=
  if x.frac = 0 then x else { x with frac := 0, seg := x.seg + 1, dcyc := x.dcyc + 1, justUp := false }

/-- The heartbeat counts of a die follow its NCYC from one state of the die to another (R106). -/
def State.setClock (s : State) (d : Nat) (y : Die) : State :=
  (s.setDie d y).beat d (y.ncyc.toNat / 65536 - (s.die d).ncyc.toNat / 65536)

/-- The die finishes its cycle, its clock stops, and its PLL relocks at another frequency (R386 steps 1 and 2). -/
def State.beginRelock (s : State) (d : Nat) (mhz : BitVec 16) (by_ : Option Nat) : State :=
  let x := s.die d
  let n := s.relockTime
  let since := s.sidereal + BitVec.ofNat 64 ((s.frac + x.rest) / timeUnit)
  s.setClock d { x.finish with
    relock := some ⟨x.mhz, mhz, s.sidereal, since, n, x.rest + n * timeUnit, 0, by_⟩ }

/-- A step of a die to a frequency: none when it is the current one (R388). -/
def State.stepDie (s : State) (d : Nat) (mhz : BitVec 16) (by_ : Option Nat) : State :=
  if (s.die d).mhz = mhz then s else s.beginRelock d mhz by_

/-- A step that is asked for now waits: for a relock, for the cycle after it, or for the turn of others (R386,
R388). -/
def Die.stepWaits (x : Die) : Bool := x.relock.isSome || x.justUp || !x.waitingSteps.isEmpty

/-- Steps apply in the order in which they came: of those that came together, that of the lower COORD first, and
those of the schedule last (R388; DEDUCED, log 76). -/
def FreqWait.before (a b : FreqWait) : Bool :=
  decide (a.at_ < b.at_) || (a.at_ == b.at_ && match a.by_, b.by_ with
    | some c, some k => decide (c < k)
    | some _, none => true
    | none, _ => false)

/-- A step comes to its place among those that wait. -/
def insertStep (w : FreqWait) : List FreqWait → List FreqWait
  | [] => [w]
  | v :: l => if w.before v then w :: v :: l else v :: insertStep w l

def State.waitStep (s : State) (d : Nat) (w : FreqWait) : State :=
  s.modDie d fun x => { x with waitingSteps := insertStep w x.waitingSteps }

/-- The FREQ of slot `c` has still to be met: its step waits, or its relock goes on. -/
def Die.owesStep (x : Die) (c : Nat) : Bool :=
  x.waitingSteps.any (·.by_ == some c) || x.relock.any (·.by_ == some c)

/-- What NCYC adds over a relock of `t` ns, in whole nominal cycles (R385). -/
def relockCycles (t : Nat) : Nat := (12 * t + 5) / 10

/-- The STEPLOG entry of a step (R389). -/
def stepEntry (x : Die) (r : Relock) : StepEntry :=
  ⟨r.since, x.dcyc, x.ncyc, 0#16 ++ BitVec.ofNat 16 r.len ++ r.new ++ r.old⟩

/-- The die restarts after a relock: the step is recorded and NCYC adds its amount (R385,
R386 steps 3 and 4, R389). The first entry stands at ring index 0 (DESIGN CHOICE, log 18). -/
def Die.restart (x : Die) (r : Relock) : Die :=
  let i : BitVec 4 := if x.stepCount = 0 then 0 else x.newest + 1
  { x with
    steps := vset x.steps i.toNat (stepEntry x r)
    newest := i
    stepCount := x.stepCount + 1
    ncyc0 := x.ncyc + BitVec.ofNat 64 (relockCycles r.len * 65536)
    seg := 0
    frac := 0
    mhz := r.new
    justUp := true
    relock := none }

/-! ## The passing of time (R383 to R385) -/

/-- A running die's clock runs on for `t` parts of a nanosecond; a stopped one stands until its relock is over
(R386). -/
def Die.run (x : Die) (t : Nat) : Die :=
  match x.relock with
  | some r => { x with relock := some { r with left := r.left - t, past := r.past + (t - r.left) } }
  | none =>
    let k := x.frac + t * x.mhz.toNat
    let n := k / (1000 * timeUnit)
    { x with frac := k % (1000 * timeUnit), seg := x.seg + n, dcyc := x.dcyc + BitVec.ofNat 64 n
             justUp := x.justUp && n == 0 }

/-- A die's clock and the heartbeat counts of its slots run on (R106, R384). -/
def State.runDie (s : State) (t d : Nat) : State := s.setClock d ((s.die d).run t)

/-- A relock ends (R386); the heartbeats of the die's slots advance as NCYC does (R387), and the die runs for what
has passed since. -/
def execRelockEnd (d : Nat) (s : State) : Host.Outcome State Fault Refusal :=
  match (s.die d).relock with
  | none => .refused .notEnabled
  | some r =>
    event s (r.left == 0) fun s =>
      ((s.modDie d (·.restart r)).beat d (relockCycles r.len)).runDie r.past d

/-- The earliest of the steps that the service has scheduled for a die. -/
def earliest (d : Nat) : List (Nat × Word × BitVec 16) → Option (Nat × Word × BitVec 16)
  | [] => none
  | e :: l =>
    match earliest d l with
    | none => if e.1 = d then some e else none
    | some f => if e.1 = d ∧ e.2.1 ≤ f.2.1 then some e else some f

/-- The step that a waiting one asks for is still wanted: the word of a FREQ has not been given up. -/
def State.wants (s : State) (w : FreqWait) : Bool :=
  match w.by_ with
  | none => true
  | some c => (s.slot c).nameOp == some .freq

/-- A step the service has scheduled comes due: it applies, or waits for the relock in progress and those that
came before; a step that has waited applies once the die has run a cycle (R386, R388). -/
def execScheduledFreqStep (d : Nat) (s : State) : Host.Outcome State Fault Refusal :=
  match (earliest d s.schedule).filter fun e => decide (e.2.1 ≤ s.sidereal) with
  | some e =>
    event s true fun s =>
      let s := { s with schedule := s.schedule.erase e }
      if (s.die d).stepWaits then s.waitStep d ⟨none, e.2.2, e.2.1⟩ else s.stepDie d e.2.2 none
  | none =>
    match (s.die d).waitingSteps with
    | [] => .refused .notEnabled
    | w :: l =>
      event s ((s.die d).relock.isNone && !(s.die d).justUp) fun s =>
        let t := s.modDie d fun x => { x with waitingSteps := l }
        if s.wants w then t.stepDie d w.mhz w.by_ else t

/-- FREQs that arrive together apply in ascending COORD: one that arrives with the FREQ of a higher COORD, whose
relock it finds, takes its place, and that one waits (R388; DEDUCED, log 76). -/
def Relock.yields (r : Relock) (c : Nat) (now : Word) : Bool :=
  r.asked == now && r.by_.any fun k => decide (c < k)

/-- FREQ (R388): the word that has begun a step holds issue until the die has restarted. -/
def execFreq (m : Bool) (a : Reg) (s : State) : Host.Outcome State Fault Refusal :=
  issue { super := true, eff := true } s fun s => do
    touch s [a]
    let v ← srcInt s a
    let f := v.extractLsb' 0 16
    let d := (v.extractLsb' 16 3).toNat
    let done (s : State) : State := (s.modMe fun x => { x with nameOp := none }).retire m
    let x := s.die d
    let c := s.focus
    let begun (s : State) : Except Stop State :=
      .error (.became (s.modMe fun x => { x with nameOp := some .freq, slow := true }))
    if v.extractLsb' 19 45 ≠ 0#45 ∨ f.toNat < 600 ∨ 1800 < f.toNat ∨ f.toNat % 100 ≠ 0 then
      .error (.info .format 38)
    else if s.me.nameOp = some .freq then
      if x.owesStep c then .error .hold else .ok (done s)
    else
      match x.relock.filter (·.yields c s.sidereal) with
      | some r =>
        if r.old = f then .ok (done s)
        else
          begun ((s.modDie d fun x => { x with relock := some { r with new := f, by_ := some c } }).waitStep d
            ⟨r.by_, r.new, r.asked⟩)
      | none =>
        if x.stepWaits then begun (s.waitStep d ⟨some c, f, s.sidereal⟩)
        else if x.mhz = f then .ok (done s)
        else begun (s.beginRelock d f (some c))

/-! ## Alignment (R383) -/

/-- A timing message: from now on the counter slews until it agrees with the master. -/
def execTimingMessage (master : Word) (s : State) : Host.Outcome State Fault Refusal :=
  event s (!s.image.master) fun s =>
    { s with slew := (master.toNat - s.sidereal.toNat) * timeUnit, lastTiming := s.sidereal, timeLost := false }

/-- No timing message has come for 100 ms: the loss is reported to the service. -/
def execTimeMasterLoss (s : State) : Host.Outcome State Fault Refusal :=
  event s (!s.image.master && !s.timeLost
      && decide (100000000 ≤ (s.sidereal - s.lastTiming).toNat)) fun s =>
    { s with timeLost := true }.post .timeLoss

/-- What a slew of up to 100 ppm takes off the difference that is left: how much, is open (R383).
DESIGN CHOICE, log 55. -/
def State.slewed (s : State) (t : Nat) : Int :=
  let most := min s.slew.natAbs (t / 10000)
  let n : Int := Config.choice s.free 0x230 % (most + 1)
  if 0 ≤ s.slew then n else -n

/-- Sidereal time runs on (R383). -/
def State.runSidereal (s : State) (t : Nat) : State :=
  let a := s.slewed t
  let k := s.frac + (t + a).toNat
  { s with sidereal := s.sidereal + BitVec.ofNat 64 (k / timeUnit), frac := k % timeUnit
           slew := s.slew - a }

/-! ## Errors that come of themselves (R394, R399, R400) -/

/-- What may befall the part in a step, and which core or cluster, is open: a word of the core that the
Collimator will find wrong, once or twice; an error of the core that is corrected; an error of the cluster
(DESIGN CHOICE, log 49). -/
def State.strike (s : State) : State :=
  let k := Config.choice s.free 0x240 % 65536
  if s.stands (coreDie k) ∨ (coreAddr (mkCoreAddr s.image.pkg k 0)).isNone then s
  else
    match Config.choice s.free 0x241 % 4 with
    | 1 => s.modCore k fun x => { x with upsets := x.upsets ++ [true, Config.flag s.free 0x242] }
    | 2 => (s.coreError k).1
    | 3 => s.clusterError (coreCluster k)
    | _ => s

/-- A step takes time: how much, is open (DESIGN CHOICE, log 8). -/
def State.tick (s : State) : State :=
  let t := Config.elapsed s.free
  if s.power = .run then (List.range 8).foldl (·.runDie t ·) (s.runSidereal t).strike else s

end Sys2Proof.Machine
end

