-- ==== Sys2Proof/Machine/Engine.lean ====
section
/-! DEFINITION. The engine of a core (R253 to R262), AGPUT and AGGET (R331, R332), and COLLSUB as a
gateway core accepts it (R350). -/

namespace Sys2Proof.Machine

/-! ## Where the pieces lie (R255, R258) -/

/-- The package a field must reach (R255). -/
inductive Want where
  | any
  | own
  | other
  deriving DecidableEq, Repr

/-- A place a piece lies at: here, or at an offset of a scratchpad of another package. -/
inductive Spot where
  | here (t : Target)
  | away (origin : BitVec 16) (off : Nat)
  deriving DecidableEq, Repr

/-- Why a piece is not moved (R258): a page event, STATUS bits, or a wait at a home. -/
inductive Halt where
  | page (va : Word)
  | stop (bits : BitVec 16)
  | wait
  deriving DecidableEq, Repr

/-- A step of a command: it goes on, or halts, in a state, with the command as it is then. -/
abbrev Eng (α : Type) := Except (State × Cmd × Halt) α

/-- A core that is fenced or contained (R107, R397). -/
def State.coreClosed (s : State) (core : Nat) : Bool :=
  (s.core core).fenced || (s.core core).contained

/-- `n` bytes at offset `off` of the field `v`, for an access of the command (R255, R258). A range
that starts in a scratchpad stays in it. -/
def State.engAt (s : State) (core : Nat) (c : Cmd) (want : Want) (v : Word) (off n : Nat)
    (k : AccKind) : Eng (State × Spot) :=
  let halt {α : Type} (b : BitVec 16) : Eng (State × α) := .error (s, c, .stop b)
  let aged := k == .aged || k == .agedStore
  if v.extractLsb' 62 2 = 2#2 then
    match coreAddr v with
    | none => halt bitProt
    | some a =>
      let here := a.pkg == s.image.pkg
      if aged || decide (0x8000 < a.off + off + n) || (here && want == .other)
          || (!here && want == .own) then halt bitProt
      else if !here then .ok (s, .away (s.originPkg a.pkg) (a.off + off))
      else if s.coreClosed a.core then halt bitFabric
      else .ok (s, .here (.scratch a.core (a.off + off)))
  else if v.toNat < 0x8000 then
    if aged || want == .other || decide (0x8000 < v.toNat + off + n) then halt bitProt
    else .ok (s, .here (.scratch core (v.toNat + off)))
  else
    let va := v + BitVec.ofNat 64 off
    if va.extractLsb' 54 10 ≠ 0#10 then halt bitProt
    else
      match s.translate core c.asid c.root c.super va.toNat k with
      | .page => .error (s, c, .page va)
      | .prot _ => halt bitProt
      | .memErr t _ => .error (t, c, .stop bitMem)
      | .ok t pa leaf =>
        if (want == .own && s.remote pa) || (want == .other && !s.remote pa)
            || (s.reachAlias pa && !(decide (2 ≤ c.code.toNat) && decide (c.code.toNat ≤ 4))) then
          halt bitProt
        else .ok (t, .here (.phys pa leaf))

/-- Pieces of a command. -/
def Cmd.len (c : Cmd) : Nat := ((c.word 0).extractLsb' 0 32).toNat

/-- How many pieces a command moves: elements; of an AGPUT blocks of 256 bytes; for a block of an AGGET its
sixteen pieces and its age word; else 16 bytes. -/
def Cmd.total (c : Cmd) : Nat :=
  match c.code.toNat with
  | 5 | 6 => c.len
  | 8 => c.len / 256
  | 9 => c.len / 256 * 17
  | _ => c.len / 16

/-- The piece moves alone: the elements of GATHER and SCATTER do. -/
def Cmd.single (c : Cmd) : Bool := c.code == 5 || c.code == 6

/-- A piece begins what one packet carries, a line, and ends it (R336). -/
def Cmd.opens (c : Cmd) (a : Nat) : Bool := c.single || a % 64 == 0 || c.piece == 0
def Cmd.closes (c : Cmd) (a n : Nat) : Bool := c.single || (a + n) % 64 == 0 || c.total == c.piece + 1

/-- What another die holds is not to be had while that stands (R387). -/
def State.spotStands (s : State) : Spot → Bool
  | .here (.scratch k _) => s.stands (coreDie k)
  | .here (.phys pa _) => s.homeStands pa
  | .away .. => false

/-- The stores to a line that the cluster's write-through buffer holds are performed: what an engine of the
cluster reads comes after them (R256, R290). -/
def State.engLine (s : State) (core pa : Nat) : State :=
  s.finishStores fun p => p.unacked (coreCluster core) && lineOf p.loc == lineOf pa

/-- Read `n` bytes at their home (R256, R258). -/
def State.engRead (s : State) (core : Nat) (c : Cmd) (p : Spot) (n : Nat) : Eng (State × Nat) :=
  if s.spotStands p then .error (s, c, .wait)
  else
    match p with
    | .away origin off =>
      let s := if c.opens off then s.toOrigin (coreDie core) origin [] else s
      if Config.flag s.free 0x160 then .error (s, c, .stop bitFabric)
      else .ok (s, (Config.quad s.free 0x161).toNat % 2 ^ (8 * n))
    | .here (.scratch k off) => .ok (s, (s.core k).scratch.readLE off n)
    | .here (.phys pa _) =>
      let s := s.engLine core pa
      let s := if c.opens pa then s.exchange (coreDie core) pa [] else s
      match s.readFault pa n with
      | some e => .error (s.found e pa n, c, .stop e.bit)
      | none => .ok (s, s.homeRead pa n)

/-- A write that has gone unanswered is applied now, later, or never (R339). -/
def State.unanswered (s : State) (c pa : Nat) (va : Word) (n v : Nat) : State :=
  match Config.choice s.free (pa + 1) % 3 with
  | 0 => s
  | 1 => s.homeWrite pa n v
  | _ => s.stray c pa va n v

/-- Write `n` bytes at their home (R256). A write that a DET page refuses is dropped, with STATUS bit 6
(R104, R258). One narrower than a poisoned word it meets stops the command (DEDUCED, log 15). -/
def State.engWrite (s : State) (core : Nat) (c : Cmd) (p : Spot) (va : Word) (n v : Nat) :
    Eng (State × Cmd) :=
  if s.spotStands p then .error (s, c, .wait)
  else
    match p with
    | .away origin off =>
      let s := if c.closes off n then s.toOrigin (coreDie core) origin (bytesLE n v) else s
      if Config.flag s.free 0x160 then .error (s, c, .stop bitFabric) else .ok (s, c)
    | .here t@(.scratch ..) => .ok (s.storeHome t n v, c)
    | .here (.phys pa leaf) =>
      if pteDet leaf && !s.holdsDet core c.asid va then .ok (s, { c with errs := c.errs ||| bitDet })
      else
        let s := s.lineSent (coreDie core) pa
        let done : Cmd := { c with wrote := lineOf pa :: c.wrote.filter (· ≠ lineOf pa) }
        match s.writeFault pa n with
        | some .capability => .ok (s, { c with errs := c.errs ||| bitDet })
        | some .fabric => .error (s.unanswered c.slot pa va n v, done, .stop bitFabric)
        | some e => .error (s.found e pa n, c, .stop e.bit)
        | none =>
          let s := s.homeWrite pa n v
          let first := if c.single then pa else max (pa / 64 * 64) (pa - 16 * c.piece)
          .ok (if c.closes pa n
            then s.exchangeWrite (coreDie core) first (bytesLE (pa + n - first) (s.homeRead first (pa + n - first)))
            else s, done)

/-- Read `n` bytes of a field. -/
def State.engGet (s : State) (core : Nat) (c : Cmd) (want : Want) (v : Word) (off n : Nat) :
    Eng (State × Nat) := do
  let (s, p) ← s.engAt core c want v off n .engineLoad
  s.engRead core c p n

/-- Write `n` bytes of a field. -/
def State.engPut (s : State) (core : Nat) (c : Cmd) (want : Want) (v : Word) (off n x : Nat) :
    Eng (State × Cmd) := do
  let (s, p) ← s.engAt core c want v off n .engineStore
  s.engWrite core c p (v + BitVec.ofNat 64 off) n x

/-- Move `n` bytes from one field to another. -/
def State.engMove (s : State) (core : Nat) (c : Cmd) (w1 w2 : Want) (v1 v2 : Word)
    (o1 o2 n : Nat) : Eng (State × Cmd) := do
  let (s, x) ← s.engGet core c w1 v1 o1 n
  s.engPut core c w2 v2 o2 n x

/-- What a command has read, 16 bytes at a time, as one number. -/
def gotValue : List Nat → Nat
  | [] => 0
  | x :: l => x + 2 ^ 128 * gotValue l

/-! ## The fields of a command (R254, R255, R332) -/

def Cmd.cflags (c : Cmd) : BitVec 16 := (c.word 0).extractLsb' 32 16
/-- ESZ in bytes. -/
def Cmd.esize (c : Cmd) : Nat := 2 ^ (c.cflags.extractLsb' 0 3).toNat
/-- The name in two words, the low one first. -/
def Cmd.nameAt (c : Cmd) (i : Nat) : Quad := c.word (i + 1) ++ c.word i
/-- The element tag of CHAIN (R262). -/
def Cmd.tag (c : Cmd) : Option Tag := Tag.ofCode (c.cflags.extractLsb' 0 5)
/-- The op bytes of CHAIN: code and stream (R262). -/
def chainOps (w : Word) : List (Nat × Nat) :=
  (List.range 8).map fun i => ((w.extractLsb' (8 * i + 4) 4).toNat, (w.extractLsb' (8 * i) 2).toNat)

/-- Bytes a command writes at its destination (R259). -/
def Cmd.bytes (c : Cmd) : Nat :=
  if c.code = 5 ∨ c.code = 6 then c.len * c.esize else c.len

/-! ## Checks at issue (R259, R260, R331, R332) -/

/-- What FLAGS may hold (R255, R262, R332). -/
def flagsBad (code : BitVec 7) (f : BitVec 16) : Bool :=
  match code.toNat with
  | 1 => false
  | 5 | 6 => decide (4 < f.toNat)
  | 7 =>
    match Tag.ofCode (f.extractLsb' 0 5) with
    | some t => f.extractLsb' 5 11 != 0 ||
        !(t == .f32x4 || t == .f16x8 || t == .bf16x8 || t == .i32x4 || t == .i16x8)
    | none => true
  | 9 => f != 0 && f != 2
  | _ => f != 0

/-- The words a command leaves reserved, and the reserved bits of the others (R255, R331). -/
def wordsBad (code : BitVec 7) (w : Nat → Word) : Bool :=
  let zero (l : List Nat) : Bool := l.any fun i => w i != 0
  match code.toNat with
  | 1 => zero [4, 5, 6, 7] || (w 2).extractLsb' 15 49 != 0 || (w 3).extractLsb' 15 49 != 0
  | 5 | 6 => zero [4, 5, 6, 7]
  | 7 => zero [7]
  | 8 => zero [6, 7] || (w 5).extractLsb' 32 32 != 0
  | 9 => zero [5, 6, 7]
  | 10 => zero [5, 6, 7] || (w 4).extractLsb' 48 16 != 0
  | _ => zero [3, 4, 5, 6, 7]

/-- The op bytes of CHAIN break R262. The stream that a stop names means nothing. -/
def opsBad (w : Word) : Bool :=
  let code (i : Nat) : Nat := (w.extractLsb' (8 * i + 4) 4).toNat
  let stop := ((List.range 8).find? fun i => code i == 0).getD 8
  (List.range 8).any fun i =>
    if stop < i then w.extractLsb' (8 * i) 8 != 0
    else decide (9 < code i) || w.extractLsb' (8 * i + 2) 2 != 0
      || (decide (8 ≤ code i) && w.extractLsb' (8 * i) 2 != 0)

/-- LENGTH is outside its range, or another field holds a value no run of the command can use
(R255, R261, R331, R332). GATHER, SCATTER and CHAIN move something (DEDUCED, log 16). -/
def lengthBad (code : BitVec 7) (n : Nat) (w : Nat → Word) : Bool :=
  match code.toNat with
  | 0 | 2 | 3 | 4 => false
  | 1 => decide (n < 16 ∨ 32768 < n) || (w 0).extractLsb' 32 16 == 0
      || decide (0x8000 < (w 2).toNat + n)
  | 8 => decide (n < 256 ∨ 65536 < n ∨ n % 256 ≠ 0) || (w 5) == 0
  | 9 => decide (n < 256 ∨ 65536 < n ∨ n % 256 ≠ 0)
  | 10 => decide (n < 16 ∨ 4096 < n)
  | _ => n == 0

/-- The first address or length off its boundary (R255): the boundaries of the fields, with their
words. -/
def firstMisaligned (code : BitVec 7) (esz n : Nat) (w : Nat → Word) : Option Word :=
  let l : List (Nat × Nat) := match code.toNat with
    | 1 => [(1, 16), (2, 16), (3, 16)]
    | 5 | 6 => [(1, esz), (2, esz), (3, 4)]
    | 7 => [(1, 16), (2, 16), (3, 16), (4, 16), (5, 16)]
    | 8 => [(1, 16), (2, 256)]
    | 9 => [(1, 256), (2, 16), (4, 16)]
    | 10 => [(1, 16)]
    | _ => [(1, 16), (2, 16)]
  let bytes : Bool := code != 5 && code != 6
  if bytes && n % 16 != 0 then some (BitVec.ofNat 64 n)
  else (l.find? fun p => (w p.1).toNat % p.2 != 0).map fun p => w p.1

/-- A register operand that may be z for none. -/
def optNameOr (s : State) (r : Reg) : Except Stop (Option NameOr) :=
  if r = 0 then .ok none
  else do
    let v ← srcNameOr s r
    .ok (some v)

/-- AUX of a command (R259): PUTSIG takes a name only, COPYM nothing, the others a barrier or none. -/
def auxOperand (s : State) (code : BitVec 7) (r : Reg) : Except Stop (Option NameOr) :=
  match code.toNat with
  | 1 => if r = 0 then .ok none else .error (.info .format 25)
  | 3 =>
    let v := s.me.read r
    if r ≠ 0 ∧ v.tag = .name then .ok (some (.name v.val)) else .error (.info .format 25)
  | _ => optNameOr s r

/-- The tag of AUX is refused with the other tags, where the command takes a barrier in any form (R47,
R259). -/
def auxTag (s : State) (code : BitVec 7) (r : Reg) : Except Stop Unit :=
  if code = 1 ∨ code = 3 then .ok ()
  else do
    let _ ← optNameOr s r
    .ok ()

/-- JOIN of a command (R259, R260): a name is resolved at issue; an address is looked at when the command
completes (R58). -/
def joinOperand (s : State) (j : Option NameOr) : Except Stop (State × JoinAt × List Quad) :=
  match j with
  | none => .ok (s, .none, [])
  | some (.word w) => .ok (s, .va w, [])
  | some (.name n) => do
    let (s, p) ← useName s n clsJoin
    match p with
    | .at l => .ok (s, .at l (s.oddName n), [n])
    | .away _ origin => .ok (s, .away origin, [n])

/-- What a pending error of the issuing slot makes of a REL command's release (R297). -/
def State.relBits (s : State) : BitVec 16 :=
  if s.me.err.valid then (Cause.ofCode s.me.err.cause).bit else 0

/-- The ENG word with a command code (R259, R260). -/
def eng (code : BitVec 7) (m : Bool) (d j x : Reg) (s : State) :
    Host.Outcome State Fault Refusal :=
  issue { eff := true } s fun s => do
    touch s [d, j, x]
    let v ← srcInt s d
    let jv ← optNameOr s j
    auxTag s code x
    if 0x8000 ≤ v.toNat then .error (.at_ .prot v 10)
    else if v.toNat % 64 ≠ 0 then .error (.at_ .misalign v 0)
    else
      let ws : Vector Word 8 := Vector.ofFn fun i : Fin 8 =>
        BitVec.ofNat 64 (s.myCore.scratch.readLE (v.toNat + 8 * i.val) 8)
      let w (i : Nat) : Word := vget ws 0 i
      let h := w 0
      let n := (h.extractLsb' 0 32).toNat
      if h.extractLsb' 56 8 ≠ 0#1 ++ code then .error (.plain .illegal)
      else if h.extractLsb' 48 2 ≠ 0#2 ∨ 10 < (h.extractLsb' 52 4).toNat
          ∨ flagsBad code (h.extractLsb' 32 16) ∨ wordsBad code w ∨ (code = 7 ∧ opsBad (w 6))
          ∨ lengthBad code n w then .error (.info .format 24)
      else
        match firstMisaligned code (2 ^ (h.extractLsb' 32 3).toNat) n w with
        | some a => .error (.at_ .misalign a 0)
        | none => do
          let xv ← auxOperand s code x
          let (s, join, names) ← joinOperand s jv
          if 16 ≤ s.myCore.queue.length then .error .hold
          else
            let y := s.me
            let c : Cmd := {
              code := code, words := ws, join := join
              aux := match xv with
                | some (.word a) => some a
                | _ => none
              auxName := match xv with
                | some (.name q) => some q
                | _ => none
              auxAway := false, obj := none, names := names, slot := s.focus, pos := y.pos, orphan := false
              id := s.free, asid := y.asid, root := y.root, super := y.super, ftz := y.ftz
              rnd := y.rnd, env := s.relEnv s.focus, agWait := y.agWaitMax
              rel := if h.getLsbD 50 then s.relBits else 0, started := false, prepared := false
              released := false, piece := 0, left := [], since := s.nominal s.focus, await := none
              wrote := [], receivers := 0, signalled := false, got := [], block := 0, errs := 0
              paused := none
              stopped := false, flags := 0 }
            .ok ((s.modMyCore fun k => { k with queue := k.queue ++ [c] }).retire m)

def execCopy (m : Bool) (d j x : Reg) := eng 0 m d j x
def execCopym (m : Bool) (d j x : Reg) := eng 1 m d j x
def execPut (m : Bool) (d j x : Reg) := eng 2 m d j x
def execPutsig (m : Bool) (d j x : Reg) := eng 3 m d j x
def execGet (m : Bool) (d j x : Reg) := eng 4 m d j x
def execGather (m : Bool) (d j x : Reg) := eng 5 m d j x
def execScatter (m : Bool) (d j x : Reg) := eng 6 m d j x
def execChain (m : Bool) (d j x : Reg) := eng 7 m d j x
def execAgput (m : Bool) (d j x : Reg) := eng 8 m d j x
def execAgget (m : Bool) (d j x : Reg) := eng 9 m d j x
def execCollsub (m : Bool) (d j x : Reg) := eng 10 m d j x

/-! ## One piece of each command (R261, R262, R331, R332) -/

/-- The cores of the issuing cluster whose bit is set in a mask. In cluster 452, which has four cores
(R15), the bits of the others stand for scratchpads that nothing reads and whose barriers answer stray
(DESIGN CHOICE, log 64). -/
def maskCores (core : Nat) (mask : BitVec 16) : List Nat :=
  ((List.range 16).filter mask.getLsbD).map fun i => coreCluster core * 16 + i

/-- A piece of COPYM is written in every receiver that is open; a closed one is struck off, with
STATUS bit 2 (R261). -/
def State.copymPiece (s : State) (core : Nat) (c : Cmd) : Eng (State × Cmd) := do
  let (s, x) ← s.engGet core c .own (c.word 1) (16 * c.piece) 16
  let cores := maskCores core c.receivers
  let s := cores.foldl (fun (s : State) k =>
    if s.coreClosed k then s
    else s.modCore k fun y =>
      { y with scratch := y.scratch.writeLE ((c.word 2).toNat + 16 * c.piece) 16 x }) s
  let shut := cores.filter s.coreClosed
  let gone := shut.foldl (fun (b : BitVec 16) k => b ||| BitVec.ofNat 16 (2 ^ (k % 16))) 0
  .ok (s, { c with receivers := c.receivers &&& ~~~gone
                   errs := c.errs ||| if shut.isEmpty then 0 else bitFabric })

/-- An element of GATHER or SCATTER, at the place its index gives. -/
def State.indexedPiece (s : State) (core : Nat) (c : Cmd) : Eng (State × Cmd) := do
  let (s, i) ← s.engGet core c .any (c.word 3) (4 * c.piece) 4
  let z := c.esize
  let (o1, o2) := if c.code = 5 then (i * z, c.piece * z) else (c.piece * z, i * z)
  s.engMove core c .any .any (c.word 1) (c.word 2) o1 o2 z

/-- One op of CHAIN on a group (R262). -/
def chainOp (x : Ctx) (t : Tag) (op : Nat) (a b : List Nat) : List Lane :=
  let two (f : Ctx → Tag → Nat → Nat → Lane) : List Lane := List.zipWith (f x t) a b
  match op with
  | 1 => two (arithLane Fmt.add (· + ·))
  | 2 => two (arithLane Fmt.sub (· - ·))
  | 3 => two (arithLane Fmt.mul (· * ·))
  | 4 => two (pickLane false false)
  | 5 => two (pickLane true false)
  | 6 => two (pickLane false true)
  | 7 => two (pickLane true true)
  | 8 => a.map (absLane x t)
  | _ => a.map (negLane x t)

/-- The ops of CHAIN on a group, with the flags they raise. -/
def chainGroup (x : Ctx) (t : Tag) (streams : Nat → Nat) :
    List (Nat × Nat) → List Nat → Flags5 → List Nat × Flags5
  | [], a, f => (a, f)
  | (0, _) :: _, a, f => (a, f)
  | (op, j) :: l, a, f =>
    let r := chainOp x t op a (lanesOf t.width t.lanes (streams j))
    chainGroup x t streams l (lanesBits r) (f ||| lanesFlags r)

/-- Group `g` of the streams of a list (R262). -/
def State.streamGroups (s : State) (core : Nat) (c : Cmd) (g : Nat) :
    List Nat → Eng (State × AMap Nat)
  | [] => .ok (s, [])
  | j :: l => do
    let (s, x) ← s.engGet core c .any (c.word (j + 2)) (16 * g) 16
    let (s, m) ← s.streamGroups core c g l
    .ok (s, (j, x) :: m)

/-- A group of CHAIN (R262): S0 and the streams that the ops name are read; RND 0, 6 and 7 are log 54. -/
def State.chainPiece (s : State) (core : Nat) (c : Cmd) : Eng (State × Cmd) := do
  let ops := (chainOps (c.word 6)).takeWhile fun p => p.1 != 0
  let used := (List.range 4).filter fun j =>
    j == 0 || ops.any fun p => p.2 == j && decide (p.1 ≤ 7)
  let (s, m) ← s.streamGroups core c c.piece used
  let t := c.tag.getD .f32x4
  let x : Ctx := ⟨s.roundOf c.rnd, c.ftz, false⟩
  let (a, f) := chainGroup x t (m.get 0) ops (lanesOf t.width t.lanes (m.get 0 0)) 0
  let (s, c) ← s.engPut core c .any (c.word 1) (16 * c.piece) 16 (packLanes t.width a)
  .ok (s, { c with flags := c.flags ||| f })

/-- The block at an address lies in the region that AGPUT names, and the region in the command's address
space (R320, R331); what another package's descriptor holds is open. -/
def State.inRegion (s : State) (c : Cmd) (va : Word) : Bool :=
  match c.obj with
  | some l =>
    decide (s.readLoc l 8 ≤ va.toNat) && decide (va.toNat < s.readLoc l 8 + s.readLoc (l + 8) 8)
      && decide (s.readLoc (l + 24) 8 % 2 ^ 16 = c.asid.toNat)
  | none => Config.flag s.free 0x162

/-- Block `b` of AGPUT at its home, with the bytes read for it (R331). Of one that goes unanswered it is open
what becomes (R339). -/
def State.agputPiece (s : State) (core : Nat) (c : Cmd) (b data : Nat) : Eng (State × Cmd) := do
  let (s, p) ← s.engAt core c .any (c.word 2) (256 * b) 256 .agedStore
  match p with
  | .here (.phys pa _) =>
    if s.homeStands pa then .error (s, c, .wait)
    else
      let age := (c.word 5).setWidth 32
      let s := s.writeLines (coreDie core) pa (bytesLE 256 data) 4
      let own := decide ((s.regOf pa).state = .registered ∧ (s.regOf pa).writer = core)
      let newer := decide (s.ageOf pa < age)
      match s.remoteFault pa with
      | some .fabric =>
        .error (s.lost c.slot pa (.agput (bytesLE 256 data) age)
          fun s => if own && newer then s.agedAccept pa data age else s, c, .stop bitFabric)
      | some .prot => .error (s, c, .stop bitProt)
      | _ =>
        if !s.inRegion c (c.word 2 + BitVec.ofNat 64 (256 * b)) then .error (s, c, .stop bitProt)
        else if !own then .ok (s, { c with errs := c.errs ||| bitDet })
        else if !newer then .ok (s, { c with errs := c.errs ||| bitAge })
        else .ok (s.agedAccept pa data age, { c with wrote := [0, 1, 2, 3].map (lineOf pa + ·) ++ c.wrote })
  | _ => .error (s, c, .stop bitProt)

/-- Which block an AGGET works on, and which of its pieces is next. -/
def Cmd.aggetBlock (c : Cmd) : Nat := c.piece / 17
def Cmd.aggetPart (c : Cmd) : Nat := c.piece % 17

/-- The next piece of the version that the home has answered with reaches local memory, the age word last
(R300, R332). -/
def State.aggetWrite (s : State) (core : Nat) (c : Cmd) (data : Nat) (w : Word) : Eng (State × Cmd) := do
  let k := c.aggetPart
  if k < 16 then
    s.engPut core c .own (c.word 2) (256 * c.aggetBlock + 16 * k) 16 (data / 2 ^ (128 * k) % 2 ^ 128)
  else do
    let (s, c) ← s.engPut core c .own (c.word 4) (8 * c.aggetBlock) 8 w.toNat
    .ok (s, { c with await := none })

/-- The home has answered a block of AGGET, and its first piece is written. -/
def State.aggetAnswer (s : State) (core : Nat) (c : Cmd) (pa data : Nat) (w : Word) : Eng (State × Cmd) :=
  s.aggetWrite core { c with await := some ⟨pa, true, some (data, w)⟩ } data w

/-- A block of AGGET asks its home (R332): it is answered, or, with WAIT, joins the retry list (R324). -/
def State.aggetAsk (s : State) (core : Nat) (c : Cmd) (pa : Nat) : Eng (State × Cmd) :=
  if s.homeStands pa then .error (s, c, .wait)
  else
    let s := (List.range 4).foldl (fun (s : State) i => s.engLine core (pa + 64 * i)) s
    let s := s.readLines (coreDie core) pa 4
    match s.readFault pa 256 with
    | some e => .error (s.found e pa 256, c, .stop e.bit)
    | none =>
      let met := decide (needOf (c.word 3) ≤ s.ageOf pa)
      if met || c.cflags != 0 || (s.regOf pa).state != .registered then
        s.aggetAnswer core c pa (s.homeRead pa 256) (s.ageWordAt pa (!met))
      else
        let (s, room) := s.enlist (s.homeOf pa) (.engine core c.id)
        .error (s, { c with await := some ⟨pa, room, none⟩ }, .wait)

/-- The wait of a block of AGGET passes AGWAITMAX (R324, R332): it is withdrawn, and the current version
returned; another package may leave the withdrawal unanswered (R339). -/
def State.aggetLate (s : State) (core : Nat) (c : Cmd) (pa : Nat) : Eng (State × Cmd) :=
  if s.homeStands pa then .error (s, c, .wait) else
  let s := s.unlist (s.homeOf pa) (.engine core c.id)
  if s.remote pa && Config.flag s.free 0x152 then
    .error (s, { c with await := none }, .stop bitFabric)
  else if s.poisoned pa 256 then .error (s.meet pa 256, { c with await := none }, .stop bitMem)
  else
    let stopped := (s.regOf pa).state != .registered
    s.aggetAnswer core c pa (s.homeRead pa 256) (ageWord true stopped true (s.ageOf pa))

/-- The next piece of AGGET (R332). A probe of another package's home may go unanswered (R339). -/
def State.aggetPiece (s : State) (core : Nat) (c : Cmd) : Eng (State × Cmd) := do
  let ask (s : State) : Eng (State × Cmd) := do
    let (s, p) ← s.engAt core c .any (c.word 1) (256 * c.aggetBlock) 256 .aged
    match p with
    | .here (.phys pa _) => s.aggetAsk core c pa
    | _ => .error (s, c, .stop bitProt)
  match c.await with
  | none => ask s
  | some w =>
    match w.answer with
    | some (data, word) => s.aggetWrite core c data word
    | none =>
      if s.passed c.slot c.since c.agWait then s.aggetLate core c w.loc
      else if !w.accepted then ask s
      else if s.remote w.loc && Config.flag s.free 0x150 then
        .error (s.unlist (s.homeOf w.loc) (.engine core c.id), { c with await := none },
          .stop bitFabric)
      else .error (s, c, .wait)

/-- The next piece of a command. -/
def State.engPiece (s : State) (core : Nat) (c : Cmd) : Eng (State × Cmd) :=
  let o := 16 * c.piece
  match c.code.toNat with
  | 0 => s.engMove core c .own .own (c.word 1) (c.word 2) o o 16
  | 1 => s.copymPiece core c
  | 2 | 3 => s.engMove core c .own .other (c.word 1) (c.word 2) o o 16
  | 4 => s.engMove core c .other .own (c.word 1) (c.word 2) o o 16
  | 5 | 6 => s.indexedPiece core c
  | 7 => s.chainPiece core c
  | 9 => s.aggetPiece core c
  | 10 => do
    let (s, x) ← s.engGet core c .own (c.word 1) o 16
    .ok (s, { c with got := c.got ++ [x] })
  | _ => .ok (s, c)

/-- Post an engine page event (R258). -/
def State.enginePage (s : State) (core : Nat) (va : Word) : State := s.post (.enginePage va core)

/-- What a halt makes of a command (R258). -/
def State.halted (s : State) (core : Nat) (c : Cmd) : Halt → State × Cmd
  | .stop b => (s, { c with stopped := true, errs := c.errs ||| b })
  | .page va => (s.enginePage core va, { c with paused := some va })
  | .wait => (s, c)

/-! ## The ranges of a COPY (R261) -/

/-- Part of a range: the core in whose scratchpad it lies or none for memory, its first byte, its
length. -/
structure Span where
  core : Option Nat
  first : Nat
  len : Nat
  deriving DecidableEq, Repr

/-- Two parts hold one byte. -/
def Span.meets (a b : Span) : Bool :=
  a.core == b.core && decide (a.first < b.first + b.len) && decide (b.first < a.first + a.len)

/-- `n` bytes from `v` on, cut at the page boundaries: offset and length of each part. -/
def pageCuts (v : Word) (n : Nat) : List (Nat × Nat) :=
  let first := 65536 - v.toNat % 65536
  let start (i : Nat) : Nat := if i = 0 then 0 else first + 65536 * (i - 1)
  ((List.range (n / 65536 + 2)).filter fun i => decide (start i < n)).map fun i =>
    (start i, min (start (i + 1)) n - start i)

/-- The parts that lie in memory. A page that no access can use reaches nothing. -/
def State.pageSpans (s : State) (core : Nat) (c : Cmd) (v : Word) (k : AccKind) :
    List (Nat × Nat) → Eng (State × List Span)
  | [] => .ok (s, [])
  | p :: l =>
    match s.engAt core c .own v p.1 p.2 k with
    | .error (s, c, .page va) => .error (s, c, .page va)
    | .error (s, _, _) => s.pageSpans core c v k l
    | .ok (s, .here (.phys pa _)) => do
      let (s, r) ← s.pageSpans core c v k l
      .ok (s, ⟨none, pa, p.2⟩ :: r)
    | .ok (s, _) => s.pageSpans core c v k l

/-- The parts of a range. Of one in a scratchpad, what passes its end does not count. -/
def State.spans (s : State) (core : Nat) (c : Cmd) (v : Word) (k : AccKind) (n : Nat) :
    Eng (State × List Span) :=
  let inCore (j off : Nat) : Eng (State × List Span) :=
    .ok (s, [⟨some j, off, min n (0x8000 - off)⟩])
  if n = 0 then .ok (s, [])
  else if v.extractLsb' 62 2 = 2#2 then
    match coreAddr v with
    | some a => if a.pkg = s.image.pkg then inCore a.core a.off else .ok (s, [])
    | none => .ok (s, [])
  else if v.toNat < 0x8000 then inCore core v.toNat
  else s.pageSpans core c v k (pageCuts v n)

/-- The ranges of a COPY are compared by the places they reach (R261), so that every page of both is
mapped first; those of PUT and GET lie in different packages. DEDUCED, log 65. -/
def State.prepare (s : State) (core : Nat) (c : Cmd) : State × Cmd :=
  let both : Eng (State × Bool) := do
    let (s, a) ← s.spans core c (c.word 1) .engineLoad c.len
    let (s, b) ← s.spans core c (c.word 2) .engineStore c.len
    .ok (s, a.any fun x => b.any x.meets)
  if c.code ≠ 0 then (s, { c with prepared := true })
  else
    match both with
    | .error (s, c, h) => s.halted core c h
    | .ok (s, true) => s.halted core c (.stop bitProt)
    | .ok (s, false) => (s, { c with prepared := true })

/-! ## Moving pieces -/

/-- Nothing of the command can move now. -/
def Cmd.idle (c : Cmd) : Bool := c.stopped || c.paused.isSome || decide (c.total ≤ c.piece)

/-- Up to `n` pieces of a command, in ascending order. -/
def State.pumpGo (s : State) (core : Nat) (c : Cmd) : Nat → State × Cmd
  | 0 => (s, c)
  | n + 1 =>
    if c.idle then (s, c)
    else
      match s.bump.engPiece core c with
      | .ok (s, c) => s.pumpGo core { c with piece := c.piece + 1 } n
      | .error (s, c, h) => s.halted core c h

/-- Up to `n` pieces of a command that is ready to move them. The blocks of an AGPUT land by themselves
(R331). -/
def State.pump (s : State) (core : Nat) (c : Cmd) (n : Nat) : State × Cmd :=
  if c.code = 8 ∨ c.idle then (s, c)
  else
    let (s, c) := if c.prepared then (s, c) else s.prepare core c
    if c.prepared then s.pumpGo core c n else (s, c)

/-- Every piece that is left. -/
def State.pumpAll (s : State) (core : Nat) (c : Cmd) : State × Cmd :=
  s.pump core c (c.total - c.piece)

/-- Put a command back into its queue. What others have found about it meanwhile stays (R297). -/
def State.setCmd (s : State) (core k : Nat) (c : Cmd) : State :=
  s.modCore core fun x =>
    { x with queue := match x.queue[k]? with
        | some y => x.queue.set k { c with rel := c.rel ||| y.rel, orphan := c.orphan || y.orphan }
        | none => x.queue }

/-- The transfer is over: every piece is done, or the command has stopped. -/
def Cmd.moved (c : Cmd) : Bool := c.stopped || decide (c.total ≤ c.piece)

/-! ## The start of a command (R253, R256, R260, R261) -/

/-- What a name of the command leads to. -/
inductive Found where
  | none
  | at (l : Word)
  | away
  | moving
  | stop (bits : BitVec 16)
  deriving DecidableEq, Repr

/-- Resolve a name of the command (R258, R260). -/
def State.findName (s : State) (core : Nat) (n : Quad) (cls : Byte) : State × Found :=
  match s.resolve core n (some cls) with
  | (s, .gone) => (s, .stop bitName)
  | (s, .moving) => (s, .moving)
  | (s, .loc l) => (s, if s.foreign l then .away else .at l)
  | (s, .unreached) => (s, .stop bitFabric)
  | (s, .remote) => (s, if Config.flag s.free 0x164 then .stop bitName else .away)

/-- The barrier AUX names (R259). A location that holds no barrier answers as gone where a name
leads to it (DEDUCED, log 12), and as an address of the wrong kind where AUX gives it (DEDUCED, log 17). -/
def State.findAux (s : State) (core : Nat) (c : Cmd) : State × Found :=
  match c.auxName, c.aux with
  | some n, _ =>
    match s.findName core n clsBarrier with
    | (s, .at l) => (s, if (locCore l).isSome then .at l else .stop bitName)
    | r => r
  | Option.none, Option.none => (s, .none)
  | Option.none, some w =>
    if w.extractLsb' 0 6 ≠ 0#6 then (s, .stop bitProt)
    else if w.toNat < 0x8000 then (s, .at (mkCoreAddr s.image.pkg core w.toNat))
    else
      match coreAddr w with
      | Option.none => (s, .stop bitProt)
      | some a => (s, if a.pkg = s.image.pkg then .at w else .away)

/-- The object a descriptor names: the region of AGPUT, the queue of COLLSUB. -/
def State.findObj (s : State) (core : Nat) (c : Cmd) : State × Found :=
  match c.code.toNat with
  | 8 => s.findName core (c.nameAt 3) clsAged
  | 10 => s.findName core (c.nameAt 2) clsQueue
  | _ => (s, .none)

/-- The names of a command that are in flight once it has started. -/
def Cmd.allNames (c : Cmd) : List Quad :=
  c.names ++ c.auxName.toList ++ (match c.code.toNat with
    | 8 => [c.nameAt 3]
    | 10 => [c.nameAt 2]
    | _ => [])

/-- The words of the descriptor that hold addresses (R255, R331, R332). -/
def Cmd.addresses (c : Cmd) : List Word :=
  ((match c.code.toNat with
    | 1 | 10 => [1]
    | 5 | 6 => [1, 2, 3]
    | 7 => [1, 2, 3, 4, 5]
    | 9 => [1, 2, 4]
    | _ => [1, 2] : List Nat)).map c.word

/-- Some address names a core that does not exist, whether or not a piece reaches it (R15). -/
def Cmd.nowhere (c : Cmd) : Bool :=
  c.addresses.any fun v => v.extractLsb' 62 2 == 2#2 && (coreAddr v).isNone

/-- Before the first read (R256, R295): the slot's earlier stores are performed at their homes, with ACQ
its earlier loads as well. -/
def State.beforeRead (s : State) (c : Cmd) : State :=
  let s := if c.isAcq && !c.orphan then s.loadsBefore c.slot c.pos else s
  let s := (s.enterStores c.slot c.after).finishStores c.after
  if c.isAcq then s.acquireBy c.slot c.scope else s

/-- The collective settings of the queue a location is attached to, with its cluster and index. -/
def State.collQueue (s : State) (l : Word) : Option (Nat × Nat × QueueSettings) :=
  (s.queueAt l).bind fun p => ((s.cluster p.1).queue p.2).coll.map fun x => (p.1, p.2, x)

/-- A queue refuses a block of its rank and length (R350). -/
def collBad (x : QueueSettings) (rank : BitVec 16) (len : Nat) : Bool :=
  decide (x.ranks ≤ rank.toNat) || decide (x.maxLen < len)

/-- A COLLSUB that its queue refuses (R261, R350); another package's queue may, which is open. -/
def State.collRefused (s : State) (c : Cmd) (obj : Found) : BitVec 16 :=
  if c.code ≠ 10 then 0
  else
    match obj with
    | .at l =>
      match s.collQueue l with
      | Option.none => bitName
      | some (_, _, x) => if collBad x ((c.word 4).extractLsb' 32 16) c.len then bitProt else 0
    | _ => if Config.flag s.free 0x16A then bitProt else 0

/-- A found place, and the STATUS bits of one that is not. -/
def Found.loc : Found → Option Word
  | .at l => some l
  | _ => Option.none
def Found.bits : Found → BitVec 16
  | .stop b => b
  | _ => 0

/-- A command starts: its names are resolved, and it moves some of its pieces; how many have moved
when another step comes is open. Where a name is not found the addresses are not looked at, and its bit alone is
set (DESIGN CHOICE, log 16). -/
def State.startCmd (s : State) (core k : Nat) (c : Cmd) (aux obj : Found) : State :=
  let s := s.beforeRead c
  let c := { c with
    started := true
    aux := match aux with
      | .away => c.aux
      | f => f.loc
    auxAway := aux == .away
    obj := obj.loc, names := c.allNames
    receivers := if c.code = 1 then c.cflags else 0
    left := if c.code = 8 then List.range c.total else [] }
  let bits := aux.bits ||| obj.bits
  let bits := if bits ≠ 0 then bits else if c.nowhere then bitProt else s.collRefused c obj
  if bits ≠ 0 then s.setCmd core k { c with stopped := true, errs := bits }
  else
    let (s, c) := s.pump core c (Config.choice s.free 0x165 % (c.total + 1))
    s.setCmd core k c

/-- The engine starts the next command of its queue (R253). -/
def execEngineCommandStart (core : Nat) (s : State) : Host.Outcome State Fault Refusal :=
  let q := (s.core core).queue
  let k := q.findIdx fun c => !c.started
  match q[k]? with
  | none => .refused .notEnabled
  | some c =>
    let s := s.bump
    let (s, aux) := s.findAux core c
    let (s, obj) := s.findObj core c
    if aux = .moving ∨ obj = .moving then .refused .notEnabled
    else .next (s.startCmd core k c aux obj)

/-! ## Signals and completion (R256, R258, R259, R261, R342) -/

/-- Signal a barrier for a command: 1 in arrivals mode, the bytes in bytes mode (R259). The answer
holds the STATUS bits. -/
def State.cmdSignal (s : State) (c : Cmd) (core off : Nat) : State × BitVec 16 :=
  if s.coreClosed core then (s, bitFabric)
  else
    let arrivals := decide ((s.core core).scratch.readLE (off + 49) 1 % 2 = 1)
    let amount : Word := if arrivals then 1 else BitVec.ofNat 64 c.bytes
    let (s, r) := s.signal core off amount { c.env with sent := s.sidereal.setWidth 40 }
    (s, if r = 1 then bitStray else 0)

/-- The package that AUX reaches. -/
def State.auxOrigin (s : State) (c : Cmd) : BitVec 16 :=
  match c.auxName, c.aux with
  | some n, _ => nameOrigin n
  | none, some w => s.originPkg (w.extractLsb' 52 10)
  | none, none => s.origin

/-- Signal the barrier of AUX. One of another package answers for itself. -/
def State.auxSignal (s : State) (core : Nat) (c : Cmd) : State × BitVec 16 :=
  if c.auxAway then
    (s.toOrigin (coreDie core) (s.auxOrigin c) (bytesLE 8 c.bytes),
      if Config.flag s.free 0x166 then bitFabric
      else if Config.flag s.free 0x167 then bitStray else 0)
  else
    match c.aux.bind locCore with
    | some a => s.cmdSignal c a.core a.off
    | none => (s, 0)

/-- The command has a barrier to signal. -/
def Cmd.hasAux (c : Cmd) : Bool := c.auxAway || c.aux.isSome || c.auxName.isSome

/-- After the last write the lines the command has written leave the cluster's read cache, and with REL the
release is made, with the errors that it meets (R256, R297). -/
def State.cmdRelease (s : State) (core k : Nat) (c : Cmd) : State × Cmd :=
  let s := (s.dropWrote core c).relNow core c
  let met := (((s.core core).queue[k]?).map (·.rel)).getD 0
  (s, { c with wrote := [], released := c.released || c.isRel, rel := c.rel ||| met })

/-- All bytes of a multicast have landed at one receiver (R261). A barrier that would pass the end
of its scratchpad is none. -/
def execCopymReceiverLanded (core k r : Nat) (s : State) : Host.Outcome State Fault Refusal :=
  match (s.core core).queue[k]? with
  | none => .refused .notEnabled
  | some c =>
    event s (c.code == 1 && c.started && !c.stopped && c.paused.isNone && decide (r < 16)
        && c.receivers.getLsbD r) fun s =>
      let (s, c) := s.pumpAll core c
      if c.stopped || c.paused.isSome then s.setCmd core k c
      else
        let (s, c) := s.cmdRelease core k c
        let off := (c.word 3).toNat
        let (s, b) := if c.rel ≠ 0 ∨ !c.receivers.getLsbD r then (s, 0)
          else if 0x8000 < off + 64 then (s, bitStray)
          else s.cmdSignal c (coreCluster core * 16 + r) off
        s.setCmd core k { c with errs := c.errs ||| b
                                 receivers := c.receivers &&& ~~~BitVec.ofNat 16 (2 ^ r) }

/-- The signal of a PUTSIG leaves after every data byte has landed, as a release at reach (R261, R342). -/
def execPutsigSignal (core k : Nat) (s : State) : Host.Outcome State Fault Refusal :=
  match (s.core core).queue[k]? with
  | none => .refused .notEnabled
  | some c =>
    event s (c.code == 3 && c.started && !c.stopped && c.paused.isNone && !c.signalled
        && c.errs == 0 && c.rel == 0) fun s =>
      let (s, c) := s.pumpAll core c
      if c.stopped || c.paused.isSome || c.errs != 0 then s.setCmd core k c
      else
        let (s, c) := s.cmdRelease core k c
        if c.rel ≠ 0 then s.setCmd core k c
        else
          let (s, b) := (s.drainBuffer (coreCluster core)).auxSignal core c
          s.setCmd core k { c with errs := b, signalled := true }

/-- What a command waits for has come, as far as another step must bring it. -/
def Cmd.over (c : Cmd) : Bool :=
  c.started && (c.stopped || (match c.code.toNat with
    | 1 => c.receivers == 0 || c.rel != 0
    | 3 => c.signalled || c.errs != 0 || c.rel != 0
    | 8 => decide (c.total ≤ c.piece)
    | 10 => c.signalled
    | _ => true))

/-- The release, the signal of AUX, the flags, for an AGGET with ACQ the acquire (R326), and the decrement (R256,
R262). A page event for the join cell makes the command wait with its decrement (R258). -/
def State.finishCmd (s : State) (core k : Nat) (c : Cmd) : State :=
  let (s, c) := s.cmdRelease core k c
  let (s, b) := if c.errs ||| c.rel = 0 ∧ c.code ≠ 1 ∧ c.code ≠ 3 ∧ c.hasAux
    then s.auxSignal core c else (s, 0)
  let c := { c with errs := c.errs ||| b, aux := none, auxName := none, auxAway := false }
  match s.joinRes core c with
  | (s, .page va) => (s.enginePage core va).setCmd core k { c with paused := some va }
  | (s, r) =>
    let s := s.modCluster (coreCluster core) (·.accrue (s.die (coreDie core)).dcyc c.flags)
    let s := if c.code = 9 ∧ c.isAcq then s.acquireBy c.slot c.scope else s
    (s.joinDone c r (c.errs ||| c.rel)).modCore core fun x => { x with queue := x.queue.eraseIdx k }

/-- A command moves some of what is left, which is open, or all of it and, when nothing holds it,
completes (R256). -/
def execEngineCommandComplete (core k : Nat) (s : State) : Host.Outcome State Fault Refusal :=
  match (s.core core).queue[k]? with
  | none => .refused .notEnabled
  | some c =>
    event s (c.over && c.paused.isNone) fun s =>
      let n := c.total - c.piece
      let n := if Config.flag s.free 0x169 then Config.choice s.free 0x16B % (n + 1) else n
      let (s, c) := s.pump core c n
      if c.moved && c.paused.isNone then s.finishCmd core k c else s.setCmd core k c

/-- The service declines a page that the command waits for: it stops, or, where the page holds its join
cell, nothing is decremented (R258). -/
def Cmd.declined (c : Cmd) (va : Word) : Cmd :=
  if c.over ∧ c.moved ∧ c.join = .va va then { c with join := .none }
  else { c with stopped := true, errs := c.errs ||| bitProt }

/-- The service has mapped the page of an engine page event, or declines it (R258). -/
def execEnginePageResume (core k : Nat) (mapped : Bool) (s : State) :
    Host.Outcome State Fault Refusal :=
  match (s.core core).queue[k]? with
  | none => .refused .notEnabled
  | some c =>
    match c.paused with
    | none => .refused .notEnabled
    | some va =>
      event s true fun s =>
        let c := { c with paused := none }
        { s with service := s.service.erase (.enginePage va core) }.setCmd core k
          (if mapped then c else c.declined va)

/-- Up to `n` pieces of the block in turn are read for an AGPUT. -/
def State.agputRead (s : State) (core : Nat) (c : Cmd) : Nat → Eng (State × Cmd)
  | 0 => .ok (s, c)
  | n + 1 => do
    let (s, x) ← s.bump.engGet core c .own (c.word 1) (256 * c.block + 16 * c.got.length) 16
    s.agputRead core { c with got := c.got ++ [x] } n

/-- The block in turn has been read: with REL the release comes first, since its readers synchronise with it
(R297, R326); then it lands. -/
def State.agputLand (s : State) (core k : Nat) (c : Cmd) : Eng (State × Cmd) := do
  let (s, c) := if c.isRel then s.cmdRelease core k c else (s, c)
  if c.rel ≠ 0 then .error (s, c, .stop c.rel)
  else do
    let (s, c) ← s.agputPiece core c c.block (gotValue c.got)
    .ok (s, { c with piece := c.piece + 1, left := c.left.erase c.block, got := [] })

/-- Some of a block of an AGPUT is read, or all of it, and then it lands at its home. Which of the blocks left
comes next, and how much is read, is open (R300, R331). -/
def execAgputBlockApply (core k : Nat) (s : State) : Host.Outcome State Fault Refusal :=
  match (s.core core).queue[k]? with
  | none => .refused .notEnabled
  | some c =>
    event s (c.code == 8 && c.started && c.paused.isNone && !c.moved) fun s =>
      let c := if c.got.isEmpty then
          { c with block := c.left.getD (Config.choice s.free 0x16C % c.left.length) 0 }
        else c
      let left := 16 - c.got.length
      let n := if Config.flag s.free 0x169 then Config.choice s.free 0x16B % (left + 1) else left
      let r := do
        let (s, c) ← s.agputRead core c n
        if c.got.length < 16 then .ok (s, c) else s.agputLand core k c
      let (s, c) := match r with
        | .ok r => r
        | .error (s, c, h) => s.halted core c h
      s.setCmd core k c

/-! ## Collective queues (R350) -/

/-- The record that a block's acceptance pushes. -/
def collRecord (x : QueueSettings) (off : Nat) (rank : BitVec 16) (len : Nat) (i : BitVec 32) :
    BitVec 256 :=
  0#16 ++ rank.setWidth 32 ++ 0#16 ++ rank ++ BitVec.ofNat 16 len ++ i ++ BitVec.ofNat 64 off
    ++ 0#10 ++ x.entry.extractLsb' 0 54

/-- The record names the landing slot at `off` for the queue's handler. -/
def landsAt (x : QueueSettings) (off : Nat) (r : BitVec 256) : Bool :=
  r.extractLsb' 0 54 == x.entry.extractLsb' 0 54 && recFrame r == BitVec.ofNat 64 off

/-- A landing slot of a gateway core is free: no record waits and no activation runs that has it. -/
def State.landFree (s : State) (core : Nat) (x : QueueSettings) (off : Nat) : Bool :=
  let q := (s.cluster (coreCluster core)).queue (4 + core % 16)
  !((q.pool ++ q.ext).any fun r => landsAt x off r.body)
    && !((List.range 4).any fun i =>
      (s.slot (4 * core + i)).busy && landsAt x off (s.slot (4 * core + i)).record)

/-- The table of block indices takes one more rank of a block (R350). -/
def acceptRank (l : List CollBlock) (q : Nat) (i : BitVec 32) (rank : BitVec 16) (ranks : Nat) :
    List CollBlock :=
  let mine (b : CollBlock) : Bool := b.queue == q && b.index == i
  let taken := match l.find? mine with
    | some b => b.taken + 1
    | none => 1
  let rest := l.filter fun b => !mine b
  if ranks ≤ taken then rest else ⟨q, i, rank + 1, taken⟩ :: rest

/-- The gateway core may take the block: a free landing slot, and room in its table (R350). -/
def State.collSlot (s : State) (cl q : Nat) (x : QueueSettings) (rank : BitVec 16)
    (i : BitVec 32) : Option Nat :=
  let core := cl * 16 + i.toNat % 16
  let l := (s.cluster cl).blocks
  let entry := l.find? fun b => b.queue == q && b.index == i
  let room := entry.isSome
    || decide ((l.filter fun b => b.index.toNat % 16 == i.toNat % 16).length < 64)
  let turn := !x.ordered || rank == (match entry with
    | some b => b.next
    | none => 0)
  if room && turn && !s.coreClosed core then
    ((List.range x.landSlots).map fun j => x.land + j * x.maxLen).find? (s.landFree core x)
  else none

/-- A gateway core accepts a block, if it can now: its bytes land, and the handler's record is pushed
(R350). -/
def State.collTake (s : State) (cl q : Nat) (x : QueueSettings) (rank : BitVec 16) (i : BitVec 32)
    (len data : Nat) (env : Envelope) : Option State :=
  match if s.stands (cl / 512) then none else s.collSlot cl q x rank i with
  | none => none
  | some off =>
    let g := cl * 16 + i.toNat % 16
    let t := s.modCore g fun y => { y with scratch := y.scratch.writeLE off len data }
    match t.push cl (4 + i.toNat % 16) (collRecord x off rank len i) env with
    | .error _ => none
    | .ok t =>
      some (t.modCluster cl fun y => { y with blocks := acceptRank y.blocks q i rank x.ranks })

/-- A block goes to another package, one packet for each line (R336). -/
def State.toLines (s : State) (d : Nat) (origin : BitVec 16) (bytes : List Byte) : Nat → State
  | 0 => s
  | n + 1 => (s.toOrigin d origin (bytes.take 64)).toLines d origin (bytes.drop 64) n

/-- Some of the block of a COLLSUB of this package is read; when all of it is, the gateway core accepts it
(R261, R300, R350). -/
def State.collOwn (s : State) (core k : Nat) (c : Cmd) : Option State :=
  let n := c.total - c.piece
  let n := if Config.flag s.free 0x169 then Config.choice s.free 0x16B % (n + 1) else n
  let (s, c) := s.pump core c n
  if c.stopped || !c.moved then some (s.setCmd core k c)
  else
    match c.obj with
    | none =>
      let s := s.toLines (coreDie core) (nameOrigin (c.nameAt 2)) (bytesLE c.len (gotValue c.got))
        ((c.len + 63) / 64)
      some (s.setCmd core k { c with signalled := true })
    | some l =>
      match s.collQueue l with
      | none => some (s.setCmd core k { c with stopped := true, errs := c.errs ||| bitName })
      | some (cl, q, x) =>
        (s.collTake cl q x ((c.word 4).extractLsb' 32 16) ((c.word 4).extractLsb' 0 32) c.len (gotValue c.got)
          { c.env with kind := 0, sent := s.sidereal.setWidth 40 }).map
            fun t => t.setCmd core k { c with signalled := true }

/-- A block that another package submits is accepted, or refused (R350). -/
def State.collAway (s : State) (k : Nat) (r : Incoming) : Option State :=
  match r.op, s.collQueue r.loc with
  | .block rank i data, some (cl, q, x) =>
    if collBad x rank data.length then some (s.dropIncoming k)
    else
      (s.collTake cl q x rank i data.length (ofBytesLE data)
        (envOf r.origin 0 (s.sidereal.setWidth 40))).map (·.dropIncoming k)
  | .block .., none => some (s.dropIncoming k)
  | _, _ => none

/-- A gateway core accepts a block (R350): of command `k` of a core's engine, or, with `k` past the
commands, of the request of another package with the number that remains. -/
def execCollsubAccept (core k : Nat) (s : State) : Host.Outcome State Fault Refusal :=
  let q := (s.core core).queue
  let answer (t : Option State) : Host.Outcome State Fault Refusal :=
    match t with
    | some t => .next t
    | none => .refused .notEnabled
  match q[k]?, s.incoming[k - q.length]? with
  | some c, _ =>
    if c.code ≠ 10 ∨ !c.started ∨ c.stopped ∨ c.signalled ∨ c.paused.isSome then .refused .notEnabled
    else answer (s.bump.collOwn core k c)
  | none, some r => if r.name.isSome then .refused .notEnabled else answer (s.bump.collAway (k - q.length) r)
  | none, none => .refused .notEnabled

end Sys2Proof.Machine
end

