-- ==== Sys2Proof/Machine/Fabric.lean ====
section
/-! DEFINITION. What comes back to a slot, and what happens on the way to a home and on the links: results
(R24), stores and their acknowledgements (R236, R243, R337, R339), faults found at homes (R240), requests
of other packages (R340, R342), and the Goaskund links (R336, R343 to R345). -/

namespace Sys2Proof.Machine

/-! ## Results -/

/-- The status of a late SPAWNQ is written: into its entry of the file and l0 (R24, R30). -/
def Slot.landSend (x : Slot) (e : Sending) (n : Nat) : Slot :=
  let v := RV.int (BitVec.ofNat 64 n)
  { x with
    file := match e.dst with
      | some i => vset x.file i v
      | none => x.file
    l0 := x.l0.later ⟨v, x.pos, e.pos⟩
    outs := x.outs.filter fun o => o.issued != e.pos
    sending := x.sending.erase e }

/-- The record of a late SPAWNQ leaves, once the name of its queue moves no more (R64, R78). -/
def sendLate (s : State) (c : Nat) (e : Sending) : Host.Outcome State Fault Refusal :=
  let s := s.bump
  let (s, t) := s.queueOf (coreOf c) e.name
  match t.runs s with
  | .error _ => .refused .notEnabled
  | .ok _ =>
    let (s, n) := s.sendQuiet c t e.body
    .next (s.modSlot c fun x => x.landSend e n)

/-- A variable result is written and its pending bit clears (R24); its flags accrue (R138). A load of
memory is performed by then (R286). A number past the results stands for one that its slot has waited for and
that a SPAWNQ still has to bring. -/
def execResultWriteback (c k : Nat) (s : State) : Host.Outcome State Fault Refusal :=
  let x := s.slot c
  match x.outs[k]? with
  | none =>
    match x.sending[k - x.outs.length]? with
    | some e => sendLate s c e
    | none => .refused .notEnabled
  | some o =>
    match x.sending.find? fun e => e.pos == o.issued with
    | some e => sendLate s c e
    | none =>
      event s o.ready.isNone (·.writeResult c k)

/-! ## Stores on their way (R236, R337, R339) -/

/-- An earlier store of the list, to the same line from the same die, that `left` names (R337). -/
def earlierLeft (l : List Packet) (p : Packet) (left : Packet → Bool) : Bool :=
  l.any fun q => left q && q.sameLine p

/-- A store may be handed to the gateway: the earlier ones to its line have been, and where the line has
left the flow's table, or over Ultra Ethernet, they have been acknowledged (R337, R347). -/
def State.maySend (s : State) (k : Nat) (p : Packet) : Bool :=
  !earlierLeft (s.fabric.take k) p fun q => q.stage == .entered || s.lineLeft (dieOf p.slot) p.loc

/-- The home may perform a store: it has come there, and the earlier ones to its line have been
performed. -/
def State.mayApply (s : State) (k : Nat) (p : Packet) : Bool :=
  p.stage != .applied && s.keyLive p.link && !s.homeStands p.loc
    && !earlierLeft (s.fabric.take k) p (·.stage != .applied)

/-- A store goes one stage on: to the gateway where its home lies in another package, or it is performed. -/
def storeStep (s : State) (k : Nat) (p : Packet) : Host.Outcome State Fault Refusal :=
  if p.stage = .entered ∧ s.remote p.loc then
    event s (s.maySend k p) fun s =>
      let (s, p) := s.sendPacket p
      { s with fabric := s.fabric.set k p }
  else
    event s (s.mayApply k p) fun s =>
      let (s, p) := s.finishStore p
      { s with fabric := s.fabric.set k p }

/-- The stores issued and not yet performed at their clusters, with their slots and places. -/
def State.issued (s : State) : List (Nat × Nat) :=
  s.slots.flatMap fun e => (List.range e.2.stores.length).map fun j => (e.1, j)

/-- A store of a slot is performed at its cluster, after the earlier ones to its line (R236). -/
def enterStep (s : State) (c j : Nat) : Host.Outcome State Fault Refusal :=
  match (s.slot c).stores[j]? with
  | none => .refused .notEnabled
  | some p =>
    event s (!earlierLeft ((s.slot c).stores.take j) p fun _ => true) fun s =>
      (s.setStores c ((s.slot c).stores.eraseIdx j)).enter p

/-- A full-empty access of another package at its home here: performed, or placed in the retry list, or
refused and sent again (R242, R340). -/
def State.feIncoming (s : State) (k : Nat) (r : Incoming) (op : FeOp) (quad : Bool) (data : Quad) : State :=
  let pa := r.loc.toNat
  if s.feReady op (feWords pa quad) then
    let s := s.dropIncoming k
    if s.fePoison op pa quad then s.meet pa (feBytes quad)
    else (s.feApply op pa quad data).1.feChanged pa
  else
    match s.enlist (s.homeOf pa) (.away r) with
    | (s, true) => s.dropIncoming k
    | (s, false) => s

/-- What an atomic writes over `old`, of `n` bytes (R250); AFADD rounds to nearest even. -/
def AtomOp.new (op : AtomOp) (n old src : Nat) : Option Nat :=
  let x := BitVec.ofNat (8 * n) old
  let y := BitVec.ofNat (8 * n) src
  match op with
  | .add => some (x + y).toNat
  | .min => some (if y.slt x then y else x).toNat
  | .max => some (if x.slt y then y else x).toNat
  | .minu => some (if y.ult x then y else x).toNat
  | .maxu => some (if x.ult y then y else x).toNat
  | .and => some (x &&& y).toNat
  | .or => some (x ||| y).toNat
  | .xor => some (x ^^^ y).toNat
  | .swap => some y.toNat
  | .cas e => if old = e.toNat % 2 ^ (8 * n) then some y.toNat else none
  | .fadd t => some ((if t = .f64x2 then fp64 else fp32).add ⟨.rne, false, false⟩ old y.toNat).bits

/-- An atomic of another package at its home here (R337, R340): one that finds poison changes nothing (R341). -/
def State.atomicIncoming (s : State) (k : Nat) (r : Incoming) (op : AtomOp) (n : Nat) (src : Quad) : State :=
  let t : Target := match locCore r.loc with
    | some a => .scratch a.core a.off
    | none => .phys r.loc.toNat 0
  let s := s.dropIncoming k
  if s.closed r.loc then s
  else if (locCore r.loc).isNone && s.poisoned r.loc.toNat n then s.meet r.loc.toNat n
  else s.modify t n fun old => op.new n old src.toNat

/-- A join cell of this package is armed for another one, where its record passes the check of R52 (R65,
R78). -/
def State.jinitIncoming (s : State) (k : Nat) (r : Incoming) (count : Word) : State :=
  let s := (s.dropIncoming k).landWrites r.origin
  if s.closed r.loc then s
  else
    match checkRecord (BitVec.ofNat 256 (s.readLoc r.loc 32)) with
    | .error _ => s
    | .ok _ => s.armCell r.loc count (envOf r.origin 2 (s.sidereal.setWidth 40))

/-- A capability of a region here passes from a core of another package (R67, R103): where the descriptor names
that core as the holder, its word 3 takes the heir, whose table takes the region if it lies here. -/
def State.handoverIncoming (s : State) (k : Nat) (r : Incoming) (to_ : Word) : State :=
  let n := (r.via).getD 0
  let holder := mkCoreAddr r.origin.pkg (coreOf r.origin.coord.toNat) 0
  let s := (s.dropIncoming k).landWrites r.origin
  match coreAddr to_ with
  | none => s
  | some t =>
    if s.readLoc (r.loc + 24) 8 ≠ holder.toNat ∨ (s.heirRefuses t).isSome then s
    else
      let s := if t.pkg = s.image.pkg then
          s.modCore t.core fun y => { y with det := y.det ++ [s.regionAt r.loc n] }
        else s
      s.writeLoc (r.loc + 24) 8 (mkCoreAddr t.pkg t.core 0).toNat

/-- Writes and atomics from one die to one line keep their order (R337, R338). -/
def InOp.writes : InOp → Bool
  | .write _ | .atomic .. | .agput .. => true
  | .fe op .. => !op.reads || op == .rfe
  | _ => false
def Incoming.orders (q r : Incoming) : Bool :=
  q.op.writes && r.op.writes && q.name.isNone && lineOf q.loc.toNat == lineOf r.loc.toNat
    && q.origin.pkg == r.origin.pkg && q.origin.otherPod == r.origin.otherPod
    && dieOf q.origin.coord.toNat == dieOf r.origin.coord.toNat

/-- What another package asks reaches its home (R337, R340, R342): a write after the sender's earlier ones
to its line; a signal or a decrement after the bytes it was sent behind. A record that a join cell here has
released, and that has waited for the move of its queue's name, goes to the queue (R60, R82). -/
def incomingStep (s : State) (k : Nat) (r : Incoming) : Host.Outcome State Fault Refusal :=
  let env (s : State) : Envelope := envOf r.origin 2 (s.sidereal.setWidth 40)
  if r.name.isSome ∨ s.locStands r.loc ∨ (s.incoming.take k).any (·.orders r) then .refused .notEnabled
  else
    match r.op with
    | .write bytes => event s true fun s => (s.landBytes r.loc bytes).dropIncoming k
    | .fe op quad data => event s (!r.loc.getLsbD 63) fun s => s.feIncoming k r op quad data
    | .atomic op n src => event s true fun s => s.atomicIncoming k r op n src
    | .aged need wait => event s (!r.loc.getLsbD 63) fun s => s.agedIncoming k r need wait
    | .agput data age => event s (!r.loc.getLsbD 63) fun s => s.agputIncoming k r data age
    | .regs pages st => event s true fun s => s.regsIncoming k r pages st
    | .record body sent =>
      event s true fun s =>
        let t := s.targetAt r.loc
        { s with incoming := s.incoming.eraseIdx k }.landWrites r.origin |>.recordFrom t body r.origin sent
    | .release body env die =>
      event s true fun s =>
        let t := s.targetAt r.loc
        ({ s with incoming := s.incoming.eraseIdx k }.spread 0 t).pushOrReport die t body env
    | .jinit count => event s true fun s => s.jinitIncoming k r count
    | .barq => event s true (·.dropIncoming k)
    | .handover to_ => event s true fun s => s.handoverIncoming k r to_
    | .signal amount =>
      event s true fun s =>
        let s := (s.dropIncoming k).landWrites r.origin
        match locCore r.loc with
        | some a => if s.closed r.loc then s else (s.signal a.core a.off amount (env s)).1
        | none => s
    | .dec amount bits =>
      event s true fun s =>
        let s := (s.dropIncoming k).landWrites r.origin
        if s.closed r.loc then s.sendKept (locDie r.loc) (.decrement r.loc amount r.origin.coord)
        else s.joinDec r.loc amount bits (env s)
    | .block .. | .move .. | .retire => .refused .notEnabled

/-- The store with number `k` on its way goes one stage on (R236, R337); past those come the stores that have
not left their slots, and past these what other packages ask (DESIGN CHOICE, log 7). -/
def execFabricPacketApply (k : Nat) (s : State) : Host.Outcome State Fault Refusal :=
  match s.fabric[k]? with
  | some p => storeStep s k p
  | none =>
    let j := k - s.fabric.length
    match s.issued[j]? with
    | some e => enterStep s e.1 e.2
    | none =>
      let i := j - s.issued.length
      match s.incoming[i]? with
      | some r => incomingStep s i r
      | none => .refused .notEnabled

/-- The performed store with number `k` is acknowledged. -/
def State.ackAt (s : State) (k : Nat) (p : Packet) : State :=
  { s with fabric := s.fabric.eraseIdx k }.ackPacket p

/-- A home of the package acknowledges a write that it has performed (R243). -/
def execHomeAcknowledgement (c : Nat) (k : AckClass) (s : State) :
    Host.Outcome State Fault Refusal :=
  let hit (p : Packet) : Bool :=
    p.slot == c && s.ackClass c p.loc == k && p.stage == .applied && !s.remote p.loc
  match s.fabric.findIdx? hit with
  | none => .refused .notEnabled
  | some i =>
    match s.fabric[i]? with
    | none => .refused .notEnabled
    | some p => event s true (·.ackAt i p)

/-- A write left the gateway FABLIMIT ago, and is not acknowledged (R339). -/
def State.limitPassed (s : State) (p : Packet) : Bool :=
  p.stage != .entered && s.remote p.loc && decide (s.fabLimit p.loc ≤ (s.sidereal - p.sent).toNat)

/-- And a slot waits for it still. -/
def State.overdue (s : State) (p : Packet) : Bool := s.limitPassed p && !p.orphan

/-- The acknowledgement of a write that another package has applied reaches its source, within FABLIMIT
(R339). -/
def execFabricAck (k : Nat) (s : State) : Host.Outcome State Fault Refusal :=
  match s.fabric[k]? with
  | none => .refused .notEnabled
  | some p =>
    event s (p.stage == .applied && s.remote p.loc && !s.overdue p) (·.ackAt k p)

/-- The source gives up on a write: FABRIC becomes pending. Applied or not, the write may be lost, or be on
its way still (R339). -/
def State.giveUp (s : State) (k : Nat) (p : Packet) : State :=
  let s := if p.orphan then s
    else ((s.markRel p .fabric).ackDown p.slot (s.ackClass p.slot p.loc)).recordErr p.slot .fabric p.va 0
      p.pos
  if p.orphan ∨ Config.flag s.free 0x151 then { s with fabric := s.fabric.eraseIdx k }
  else { s with fabric := s.fabric.set k { p with orphan := true, link := none } }

/-- FABLIMIT has passed since a write left the gateway (R339); one that its source has given up may be lost
after that too. A number past the writes stands for the slot
whose parked access of another package has not been answered, not even with a hold notice. -/
def execFablimitExpiry (k : Nat) (s : State) : Host.Outcome State Fault Refusal :=
  match s.fabric[k]? with
  | some p =>
    event s (s.limitPassed p) (·.giveUp k p)
  | none =>
    let c := k - s.fabric.length
    match (s.slot c).wait with
    | none => .refused .notEnabled
    | some w => event s (s.remote w.loc && !w.noticed && s.probeDue w) (·.abandon c w)

/-! ## Faults at homes (R240) -/

/-- A home finds a fault on a relaxed access of the slot that it has not performed yet: a store writes
nothing, a load delivers zero, and the fault becomes pending (R240, R301, R395). A home of the own package
finds uncorrectable errors only; on a store that fills the word it is open whether it does (R316). -/
def execRelaxedHomeFault (c : Nat) (cause : BitVec 6) (addr : Word) (pa : Nat) (s : State) :
    Host.Outcome State Fault Refusal :=
  let e := Cause.ofCode cause
  let far (l : Nat) : Bool := s.remote l && (e == .prot || e == .fabric || e == .capability)
  let hit (p : Packet) : Bool := p.slot == c && !p.orphan && p.va == addr && p.loc == pa && p.stage != .applied
  match s.fabric.findIdx? hit with
  | some k =>
    match s.fabric[k]? with
    | none => .refused .notEnabled
    | some p =>
      event s (s.mayApply k p && (p.stage == .sent || !s.remote pa) && (far pa || e == .memErr))
        fun s =>
          let s := s.perform p (some e)
          { s with fabric := s.fabric.set k { p with stage := .applied } }
  | none =>
    let mine (o : Out) : Bool := match o.load with
      | some q => q.va == addr && q.pa == pa
      | none => false
    match (s.slot c).outs.findIdx? mine with
    | none => .refused .notEnabled
    | some i =>
      event s (!s.homeStands pa && ((far pa && e != .capability) || e == .memErr)) fun s =>
        let o := (s.slot c).outs[i]?
        let n := ((o.bind (·.load)).map (·.n)).getD 1
        ((s.found e pa n).recordErr c e addr 0 ((o.map (·.issued)).getD 0)).modSlot c (·.landLoad i .zero)

/-! ## Links (R336, R343 to R345) -/

/-- A packet of a link direction fails authentication: it is dropped and replayed, and the failure counts
against its lane, UNIT 3 (R345, R400). The fourth in a row of one packet takes the direction down; the packets of
a direction inwards are kept by the link's partner. Which packet it is, is open, and so is whether it is the tag
that fails or the CRC of a flit, of which no count in a row is kept. -/
def execLinkTagFailure (l : Nat) (s : State) : Host.Outcome State Fault Refusal :=
  event s (decide (l < linkCount) && (s.link l).up) fun s =>
    let r := (s.link l).replay
    match r[Config.choice s.free 0x170 % r.length]? with
    | some e => if Config.flag s.free 0x172 then s.badFlits l else s.failTag l e.counter
    | none =>
      let s := s.badFlits l
      if 32 ≤ l ∧ Config.flag s.free 0x173 then s.setLink l { s.link l with up := false } else s

/-- A port or its plane fails: its kept packets go over the remaining ports (R336). -/
def execLinkPortFailure (l : Nat) (s : State) : Host.Outcome State Fault Refusal :=
  event s (decide (l < 32) && (s.link l).portUp) fun s =>
    (s.setLink l { s.link l with portUp := false }).respray l

/-- The next key is loaded into the register that KI does not select, of the sender and of the receiver (R344
steps 1 and 2). -/
def execLinkKeyInstall (l : Nat) (key : BitVec 256) (s : State) :
    Host.Outcome State Fault Refusal :=
  event s (decide (l < linkCount) && (s.link l).rotation == .none) fun s =>
    s.setLink l ((s.link l).install key)

/-- The sender flips KI, and counts under the new key (R344 step 3). -/
def execKeyIndexFlip (l : Nat) (s : State) : Host.Outcome State Fault Refusal :=
  event s (decide (l < linkCount) && (s.link l).rotation == .loaded) fun s =>
    s.setLink l (s.link l).flip

/-- No packet under the old key is left: a retire flit clears it (R344 step 4). -/
def execLinkRetireFlit (l : Nat) (s : State) : Host.Outcome State Fault Refusal :=
  event s (decide (l < linkCount) && (s.link l).rotation == .flipped
      && (s.link l).replay.all fun e => e.ki == (s.link l).ki) fun s =>
    s.setLink l (s.link l).retired

end Sys2Proof.Machine
end

