-- ==== Sys2Proof/Machine/Module.lean ====
section
/-! DEFINITION. Bring-up, power and the module (R410, R411, R415 to R417), in-service repair (R401),
wear (R402) and debug sessions (R406 to R408). -/

namespace Sys2Proof.Machine

/-! ## The flash (R409 to R411) -/

/-- No physical cluster is used twice (R409). -/
def Image.mapFits (i : Image) : Bool :=
  decide (i.repairMap.map (·.2)).Nodup

/-- The Eyepiece verifies a copy of the image (R409, R410): its signature holds, its stepping is the module's, and
its repair map is within its limits. -/
def ImageCopy.good (c : ImageCopy) : Bool := c.signed && c.image.stepping == 0xB1 && c.image.mapFits

/-- Copy A, or copy B where A fails: whether it is B, and the image (R410 step 1). -/
def State.bootCopy (s : State) : Option (Bool × Image) :=
  if s.copyA.good then some (false, s.copyA.image)
  else if s.copyB.good then some (true, s.copyB.image) else none

/-- The CRC of an epoch slot, over its sequence number of 8 bytes and its epoch of 3 (DESIGN CHOICE, log 67). -/
def epochCrc (seq : Nat) (epoch : BitVec 24) : BitVec 32 :=
  crc32 (((bytesLE 8 seq) ++ (bytesLE 3 epoch.toNat)).map (·.toNat))

def EpochSlot.valid (x : EpochSlot) : Bool := x.crc == epochCrc x.seq x.epoch

/-- The slot with the epoch that counts is B: the newer valid one (R410 step 2). None: neither is valid. -/
def State.epochInB (s : State) : Option Bool :=
  match s.epochA.valid, s.epochB.valid with
  | true, true => some (decide (s.epochA.seq < s.epochB.seq))
  | true, false => some false
  | false, true => some true
  | false, false => none

/-- The slot that counts. -/
def State.epochSlot (s : State) (b : Bool) : EpochSlot := if b then s.epochB else s.epochA

/-- An epoch is written to the older slot (R410). -/
def State.writeEpoch (s : State) (b : Bool) (e : BitVec 24) : State :=
  let n := (s.epochSlot b).seq + 1
  let x : EpochSlot := ⟨n, e, epochCrc n e⟩
  if b then { s with epochA := x } else { s with epochB := x }

/-- Entries the repair log holds (R411). -/
def repairMax : Nat := 1024

/-- The key of the repair log, which is derived from the device key: how, is open. -/
def Image.repairKey (i : Image) : List Nat := natBlock (Config.quad 0 (2 ^ 60 + i.deviceKey.toNat)).toNat

/-- An entry of the repair log: the UNIT of R400, its number, the physical cluster it has come to, and the CMAC.
What an entry holds is DESIGN CHOICE, log 42. -/
def repairEntry (key : List Nat) (unit k phys : Nat) : List Byte :=
  let m := bytesLE 1 unit ++ bytesLE 8 k ++ bytesLE 4 phys
  m ++ (aesCmac key (m.map (·.toNat))).map (BitVec.ofNat 8)

/-- The entry authenticates (R411). -/
def authentic (key : List Nat) (e : List Byte) : Bool :=
  e.length == 29 && (e.drop 13).map (·.toNat) == aesCmac key ((e.take 13).map (·.toNat))

/-- Physical clusters of a die (R10). -/
def physPerDie : Nat := 464

/-- The physical cluster of a logical one (R14, R409). -/
def State.physCluster (s : State) (cl : Nat) : Nat := s.physMap.get (cl / 512 * physPerDie + cl % 512) cl

/-- A logical cluster moves to a physical one; the one it leaves is out of use. -/
def State.moveCluster (s : State) (cl p : Nat) : State :=
  { s with physMap := s.physMap.set cl p, worn := s.worn ++ [s.physCluster cl] }

/-- The cluster of a unit of R400 that is a core or a cluster. -/
def unitCluster (unit k : Nat) : Nat := if unit = 0 then coreCluster k else k

/-- Bring-up applies an entry that authenticates, and skips any other (R411). -/
def State.applyEntry (s : State) (e : List Byte) : State :=
  let n (i k : Nat) : Nat := ofBytesLE ((e.drop i).take k)
  if authentic s.image.repairKey e && decide (n 0 1 ≤ 1) then
    s.moveCluster (unitCluster (n 0 1) (n 1 8)) (n 9 4)
  else s

/-- The repair map, and after it the repair log in its order (R410 step 3, R411). -/
def State.applyRepairs (s : State) : State :=
  s.repairLog.foldl State.applyEntry { s with physMap := s.image.repairMap, worn := [] }

/-! ## Bring-up and power (R410, R415, R416) -/

/-- What survives the loss of all running state: the flash, with the images, the epoch record and the repair log;
the power cap; and what stands outside the part, the memory of other packages with it. -/
def State.bare (s : State) : State :=
  let away (n : Nat) (a : Nat) : Bool := s.remote (n * a)
  { State.reset with
    image := s.image, copyA := s.copyA, copyB := s.copyB, useB := s.useB, trains := s.trains, epoch := s.epoch
    epochA := s.epochA, epochB := s.epochB, repairLog := s.repairLog, pcap := s.pcap, rstReq := s.rstReq
    rstAck := false, temps := s.temps, objects := s.objects, answers := s.answers, reports := s.reports
    mem := s.mem.filter fun e => away 1 e.1
    full := s.full.filter (away 8), poison := s.poison.filter (away 8), bad := s.bad.filter (away 8)
    ages := s.ages.filter fun e => away 256 e.1
    regs := s.regs.filter fun e => away 65536 e.1
    serviceOn := [], free := s.free, inbox := s.inbox }

/-- The die clocks start at the image's frequency (R384). Sidereal time starts at 0, or, where
another package is time master, at pod time in one step (R383), which is open. -/
def State.podTime (s : State) : Word :=
  if s.image.master then 0 else Config.word s.free 0x180

/-- Bring-up (R410): a step that fails stops it with its code in BOOTSTAT; else the epoch is written back to the
older slot of its record, the repairs are applied, the serial counter starts at the new epoch (R73), the service
issues its QUEUE names (R93) and runs on service core 0 of every die. Where a later step stops bring-up, the stored
epoch is as it was, and where no slot of the record is valid, it stops as for the last epoch (DESIGN CHOICE, log
67). -/
def State.bringUp (s : State) : State :=
  let stop (code : Byte) : State :=
    { s.bare with rstReq := true, rstAck := true, power := .standby, bootstat := code }
  match s.bootCopy with
  | none => stop 1
  | some (b, image) =>
    match s.epochInB with
    | none => stop 2
    | some q =>
      let was := (s.epochSlot q).epoch
      if was = 0xFFFFFF then stop 2
      else if !s.trains then stop 3
      else
        let e := was + 1
        let t := (({ s with image := image, useB := b }.bare.writeEpoch q e)).applyRepairs
        { t with
          power := .run, bootstat := 0x80, rstReq := true, rstAck := true, epoch := e
          serial := (e ++ 0#64) + BitVec.ofNat 88 bornCount
          sidereal := t.podTime, lastTiming := t.podTime, serviceOn := [0] }

/-- The module loses power or is reset before anything has run since its bring-up: whether the loss fell into the
write of the epoch, so that the slot written is not valid, is open (R410; DESIGN CHOICE, log 67). -/
def State.tearEpoch (s : State) : State :=
  if s.power = .run ∧ s.launches.isEmpty ∧ s.slots.isEmpty ∧ Config.flag s.free 0x182 then
    match s.epochInB with
    | some true => { s with epochB := { s.epochB with crc := ~~~s.epochB.crc } }
    | some false => { s with epochA := { s.epochA with crc := ~~~s.epochA.crc } }
    | none => s
  else s

/-- RST_REQ is released: STANDBY moves to RUN by bring-up (R415, R416). -/
def execResetRequest (s : State) : Host.Outcome State Fault Refusal :=
  event s (!s.rstReq && s.power == .standby) fun s => s.bringUp

/-- RST_REQ is driven low: nothing runs until it is released (R415; DEDUCED, log 20). -/
def execResetAsserted (s : State) : Host.Outcome State Fault Refusal :=
  event s (s.rstReq && s.power != .off) fun s =>
    { s.tearEpoch.bare with rstReq := false, power := .standby, bootstat := 0 }

/-- The I3C command START (R416). -/
def execI3cStart (s : State) : Host.Outcome State Fault Refusal :=
  event s (s.rstReq && s.power == .standby) fun s => s.bringUp

/-- No slot of a list runs: each is idle or held. -/
def State.allQuiet (s : State) (l : List Nat) : Bool :=
  l.all fun c =>
    match (s.slot c).phase with
    | .idle | .held _ => true
    | _ => false

/-- The slots of a list are pre-empted, with the window of the image (R375). -/
def State.preemptAll (s : State) (l : List Nat) : State := l.foldl (State.preemptSlot s.image.preWin) s

/-- The I3C command STOP: every slot is pre-empted, and once their windows have ended the module stands by, with
its memory lost; RST_ACK stays as it is (R416). -/
def execI3cStop (s : State) : Host.Outcome State Fault Refusal :=
  let l := s.slots.map (·.1)
  event s (s.power == .run && (!s.stopping || s.allQuiet l)) fun s =>
    if s.allQuiet l then { s.bare with power := .standby, bootstat := 0, rstAck := s.rstAck }
    else { s.preemptAll l with stopping := true }

/-- The 54 V supply is applied: OFF to STANDBY (R416). -/
def execPowerOn (s : State) : Host.Outcome State Fault Refusal :=
  event s (s.power == .off) fun s => { s.bare with power := .standby, bootstat := 0 }

/-- The supply is removed: OFF (R416, R417). -/
def execPowerLoss (s : State) : Host.Outcome State Fault Refusal :=
  event s (s.power != .off) fun s => { s.tearEpoch.bare with power := .off, bootstat := 0 }

/-- A power cap in watts; the service schedules one step of each die within 10 ms to meet it, to a
frequency and at a time that are open (R388, R416). DESIGN CHOICE, log 41. -/
def execPcap (w : Nat) (s : State) : Host.Outcome State Fault Refusal :=
  event s (s.power != .off && decide (1000 ≤ w ∧ w ≤ 5200)) fun s =>
    let one (d : Nat) : Nat × Word × BitVec 16 :=
      (d, s.sidereal + BitVec.ofNat 64 (Config.choice s.free (0x1A0 + d) % 10000001),
        BitVec.ofNat 16 (100 * (6 + Config.choice s.free (0x1A8 + d) % 13)))
    { s with pcap := BitVec.ofNat 16 w
             schedule := if s.power = .run then s.schedule ++ (List.range 8).map one
               else s.schedule }

/-! ## Repair (R401, R411) -/

/-- The COORD of a unit of R400 in an event (R399). -/
def unitCoord (unit k : Nat) : BitVec 18 :=
  if unit = 0 then coreCoord k
  else if unit = 1 then BitVec.ofNat 18 (64 * k)
  else if unit = 2 then dieCoord (k % 8) else dieCoord (linkDie (k % 64))

/-- The service reports a fault as lasting that no repair meets (R400, R411). -/
def State.reportLasting (s : State) (unit k : Nat) : State :=
  s.post (svcEvent 4 (BitVec.ofNat 8 unit) (unitCoord unit k) s.sidereal 0 0 0)

/-- The log takes one more entry (R411). -/
def State.logRoom (s : State) : Bool := decide (s.repairLog.length < repairMax)

/-- The Eyepiece appends an entry; a full log takes none (R411). -/
def State.logRepair (s : State) (entry : List Byte) : State :=
  if s.logRoom then { s with repairLog := s.repairLog ++ [entry] } else s

/-- The Eyepiece appends an entry; a full log takes none, and the fault it is for is reported as lasting (R411). -/
def execRepairLogAppend (entry : List Byte) (s : State) : Host.Outcome State Fault Refusal :=
  event s (s.power == .run) fun s =>
    if s.logRoom then s.logRepair entry
    else s.reportLasting (ofBytesLE (entry.take 1)) (ofBytesLE ((entry.drop 1).take 8))

/-- A held slot goes on: its context is restored, or it is idle again (R374, R401). -/
def State.rejoin (s : State) (c : Nat) : State :=
  match (s.slot c).phase with
  | .held false => s.modSlot c fun x => { x with phase := .idle }
  | .held true =>
    match s.restoreSlot c with
    | .ok (t, _) => t
    | .error _ => s
  | _ => s

/-- A core is returned to use: its fence lifts, its mailbox takes records again, and its errors are gone (R107,
R400, R401). -/
def State.reopen (s : State) (core : Nat) : State :=
  let (cl, q) := mailboxOf core
  (s.modCore core fun k => { k with fenced := false, contained := false, window := ⟨0, 0⟩ }).modCluster cl
    fun k => k.setQueue q { k.queue q with sealed_ := false }

/-- The slots and cores of a cluster. -/
def clusterSlots (cl : Nat) : List Nat := (List.range 64).map (64 * cl + ·)
def clusterCores (cl : Nat) : List Nat := (List.range 16).map (16 * cl + ·)

/-- A spare of a die: a physical cluster that no logical one has and that is not out of use (R10, R14). -/
def State.freeSpare (s : State) (d : Nat) : Option Nat :=
  let used := (List.range 448).map fun i => s.physCluster (512 * d + i)
  ((List.range physPerDie).map (physPerDie * d + ·)).find? fun p => !used.contains p && !s.worn.contains p

/-- The fault of a unit has been met by a repair, which is logged (R411). -/
def State.repaired (s : State) (unit k phys : Nat) (met : Nat × Nat → Bool) : State :=
  { s.logRepair (repairEntry s.image.repairKey unit k phys) with lasting := s.lasting.filter fun e => !met e }

/-- A logical cluster whose slots are pre-empted is remapped to a spare: its number stays, its cores are back in
use, and its held contexts resume (R14, R401). -/
def State.remap (s : State) (unit k p : Nat) : State :=
  let cl := unitCluster unit k
  let s := (s.repaired unit k p fun e => decide (e.1 ≤ 1) && unitCluster e.1 e.2 == cl).moveCluster cl p
  let s := s.modCluster cl fun x => { x with window := ⟨0, 0⟩ }
  (clusterSlots cl).foldl State.rejoin ((clusterCores cl).foldl State.reopen s)

/-- A row, bank or channel of an HBM stack, or a lane of a link, is spared: its window starts anew (R400, R411). -/
def State.spare (s : State) (unit k : Nat) : State :=
  let s := s.repaired unit k 0 (· == (unit, k))
  if unit = 2 then s.modDie (k % 8) fun x => { x with hbm := x.hbm.erase (k / 8) }
  else
    let x := s.link (k % 64)
    s.setLink (k % 64) { x with windows := x.windows.erase (k / 64) }

/-- The unit is one that the service repairs: of clusters, the compute ones (R401). -/
def repairs (unit k : Nat) : Bool :=
  decide (unit ≤ 3) && (decide (1 < unit) || (decide (unitCluster unit k < 4096)
    && decide (clusterNum (unitCluster unit k) < 448)))

/-- The service meets a lasting fault: it pre-empts the slots of the cluster, and when they are held remaps the
cluster to a spare; or it spares a part of an HBM stack or a lane. Where the log is full, or no spare is left, no
repair is made, and the fault is reported as lasting (R401, R411). DEDUCED, log 42. -/
def execInServiceRepair (u : Nat × Nat) (s : State) : Host.Outcome State Fault Refusal :=
  let (unit, k) := u
  event s (s.power == .run && s.lasting.contains u && repairs unit k) fun s =>
    if !s.logRoom then s.reportLasting unit k
    else if 1 < unit then s.spare unit k
    else
      let cl := unitCluster unit k
      match s.freeSpare (cl / 512) with
      | none => s.reportLasting unit k
      | some p =>
        if s.allQuiet (clusterSlots cl) then s.remap unit k p else s.preemptAll (clusterSlots cl)

/-- Lane sparing on a link direction that is down ends: with a lane spared, which is logged, the direction comes up
again; it stays down where sparing fails, or where the log takes no entry and the fault is reported as lasting
(R345, R411). -/
def execLaneSparingComplete (l : Nat) (up : Bool) (s : State) : Host.Outcome State Fault Refusal :=
  event s (decide (l < linkCount) && !(s.link l).up) fun s =>
    let lane := Config.choice s.free 0x171
    if !up then s
    else if s.logRoom then
      let s := s.spare 3 (64 * lane + l)
      s.setLink l { s.link l with up := true }
    else s.reportLasting 3 (64 * lane + l)

/-- The update of the service image (R417) goes on by one step: the new image is written to the copy not in use;
the Eyepiece verifies it, which may fail; it starts on service cores 1 to 3 of every die, and requests are answered
5 while the old service hands its queues over; it has taken the old one's place. -/
def execServiceImageUpdate (release : Nat) (s : State) : Host.Outcome State Fault Refusal :=
  event s (s.power == .run) fun s =>
    let copy : ImageCopy := ⟨{ s.image with release := release }, Config.flag s.free 0x184⟩
    match s.update with
    | .none =>
      let s := { s with update := .written release }
      if s.useB then { s with copyA := copy } else { s with copyB := copy }
    | .written r =>
      if (if s.useB then s.copyA else s.copyB).good then { s with update := .verified r }
      else { s with update := .none }
    | .verified r => { s with update := .handing r, serviceOn := [0, 1, 2, 3] }
    | .handing r =>
      { s with image := { s.image with release := r }, useB := !s.useB, update := .none, serviceOn := [1, 2, 3] }

/-- The Eyepiece recomputes a die's predicted life (R402). -/
def execEolpredUpdate (d : Nat) (source : BitVec 4) (days : BitVec 16) (s : State) :
    Host.Outcome State Fault Refusal :=
  event s (decide (d < 8) && decide (1 ≤ source.toNat ∧ source.toNat ≤ 3)) fun s =>
    s.modDie d fun x => { x with eolSource := source.setWidth 8, eolDays := days }

/-! ## Debug sessions (R406 to R408) -/

/-- A connection opens the one session, or is refused while there is one (R406). -/
def execDebugSessionConnect (_ : Nat) (s : State) : Host.Outcome State Fault Refusal :=
  event s (s.power != .off) fun s => { s with session := true }

/-- The session is closed. DEDUCED, log 40. -/
def execDebugSessionEnd (s : State) : Host.Outcome State Fault Refusal :=
  event s s.session fun s => { s with session := false }

/-- The standby Eyepiece on die 4 takes over: the session ends, its stops stay (R406). -/
def execEyepieceFailover (s : State) : Host.Outcome State Fault Refusal :=
  event s (s.eyepiece == 0) fun s => { s with session := false, eyepiece := 4 }

/-- A slot of a service core halts, with the wait of R27; one at an ALIGN issues its group again later (R117,
R407). `haltNext` tells that a stop has halted it, and no BREAK. -/
def State.haltSlot (s : State) (c : Nat) : State :=
  let again := s.aligned c
  (s.drain c).modSlot c fun x =>
    { x with pc := if again then x.groupStart else x.pc
             hints := if again then .empty else x.hints, align := if again then none else x.align
             phase := x.phase.withRun .stopped, atBreak := true, haltNext := true }

/-- A slot is between two words: it waits nowhere, and has no word begun and no result of a SPAWNQ to come. -/
def Slot.between (x : Slot) : Bool :=
  x.phase.run? == some .running && x.nameOp.isNone && x.sending.isEmpty

/-- A stop comes to a slot of a service core: it halts after the word it is issuing (R407). -/
def State.stopSlot (s : State) (c : Nat) : State :=
  let x := s.slot c
  if x.between then s.haltSlot c
  else if x.phase.run?.any fun r => r == .running || r == .waiting then
    s.modSlot c fun x => { x with haltNext := true }
  else s

/-- The four slots of a core. -/
def slotsOf (core : Nat) : List Nat := (List.range 4).map fun i => 4 * core + i

/-- The session stops a core (R407): no record is granted to it any more. -/
def execDebugStop (core : Nat) (s : State) : Host.Outcome State Fault Refusal :=
  event s s.session fun s =>
    let s := s.modCore core fun k => { k with stopped := true }
    if isServiceCore core then (slotsOf core).foldl State.stopSlot s else s

/-- A slot that the session holds goes on at its next word (R408). -/
def Slot.resumed (x : Slot) : Slot :=
  if x.atBreak then { x with atBreak := false, haltNext := false, phase := x.phase.withRun .running } else x

/-- The session lifts the stop of a core, and with it the halt of a service core's slots (R407); or it resumes one
slot that stands at a BREAK, at the next word (R408). -/
def execDebugResume (place : Nat × Option Nat) (s : State) : Host.Outcome State Fault Refusal :=
  let (core, slot) := place
  event s s.session fun s =>
    match slot with
    | some i => s.modSlot (4 * core + i % 4) Slot.resumed
    | none =>
      let s := s.modCore core fun k => { k with stopped := false }
      (slotsOf core).foldl (fun (s : State) c => s.modSlot c fun x =>
        if x.haltNext then { x.resumed with haltNext := false } else x) s

/-- The session claims BREAK for a core (R408). -/
def execDebugBreakClaim (core : Nat) (s : State) : Host.Outcome State Fault Refusal :=
  event s s.session fun s => s.modCore core fun k => { k with claimed := true }

end Sys2Proof.Machine
end

