-- ==== Sys2Proof/Machine/Fetch.lean ====
section
/-! DEFINITION. The fetch port, the instruction cache and buffers and a slot's next word (R108 to R112),
the walk of a table (R359), and the waits of ALIGN (R116). -/

namespace Sys2Proof.Machine

/-! ## Lines (R108 to R110) -/

/-- The line at a physical address as its home holds it now; a poisoned word is marked. -/
def State.lineAt (s : State) (base : Nat) (asid : BitVec 16) (large global : Bool) (pa : Nat) : Line :=
  ⟨base, asid, large, global, (List.range 16).map fun i =>
    if s.poisoned (pa + 4 * i) 4 then none else some (BitVec.ofNat 32 (s.homeRead (pa + 4 * i) 4))⟩

/-- Two lines of the same address in the same address space: that a line is the same by its virtual address, and not
by its place in memory, is DESIGN CHOICE, log 48. -/
def Line.same (l k : Line) : Bool := l.base == k.base && l.asid == k.asid

/-- The instruction cache: 128 sets of four lines (R108). -/
def Line.set (l : Line) : Nat := l.base / 64 % 128
def lineWays : Nat := 4

/-- A fill comes into the instruction cache; in a full set some line goes for it, which is open. -/
def State.keepLine (s : State) (cl : Nat) (l : Line) : State :=
  let ls := (s.cluster cl).lines.filter fun k => !k.same l
  let set := ls.filter fun k => k.set == l.set
  let ls := if set.length < lineWays then ls
    else
      match set[Config.choice s.free 0x220 % set.length]? with
      | some k => ls.erase k
      | none => ls
  s.modCluster cl fun k => { k with lines := l :: ls }

/-- Line entries of a core's instruction buffer (R109). -/
def bufferLines : Nat := 4

/-- A line comes into the instruction buffer of a core, for the entry least recently read (R109). A line that no slot
has read yet counts as read when it came (DESIGN CHOICE, log 48). -/
def State.bufferLine (s : State) (core : Nat) (l : Line) : State :=
  s.modCore core fun k =>
    { k with buffer := l :: (k.buffer.filter fun b => !b.same l).take (bufferLines - 1) }

/-- A buffered line has been read. -/
def State.readLine (s : State) (core : Nat) (l : Line) : State :=
  s.modCore core fun k => { k with buffer := l :: k.buffer.erase l }

/-! ## The next word (R110, R111) -/

/-- The next word of the slot whose turn it is: the fault of its fetch, or the word that the core's buffer
holds; where it holds none, the slot does not issue (R109 to R112). -/
def fetchWord (s : State) : Except Stop (State × BitVec 32) :=
  let s := s.bump
  let va := s.me.pc
  if noCode va then .error (.at_ .prot va 0)
  else
    match s.fetchXlate s.focus va.toNat with
    | .page => .error (.page va .fetch)
    | .prot n => .error (.at_ .prot va n)
    | .memErr t a => during t (.error (.at_ .memErr va a))
    | .ok t pa _ =>
      match t.nextLine t.focus with
      | none => .error .hold
      | some l =>
        match l.word va.toNat with
        | none => during (t.meet pa 4) (.error (.at_ .memErr va 0))
        | some w => .ok (t.readLine (coreOf t.focus) l, w)

/-! ## The fetch port (R108) -/

/-- The fetch of slot `c` at an address ends in a fault. -/
def State.fetchFaults (s : State) (c va : Nat) : Bool :=
  match s.fetchXlate c va with
  | .ok .. => false
  | _ => true

/-- Slot `c` runs, does not wait at an ALIGN, and lacks the line of its next word. -/
def State.lacksLine (s : State) (c : Nat) : Bool :=
  let pc := (s.slot c).pc
  (s.slot c).phase.run? == some .running && !noCode pc && (s.nextLine c).isNone
    && !s.aligned c && !s.fetchFaults c pc.toNat

/-- The four slots of a core, from its slot pointer on (R112). -/
def State.rotation (s : State) (core : Nat) : List Nat :=
  (List.range 4).map fun i => 4 * core + ((s.core core).rot + i) % 4

/-- The slot for which a core requests a line: of those that lack one, the first from the slot pointer on
(DESIGN CHOICE, log 48). -/
def State.request (s : State) (core : Nat) : Option Nat := (s.rotation core).find? s.lacksLine

/-- The line of a slot's next word. -/
def State.lineOfPc (s : State) (c : Nat) : Nat := (s.slot c).pc.toNat / 64

/-- The core that the fetch port of a cluster serves: of those that request a line, the first from the
rotate pointer on (R108). -/
def State.served (s : State) (cl : Nat) : Option Nat :=
  ((List.range 16).map fun i => 16 * cl + ((s.cluster cl).fetchRot + i) % 16).find? fun k =>
    (s.request k).isSome

/-- The cores of a cluster that a delivery of the line serves. -/
def State.receivers (s : State) (cl : Nat) (l : Line) : List Nat :=
  ((List.range 16).map (16 * cl + ·)).filter fun k =>
    match s.request k with
    | some c => l.holds (s.slot c).asid (s.slot c).pc.toNat
    | none => false

/-- The page of an address is a large one. -/
def State.largePage (s : State) (c va : Nat) (leaf : Word) : Bool :=
  ((s.core (coreOf c)).itlb ++ (s.cluster (clusterOf c)).tlb).any fun t =>
    t.large && t.leaf == leaf && t.maps (s.slot c).asid va

/-- The port delivers the line of `va` for slot `c`: from the cache, or from its home, to every core that
requests it, and the rotate pointer moves past the core (R108). -/
def State.deliver (s : State) (c va : Nat) : State :=
  match s.fetchXlate c va with
  | .memErr t _ => t
  | .page | .prot _ => s
  | .ok t pa leaf =>
    let cl := clusterOf c
    let asid := (s.slot c).asid
    let (t, l) := match (t.cluster cl).lines.find? (·.holds asid va) with
      | some l => (t, l)
      | none =>
        let l := t.lineAt (va / 64 * 64) asid (t.largePage c va leaf) (pteG leaf) (pa / 64 * 64)
        (t.keepLine cl l, l)
    let to_ := coreOf c :: (s.receivers cl l).erase (coreOf c)
    let now := (t.die (cl / 512)).dcyc
    (to_.foldl (fun (t : State) k => t.bufferLine k l) t).modCluster cl fun k =>
      { k with fetchRot := (coreOf c + 1) % 16, fetchAt := some now }

/-- A slot of the core may come to a line that its buffer does not hold, within three lines of its next
word. -/
def State.ahead (s : State) (core line : Nat) : Option Nat :=
  (s.rotation core).find? fun c =>
    let x := s.slot c
    x.phase.run? == some .running && decide (s.lineOfPc c < line ∧ line ≤ s.lineOfPc c + 3)
      && !(s.core core).buffer.any (·.holds x.asid (64 * line))

/-- The slot for which the port delivers a line to a core: the served core's, or, while no core requests a
line, one of a core that fetches ahead. -/
def State.fetchFor (s : State) (core line : Nat) : Option Nat :=
  match s.served (coreCluster core) with
  | some k => if k = core then (s.request core).filter (s.lineOfPc · == line) else none
  | none => s.ahead core line

/-- The fetch port delivers a line, one in a die cycle at the most (R108); a fault on it is raised only
when the slot would issue the word (R111). -/
def execFetchLineDelivery (core line : Nat) (s : State) : Host.Outcome State Fault Refusal :=
  let k := s.cluster (coreCluster core)
  match s.fetchFor core line with
  | none => .refused .notEnabled
  | some c =>
    event s (!noCode (BitVec.ofNat 64 (64 * line)) && k.fetchAt != some (s.die (dieOf c)).dcyc)
      (·.deliver c (64 * line))

/-! ## Walks (R359) -/

/-- The kind of access a walk is for. -/
def accessKind : Access → AccKind
  | .load => .load
  | .store => .store
  | .fetch => .fetch

/-- A walk for an access of a running slot completes. For the fetch of its next word it ends with a fill,
by parking the slot on a PAGE, or with the trap (R111). For a load or a store it fills, or leaves the
fault to the word that makes the access, at its issue (R239, R359). -/
def execPageWalk (c : Nat) (va : Word) (acc : Access) (s : State) :
    Host.Outcome State Fault Refusal :=
  let x := s.slot c
  event s (x.phase.run? == some .running && !noCode va && (acc != .fetch || va == x.pc)
      && !s.aligned c) fun s =>
    match s.walkFill (coreOf c) x.asid x.root x.super va.toNat (accessKind acc) with
    | .ok t _ _ => t
    | .page => if acc = .fetch then s.pagePark c va acc else s
    | .prot n => if acc = .fetch then s.takeTrap c .prot va (BitVec.ofNat 64 n) false else s
    | .memErr t a => if acc = .fetch then t.takeTrap c .memErr va (BitVec.ofNat 64 a) false else t

/-! ## ALIGN (R116) -/

/-- The cores of W(pc) in a cluster (R116). -/
def State.alignedCores (s : State) (l : List Nat) (pc : Word) : List Nat :=
  (l.filter fun c => (s.slot c).pc == pc).map fun c => coreOf c % 16

/-- FETCHGRP of a core as it has governed the ends of the die cycles that have passed since a slot of its cluster
last came to wait (R116, R136). -/
def State.masks (s : State) (core : Nat) : List (BitVec 16) :=
  let k := s.core core
  let now := (s.die (coreDie core)).dcyc
  let before := match k.fetchWas with
    | some (t, w) => if t ≠ now ∧ (s.cluster (coreCluster core)).alignAt.toNat ≤ t.toNat then [w] else []
    | none => []
  governedEnd k.fetchWas now k.fetchGrp :: before

/-- The slots of a cluster that R116 releases. -/
def State.released (s : State) (cl : Nat) : List Nat :=
  let l := ((List.range 64).map (64 * cl + ·)).filter s.aligned
  l.filter fun c =>
    let there := s.alignedCores l (s.slot c).pc
    (s.masks (coreOf c)).any fun m =>
      (List.range 16).all fun i => !m.getLsbD i || i == coreOf c % 16 || there.contains i

/-- The wait of slot `c` ends. -/
def State.unalign (s : State) (c : Nat) : State := s.modSlot c fun x => { x with align := none }

/-- The slots whose fetch group has arrived are released together, at the end of the die cycle in which the
last of them has come (R116). -/
def execAlignRelease (cl : Nat) (s : State) : Host.Outcome State Fault Refusal :=
  let l := s.released cl
  let now := (s.die (cl / 512)).dcyc
  event s (!l.isEmpty && (s.cluster cl).alignAt != now) fun s =>
    l.foldl State.unalign s

/-- An ALIGN wait ends after its n die cycles, at the end of a die cycle in which its slot waits (R116): the main
instruction issues in a later one. -/
def execAlignTimeout (c : Nat) (s : State) : Host.Outcome State Fault Refusal :=
  match (s.slot c).align with
  | none => .refused .notEnabled
  | some t =>
    let now := (s.die (dieOf c)).dcyc
    event s (decide (t < now.toNat) && s.aligned c && (s.cluster (clusterOf c)).alignAt != now) fun s =>
      s.unalign c

end Sys2Proof.Machine
end

