-- ==== Sys2Proof/Machine/FloatAtomic.lean ====
section
/-! DEFINITION. AFADD, the floating-point atomic (R250). -/

namespace Sys2Proof.Machine

/-- AFADD: RNE without FTZ, and no flag accrues (R250). -/
def execAfadd (m : Bool) (t b r : Reg) (o : BitVec 2) (w : BitVec 1) (c : BitVec 4) (s : State) :
    Host.Outcome State Fault Refusal :=
  issue { eff := true } s fun s => do
    touch s [b, r, t]
    let va ← srcInt s b
    let n := atomicBytes w
    let g : Tag := if n = 8 then .f64x2 else .f32x4
    let v := s.me.read r
    if v.tag ≠ g ∧ v.tag ≠ .raw then .error (.plain .format) else
    let f := if n = 8 then fp64 else fp32
    atomicAt s m t va n o c true (.fadd g) v.val
      (fun old => some (f.add ⟨.rne, false, false⟩ old (v.val.toNat % 2 ^ (8 * n))).bits)
      (fun old => ⟨BitVec.ofNat 128 old, g⟩)

end Sys2Proof.Machine
end

