-- ==== Sys2Proof/Machine/Matrix.lean ====
section
/-! DEFINITION. Operand memory and the matrix unit (R201 to R206), and the meanings of MSLOT and MAT (R207
to R219). -/

namespace Sys2Proof.Machine

/-! ## Units of the issuing slot (R203) -/

/-- The unit with a number, in the core of the issuing slot. -/
def State.munit (s : State) (u : Nat) : MUnit := vget s.myCore.units .reset u
/-- Change it. -/
def State.setUnit (s : State) (u : Nat) (x : MUnit) : State :=
  s.modMyCore fun k => { k with units := vset k.units u x }

/-- The refusal of R203. -/
def slotState {α : Type} (u : Nat) : Except Stop α := .error (.info .slotState u)

/-- The unit, which the issuing slot must hold. -/
def heldUnit (s : State) (u : Nat) : Except Stop MUnit :=
  let x := s.munit u
  if x.state = .free ∨ x.owner ≠ BitVec.ofNat 2 s.focus then slotState u else .ok x

/-- An operand slot in OWNED or READY. -/
def settledUnit (s : State) (u : Nat) : Except Stop MUnit := do
  let x ← heldUnit s u
  if x.state = .owned ∨ x.state = .ready then .ok x else slotState u

/-- A pending tile, whichever slot holds it (R204): HAZARD comes before SLOTSTATE (R47). -/
def tileHazard (s : State) (u : Nat) : Except Stop Unit :=
  if 4 ≤ u ∧ !(s.munit u).pend.isEmpty then .error (.plain .hazard) else .ok ()

/-- Scales as they stand after a claim (R203). -/
def unitScales : Vector (BitVec 64) 16 := Vector.replicate 16 0x7F7F7F7F7F7F7F7F
/-- Rows of zeros. -/
def zeroRows : Vector (BitVec 2048) 16 := Vector.replicate 16 0
/-- Elements of a row (R202). -/
def Tag.perRow (t : Tag) : Nat := 2048 / t.width

/-- MCLAIM (R208). -/
def execMclaim (m : Bool) (d : Reg) (k : BitVec 1) (t : BitVec 5) (s : State) :
    Host.Outcome State Fault Refusal :=
  issue {} s fun s =>
    let u := d.toNat
    if (s.munit u).state ≠ .free then slotState u
    else
      let x : MUnit :=
        { state := .owned, owner := BitVec.ofNat 2 s.focus, tag := (Tag.ofCode t).getD .raw,
          scaled := k == 1, poison := none, load := none, pend := [],
          rows := zeroRows, scales := if u < 4 then unitScales else Vector.replicate 16 0 }
      .ok ((s.setUnit u x).retire m)

/-- The number of every MMA that has to be written before the tile `u` is not pending (R205). -/
def State.settleTile (s : State) (u : Nat) : State :=
  s.writeTiles (coreOf s.focus) (lastOf (· == u) s.myCore.mmas)

/-- MREL waits until a tile is written (R205, R209); of a slot that loads, the reads have been made. -/
def execMrel (m : Bool) (d : Reg) (s : State) : Host.Outcome State Fault Refusal :=
  issue {} s fun s => do
    let u := d.toNat
    let x ← heldUnit s u
    let s := if 4 ≤ u then s.settleTile u
      else (s.readUnit s.focus u fun _ _ => true).accrue s.focus (x.pend.foldl (· ||| ·) 0)
    .ok ((s.setUnit u .reset).retire m)

/-! ## Reading memory (R206) -/

/-- A piece of an access of the unit: its target, its address, its bytes. -/
structure Piece where
  tg : Target
  va : Word
  n : Nat
  deriving DecidableEq, Repr

/-- The 16-byte pieces of `n` bytes, translated in ascending order. -/
def piecesFrom (s : State) (k : AccKind) (va : Word) (size : Nat) : Nat →
    Except Stop (State × List Piece)
  | 0 => .ok (s, [])
  | i + 1 => do
    let (s, tg) ← target s va 1 k false
    let (s, l) ← during s (piecesFrom s k (va + BitVec.ofNat 64 size) size i)
    .ok (s, ⟨tg, va, size⟩ :: l)

/-- `n` bytes at `va`: what starts in the scratchpad stays in it. DEDUCED, log 34. -/
def rowPieces (s : State) (k : AccKind) (va : Word) (n : Nat) : Except Stop (State × List Piece) :=
  if va.toNat < 0x8000 ∧ 0x8000 < va.toNat + n then .error (.trap .prot va 10 false)
  else piecesFrom s k va (min n 16) (n / min n 16)

/-- Several rows, each with its pieces. Every page is translated before any piece is performed.
DEDUCED, log 30. -/
def allPieces (s : State) (k : AccKind) : List (Word × Nat) → Except Stop (State × List (List Piece))
  | [] => .ok (s, [])
  | (va, n) :: l => do
    let (s, p) ← rowPieces s k va n
    let (s, ps) ← during s (allPieces s k l)
    .ok (s, p :: ps)

/-- A piece of a load into an operand slot, not yet performed. -/
def Piece.unit (asid : BitVec 16) (p : Piece) : UnitPiece :=
  match p.tg with
  | .scratch k off => ⟨p.va, some k, off, false, p.n, none, asid⟩
  | .phys pa leaf => ⟨p.va, none, pa, leafCached leaf, p.n, none, asid⟩

/-- Sixteen rows `st` apart. -/
def rowsAt (a st : Word) (count n : Nat) : List (Word × Nat) :=
  (List.range count).map fun r => (a + BitVec.ofNat 64 r * st, n)

/-- A load into an operand slot begins, `per` pieces to a row: the slot is LOADING (R203). Some pieces are
performed at once, the others by the time the load completes; which, is open (DESIGN CHOICE, log 1). -/
def loadUnit (s : State) (m : Bool) (u : Nat) (x : MUnit) (kind : LoadKind) (per : Nat)
    (ps : List (List Piece)) : State :=
  let l : UnitLoad := ⟨kind, s.me.pos, per, ps.flatten.map (Piece.unit s.me.asid)⟩
  let s := s.setUnit u { x with state := .loading, poison := none, load := some l, pend := [] }
  (s.readUnit s.focus u fun k _ => Config.flag s.free (2 ^ 18 + k)).retire m

/-- Both a and st are multiples of `n`. -/
def alignedTo (a st : Word) (n : Nat) : Except Stop Unit :=
  if a.toNat % n ≠ 0 ∨ st.toNat % n ≠ 0 then .error (.at_ .misalign a 0) else .ok ()

/-- MLOAD (R210). -/
def execMload (m : Bool) (d a b : Reg) (s : State) : Host.Outcome State Fault Refusal :=
  issue {} s fun s => do
    touch s [a, b]
    let va ← srcInt s a
    let st ← srcInt s b
    let x ← settledUnit s d.toNat
    alignedTo va st 16
    let (s, ps) ← allPieces s .load (rowsAt va st 16 256)
    .ok (loadUnit s m d.toNat x .rows 16 ps)

/-- MLOADT (R210). -/
def execMloadt (m : Bool) (d a b : Reg) (s : State) : Host.Outcome State Fault Refusal :=
  issue {} s fun s => do
    touch s [a, b]
    let va ← srcInt s a
    let st ← srcInt s b
    let x ← settledUnit s d.toNat
    alignedTo va st 16
    if x.tag = .e2m1x32 then .error (.info .format 15) else
    let n := 2 * x.tag.width
    let (s, ps) ← allPieces s .load (rowsAt va st x.tag.perRow n)
    .ok (loadUnit s m d.toNat x .columns (n / 16) ps)

/-! ## Scales and pattern tables (R206, R211, R213) -/

/-- A piece read while its word holds issue: a fault found at the home traps (R206). -/
def readPrecise (s : State) (p : Piece) : Except Stop (State × Nat) :=
  match p.tg with
  | .scratch k off => .ok (s, (s.core k).scratch.readLE off p.n)
  | .phys pa leaf =>
    match (s.earlierLoads s.focus pa p.n).readGlobal s.focus pa (leafCached leaf) p.n with
    | (s, .ok v) => .ok (s.bump, v)
    | (s, .error c) => during s (.error (.at_ c p.va 0))

/-- Pieces read and looked at one after another. -/
def readEach (s : State) (check : Nat → Except Stop Nat) : List Piece → Except Stop (State × List Nat)
  | [] => .ok (s, [])
  | p :: l => do
    let (s, v) ← readPrecise s p
    let x ← during s (check v)
    let (s, xs) ← during s (readEach s check l)
    .ok (s, x :: xs)

/-- The pieces in their order, as R211 lists them. Another slot or an engine may write between two of them
(R300): the word may hold issue once, with some pieces read; how many, is open. -/
def readInOrder (s : State) (check : Nat → Except Stop Nat) (ps : List Piece) :
    Except Stop (State × List Nat) :=
  match s.me.seen with
  | some l => do
    let got := l.map (·.2.2)
    let (s, xs) ← readEach s check (ps.drop got.length)
    .ok (s, got ++ xs)
  | none =>
    if Config.flag s.free 0x411 then do
      let (s, xs) ← readEach s check (ps.take (Config.choice s.free 0x412 % ps.length + 1))
      let l := xs.mapIdx fun r x => (0x8000 + r, 0, x)
      .error (.became (s.modMe fun x => { x with seen := some l, slow := true }))
    else readEach s check ps

/-- The scales of a row of an E2M1 slot: pairs must agree (R211). -/
def halveScales (v : Nat) : Except Stop Nat :=
  let l := lanesOf 8 16 v
  if evens l = odds l then .ok (packLanes 8 (evens l)) else .error (.info .format 11)

/-- A load in progress no longer brings scales. -/
def MUnit.setScales (x : MUnit) (sc : List Nat) : MUnit :=
  { x with
      scales := Vector.ofFn fun i => BitVec.ofNat 64 (sc.getD i.val 0)
      load := x.load.map fun l => match l.kind with
        | .indices t _ => { l with kind := .indices t false }
        | _ => l }

/-- MLOADSC (R211). -/
def execMloadsc (m : Bool) (d a b : Reg) (s : State) : Host.Outcome State Fault Refusal :=
  issue {} s fun s => do
    touch s [a, b]
    let va ← srcInt s a
    let st ← srcInt s b
    let x ← heldUnit s d.toNat
    if !x.scaled then .error (.info .format 16) else
    let n := if x.tag = .e2m1x32 then 16 else 8
    alignedTo va st n
    let (s, ps) ← allPieces s .load (rowsAt va st 16 n)
    let check (v : Nat) : Except Stop Nat := if x.tag = .e2m1x32 then halveScales v else .ok v
    let (s, sc) ← during s (readInOrder s check ps.flatten)
    .ok ((s.setUnit d.toNat ((s.munit d.toNat).setScales sc)).retire m)

/-! ## SLC8 (R212, R213) -/

/-- MDEC (R212). A slot that the issuer does not hold traps before the other checks (DESIGN CHOICE, log 75). -/
def execMdec (m : Bool) (d a b : Reg) (s : State) : Host.Outcome State Fault Refusal :=
  issue {} s fun s => do
    touch s [a, b]
    let va ← srcInt s a
    let vb ← srcInt s b
    let x ← heldUnit s d.toNat
    if x.tag ≠ .e4m3x16 ∨ !x.scaled then .error (.info .format 17) else
    if va.toNat % 64 ≠ 0 then .error (.at_ .misalign va 0) else
    if vb.toNat % 16 ≠ 0 then .error (.at_ .misalign vb 0) else
    let x ← settledUnit s d.toNat
    let (s, ps) ← allPieces s .load [(va, 1024), (vb, 16)]
    .ok (loadUnit s m d.toNat x (.indices s.myCore.pattern true) 4 ps)

/-- MTBL (R213). -/
def execMtbl (m : Bool) (a : Reg) (s : State) : Host.Outcome State Fault Refusal :=
  issue {} s fun s => do
    touch s [a]
    if a = 0 then .ok ((s.modMyCore fun k => { k with pattern := none }).retire m) else
    let va ← srcInt s a
    if va.toNat % 64 ≠ 0 then .error (.at_ .misalign va 0) else
    let (s, ps) ← allPieces s .load [(va, 512)]
    let (s, l) ← during s (readInOrder s .ok ps.flatten)
    let v := packLanes 128 l
    let t := Vector.ofFn fun i : Fin 512 => BitVec.ofNat 8 (v / 256 ^ i.val)
    .ok ((s.modMyCore fun k => { k with pattern := some t }).retire m)

/-! ## Zeroing, storing, state (R214 to R217) -/

/-- MZERO (R203, R214). -/
def execMzero (m : Bool) (d : Reg) (s : State) : Host.Outcome State Fault Refusal :=
  issue {} s fun s => do
    let u := d.toNat
    tileHazard s u
    if 4 ≤ u then
      let x ← heldUnit s u
      .ok ((s.setUnit u { x with rows := zeroRows }).retire m)
    else
      let x ← settledUnit s u
      let x := { x with state := .ready, poison := none, rows := zeroRows, scales := unitScales }
      .ok ((s.setUnit u x).retire m)

/-- The sixteen elements of a row of a tile. -/
def MUnit.tileRow (x : MUnit) (i : Nat) : List Nat := lanesOf 32 16 (vget x.rows 0 i).toNat

/-- The formats MSTORE delivers from a tile (R215). -/
def tileFormats (t : Tag) : List Tag :=
  if t = .f32x4 then [.f32x4, .f16x8, .bf16x8, .e4m3x16, .e5m2x16]
  else [.i32x4, .i16x8, .i8x16, .b8x16]

/-- An element of a tile converted (R215). To its own format it is copied, with no flush and no flag (DESIGN CHOICE,
log 74). -/
def tileLane (c : Ctx) (src dst : Tag) (x : Nat) : Lane :=
  if src = dst then ⟨x, 0⟩ else cvtLane c src dst x

/-- Store rows, piece by piece, as relaxed stores (R206). -/
def storePieces (s : State) : List Piece → Nat → Except Stop State
  | [], _ => .ok s
  | p :: l, v => do
    let s ← match p.tg with
      | .scratch _ off => .ok (s.writeTorn .other [(off, p.n, v % 2 ^ (8 * p.n))])
      | .phys pa leaf => storeGlobal s pa leaf p.va p.n (v % 2 ^ (8 * p.n))
    storePieces s l (v / 2 ^ (8 * p.n))
def storeRows (s : State) : List (List Piece) → List Nat → Except Stop State
  | p :: ps, v :: vs => do
    let s ← storePieces s p v
    storeRows s ps vs
  | _, _ => .ok s

/-- MSTORE (R215). -/
def execMstore (m : Bool) (d a b : Reg) (s : State) : Host.Outcome State Fault Refusal :=
  issue { takesArith with fmt := true } s fun s => do
    touch s [a, b]
    tileHazard s d.toNat
    let va ← srcInt s a
    let st ← srcInt s b
    let x ← heldUnit s d.toNat
    alignedTo va st 16
    let f := modFmt (modOf s.me.hints)
    let dst := if f = 0 then x.tag else (Tag.ofCode f).getD .raw
    if !(tileFormats x.tag).contains dst then .error (.info .format 13) else
    let ls := (List.range 16).map fun i => (x.tileRow i).map (tileLane s.ctx x.tag dst)
    let (s, ps) ← allPieces s .store (rowsAt va st 16 (2 * dst.width))
    let s ← storeRows s ps (ls.map fun l => packLanes dst.width (lanesBits l))
    .ok ((s.accrue s.focus (lanesFlags ls.flatten)).retire m)

/-- MSTOREB (R216). -/
def execMstoreb (m : Bool) (d a b : Reg) (s : State) : Host.Outcome State Fault Refusal :=
  issue takesArith s fun s => do
    touch s [b]
    tileHazard s a.toNat
    let c ← srcInt s b
    let t ← heldUnit s a.toNat
    let x ← settledUnit s d.toNat
    match x.poison with
    | some e => .error (.plain (.ofCode e))
    | none =>
      let c := c.toNat
      if c % 16 ≠ 0 ∨ x.tag.perRow ≤ c then .error (.info .format 14)
      else if (t.tag == .i32x4) != (x.tag == .i8x16) then .error (.info .format 13)
      else
        let w := x.tag.width
        let ls := (List.range 16).map fun i => (t.tileRow i).map (cvtLane s.ctx t.tag x.tag)
        let row (i : Nat) : Nat :=
          let old := lanesOf w x.tag.perRow (vget x.rows 0 i).toNat
          packLanes w (old.take c ++ lanesBits (ls.getD i []) ++ old.drop (c + 16))
        let x := { x with state := .loading, rows := rowsOf row, pend := [lanesFlags ls.flatten] }
        .ok ((s.setUnit d.toNat x).retire m)

/-- MSTATE (R217). -/
def execMstate (m : Bool) (d a : Reg) (s : State) : Host.Outcome State Fault Refusal :=
  issue {} s fun s => do
    touch s [d]
    let w : Word := (s.munit a.toNat).snapshot.setWidth 64
    .ok ((s.wr d (.int w) .none .var).retire m)

/-! ## Products (R160, R218, R219) -/

/-- Whether a pair of slots multiplies, and as integers (R218). -/
def pairKind (x y : MUnit) : Option Bool :=
  let fp8 (t : Tag) : Bool := t == .e4m3x16 || t == .e5m2x16
  if x.tag = .i8x16 ∧ y.tag = .i8x16 ∧ x.scaled = y.scaled then some !x.scaled
  else if (x.tag = .bf16x8 ∧ y.tag = .bf16x8) ∨ (x.tag = .e2m1x32 ∧ y.tag = .e2m1x32)
      ∨ (fp8 x.tag ∧ fp8 y.tag) then some false
  else none

/-- The elements of a row. -/
def MUnit.elements (x : MUnit) (r : Nat) : List Nat :=
  lanesOf x.tag.width x.tag.perRow (vget x.rows 0 r).toNat

/-- An element as a value: MXINT8 in a scaled I8 slot (R202). -/
def MUnit.num (x : MUnit) (v : Nat) : Num :=
  match x.tag.fmt with
  | some f => f.decode v
  | none =>
    let n := laneInt .i8x16 v
    .fin (decide (n < 0)) n.natAbs (if x.scaled then -6 else 0)

/-- The scale code that covers sub-block `kb` of row `r`; 1.0 in an unscaled slot (R202). -/
def MUnit.scaleAt (x : MUnit) (r kb : Nat) : Nat :=
  if x.scaled then
    (vget x.scales 0 r).toNat / 256 ^ (if x.tag = .e2m1x32 then kb / 2 else kb) % 256
  else 127

/-- The flags an MMA accrues (R219). -/
def mmaFlags (f : Flags5) : Flags5 := f &&& (flNV ||| flOF ||| flNX)

/-- The exact sum of a sub-block, as a value with the flags met (R160). -/
def Term.value (t : Term) : Num × Flags5 :=
  let nv := nvIf (t.bad || t.snan || (t.pinf && t.ninf))
  if t.bad || t.nan || (t.pinf && t.ninf) then (.nan false, nv)
  else if t.pinf || t.ninf then (.inf t.ninf, nv)
  else (.fin (if t.sum.m = 0 then t.negZero && !t.posZero else decide (t.sum.m < 0)) t.sum.m.natAbs
    t.sum.e, nv)

/-- One sub-block added: `c` becomes fp_round(c + t, FP32, RNE) (R160; DEDUCED, log 26). -/
def mmaStep (c : Lane) (ps : List (Num × Num)) (ea eb : Nat) : Lane :=
  let (t, fl) := (ps.foldl (fun t p => t.addMul p.1 p.2) Term.empty).value
  let t := if ea = 0xFF ∨ eb = 0xFF then Num.nan false else t.scale ((ea : Int) + eb - 254)
  let x := fp32.decode c.bits
  let r := (fp32.nanOf [x, t]).getD (fp32.addNum ⟨.rne, false, false⟩ x t)
  ⟨r.bits, c.fl ||| mmaFlags (fl ||| r.fl)⟩

/-- One element of a float product (R160). -/
def mmaFloat (x y : MUnit) (i j c : Nat) : Lane :=
  let ps := ((x.elements i).map x.num).zip ((y.elements j).map y.num)
  (List.range (x.tag.perRow / 32)).foldl (fun c kb =>
    mmaStep c ((ps.drop (32 * kb)).take 32) (x.scaleAt i kb) (y.scaleAt j kb)) ⟨c, 0⟩

/-- One element of an integer product (R160). -/
def mmaInt (x y : MUnit) (i j c : Nat) : Lane :=
  let n := (((x.elements i).map (laneInt .i8x16)).zip ((y.elements j).map (laneInt .i8x16))).foldl
    (fun n p => n + p.1 * p.2) (laneInt .i32x4 c)
  ⟨wrapLane 32 n, 0⟩

/-- The new rows of a tile, each with its flags. -/
def product (int : Bool) (x y : MUnit) (c : Nat → List Nat) : List (List Lane) :=
  (List.range 16).map fun i => (c i).mapIdx fun j e =>
    if int then mmaInt x y i j e else mmaFloat x y i j e

/-- MMA and MMAZ (R219). A unit that an earlier MMA still occupies holds issue (R114, R205). -/
def mma (zero : Bool) (m : Bool) (c x y : Reg) (s : State) : Host.Outcome State Fault Refusal :=
  issue {} s fun s => do
    let u := 4 + c.toNat
    let t ← heldUnit s u
    let a ← heldUnit s x.toNat
    let b ← heldUnit s y.toNat
    if a.state ≠ .ready then slotState x.toNat else
    if b.state ≠ .ready then slotState y.toNat else
    match a.poison <|> b.poison, pairKind a b with
    | some e, _ => .error (.plain (.ofCode e))
    | none, none => .error (.info .format 12)
    | none, some int =>
      let tag : Tag := if int then .i32x4 else .f32x4
      if !zero && t.tag != tag then .error (.info .format 13)
      else if s.myDie.dcyc < s.myCore.matUntil then .error .hold
      else
        let old (i : Nat) : List Nat := if zero then List.replicate 16 0 else t.tileRow i
        let ls := product int a b old
        let t := { t with tag := tag, pend := t.pend ++ [lanesFlags ls.flatten],
                          rows := rowsOf fun i => packLanes 32 (lanesBits (ls.getD i [])) }
        .ok (((s.setUnit u t).modMyCore fun k =>
          { k with mmas := k.mmas ++ [u], matUntil := s.myDie.dcyc + mmaCycles }).retire m)

def execMma (m : Bool) (c x y : Reg) := mma false m c x y
def execMmaz (m : Bool) (c x y : Reg) := mma true m c x y

/-! ## Completions (R203, R205) -/

/-- The last byte of an operand slot's load has been written (R203). -/
def execSlotLoadComplete (core u : Nat) (s : State) : Host.Outcome State Fault Refusal :=
  let x := vget (s.core core).units .reset u
  event s (x.state == .loading) fun s =>
    (s.readUnit (ownerSlot core x) u fun _ _ => true).completeUnit core u

/-- The oldest accepted MMA of a core writes its tile (R205). -/
def execMmaTileWrite (core u : Nat) (s : State) : Host.Outcome State Fault Refusal :=
  event s ((s.core core).mmas.head? == some u) (·.writeTile core)

end Sys2Proof.Machine
end

