-- ==== Sys2Proof/Machine/Scalar.lean ====
section
/-! DEFINITION. The meanings of the integer and address pipe (R119 to R127): IOP, the immediate
and field instructions, the conditional moves. `m` is the switch marker. -/

namespace Sys2Proof.Machine

/-! ## The operations of R120 on 64-bit values -/

/-- A truth value as a result. -/
def bit (b : Bool) : Word := if b then 1 else 0

/-- The shift count B[5:0] (R120). -/
def cnt (b : Word) : Nat := b.toNat % 64

/-- Bits 127:64 of the signed product (R120). -/
def mulh (a b : Word) : Word :=
  ((a.signExtend 128 * b.signExtend 128).extractLsb' 64 64)

/-- Bits 127:64 of the unsigned product (R120). -/
def mulhu (a b : Word) : Word :=
  ((a.setWidth 128 * b.setWidth 128).extractLsb' 64 64)

/-- The divisions of R121, rounding toward zero. -/
def divS (a b : Word) : Word :=
  if b = 0 then BitVec.allOnes 64 else BitVec.ofInt 64 (a.toInt.tdiv b.toInt)
def divU (a b : Word) : Word :=
  if b = 0 then BitVec.allOnes 64 else BitVec.ofNat 64 (a.toNat / b.toNat)
def remS (a b : Word) : Word :=
  if b = 0 then a else BitVec.ofInt 64 (a.toInt.tmod b.toInt)
def remU (a b : Word) : Word :=
  if b = 0 then a else BitVec.ofNat 64 (a.toNat % b.toNat)

/-- Leading zero bits among the low `n` (R120). -/
def clzFrom (a : Word) : Nat → Nat
  | 0 => 0
  | n + 1 => if a.getLsbD n then 0 else clzFrom a n + 1

/-- Trailing zero bits, looking at `n` more bits from bit `i` (R120). -/
def ctzFrom (a : Word) (i : Nat) : Nat → Nat
  | 0 => 0
  | n + 1 => if a.getLsbD i then 0 else ctzFrom a (i + 1) n + 1

/-- One bits among the low `n` (R120). -/
def popFrom (a : Word) : Nat → Nat
  | 0 => 0
  | n + 1 => (if a.getLsbD n then 1 else 0) + popFrom a n

/-- The eight bytes in reverse order (R120). -/
def bswap (a : Word) : Word :=
  a.extractLsb' 0 8 ++ a.extractLsb' 8 8 ++ a.extractLsb' 16 8 ++ a.extractLsb' 24 8
    ++ a.extractLsb' 32 8 ++ a.extractLsb' 40 8 ++ a.extractLsb' 48 8 ++ a.extractLsb' 56 8

/-- The low `n` bits, sign-extended (R120). -/
def sextLow (n : Nat) (a : Word) : Word := (a.setWidth n).signExtend 64

/-- |s(a) - s(b)| computed exactly (R120). -/
def absd (a b : Word) : Word := BitVec.ofNat 64 (a.toInt - b.toInt).natAbs

/-- Signed and unsigned selection (R120). -/
def minS (a b : Word) : Word := if b.slt a then b else a
def maxS (a b : Word) : Word := if a.slt b then b else a
def minU (a b : Word) : Word := if b.ult a then b else a
def maxU (a b : Word) : Word := if a.ult b then b else a

/-! ## IOP (R120, R121) -/

def execAdd (m : Bool) (d a b : Reg) := intOp2 m d a b (.fixed 1) (· + ·)
def execSub (m : Bool) (d a b : Reg) := intOp2 m d a b (.fixed 1) (· - ·)
def execMul (m : Bool) (d a b : Reg) := intOp2 m d a b (.fixed 3) (· * ·)
def execMulh (m : Bool) (d a b : Reg) := intOp2 m d a b (.fixed 3) mulh
def execMulhu (m : Bool) (d a b : Reg) := intOp2 m d a b (.fixed 3) mulhu
/-- The divisions take the core's divider, and hold issue while it is in use (R114); for how long one uses it
is open (R113; DESIGN CHOICE, log 8). -/
def divOp (m : Bool) (d a b : Reg) (f : Word → Word → Word) (s : State) : Host.Outcome State Fault Refusal :=
  issue {} s fun s => do
    touch s [a, b, d]
    let x ← srcInt s a
    let y ← srcInt s b
    let now := s.myDie.dcyc
    if now < s.myCore.divUntil then .error .hold
    else
      let s := s.modMyCore fun k => { k with divUntil := now + Config.word s.free 0x240 % 128 }
      .ok ((s.wr d (.int (f x y)) .l0 .var).retire m)

def execDiv (m : Bool) (d a b : Reg) := divOp m d a b divS
def execDivu (m : Bool) (d a b : Reg) := divOp m d a b divU
def execRem (m : Bool) (d a b : Reg) := divOp m d a b remS
def execRemu (m : Bool) (d a b : Reg) := divOp m d a b remU
def execAnd (m : Bool) (d a b : Reg) := intOp2 m d a b (.fixed 1) (· &&& ·)
def execOr (m : Bool) (d a b : Reg) := intOp2 m d a b (.fixed 1) (· ||| ·)
def execXor (m : Bool) (d a b : Reg) := intOp2 m d a b (.fixed 1) (· ^^^ ·)
def execAndn (m : Bool) (d a b : Reg) := intOp2 m d a b (.fixed 1) fun x y => x &&& ~~~y
def execOrn (m : Bool) (d a b : Reg) := intOp2 m d a b (.fixed 1) fun x y => x ||| ~~~y
def execShl (m : Bool) (d a b : Reg) := intOp2 m d a b (.fixed 1) fun x y => x <<< cnt y
def execShr (m : Bool) (d a b : Reg) := intOp2 m d a b (.fixed 1) fun x y => x >>> cnt y
def execSar (m : Bool) (d a b : Reg) := intOp2 m d a b (.fixed 1) fun x y => x.sshiftRight (cnt y)
def execRotl (m : Bool) (d a b : Reg) := intOp2 m d a b (.fixed 1) fun x y => x.rotateLeft (cnt y)
def execRotr (m : Bool) (d a b : Reg) := intOp2 m d a b (.fixed 1) fun x y => x.rotateRight (cnt y)
def execMin (m : Bool) (d a b : Reg) := intOp2 m d a b (.fixed 1) minS
def execMax (m : Bool) (d a b : Reg) := intOp2 m d a b (.fixed 1) maxS
def execMinu (m : Bool) (d a b : Reg) := intOp2 m d a b (.fixed 1) minU
def execMaxu (m : Bool) (d a b : Reg) := intOp2 m d a b (.fixed 1) maxU
def execSlt (m : Bool) (d a b : Reg) := intOp2 m d a b (.fixed 1) fun x y => bit (x.slt y)
def execSltu (m : Bool) (d a b : Reg) := intOp2 m d a b (.fixed 1) fun x y => bit (x.ult y)
def execSeq (m : Bool) (d a b : Reg) := intOp2 m d a b (.fixed 1) fun x y => bit (x == y)
def execSne (m : Bool) (d a b : Reg) := intOp2 m d a b (.fixed 1) fun x y => bit (x != y)
def execClz (m : Bool) (d a : Reg) := intOp1 m d a fun x => BitVec.ofNat 64 (clzFrom x 64)
def execCtz (m : Bool) (d a : Reg) := intOp1 m d a fun x => BitVec.ofNat 64 (ctzFrom x 0 64)
def execPopc (m : Bool) (d a : Reg) := intOp1 m d a fun x => BitVec.ofNat 64 (popFrom x 64)
def execBswap (m : Bool) (d a : Reg) := intOp1 m d a bswap
def execSextb (m : Bool) (d a : Reg) := intOp1 m d a (sextLow 8)
def execSexth (m : Bool) (d a : Reg) := intOp1 m d a (sextLow 16)
def execSextw (m : Bool) (d a : Reg) := intOp1 m d a (sextLow 32)
def execZextw (m : Bool) (d a : Reg) := intOp1 m d a fun x => (x.setWidth 32).setWidth 64
def execAddw (m : Bool) (d a b : Reg) :=
  intOp2 m d a b (.fixed 1) fun x y => sextLow 32 (x + y)
def execSubw (m : Bool) (d a b : Reg) :=
  intOp2 m d a b (.fixed 1) fun x y => sextLow 32 (x - y)
def execMulw (m : Bool) (d a b : Reg) :=
  intOp2 m d a b (.fixed 3) fun x y => sextLow 32 (x * y)
def execAdds1 (m : Bool) (d a b : Reg) := intOp2 m d a b (.fixed 1) fun x y => x + y <<< 1
def execAdds2 (m : Bool) (d a b : Reg) := intOp2 m d a b (.fixed 1) fun x y => x + y <<< 2
def execAdds3 (m : Bool) (d a b : Reg) := intOp2 m d a b (.fixed 1) fun x y => x + y <<< 3
def execAbsd (m : Bool) (d a b : Reg) := intOp2 m d a b (.fixed 1) absd

/-- MOV copies all 128 bits and the tag, and takes every tag (R122). -/
def execMov (m : Bool) (d a : Reg) (s : State) : Host.Outcome State Fault Refusal :=
  issue {} s fun s => do
    touch s [a, d]
    .ok ((s.wr d (s.me.read a) .l0 (.fixed 1)).retire m)

/-! ## Immediates and fields (R123 to R126) -/

def execAddi (m : Bool) (d a : Reg) (i : BitVec 13) := intImm true m d a i (· + ·)
def execAndi (m : Bool) (d a : Reg) (i : BitVec 13) := intImm true m d a i (· &&& ·)
def execOri (m : Bool) (d a : Reg) (i : BitVec 13) := intImm true m d a i (· ||| ·)
def execXori (m : Bool) (d a : Reg) (i : BitVec 13) := intImm true m d a i (· ^^^ ·)
def execSlti (m : Bool) (d a : Reg) (i : BitVec 13) :=
  intImm true m d a i fun x y => bit (x.slt y)
def execSltiu (m : Bool) (d a : Reg) (i : BitVec 13) :=
  intImm true m d a i fun x y => bit (x.ult y)
def execShli (m : Bool) (d a : Reg) (n : BitVec 6) :=
  intImm false m d a n fun x y => x <<< cnt y
def execShri (m : Bool) (d a : Reg) (n : BitVec 6) :=
  intImm false m d a n fun x y => x >>> cnt y
def execSari (m : Bool) (d a : Reg) (n : BitVec 6) :=
  intImm false m d a n fun x y => x.sshiftRight (cnt y)
def execRotli (m : Bool) (d a : Reg) (n : BitVec 6) :=
  intImm false m d a n fun x y => x.rotateLeft (cnt y)

/-- LIMM (R125). -/
def execLimm (m : Bool) (d : Reg) (i : BitVec 19) (s : State) :
    Host.Outcome State Fault Refusal :=
  issue { imm := true } s fun s => do
    touch s [d]
    .ok ((s.wr d (.int (immOf s.me.hints i)) .l0 (.fixed 1)).retire m)

/-- ADDPC: PC is the address of the word itself (R125). -/
def execAddpc (m : Bool) (d : Reg) (i : BitVec 19) (s : State) :
    Host.Outcome State Fault Refusal :=
  issue { imm := true } s fun s => do
    touch s [d]
    .ok ((s.wr d (.int (s.me.pc + immOf s.me.hints i * 4)) .l0 (.fixed 1)).retire m)

/-- The field of `l + 1` bits from bit `p` (R126). -/
def fieldMask (l : BitVec 6) : Word := BitVec.allOnes 64 >>> (63 - l.toNat)

/-- EXTR (R126). -/
def extr (p l : BitVec 6) (a : Word) : Word := (a >>> p.toNat) &&& fieldMask l

/-- EXTRS: the field's top bit is copied upward (R126). -/
def extrs (p l : BitVec 6) (a : Word) : Word :=
  ((a >>> p.toNat) <<< (63 - l.toNat)).sshiftRight (63 - l.toNat)

/-- INS: bits of the old destination replaced (R126). -/
def ins (p l : BitVec 6) (old a : Word) : Word :=
  (old &&& ~~~(fieldMask l <<< p.toNat)) ||| ((a &&& fieldMask l) <<< p.toNat)

def execExtr (m : Bool) (d a : Reg) (p l : BitVec 6) := intOp1 m d a (extr p l)
def execExtrs (m : Bool) (d a : Reg) (p l : BitVec 6) := intOp1 m d a (extrs p l)
def execIns (m : Bool) (d a : Reg) (p l : BitVec 6) :=
  intOp3 m d a a fun old x _ => ins p l old x

/-! ## Conditional moves (R127) -/

/-- `a` when the test on `b` holds, else the old destination. -/
def movc (test : Word → Bool) (old a b : Word) : Word := if test b then a else old

def execMoveqz (m : Bool) (d a b : Reg) := intOp3 m d a b (movc fun b => b == 0)
def execMovnez (m : Bool) (d a b : Reg) := intOp3 m d a b (movc fun b => b != 0)
def execMovltz (m : Bool) (d a b : Reg) := intOp3 m d a b (movc fun b => b.slt 0)
def execMovgez (m : Bool) (d a b : Reg) := intOp3 m d a b (movc fun b => !b.slt 0)
def execMovgtz (m : Bool) (d a b : Reg) := intOp3 m d a b (movc fun b => (0 : Word).slt b)
def execMovlez (m : Bool) (d a b : Reg) := intOp3 m d a b (movc fun b => !(0 : Word).slt b)

end Sys2Proof.Machine
end

