-- ==== Sys2Proof/Machine/Mapping.lean ====
section
/-! DEFINITION. How the service reads, writes and maps the pages of an address space (R413, R414). -/

namespace Sys2Proof.Machine

/-! ## Mapped ranges -/

/-- The service's view of a range of an address space, page by page: the physical parts, or none
where a page is not mapped or not readable, or not writable (R413). Aged blocks take no plain
write (R318). DEDUCED, log 44. -/
def State.parts (s : State) (root : BitVec 40) (write : Bool) (va n : Nat) :
    Nat → Option (List (Nat × Nat))
  | 0 => if n = 0 then some [] else none
  | fuel + 1 =>
    if n = 0 then some []
    else if va < 0x8000 ∨ 2 ^ 54 ≤ va then none
    else
      match s.walk root va with
      | .leaf _ e large =>
        if (if write then pteW e && !pteAged e else pteR e) then
          let k := min n (65536 - va % 65536)
          (s.parts root write (va + k) (n - k) fuel).map fun l => (leafPa e large va, k) :: l
        else none
      | _ => none

/-- The parts of a whole range. -/
def State.range (s : State) (root : BitVec 40) (write : Bool) (va : Word) (n : Nat) :
    Option (List (Nat × Nat)) :=
  s.parts root write va.toNat n (n / 65536 + 2)

/-- The bytes of a range. -/
def State.svcRead (s : State) (root : BitVec 40) (va : Word) (n : Nat) : Option (List Byte) :=
  (s.range root false va n).map fun l => l.flatMap fun p => s.mem.readBytes p.1 p.2

/-- Write bytes over the parts of a range. -/
def State.putParts (s : State) : List (Nat × Nat) → List Byte → State
  | [], _ => s
  | (pa, k) :: l, b =>
    let s := s.unpoison pa k
    State.putParts { s with mem := s.mem.writeBytes pa (b.take k) } l (b.drop k)

/-- Bytes as a little-endian number. -/
def bytesNat : List Byte → Nat
  | [] => 0
  | b :: l => b.toNat + 256 * bytesNat l

/-- A number of `n` bytes in an address space. -/
def State.svcNat (s : State) (root : BitVec 40) (va : Word) (n : Nat) : Option Nat :=
  (s.svcRead root va n).map bytesNat

/-! ## Mapping (R414) -/

/-- The service takes a free frame, with zero data, ages 0 and every full-empty bit empty (R241,
R318). DESIGN CHOICE, log 37. -/
def State.takeFrame (s : State) : Option (State × Nat) :=
  match s.frames with
  | [] => none
  | f :: fs =>
    let a := s.physOf f
    let out (k : Nat) (x : Nat) : Bool := !(decide (a / k ≤ x) && decide (x < (a + 65536) / k))
    some ({ s with
      frames := fs
      mem := s.mem.filter fun e => out 1 e.1
      full := s.full.filter (out 8)
      poison := s.poison.filter (out 8)
      bad := s.bad.filter (out 8)
      ages := s.ages.filter fun e => out 256 e.1
      regs := s.regs.filter fun e => out 65536 e.1 }, a)

/-- The table an entry points to, made when the entry is not valid. -/
def State.tableAt (s : State) (a : Nat) : Option (State × Nat) :=
  let e := BitVec.ofNat 64 (s.mem.readLE a 8)
  if pteV e then if pteLeaf e then none else some (s, ptePpn e)
  else
    s.takeFrame.map fun p => ({ p.1 with mem := p.1.mem.writeLE a 8 (p.2 + 1) }, p.2)

/-- Map one 64 KiB page that is not mapped, with PTE bits 11:0, onto a fresh frame. -/
def State.mapPage (s : State) (root : BitVec 40) (va : Nat) (bits : BitVec 12) :
    Option (State × Nat) := do
  let (s, t) ← s.tableAt (root.toNat * 65536 + 8 * (va / 2 ^ 42 % 4096))
  let (s, t) ← s.tableAt (t + 8 * (va / 2 ^ 29 % 8192))
  let a := t + 8 * (va / 2 ^ 16 % 8192)
  if s.mem.readLE a 8 % 2 = 1 then none
  else do
    let (s, f) ← s.takeFrame
    some ({ s with mem := s.mem.writeLE a 8 (f + bits.toNat) }, f)

/-- Map `n` pages from `va` up. -/
def State.mapPages (s : State) (root : BitVec 40) (bits : BitVec 12) (va : Nat) : Nat → Option State
  | 0 => some s
  | n + 1 => do
    let (s, _) ← s.mapPage root va bits
    s.mapPages root bits (va + 65536) n

/-- Unmap `n` pages from `va` up; their frames are free again. A page that is not mapped stays so,
and one inside a large leaf refuses the range. -/
def State.unmapPages (s : State) (root : BitVec 40) (va : Nat) : Nat → Option State
  | 0 => some s
  | n + 1 =>
    match s.walk root va with
    | .leaf a e large =>
      if large then none
      else
        let s := { s with mem := s.mem.writeLE a 8 0 }
        let s := if s.remote (ptePpn e) then s
          else { s with frames := s.frames ++ [localOf (ptePpn e)] }
        s.unmapPages root (va + 65536) n
    | _ => s.unmapPages root (va + 65536) n

end Sys2Proof.Machine
end

