-- ==== Sys2Proof/Machine/Loader.lean ====
section
/-! DEFINITION. The image loader of the service: relocations (R272), and the placing of an object's
sections before a launch's first push (R270). -/

namespace Sys2Proof.Machine

/-! ## Relocations (R272) -/

/-- The `n` bits of a number from bit `lo` on become the low bits of `v`. -/
def putField (w lo n v : Nat) : Nat := w - w / 2 ^ lo % 2 ^ n * 2 ^ lo + v % 2 ^ n * 2 ^ lo

/-- Rewrite the `n` bytes of a section at an offset, as a little-endian number; none where they lie
outside the section. -/
def patch (b : List Byte) (at_ n : Nat) (f : Nat → Nat) : Option (List Byte) :=
  if at_ + n ≤ b.length then
    let v := f (bytesNat ((b.drop at_).take n))
    some (b.take at_ ++ (natBytes v n).map (BitVec.ofNat 8) ++ b.drop (at_ + n))
  else none

/-- Split a value over two HIMM words and a field of the main word, the most significant part first. The
three words stand one after the other (DEDUCED, log 68). -/
def patchGroup (b : List Byte) (at_ lo n : Nat) (v : Nat) : Option (List Byte) := do
  let b ← patch b at_ 4 fun w => putField w 0 22 (v / 2 ^ (n + 22))
  let b ← patch b (at_ + 4) 4 fun w => putField w 0 22 (v / 2 ^ n)
  patch b (at_ + 8) 4 fun w => putField w lo n v

/-- A byte offset divided by `n`, as `k` bits sign-extended hold it; none where it is no multiple or does
not fit. -/
def scaledOffset (v : Word) (n k : Nat) : Option Nat :=
  let x := v.toInt
  if n = 0 ∨ x % n ≠ 0 ∨ x / n < -2 ^ (k - 1) ∨ 2 ^ (k - 1) ≤ x / n then none
  else some (BitVec.ofInt k (x / n)).toNat

/-- The load address of a section. -/
def Object.base (o : Object) (x : Section_) : Word :=
  match x with
  | .text => o.textAt
  | .data => o.dataAt
  | .scratch => 0

/-- The bytes of a section. -/
def Object.bytes (o : Object) (x : Section_) : List Byte :=
  match x with
  | .text => o.text
  | .data => o.data
  | .scratch => o.scratch

/-- An object with other bytes in a section. -/
def Object.withBytes (o : Object) (x : Section_) (b : List Byte) : Object :=
  match x with
  | .text => { o with text := b }
  | .data => { o with data := b }
  | .scratch => { o with scratch := b }

/-- Apply a relocation (R272); none where the loader refuses the object. A PC63 value is divided by 4 as
an ADDPC takes it, towards the lower number (DEDUCED, log 68). -/
def Object.reloc (o : Object) (r : Reloc) : Option Object :=
  let b := o.bytes r.place
  let v := o.base r.symbol + BitVec.ofNat 64 r.offset + r.addend
  (match r.kind with
    | .abs64 => patch b r.at_ 8 fun _ => v.toNat
    | .ent54 => if v.toNat % 4 ≠ 0 then none else patch b r.at_ 8 fun w => putField w 0 54 v.toNat
    | .imm57 => patchGroup b r.at_ 0 13 v.toNat
    | .off54 n => (scaledOffset v n 54).bind (patchGroup b r.at_ 3 10)
    | .off50 n => (scaledOffset v n 50).bind (patchGroup b r.at_ 7 6)
    | .off52 => (scaledOffset v 16 52).bind (patchGroup b r.at_ 0 8)
    | .imm63 => patchGroup b r.at_ 0 19 v.toNat
    | .pc63 =>
      let p := o.base r.place + BitVec.ofNat 64 (r.at_ + 8)
      patchGroup b r.at_ 0 19 ((v - p).sshiftRight 2).toNat).map (o.withBytes r.place)

/-- Text and data stand on 64 KiB boundaries (R270). -/
def Object.aligned (o : Object) : Bool :=
  (o.text.isEmpty || o.textAt.extractLsb' 0 16 == 0) && (o.data.isEmpty || o.dataAt.extractLsb' 0 16 == 0)

/-- An object with every relocation applied; none where the loader refuses it. -/
def Object.linked (o : Object) : Option Object := if o.aligned then o.relocs.foldlM Object.reloc o else none

/-! ## Loading (R270) -/

/-- PTE bits 11:0 of a page of text, and of one of data (R270): V, R, X and U, and V, R, W and U. -/
def textBits : BitVec 12 := 0x01B
def dataBits : BitVec 12 := 0x017

/-- The pages that a section covers. -/
def sectionPages (va : Word) (b : List Byte) : Nat :=
  if b.isEmpty then 0 else (va.toNat % 65536 + b.length + 65535) / 65536

/-- Of `n` pages, those that are mapped admit what a section asks (R270). -/
def State.pagesFit (s : State) (root : BitVec 40) (bits : BitVec 12) (va : Word) (n : Nat) : Bool :=
  (List.range n).all fun i =>
    match s.walk root (va.toNat / 65536 * 65536 + 65536 * i) with
    | .leaf _ e _ => e.setWidth 12 &&& bits == bits && !pteAged e
    | _ => true

/-- The pages of an object that are mapped already are X pages, or R, W pages (R270); where they are not, the
loader refuses it (DESIGN CHOICE, log 68). -/
def State.objectFits (s : State) (root : BitVec 40) (o : Object) : Bool :=
  o.loaded || (s.pagesFit root textBits o.textAt (sectionPages o.textAt o.text)
    && s.pagesFit root dataBits o.dataAt (sectionPages o.dataAt o.data))

/-- Map the pages of a section that are not mapped: none where a frame is wanting. -/
def State.mapMissing (s : State) (root : BitVec 40) (bits : BitVec 12) (va : Nat) : Nat → Option State
  | 0 => some s
  | n + 1 =>
    match s.walk root va with
    | .leaf .. => s.mapMissing root bits (va + 65536) n
    | _ => do
      let (s, _) ← s.mapPage root va bits
      s.mapMissing root bits (va + 65536) n

/-- The parts of a mapped section, whatever its pages admit. -/
def State.loadParts (s : State) (root : BitVec 40) (va n : Nat) : Nat → List (Nat × Nat)
  | 0 => []
  | fuel + 1 =>
    match s.walk root va with
    | .leaf _ e large =>
      let k := min n (65536 - va % 65536)
      (leafPa e large va, k) :: s.loadParts root (va + k) (n - k) fuel
    | _ => []

/-- Place a section at its load address (R270). -/
def State.loadSection (s : State) (root : BitVec 40) (bits : BitVec 12) (va : Word) (b : List Byte) :
    Option State :=
  let pages := sectionPages va b
  (s.mapMissing root bits (va.toNat / 65536 * 65536) pages).map fun s =>
    s.putParts (s.loadParts root va.toNat b.length (pages + 1)) b

/-- Pages that a request asks for are mapped (R380). -/
def State.mapAsked (s : State) (root : BitVec 40) (l : List (Word × BitVec 12)) : Option State :=
  l.foldlM (fun (s : State) e => s.mapMissing root e.2 e.1.toNat 1) s

/-- Text and data are placed once: on X pages and on R, W pages (R270); what the request asks beside, pages and
frequency steps, is done with them (R380, R391). -/
def State.loadObject (s : State) (root : BitVec 40) (o : Object) : Option State :=
  if o.loaded then some s
  else do
    let s ← s.loadSection root textBits o.textAt o.text
    let s ← s.loadSection root dataBits o.dataAt o.data
    let s ← s.mapAsked root o.pages
    some { s with schedule := s.schedule ++ o.steps }

/-- The scratchpad image of an object comes into every core of the clusters a launch admits (R270). -/
def State.loadScratch (s : State) (clusters : List Nat) (o : Object) : State :=
  if o.scratch.isEmpty then s
  else
    (clusters.flatMap fun cl => (List.range 16).map (16 * cl + ·)).foldl (fun (s : State) k =>
      s.modCore k fun c => { c with scratch := c.scratch.writeBytes 0 (o.scratch.take 0x8000) }) s

/-- The objects of a launch, linked: those of its address space (DESIGN CHOICE, log 68); none where one is refused
(R272). -/
def State.linkedObjects (s : State) (asid : BitVec 16) : Option (List Object) :=
  (s.objects.filter (·.asid == asid)).mapM Object.linked

/-- Place the text and data of a launch's objects (R270): none where a frame is wanting. -/
def State.loadObjects (s : State) (root : BitVec 40) (asid : BitVec 16) (os : List Object) : Option State :=
  (os.foldlM (fun (s : State) o => s.loadObject root o) s).map fun s =>
    { s with objects := s.objects.map fun o => if o.asid == asid then { o with loaded := true } else o }

end Sys2Proof.Machine
end

