-- ==== Sys2Proof/Machine/Service.lean ====
section
/-! DEFINITION. The resident service: SCALL and its calls (R144, R414), requests (R413), and launches
(R90, R91, R94, R420). -/

namespace Sys2Proof.Machine

/-! ## SCALL (R144) -/

/-- SCALL posts the block's address; a full request queue traps QUEUEFULL. The page of a global block is checked
as for a load of it; that the service writes there, asks for no more (DESIGN CHOICE, log 59). -/
def execScall (m : Bool) (a : Reg) (s : State) : Host.Outcome State Fault Refusal :=
  issue { eff := true } s fun s => do
    touch s [a]
    let v ← srcInt s a
    if v.extractLsb' 0 6 ≠ 0#6 then .error (.at_ .misalign v 0)
    else do
      let (s, t) ← target s v 64 .load false
      strong s
      let s ← release s scopePackage
      if s.scallCap ≤ s.scalls.length then during s (.error (.info .queueFull 8))
      else
        let x := s.me
        let c : Scall := ⟨s.targetLoc t, s.focus, x.asid, x.root, x.super, x.env.launch, x.env.of_⟩
        .ok ({ s with scalls := s.scalls ++ [c] }.retire m)

/-! ## The calls (R414) -/

/-- The words of a request block. -/
def State.callNo (s : State) (c : Scall) : Nat := s.readLoc c.block 2
def State.callArg (s : State) (c : Scall) (i : Nat) : Word :=
  BitVec.ofNat 64 (s.readLoc (c.block + BitVec.ofNat 64 (8 + 8 * i)) 8)

/-- What JOIN of a block leads to (R144). -/
inductive CallJoin where
  | none
  | gone
  | bad
  | away
  | moving
  | at (l : Word)
  deriving DecidableEq, Repr

/-- The cell at a location; one of another package is out of the service's sight. -/
def State.callCell (s : State) (l : Word) : CallJoin := if s.foreign l then .away else .at l

/-- The JOIN of a block: a name, a cell's address as R58 takes it, or none. -/
def State.callJoin (s : State) (c : Scall) : State × CallJoin :=
  let v := BitVec.ofNat 128 (s.readLoc (c.block + 32) 16)
  let w := v.setWidth 64
  if v = 0 then (s, .none)
  else if v.extractLsb' 64 64 ≠ 0#64 then
    if s.oddName v then (s, .bad)
    else match s.resolve noSector v (some clsJoin) with
    | (s, .gone) => (s, .gone)
    | (s, .remote) | (s, .unreached) => (s, .away)
    | (s, .loc l) => (s, s.callCell l)
    | (s, .moving) => (s, .moving)
  else if w.extractLsb' 0 6 ≠ 0#6 then (s, .bad)
  else if w.toNat < 0x8000 then (s, .at (mkCoreAddr s.image.pkg (coreOf c.slot) w.toNat))
  else if w.extractLsb' 62 2 = 2#2 then
    (s, if (coreAddr w).isSome then s.callCell w else .bad)
  else
    match s.walk c.root w.toNat with
    | .leaf _ e large =>
      (s, if (leafRefuses .atomic c.super e).isNone && !pteFe e && !pteDet e
        then .at (BitVec.ofNat 64 (leafPa e large w.toNat)) else .bad)
    | _ => (s, .bad)

/-- The service's store to a place that is not in a closed core (R107). -/
def State.svcWrite (s : State) (l : Word) (n v : Nat) : State :=
  if s.closed l then s else s.writeLoc l n v

/-- The service answers a request: RESULT, then STATUS with DONE, then the decrement (R144). In a closed
core none of them is performed, and the decrement goes to the error queue (R107). DEDUCED, log 38. -/
def State.answerCall (s : State) (c : Scall) (j : CallJoin) (code : Nat) (res : Word) : State :=
  let s := s.svcWrite (c.block + 48) 8 res.toNat
  let s := s.svcWrite (c.block + 56) 8 (2 ^ 63 + code)
  match j with
  | .at l =>
    if s.closed l then s.sendKept (locDie l) (.decrement l 1 (coreCoord noSector))
    else if (s.cellFault (.at l)).isSome then s
    else s.joinDec l 1 0 ⟨2, s.image.pkg, coreCoord noSector, s.sidereal.setWidth 40, c.asid, c.launch,
      false, c.of_⟩
  | _ => s

/-- One request with a call number that `p` takes, checked and answered; one whose JOIN name moves waits (R78).
What RESULT holds where the manual names no value is open. -/
def svcCall (p : Nat → Bool) (f : State → Scall → Word → Word → State × Nat × Option Word)
    (s : State) : Host.Outcome State Fault Refusal :=
  match s.scalls.find? fun c => p (s.callNo c) && (s.callJoin c).2 != .moving with
  | none => .refused .notEnabled
  | some c =>
    event s true fun s =>
      let open_ := Config.word s.free 0x190
      let s := { s with scalls := s.scalls.erase c }
      let (s, j) := s.callJoin c
      if s.readLoc (c.block + 2) 6 ≠ 0 ∨ s.readLoc (c.block + 24) 8 ≠ 0 then
        s.answerCall c j 2 open_
      else if j = .gone then s.answerCall c j 3 open_
      else if j = .bad then s.answerCall c j 4 open_
      else
        let (s, n, r) := f s c (s.callArg c 0) (s.callArg c 1)
        s.answerCall c j n (r.getD open_)

/-- ECHO, and the answer to a call number that no call has. -/
def execSvcEcho : State → Host.Outcome State Fault Refusal :=
  svcCall (fun n => n == 1 || n == 0 || decide (5 < n)) fun s c x _ =>
    if s.callNo c = 1 then (s, 0, some x) else (s, 1, none)

/-- The pages of a range that MAP or UNMAP names: its first page and how many, or none where it is
refused. -/
def callRange (va arg : Word) : Option (Nat × Nat) :=
  let n := (arg.extractLsb' 0 40).toNat
  if va.toNat % 65536 ≠ 0 ∨ n % 65536 ≠ 0 ∨ n = 0 ∨ 2 ^ 54 < va.toNat + n then none
  else some (va.toNat, n / 65536)

/-- MAP. A leaf no walk would accept refuses the range, as does a page that is mapped already or a
want of frames. -/
def execSvcMap : State → Host.Outcome State Fault Refusal :=
  svcCall (· == 2) fun s c va arg =>
    let bits := arg.extractLsb' 40 12
    if arg.extractLsb' 52 12 ≠ 0#12 then (s, 2, none)
    else if pteMalformed 3 (bits.setWidth 64) then (s, 4, none)
    else
      match callRange va arg with
      | none => (s, 4, none)
      | some (a, n) =>
        match s.mapPages c.root bits a n with
        | some t => (t, 0, none)
        | none => (s, 4, none)

/-- The cached translations that the TLBI of an UNMAP removes. -/
def State.unmapStruck (s : State) (c : Scall) (a n : Nat) : List TlbEntry :=
  s.struck fun t => (List.range n).any fun i =>
    tlbiHits false false c.asid (a + 65536 * i) t.base t.large (pteG t.leaf) t.asid

/-- UNMAP, and the TLBI of the pages: the accesses through them are performed first, and while one waits
at its home the service leaves the request (R364). -/
def execSvcUnmap (s : State) : Host.Outcome State Fault Refusal :=
  let waits : Bool := match s.scalls.find? fun c => s.callNo c == 3 with
    | none => false
    | some c => match callRange (s.callArg c 0) (s.callArg c 1) with
      | none => false
      | some (a, n) => s.waitsThrough (s.unmapStruck c a n)
  if waits then .refused .notEnabled
  else svcCall (· == 3) (fun s c va arg =>
    match callRange va arg with
    | none => (s, 4, none)
    | some (a, n) =>
      let s := s.settleThrough (s.unmapStruck c a n)
      match s.unmapPages c.root a n with
      | some t =>
        ((List.range n).foldl (fun (t : State) i => t.shootDown false false c.asid (a + 65536 * i)) t,
          0, none)
      | none => (s, 4, none)) s

/-! ### The end of a launch (R420) -/

/-- The stage of a core: the one that the latest launch still running gives it, or 0 (R18). Where two launches
that run name one core, that the later one's stage stands, and the earlier one's comes back at its end, is DESIGN
CHOICE, log 66. -/
def State.stageOf (s : State) (core : Nat) : BitVec 12 :=
  ((s.launches.reverse.filter (·.ended.isNone)).findSome? fun l =>
    (l.stages.find? fun e => e.1 == core).map (·.2)).getD 0

/-- A launch ends with a value: its WAIT requests are answered, its stages and their queues go, and
the cores it used take the default pattern table (R18, R94, R213, R413). -/
def State.endLaunch (s : State) (k : Nat) (v : Word) : State :=
  match s.launches[k]? with
  | none => s
  | some l =>
    let mine (w : WaitReq) : Bool := w.asid == l.asid && w.launch == l.id
    let s := { s with
      answers := s.answers ++ (s.waits.filter mine).map fun (w : WaitReq) => Answer.mk w.tag 0 v []
      waits := s.waits.filter fun w => !mine w
      launches := s.launches.set k { l with ended := some v } }
    let core (e : Nat × Core) : Nat × Core :=
      (e.1, { e.2 with
        pattern := if l.used.contains e.1 then none else e.2.pattern
        stage := if l.stages.any (·.1 == e.1) then s.stageOf e.1 else e.2.stage })
    l.queues.foldl (fun (s : State) q => s.detach q.1 q.2) { s with cores := s.cores.map core }

/-- The running launch that an address space and a LAUNCHID name. -/
def State.launchAt (s : State) (asid : BitVec 16) (id : BitVec 32) : Nat :=
  s.launches.findIdx fun l => l.asid == asid && l.id == id && l.ended.isNone

/-- DONE ends the caller's launch with ARG0. -/
def execSvcDone : State → Host.Outcome State Fault Refusal :=
  svcCall (· == 4) fun s c v _ => (s.endLaunch (s.launchAt c.of_ c.launch) v, 0, none)

/-! ### QNAME (R93) -/

/-- The QUEUE name that bring-up issues for a queue. -/
def State.queueName (s : State) (cl q : Nat) : Option Quad := (bornIndex cl q).map s.bornName

/-- Where QNAME writes: a 16-byte-aligned place that the caller may write. -/
def State.qnameAt (s : State) (c : Scall) (v : Word) : Option Word :=
  if v.toNat % 16 ≠ 0 ∨ v.extractLsb' 54 10 ≠ 0#10 then none
  else if v.toNat < 0x8000 then some (mkCoreAddr s.image.pkg (coreOf c.slot) v.toNat)
  else
    match s.walk c.root v.toNat with
    | .leaf _ e large =>
      if (leafRefuses .store c.super e).isNone
          && (!pteDet e || s.holdsDet (coreOf c.slot) c.asid v) then
        some (BitVec.ofNat 64 (leafPa e large v.toNat))
      else none
    | _ => none

/-- QNAME. -/
def execSvcQname : State → Host.Outcome State Fault Refusal :=
  svcCall (· == 5) fun s c x y =>
    match coreAddr (x &&& 0xFFFFFF0FFFFFFFFF), s.qnameAt c y with
    | some a, some l =>
      if a.pkg ≠ s.image.pkg ∨ 20 ≤ a.off ∨ (clusterNum (coreCluster a.core) = 452 ∧ 8 ≤ a.off) then
        (s, 4, none)
      else
        match s.queueName (coreCluster a.core) a.off with
        | some n => (s.svcWrite l 16 n.toNat, 0, some 0)
        | none => (s, 4, none)
    | _, _ => (s, 4, none)

/-! ## Requests over Ultra Ethernet (R413) -/

/-- The service is ready to answer (R413, R417). -/
def State.ready (s : State) : Bool :=
  s.bootstat == 0x80 && match s.update with
    | .handing _ => false
    | _ => true

/-- Send an answer. -/
def State.reply (s : State) (tag : BitVec 32) (code : BitVec 8) (v : Word) (data : List Byte) : State :=
  { s with answers := s.answers ++ [⟨tag, code, v, data⟩] }

/-- The fields of a request's header. -/
def headKind (h : BitVec 256) : BitVec 8 := h.extractLsb' 0 8
def headTag (h : BitVec 256) : BitVec 32 := h.extractLsb' 32 32
def headAsid (h : BitVec 256) : BitVec 16 := h.extractLsb' 128 16

/-- A header with nothing wrong in it before a payload of `n` bytes: a KIND, VERSION 1, the length, and zeros in
what has no name (that these are asked for is DESIGN CHOICE, log 73). -/
def headGood (h : BitVec 256) (n : Nat) : Bool :=
  decide (1 ≤ (headKind h).toNat ∧ (headKind h).toNat ≤ 4) && h.extractLsb' 8 8 == 1 && h.extractLsb' 16 16 == 0
    && (h.extractLsb' 64 64).toNat == n && h.extractLsb' 144 112 == 0

/-- The message is one that begins as a request of a kind, or it has no kind. -/
def headOf (kind : Nat) (h : BitVec 256) : Bool :=
  (headKind h).toNat == kind || decide ((headKind h).toNat = 0 ∨ 4 < (headKind h).toNat)

/-- A request in an address space: refused while the service is not ready, where its header is malformed or its
payload does not `fit`, and where the service does not know the space; `f` may leave it for later. That these are
looked at in this order is DESIGN CHOICE, log 73. -/
def request (kind : Nat) (h : BitVec 256) (payload : List Byte) (fit : Bool) (s : State)
    (f : State → BitVec 40 → Option State) : Host.Outcome State Fault Refusal :=
  let s := s.bump
  let answer (code : BitVec 8) : Option State := some (s.reply (headTag h) code 0 [])
  let t :=
    if s.power ≠ .run ∨ headOf kind h = false then none
    else if !s.ready then answer 5
    else if !headGood h payload.length || !fit then answer 1
    else
      match s.spaces.find (headAsid h).toNat with
      | none => answer 3
      | some root => f s root
  match t with
  | some t => .next t
  | none => .refused .notEnabled

/-- The `i`-th word of a payload. -/
def payWord (b : List Byte) (i : Nat) : Word := BitVec.ofNat 64 (bytesNat ((b.drop (8 * i)).take 8))

/-- WRITE: an address, and data. -/
def execWriteRequest (h : BitVec 256) (va data : List Byte) (s : State) : Host.Outcome State Fault Refusal :=
  let b := va ++ data
  request 1 h b (decide (8 ≤ b.length)) s fun s root => some <|
    match s.range root true (payWord b 0) (b.length - 8) with
    | none => s.reply (headTag h) 6 0 []
    | some l => (s.putParts l (b.drop 8)).reply (headTag h) 0 0 []

/-- READ: an address and a length. -/
def execReadRequest (h : BitVec 256) (va len : List Byte) (s : State) : Host.Outcome State Fault Refusal :=
  let b := va ++ len
  let n := (payWord b 1).toNat
  request 2 h b (decide (b.length = 16 ∧ 0 < n ∧ n ≤ 65536)) s fun s root => some <|
    match s.svcRead root (payWord b 0) n with
    | none => s.reply (headTag h) 6 0 []
    | some x => s.reply (headTag h) 0 0 x

/-- WAIT: a LAUNCHID, of 4 bytes (DESIGN CHOICE, log 73). -/
def execWaitRequest (h : BitVec 256) (b : List Byte) (s : State) : Host.Outcome State Fault Refusal :=
  let id := BitVec.ofNat 32 (bytesNat b)
  request 4 h b (decide (b.length = 4)) s fun s _ => some <|
    match s.launches.reverse.find? fun l => l.asid == headAsid h && l.id == id with
    | none => s.reply (headTag h) 7 0 []
    | some l =>
      match l.ended with
      | some v => s.reply (headTag h) 0 v []
      | none => { s with waits := s.waits ++ [⟨headAsid h, id, headTag h⟩] }

/-! ## Launches (R90, R91, R94) -/

/-- The fields of a launch descriptor (R90). -/
structure LaunchDesc where
  argLen : Nat
  asid : BitVec 16
  args : Word
  pmap : Word
  mask : Word
  recs : Word
  id : BitVec 32
  rnd : BitVec 3
  ftz : Bool
  nrec : Nat
  /-- Reserved bits are zero, and the lengths and boundaries are those of R90. -/
  ok : Bool
  deriving DecidableEq, Repr

/-- Read a launch descriptor. -/
def launchDesc (d : BitVec 512) : LaunchDesc where
  argLen := (d.extractLsb' 336 16).toNat
  asid := d.extractLsb' 320 16
  args := d.extractLsb' 256 64
  pmap := d.extractLsb' 192 64
  mask := d.extractLsb' 128 64
  recs := d.extractLsb' 64 64
  id := d.extractLsb' 32 32
  rnd := d.extractLsb' 29 3
  ftz := d.getLsbD 28
  nrec := (d.extractLsb' 0 16).toNat
  ok := d.extractLsb' 384 128 == 0 && d.extractLsb' 352 32 == 0 && d.extractLsb' 16 12 == 0
    && decide ((d.extractLsb' 336 16).toNat ≤ 256) && (d.extractLsb' 336 3) == 0
    && (d.extractLsb' 64 5) == 0 && d.extractLsb' 0 16 != 0
    && ((d.extractLsb' 336 16) == 0 || (d.extractLsb' 256 3) == 0)

/-- The clusters that a placement mask admits, from its bit 0 on (R90). -/
def maskClusters (m : Nat) : List Nat :=
  ((List.range 3584).filter m.testBit).map fun j => j / 448 * 512 + j % 448

/-- An entry of a pipeline map (R94). -/
structure StageEntry where
  core : Nat
  win : BitVec 16
  stage : BitVec 12
  deriving DecidableEq, Repr

/-- Read an entry; none where it is malformed. -/
def State.stageEntry (s : State) (v : Nat) : Option StageEntry :=
  let w := BitVec.ofNat 64 v
  match coreAddr (BitVec.ofNat 64 (v / 2 ^ 64)) with
  | none => none
  | some a =>
    if a.off ≠ 0 ∨ a.pkg ≠ s.image.pkg ∨ w.extractLsb' 32 32 ≠ 0#32 ∨ w.extractLsb' 12 4 ≠ 0#4
        ∨ w.extractLsb' 16 16 = 0#16 ∨ 32768 < (w.extractLsb' 16 16).toNat
        ∨ w.extractLsb' 0 12 = 0#12 then none
    else some ⟨a.core, w.extractLsb' 16 16, w.extractLsb' 0 12⟩

/-- The numbers of a table in an address space: `n` of `k` bytes each. -/
def State.svcTable (s : State) (root : BitVec 40) (va : Word) (k : Nat) : Nat → Option (List Nat)
  | 0 => some []
  | n + 1 => do
    let x ← s.svcNat root va k
    let l ← s.svcTable root (va + BitVec.ofNat 64 k) k n
    some (x :: l)

/-- The pipeline map: not mapped, refused, or its entries (R94). -/
def State.pipeline (s : State) (root : BitVec 40) (pmap : Word) :
    Option (Option (List StageEntry)) :=
  if pmap = 0 then some (some [])
  else do
    let n ← s.svcNat root pmap 2
    let l ← s.svcTable root (pmap + 16) 16 n
    some (do
      let l ← l.mapM s.stageEntry
      let clash (a b : StageEntry) : Bool := a.core == b.core
        || (a.stage == b.stage && (coreCluster a.core != coreCluster b.core || a.win != b.win))
      let rec distinct : List StageEntry → Bool
        | [] => true
        | a :: l => !l.any (clash a) && distinct l
      if distinct l then some l else none)

/-- The first index of a cluster from 20 on that holds no queue (that the service takes the lowest:
DESIGN CHOICE, log 66). -/
def Cluster.freeIndex (k : Cluster) : Option Nat :=
  (List.range 236).map (· + 20) |>.find? fun q => !(k.queue q).attached

/-- The service names a queue that it attaches: with a descriptor of its own, laid out as R95 says. Its
owner is service core 0 of the queue's die. DESIGN CHOICE, log 39. The answer gives the name. -/
def State.nameQueue (s : State) (cl q : Nat) : Option (State × Quad) :=
  let l := BitVec.ofNat 64
    (s.physOf (s.image.qdesc.toNat + 64 * (256 * 4096 + (s.serial.toNat + 1) % 2 ^ 25)))
  match s.mint clsQueue (s.ownerOf (cl / 512 * 8192 + noSector)) l false with
  | .error _ => none
  | .ok (s, n) =>
    some ((s.modCluster cl fun k => k.setQueue q { k.queue q with desc := l }).writeBack cl q, n)

/-- The service writes STAGE in a stage's core and, with the stage's first core, attaches its queue (R91,
R94); the queue's class is open (DESIGN CHOICE, log 39). Where no index is free, or no name can be
issued, there is no room for the launch (DESIGN CHOICE, log 66). The answer gives the queue and its name. -/
def State.putStage (s : State) (all : List StageEntry) (a : StageEntry) :
    Option (State × List (Nat × Nat × Quad)) :=
  let cl := coreCluster a.core
  let mask := (all.filter fun e => e.stage == a.stage).foldl
    (fun (m : BitVec 16) e => m ||| BitVec.ofNat 16 (2 ^ (e.core % 16))) 0
  let s := s.modCore a.core fun k => { k with stage := a.stage }
  if (all.find? fun e => e.stage == a.stage) = some a then do
    let q ← (s.cluster cl).freeIndex
    let s := s.modCluster cl fun k => k.setQueue q
      { Queue.reset true .stage (BitVec.ofNat 2 (Config.choice s.free 0x191)) mask
          (k.queue q).min with cap := (k.queue q).cap, win := a.win }
    let (s, n) ← s.nameQueue cl q
    some (s, [(cl, q, n)])
  else some (s, [])

/-- Every stage of a pipeline map, with the queues attached. -/
def State.putStages (s : State) (all : List StageEntry) :
    List StageEntry → Option (State × List (Nat × Nat × Quad))
  | [] => some (s, [])
  | a :: l => do
    let (s, q) ← s.putStage all a
    let (s, r) ← s.putStages all l
    some (s, q ++ r)

/-- The envelope of an entry record: the service core that sends it is core 0 of die 0 (R53, R91;
DESIGN CHOICE, log 69). -/
def State.launchEnv (s : State) (l : Launch) : Envelope :=
  ⟨3, s.image.pkg, coreCoord noSector, s.sidereal.setWidth 40, l.asid, l.id, false, l.asid⟩

/-- Push the next record of a launch; a refused one stays (R91). -/
def State.pushTodo (s : State) (l : Launch) : State × List (Nat × BitVec 256) :=
  match l.todo with
  | [] => (s, [])
  | (cl, r) :: rest =>
    match s.push cl (recPri r) r (s.launchEnv l) with
    | .ok s => (s, rest)
    | .error _ => (s, l.todo)

/-- Push one record of a launch, or try a refused one again; its LAUNCH is answered when nothing is left
to push (R413). -/
def State.pushLaunch (s : State) (k : Nat) : State :=
  match s.launches[k]? with
  | none => s
  | some l =>
    let (s, todo) := s.pushTodo l
    let now : Bool := todo.isEmpty && !l.answered
    let s := { s with
      launches := s.launches.set k { l with todo := todo, answered := l.answered || now } }
    if now then s.reply l.tag 0 0 [] else s

/-- A record with an ARG of its own, or with the argument block's address (R91 step 2). -/
def withArg (block : Option Word) (r : BitVec 256) : BitVec 256 :=
  let r := recWithStatus r 0
  match block with
  | some a => if recArg r = 0 then r.extractLsb' 192 64 ++ a ++ r.extractLsb' 0 128 else r
  | none => r

/-- Copy the argument block to a fresh read-only page (R91 step 1): V, R and U. -/
def State.putArgs (s : State) (root : BitVec 40) (args : List Byte) :
    Option (State × Option Word) :=
  if args.isEmpty then some (s, none)
  else do
    let (t, f) ← s.mapPage root s.argNext.toNat 0x013
    some ({ t with mem := t.mem.writeBytes f args, argNext := s.argNext + 65536 }, some s.argNext)

/-- The names of a launch's stage queues are passed in the page of its argument block, from offset 256 on, in the
order of the pipeline map (R93); where no block is copied, they are passed nowhere (DESIGN CHOICE, log 39). -/
def State.passNames (s : State) (root : BitVec 40) (block : Option Word) (names : List Quad) : State :=
  match block with
  | none => s
  | some va =>
    match s.walk root va.toNat with
    | .leaf _ e large =>
      let l := (names.take 4080).flatMap fun n => bytesLE 16 n.toNat
      { s with mem := s.mem.writeBytes (leafPa e large va.toNat + 256) l }
    | _ => s

/-- The ASID table entry of a launch (R91 step 3, R92). -/
def State.putAsid (s : State) (d : LaunchDesc) (root : BitVec 40) : State :=
  let e : Quad := 0#60 ++ BitVec.ofBool d.ftz ++ d.rnd ++ 0#8 ++ root ++ 0#15 ++ 1#1
  s.homeWrite (s.physOf (s.image.asidTab.toNat + 16 * d.asid.toNat)) 16 e.toNat

/-- The launch would change the rounding state of its ASID while an activation of it runs (R92): the
service leaves the request. -/
def State.roundingWaits (s : State) (d : LaunchDesc) : Bool :=
  match s.asidEntry d.asid with
  | some e => (e.rnd != d.rnd || e.ftz != d.ftz)
      && s.slots.any fun x => x.2.busy && x.2.asid == d.asid
  | none => false

/-- FETCHGRP is zero in every core a launch admits (R115). -/
def State.clearGroups (s : State) (clusters : List Nat) : State :=
  let core (e : Nat × Core) : Nat × Core :=
    (e.1, if clusters.contains (coreCluster e.1) then { e.2 with fetchGrp := 0 } else e.2)
  { s with cores := s.cores.map core }

/-- An accepted launch (R91, R270), whose objects stand in memory: none where a frame, an index or a name is
wanting. -/
def State.startLaunch (s : State) (d : LaunchDesc) (tag : BitVec 32) (root : BitVec 40) (args : List Byte)
    (stages : List StageEntry) (clusters : List Nat) (recs : List (BitVec 256))
    (objects : List Object) : Option State := do
  let (s, block) ← s.putArgs root args
  let s := s.putAsid d root
  let (s, queues) ← s.putStages stages stages
  let s := s.passNames root block (queues.map (·.2.2))
  let s := (objects.foldl (fun (s : State) o => s.loadScratch clusters o) s).clearGroups clusters
  let todo := recs.mapIdx fun i r => (clusters.getD (i % clusters.length) 0, withArg block r)
  let l : Launch := ⟨d.id, d.asid, d.rnd, d.ftz, clusters, todo, queues.map fun q => (q.1, q.2.1),
    stages.map fun e => (e.core, e.stage), [], false, tag, none⟩
  some ({ s with launches := s.launches ++ [l] }.pushLaunch s.launches.length)

/-- What the service finds of a launch in memory: its records, mask, argument block and pipeline map, where that
passes its checks. -/
structure LaunchParts where
  recs : List (BitVec 256)
  clusters : List Nat
  args : List Byte
  stages : Option (List StageEntry)
  deriving DecidableEq, Repr

/-- Read them: none where something is not mapped. -/
def State.launchParts (s : State) (root : BitVec 40) (d : LaunchDesc) : Option LaunchParts := do
  let recs ← s.svcTable root d.recs 32 d.nrec
  let mask ← s.svcNat root d.mask 448
  let args ← s.svcRead root d.args d.argLen
  let stages ← s.pipeline root d.pmap
  some ⟨recs.map (BitVec.ofNat 256), maskClusters mask, args, stages⟩

/-- A launch of the address space that runs has other defaults (R91). -/
def State.roundingClash (s : State) (d : LaunchDesc) : Bool :=
  s.launches.any fun l => l.asid == d.asid && l.ended.isNone && (l.rnd != d.rnd || l.ftz != d.ftz)

/-- The checks of R91, but for the pipeline map's own. -/
def State.launchBad (s : State) (d : LaunchDesc) (p : LaunchParts) : Bool :=
  p.recs.any (fun r => r.extractLsb' 0 2 != 0 || r.extractLsb' 54 6 != 0) || d.rnd == 0
    || decide (5 < d.rnd.toNat) || p.clusters.isEmpty || s.roundingClash d

/-- A launch of the address space with page tables at `root`: its objects are placed, the descriptor and what it
points to are checked, and the whole launch is refused when any check fails; else its records are pushed (R90,
R91, R270, R272). None: the service leaves it for later, since it would change the rounding state of an address
space while an activation of that runs (R92). -/
def State.launch (s : State) (d : LaunchDesc) (tag : BitVec 32) (root : BitVec 40) : Option State :=
  let answer (code : BitVec 8) : Option State := some (s.reply tag code 0 [])
  match s.linkedObjects d.asid with
  | none => answer 2
  | some objects =>
    if !d.ok || !objects.all (s.objectFits root) then answer 2
    else
      match s.loadObjects root d.asid objects with
      | none => answer 4
      | some t =>
        match t.launchParts root d with
        | none => answer 6
        | some p =>
          match p.stages with
          | none => answer 2
          | some stages =>
            if s.launchBad d p then answer 2
            else if s.roundingWaits d then none
            else
              match t.startLaunch d tag root p.args stages p.clusters p.recs objects with
              | some u => some u
              | none => answer 4

/-- LAUNCH: a descriptor, whose ASID is the request's (DESIGN CHOICE, log 73). -/
def execLaunchRequest (r : Request) (s : State) : Host.Outcome State Fault Refusal :=
  let ⟨h, b⟩ := r
  let d := launchDesc (BitVec.ofNat 512 (bytesNat b))
  request 3 h b (decide (b.length = 64 ∧ d.asid = headAsid h)) s fun s root =>
    s.launch d (headTag h) root

/-- The service pushes a launch's next record, or tries a refused one again (R91). DEDUCED, log 43. -/
def execLaunchPushRetry (k : Nat) (s : State) : Host.Outcome State Fault Refusal :=
  match s.launches[k]? with
  | none => .refused .notEnabled
  | some l => event s (!l.todo.isEmpty) fun s => s.pushLaunch k

/-! ### The end without DONE (R420) -/

/-- The envelope belongs to the launch: the address space is that of its launch, whatever its sender's ASID has
become (R53, R358). -/
def Launch.owns (l : Launch) (e : Envelope) : Bool := e.of_ == l.asid && e.launch == l.id

/-- A record of the launch waits to be sent again (R419). -/
def Launch.resends (l : Launch) (e : ErrItem) : Bool :=
  match e with
  | .release _ _ env | .mailbox _ _ env => l.owns env
  | _ => false

/-- Something of the launch is left (R420): a record to be pushed, an activation, a record in a
queue or on its way to one, a record held for resending, an engine command. -/
def State.launchLives (s : State) (l : Launch) : Bool :=
  !l.todo.isEmpty
    || s.slots.any (fun e => (e.2.busy || e.2.heldErr.isSome) && l.owns e.2.env)
    || s.clusters.any (fun e =>
      (e.2.queues.any fun q => (q.2.pool ++ q.2.ext).any fun r => l.owns r.env)
        || e.2.pushes.any fun p => l.owns p.env)
    || s.dies.any (fun e => e.2.errHold.any l.resends)
    || s.cores.any fun e => e.2.queue.any fun c => l.owns c.env

/-- A launch with nothing left ends (R420). -/
def execLaunchEnd (k : Nat) (s : State) : Host.Outcome State Fault Refusal :=
  match s.launches[k]? with
  | none => .refused .notEnabled
  | some l => event s (l.ended.isNone && !s.launchLives l) fun s => s.endLaunch k 0

end Sys2Proof.Machine
end

