-- ==== Sys2Proof/Machine/Survey.lean ====
section
/-! DEFINITION. Survey objects (R220), gains and commits (R222, R223) and the meanings of SURVEY
(R226 to R231). -/

namespace Sys2Proof.Machine

/-- A Survey's header with the offset of the object (R220). -/
structure Survey where
  off : Nat
  n : Nat
  fmt : Nat
  stride : Nat
  commits : Nat
  deriving DecidableEq, Repr

/-- Bytes of an element. -/
def Survey.esz (v : Survey) : Nat := if v.fmt = 0 then 4 else 2

/-- The value of an element (R220). -/
def Survey.num (v : Survey) (x : Nat) : Num :=
  if v.fmt = 0 then fp32.decode x
  else if v.fmt = 1 then bf16.decode x
  else .fin false x 0

/-- Check the header at `off` of the scratchpad `sp` (R227 step 4). -/
def surveyAt (sp : Mem) (off : Nat) : Except Stop Survey :=
  let h := sp.readLE off 32
  let lo := h % 2 ^ 32
  let n := lo % 2 ^ 13
  let fmt := lo / 2 ^ 16 % 4
  let stride := h / 2 ^ 32 % 2 ^ 32
  if n = 0 ∨ 4096 < n ∨ fmt = 3 ∨ lo / 2 ^ 13 % 8 ≠ 0 ∨ lo / 2 ^ 18 ≠ 0 ∨ stride % 16 ≠ 0
      ∨ h / 2 ^ 128 ≠ 0 then .error (.info .format 18)
  else .ok ⟨off, n, fmt, stride, h / 2 ^ 64 % 2 ^ 64⟩

/-- Ranges of the scratchpad end at or below 0x8000 (R227 step 5); each with the register it came
from. -/
def inScratch (l : List (Word × Nat)) : Except Stop Unit :=
  match l.find? (fun p => decide (0x8000 < p.2)) with
  | some p => .error (.trap .prot p.1 10 false)
  | none => .ok ()

/-- The elements of a vector at an offset. -/
def Survey.elements (v : Survey) (sp : Mem) (off : Nat) : List Nat :=
  lanesOf (8 * v.esz) v.n (sp.readLE off (v.n * v.esz))

/-- The best values (R220). -/
def Survey.best (v : Survey) (sp : Mem) : List Nat := v.elements sp (v.off + 32)

/-- A gain: infinite, or a number of units 2^-160; and whether a NaN was met (R222). -/
structure Gain where
  inf : Bool
  sum : Nat
  nv : Bool
  deriving DecidableEq, Repr

/-- One term added: `b` the best value, `c` the candidate's (R222). -/
def Gain.add (g : Gain) (b c : Num) : Gain :=
  if b.isNan || c.isNan then { g with nv := true }
  else if b.lt c then
    match b, c with
    | .fin .., .fin .. => { g with sum := g.sum + (scale160 (c.dy.add b.negate.dy)).toNat }
    | _, _ => { g with inf := true }
  else g

/-- The gain of the candidate at `off` (R222). DEDUCED, log 51. -/
def Survey.gain (v : Survey) (sp : Mem) (off : Nat) : Gain :=
  ((v.best sp).zip (v.elements sp off)).foldl (fun g p => g.add (v.num p.1) (v.num p.2)) ⟨false, 0, false⟩

/-- A gain delivered to a register (R223). -/
def Gain.lane (g : Gain) : Lane :=
  let r : Lane := if g.inf then ⟨fp32.inf false, 0⟩ else fp32.roundDy .rne false false false ⟨g.sum, -160⟩
  ⟨r.bits, r.fl ||| nvIf g.nv⟩

/-- The best value after a commit (R222). -/
def Survey.commit1 (v : Survey) (b c : Nat) : Nat :=
  if (v.num c).isNan then b
  else if (v.num b).isNan || (v.num b).lt (v.num c) then c
  else b

/-- The pieces that hold best values and COMMITS. -/
def Survey.pieces (v : Survey) (l : List Nat) (commits : Nat) : List (Nat × Nat × Nat) :=
  (v.off + 8, 8, commits) :: piecesOf 16 (v.off + 32) (v.n * v.esz) (packLanes (8 * v.esz) l)

/-- The range of the object, and of a candidate. -/
def Survey.range (v : Survey) : Nat × Nat := (v.off, 32 + v.n * v.esz)
def Survey.candidate (v : Survey) (off : Nat) : Nat × Nat := (off, v.n * v.esz)

/-! ## The instructions (R226 to R231) -/

/-- The fill value of SVINIT (R228). -/
def Survey.fill (v : Survey) (b : Reg) (x : RV) : Except Stop Nat :=
  let bad : Except Stop Nat := .error (.info .format 19)
  let w := 8 * v.esz
  if b = 0 then
    .ok (if v.fmt = 0 then fp32.inf true else if v.fmt = 1 then bf16.inf true else 0)
  else if v.fmt = 2 then
    if x.tag = .i64 ∨ x.tag = .raw then
      let n := x.val.toNat % 2 ^ 64
      if 65535 < n then bad else .ok n
    else bad
  else if x.tag = .raw ∨ x.tag = (if v.fmt = 0 then .f32x4 else .bf16x8) then
    let n := x.val.toNat % 2 ^ w
    if (v.num n).isNan then bad else .ok n
  else bad

/-- SVINIT. -/
def execSvinit (m : Bool) (a b : Reg) (s : State) : Host.Outcome State Fault Refusal :=
  issue {} s fun s => do
    touch s [a, b]
    let o ← srcInt s a
    let off ← ownScratch o 32
    let s ← objectUnit s .survey
    let v ← surveyAt s.myCore.scratch off
    inScratch [(o, off + 32 + v.n * v.esz)]
    let x ← v.fill b (s.me.read b)
    .ok ((s.writeTorn .survey (v.pieces (List.replicate v.n x) 0)).retire m)

/-- The checks of R227 for an object, `n` candidates and an accumulator (`acc`). -/
def surveyChecks (s : State) (o c : Word) (n : Nat) (acc : Option Word) : Except Stop Survey := do
  let accs := acc.toList
  ownScratchAll ([(o, 32), (c, 16)] ++ accs.map fun l => (l, 64))
  let v ← surveyAt s.myCore.scratch o.toNat
  inScratch ([(o, o.toNat + 32 + v.n * v.esz)]
    ++ (List.range n).map (fun k => (c, c.toNat + k * v.stride + v.n * v.esz))
    ++ accs.map fun l => (l, l.toNat + 64))
  .ok v

/-- SVPRB and SVPRB4: `n` gains into the low lanes (R229). -/
def probe (n : Nat) (m : Bool) (d a b : Reg) (s : State) : Host.Outcome State Fault Refusal :=
  issue {} s fun s => do
    touch s [a, b, d]
    let o ← srcInt s a
    let c ← srcInt s b
    let s ← objectUnit s .survey
    let v ← surveyChecks s o c n none
    let at_ (k : Nat) : Nat := c.toNat + k * v.stride
    let sp ← torn s .survey 16 (v.range :: (List.range n).map fun k => v.candidate (at_ k))
    let l := (List.range n).map fun k => (v.gain sp (at_ k)).lane
    .ok ((s.wrFlags d (.ofLanes .f32x4 32 (lanesBits l)) .none .var (lanesFlags l)).retire m)

def execSvprb (m : Bool) (d a b : Reg) := probe 1 m d a b
def execSvprb4 (m : Bool) (d a b : Reg) := probe 4 m d a b

/-- SVPRBX (R229). What it reads of the object and the candidate, it reads as the Survey unit does; the addition is
one operation of the long-accumulator unit (R225). -/
def execSvprbx (m : Bool) (d a b : Reg) (s : State) : Host.Outcome State Fault Refusal :=
  issue {} s fun s => do
    touch s [a, b, d]
    let o ← srcInt s a
    let c ← srcInt s b
    let l ← srcInt s d
    let s ← objectUnit s .survey
    let v ← surveyChecks s o c 1 (some l)
    let sp ← torn s .survey 16 [v.range, v.candidate c.toNat]
    let s ← objectUnit s .lacc
    let acc ← accAt s.myCore.scratch l.toNat
    let g := v.gain sp c.toNat
    let acc := { acc with count := capCount (acc.count + 1) }
    let acc := if g.inf then { acc with pinf := true }
      else { acc with val := (acc.val + g.sum) % 2 ^ 384 }
    .ok (((s.setAcc l.toNat acc).accrue s.focus (nvIf g.nv)).retire m)

/-- SVCMT (R230). -/
def execSvcmt (m : Bool) (a b : Reg) (s : State) : Host.Outcome State Fault Refusal :=
  issue {} s fun s => do
    touch s [a, b]
    let o ← srcInt s a
    let c ← srcInt s b
    let s ← objectUnit s .survey
    let v ← surveyChecks s o c 1 none
    let sp ← torn s .survey 16 [v.range, v.candidate c.toNat]
    let ps := (v.best sp).zip (v.elements sp c.toNat)
    let nv := ps.any fun p => (v.num p.1).isNan || (v.num p.2).isNan
    let l := ps.map fun p => v.commit1 p.1 p.2
    .ok (((s.writeTorn .survey (v.pieces l (v.commits + 1))).accrue s.focus (nvIf nv)).retire m)

/-- A candidate of SVPICK: its gain, the gain's bits, its id. -/
structure Cand where
  num : Num
  bits : Nat
  id : Int
  deriving DecidableEq, Repr

/-- The better of two candidates (R231). Of two with equal gain and id, which differ at most in the
sign of a zero gain, `second` takes the later. -/
def Cand.better (high second : Bool) (x y : Cand) : Cand :=
  if x.num.lt y.num then y
  else if y.num.lt x.num then x
  else if x.id = y.id then if second then y else x
  else if decide (x.id < y.id) == high then y else x

/-- The winner among candidates; NaN gains count only where nothing else is there (R231). -/
def winner (high second : Bool) (l : List Cand) : Cand :=
  let nums := l.filter fun c => !c.num.isNan
  match nums with
  | c :: cs => cs.foldl (Cand.better high second) c
  | [] =>
    (l.map fun c => { c with num := .fin false 0 0, bits := fp32.qnan }).foldl
      (Cand.better high second) ((l.head?.map fun c => ⟨.fin false 0 0, fp32.qnan, c.id⟩).getD ⟨.fin false 0 0, 0, 0⟩)

/-- SVPICK and SVPICKH. -/
def svpick (high : Bool) (m : Bool) (d a b : Reg) (s : State) : Host.Outcome State Fault Refusal :=
  issue {} s fun s => do
    touch s [a, b, d]
    let x := s.me.read a
    let y := s.me.read b
    if (x.tag = .f32x4 ∨ x.tag = .raw) ∧ (y.tag = .i32x4 ∨ y.tag = .raw) then
      let l := List.zipWith (fun g i => (⟨fp32.decode g, g, laneInt .i32x4 i⟩ : Cand))
        (x.lanesAs .f32x4) (y.lanesAs .i32x4)
      let w := winner high (Config.flag s.free 0x210) l
      let fl := nvIf (l.any (·.num.snan))
      let put (x : Slot) : Slot :=
        let x := x.put d (.int (BitVec.ofInt 64 w.id)) none (some ⟨BitVec.ofNat 128 w.bits, .f32x4⟩)
          (.fixed 2)
        { x with outs := match x.outs with
          | o :: os => { o with flags := some fl } :: os
          | [] => [] }
      .ok ((s.modMe put).retire m)
    else .error (.plain .format)

def execSvpick (m : Bool) (d a b : Reg) := svpick false m d a b
def execSvpickh (m : Bool) (d a b : Reg) := svpick true m d a b

end Sys2Proof.Machine
end

