-- ==== Sys2Proof/Machine/VectorData.lean ====
section
/-! DEFINITION. The meanings of VPERM, VRED and TAG (R183 to R194). -/

namespace Sys2Proof.Machine

/-! ## Permutes (R183, R184) -/

/-- A mask or a list of indices: any tag but I64 and NAME (R183). -/
def maskOk (t : Tag) : Except Stop Unit :=
  if t = .i64 ∨ t = .name then .error (.plain .format) else .ok ()

/-- A permute's result, as lanes of the type `t` (R161, R184). -/
def permute (s : State) (m : Bool) (d : Reg) (t : Tag) (l : List Nat) : State :=
  (s.wr d (.ofLanes t t.width l) .l1 (.fixed 2)).retire m

/-- A permute with one source. -/
def vperm1 (m : Bool) (d a : Reg) (f : Tag → List Nat → Except Stop (List Nat)) (s : State) :
    Host.Outcome State Fault Refusal :=
  issue {} s fun s => do
    touch s [a, d]
    let x := s.me.read a
    let t ← elemType [x.tag] true
    let l ← f t (x.lanesAs t)
    .ok (permute s m d t l)

/-- A permute with two sources of one type. -/
def vperm2 (m : Bool) (d a b : Reg) (f : List Nat → List Nat → List Nat) (s : State) :
    Host.Outcome State Fault Refusal :=
  issue {} s fun s => do
    touch s [a, b, d]
    let x := s.me.read a
    let y := s.me.read b
    let t ← elemType [x.tag, y.tag] true
    .ok (permute s m d t (f (x.lanesAs t) (y.lanesAs t)))

/-- Lane `n` of a list, or FORMAT where there is none (R184). -/
def laneAt (l : List Nat) (n : BitVec 6) : Except Stop Nat :=
  match l[n.toNat]? with
  | some x => .ok x
  | none => .error (.info .format 9)

def execVsplat (m : Bool) (d a : Reg) (n : BitVec 6) :=
  vperm1 m d a fun _ l => do
    let x ← laneAt l n
    .ok (l.map fun _ => x)

/-- VINS (R185). -/
def execVins (m : Bool) (d a : Reg) (n : BitVec 6) (s : State) : Host.Outcome State Fault Refusal :=
  issue {} s fun s => do
    touch s [a, d]
    let x := s.me.read a
    let y := s.me.read d
    let t ← elemType (if x.tag = .i64 then [y.tag] else [y.tag, x.tag]) true
    let l := y.lanesAs t
    let _ ← laneAt l n
    .ok (permute s m d t (l.set n.toNat (x.val.toNat % 2 ^ t.width)))

/-- VEXT (R185). -/
def execVext (m : Bool) (d a : Reg) (n : BitVec 6) (s : State) : Host.Outcome State Fault Refusal :=
  issue {} s fun s => do
    touch s [a, d]
    let x := s.me.read a
    let t ← elemType [x.tag] true
    let v ← laneAt (x.lanesAs t) n
    .ok ((s.wr d (.int (BitVec.ofInt 64 (laneInt t v))) .l1 (.fixed 2)).retire m)

/-- VSHUF (R184). -/
def execVshuf (m : Bool) (d a b : Reg) (s : State) : Host.Outcome State Fault Refusal :=
  issue {} s fun s => do
    touch s [a, b, d]
    let x := s.me.read a
    let y := s.me.read b
    let t ← elemType [x.tag] true
    maskOk y.tag
    if t = .e2m1x32 then .error (.plain .format) else
    let l := x.lanesAs t
    .ok (permute s m d t ((lanesOf 8 t.lanes y.val.toNat).map fun k => l.getD k 0))

/-- Two lists lane by lane in turn. -/
def interleave (x y : List Nat) : List Nat := (x.zip y).flatMap fun p => [p.1, p.2]
def execVzipl (m : Bool) (d a b : Reg) := vperm2 m d a b fun x y =>
  interleave (x.take (x.length / 2)) (y.take (y.length / 2))
def execVziph (m : Bool) (d a b : Reg) := vperm2 m d a b fun x y =>
  interleave (x.drop (x.length / 2)) (y.drop (y.length / 2))
def execVuzpl (m : Bool) (d a b : Reg) := vperm2 m d a b fun x y => evens x ++ evens y
def execVuzph (m : Bool) (d a b : Reg) := vperm2 m d a b fun x y => odds x ++ odds y
def execVrev (m : Bool) (d a : Reg) := vperm1 m d a fun _ l => .ok l.reverse

/-- The lanes of a mask that are selected (R183): their top bits, by the width of `t`. -/
def selected (v : RV) (t : Tag) : List Bool :=
  (v.lanesAs t).map fun x => decide (2 ^ (t.width - 1) ≤ x)

/-- The selected lanes, in order. -/
def compress (l : List Nat) (k : List Bool) : List Nat :=
  ((l.zip k).filter (·.2)).map (·.1)
/-- Lanes of a list handed out to the selected places, zero elsewhere. -/
def expand : List Nat → List Bool → List Nat
  | _, [] => []
  | x :: l, true :: k => x :: expand l k
  | l, _ :: k => 0 :: expand l k

/-- VCMPR (R186). -/
def execVcmpr (m : Bool) (d a b : Reg) (s : State) : Host.Outcome State Fault Refusal :=
  issue {} s fun s => do
    touch s [a, b, d]
    let x := s.me.read a
    let y := s.me.read b
    let t ← elemType [x.tag] true
    maskOk y.tag
    let l := compress (x.lanesAs t) (selected y t)
    let v := RV.ofLanes t t.width l
    let c := RV.int (BitVec.ofNat 64 l.length)
    .ok ((s.modMe (·.put d v (some c) (some v) (.fixed 2))).retire m)

/-- VEXPD (R186). -/
def execVexpd (m : Bool) (d a b : Reg) (s : State) : Host.Outcome State Fault Refusal :=
  issue {} s fun s => do
    touch s [a, b, d]
    let x := s.me.read a
    let y := s.me.read b
    let t ← elemType [x.tag] true
    maskOk y.tag
    .ok (permute s m d t (expand (x.lanesAs t) (selected y t)))

/-- VPOPM (R186). -/
def execVpopm (m : Bool) (d a : Reg) (s : State) : Host.Outcome State Fault Refusal :=
  issue {} s fun s => do
    touch s [a, d]
    let x := s.me.read a
    maskOk x.tag
    let c := RV.int (BitVec.ofNat 64 ((selected x x.tag).countP id))
    .ok ((s.modMe (·.put d c (some c) (some c) (.fixed 2))).retire m)

/-- VALGN (R187). -/
def execValgn (m : Bool) (d a b : Reg) (s : State) : Host.Outcome State Fault Refusal :=
  issue {} s fun s => do
    touch s [a, b, d]
    let x := s.me.read a
    let y := s.me.read d
    let k ← srcInt s b
    let t ← elemType [x.tag, y.tag] true
    let v := (y.val ++ x.val).extractLsb' (8 * (k.toNat % 16)) 128
    .ok ((s.wr d ⟨v, t⟩ .l1 (.fixed 2)).retire m)

/-! ## Reductions (R188 to R191) -/

/-- The pairwise tree of R159 over 2^k lanes: the lower half against the upper half. -/
def tree (op : Nat → Nat → Lane) : Nat → List Nat → Lane
  | 0, l => ⟨l.headD 0, 0⟩
  | k + 1, l =>
    let x := tree op k (l.take (2 ^ k))
    let y := tree op k (l.drop (2 ^ k))
    let r := op x.bits y.bits
    ⟨r.bits, x.fl ||| y.fl ||| r.fl⟩

/-- The depth of the tree over a register. -/
def Tag.depth (t : Tag) : Nat := t.lanes.log2

/-- A reduction into lane 0 (R188). `f` gives the tag and the value of the result and its flags. -/
def vred (h : Takes) (ok : Tag → Bool) (m : Bool) (d a : Reg)
    (f : Ctx → Tag → List Nat → RV × Flags5) (s : State) : Host.Outcome State Fault Refusal :=
  issue h s fun s => do
    touch s [a, d]
    let x := s.me.read a
    let t ← elemType [x.tag] false
    if !ok t then .error (.plain .format) else
    let (v, fl) := f s.ctx t (x.lanesAs t)
    .ok ((s.wrFlags d v .l1 (vlat t) fl).retire m)

/-- A lane as a register with zeros above. -/
def Lane.reg (x : Lane) (t : Tag) : RV × Flags5 := (⟨BitVec.ofNat 128 x.bits, t⟩, x.fl)

/-- The exact sum of integer lanes. -/
def intSum (t : Tag) (l : List Nat) : Int := l.foldl (fun n x => n + laneInt t x) 0

/-- VRSUM (R189). -/
def execVrsum (m : Bool) (d a : Reg) :=
  vred takesRound Tag.isNum m d a fun c t l =>
    match t.fmt with
    | some f => (tree (f.add c) t.depth l).reg t
    | none => Lane.reg ⟨wrapLane t.width (intSum t l), 0⟩ t

/-- VRMIN and VRMAX (R190). -/
def execVrmin (m : Bool) (d a : Reg) :=
  vred takesFtz Tag.isNum m d a fun c t l => (tree (pickLane false false c t) t.depth l).reg t
def execVrmax (m : Bool) (d a : Reg) :=
  vred takesFtz Tag.isNum m d a fun c t l => (tree (pickLane true false c t) t.depth l).reg t

/-- VRAMAX (R190). -/
def execVramax (m : Bool) (d a : Reg) :=
  vred takesFtz Tag.isSigned m d a fun c t l =>
    match t.fmt with
    | some f => (tree (f.pick c.ftz true true) t.depth (l.map (· % 2 ^ (f.w - 1)))).reg t
    | none => Lane.reg ⟨(l.map fun x => (laneInt t x).natAbs).foldl max 0, 0⟩ t

/-- The types VRSUMW accepts (R188). -/
def Tag.isWidening (t : Tag) : Bool := t == .f16x8 || t == .bf16x8 || t.isInt

/-- VRSUMW (R189). -/
def execVrsumw (m : Bool) (d a : Reg) :=
  vred takesRound Tag.isWidening m d a fun c t l =>
    if t.isFloat then
      let w := l.map (cvtLane c t .f32x4)
      let r := tree (fp32.add c) t.depth (lanesBits w)
      Lane.reg ⟨r.bits, r.fl ||| lanesFlags w⟩ .f32x4
    else (.int (BitVec.ofInt 64 (intSum t l)), 0)

/-- VRANY and VRALL (R191). -/
def vredMask (f : List Bool → Bool) (m : Bool) (d a : Reg) (s : State) :
    Host.Outcome State Fault Refusal :=
  issue {} s fun s => do
    touch s [a, d]
    let x := s.me.read a
    maskOk x.tag
    let v := RV.int (if f (selected x x.tag) then 1 else 0)
    .ok ((s.wr d v .l1 (.fixed 2)).retire m)

def execVrany (m : Bool) (d a : Reg) := vredMask (·.any id) m d a
def execVrall (m : Bool) (d a : Reg) := vredMask (·.all id) m d a

/-! ## Tags (R192 to R194) -/

/-- CAST. -/
def execCast (m : Bool) (d a : Reg) (t : BitVec 5) (s : State) : Host.Outcome State Fault Refusal :=
  issue {} s fun s => do
    touch s [a, d]
    let x := s.me.read a
    match Tag.ofCode t with
    | none => .error (.plain .illegal)
    | some t =>
      if x.tag = .name ∨ t = .name ∨ (t = .i64 ∧ x.val.extractLsb' 64 64 ≠ 0#64) then
        .error (.plain .format)
      else .ok ((s.wr d ⟨x.val, t⟩ .l0 (.fixed 1)).retire m)

/-- TAGOF. -/
def execTagof (m : Bool) (d a : Reg) (s : State) : Host.Outcome State Fault Refusal :=
  issue {} s fun s => do
    touch s [a, d]
    .ok ((s.wr d (.int ((s.me.read a).tag.code.setWidth 64)) .l0 (.fixed 1)).retire m)

/-- TAGCHK. -/
def execTagchk (m : Bool) (a : Reg) (t : BitVec 5) (s : State) : Host.Outcome State Fault Refusal :=
  issue {} s fun s => do
    touch s [a]
    let c := (s.me.read a).tag.code
    if c = t then .ok (s.retire m) else .error (.info .format c.toNat)

end Sys2Proof.Machine
end

