-- ==== Sys2Proof/Machine/Dispatch.lean ====
section
/-! DEFINITION. One arm per instruction and per step of the part that no word makes. -/

namespace Sys2Proof.Machine

def exec (i : Instr) (s : State) : Host.Outcome State Fault Refusal :=
  match i with
  | .add sw d a b => Sys2Proof.Machine.execAdd sw d a b s
  | .sub sw d a b => Sys2Proof.Machine.execSub sw d a b s
  | .mul sw d a b => Sys2Proof.Machine.execMul sw d a b s
  | .mulh sw d a b => Sys2Proof.Machine.execMulh sw d a b s
  | .mulhu sw d a b => Sys2Proof.Machine.execMulhu sw d a b s
  | .div sw d a b => Sys2Proof.Machine.execDiv sw d a b s
  | .divu sw d a b => Sys2Proof.Machine.execDivu sw d a b s
  | .rem sw d a b => Sys2Proof.Machine.execRem sw d a b s
  | .remu sw d a b => Sys2Proof.Machine.execRemu sw d a b s
  | .and sw d a b => Sys2Proof.Machine.execAnd sw d a b s
  | .or sw d a b => Sys2Proof.Machine.execOr sw d a b s
  | .xor sw d a b => Sys2Proof.Machine.execXor sw d a b s
  | .andn sw d a b => Sys2Proof.Machine.execAndn sw d a b s
  | .orn sw d a b => Sys2Proof.Machine.execOrn sw d a b s
  | .shl sw d a b => Sys2Proof.Machine.execShl sw d a b s
  | .shr sw d a b => Sys2Proof.Machine.execShr sw d a b s
  | .sar sw d a b => Sys2Proof.Machine.execSar sw d a b s
  | .rotl sw d a b => Sys2Proof.Machine.execRotl sw d a b s
  | .rotr sw d a b => Sys2Proof.Machine.execRotr sw d a b s
  | .min sw d a b => Sys2Proof.Machine.execMin sw d a b s
  | .max sw d a b => Sys2Proof.Machine.execMax sw d a b s
  | .minu sw d a b => Sys2Proof.Machine.execMinu sw d a b s
  | .maxu sw d a b => Sys2Proof.Machine.execMaxu sw d a b s
  | .slt sw d a b => Sys2Proof.Machine.execSlt sw d a b s
  | .sltu sw d a b => Sys2Proof.Machine.execSltu sw d a b s
  | .seq sw d a b => Sys2Proof.Machine.execSeq sw d a b s
  | .sne sw d a b => Sys2Proof.Machine.execSne sw d a b s
  | .clz sw d a => Sys2Proof.Machine.execClz sw d a s
  | .ctz sw d a => Sys2Proof.Machine.execCtz sw d a s
  | .popc sw d a => Sys2Proof.Machine.execPopc sw d a s
  | .bswap sw d a => Sys2Proof.Machine.execBswap sw d a s
  | .sextb sw d a => Sys2Proof.Machine.execSextb sw d a s
  | .sexth sw d a => Sys2Proof.Machine.execSexth sw d a s
  | .sextw sw d a => Sys2Proof.Machine.execSextw sw d a s
  | .zextw sw d a => Sys2Proof.Machine.execZextw sw d a s
  | .mov sw d a => Sys2Proof.Machine.execMov sw d a s
  | .addw sw d a b => Sys2Proof.Machine.execAddw sw d a b s
  | .subw sw d a b => Sys2Proof.Machine.execSubw sw d a b s
  | .mulw sw d a b => Sys2Proof.Machine.execMulw sw d a b s
  | .adds1 sw d a b => Sys2Proof.Machine.execAdds1 sw d a b s
  | .adds2 sw d a b => Sys2Proof.Machine.execAdds2 sw d a b s
  | .adds3 sw d a b => Sys2Proof.Machine.execAdds3 sw d a b s
  | .absd sw d a b => Sys2Proof.Machine.execAbsd sw d a b s
  | .addi sw d a imm => Sys2Proof.Machine.execAddi sw d a imm s
  | .andi sw d a imm => Sys2Proof.Machine.execAndi sw d a imm s
  | .ori sw d a imm => Sys2Proof.Machine.execOri sw d a imm s
  | .xori sw d a imm => Sys2Proof.Machine.execXori sw d a imm s
  | .slti sw d a imm => Sys2Proof.Machine.execSlti sw d a imm s
  | .sltiu sw d a imm => Sys2Proof.Machine.execSltiu sw d a imm s
  | .shli sw d a n => Sys2Proof.Machine.execShli sw d a n s
  | .shri sw d a n => Sys2Proof.Machine.execShri sw d a n s
  | .sari sw d a n => Sys2Proof.Machine.execSari sw d a n s
  | .rotli sw d a n => Sys2Proof.Machine.execRotli sw d a n s
  | .limm sw d imm => Sys2Proof.Machine.execLimm sw d imm s
  | .addpc sw d imm => Sys2Proof.Machine.execAddpc sw d imm s
  | .extr sw d a p l => Sys2Proof.Machine.execExtr sw d a p l s
  | .extrs sw d a p l => Sys2Proof.Machine.execExtrs sw d a p l s
  | .ins sw d a p l => Sys2Proof.Machine.execIns sw d a p l s
  | .moveqz sw d a b => Sys2Proof.Machine.execMoveqz sw d a b s
  | .movnez sw d a b => Sys2Proof.Machine.execMovnez sw d a b s
  | .movltz sw d a b => Sys2Proof.Machine.execMovltz sw d a b s
  | .movgez sw d a b => Sys2Proof.Machine.execMovgez sw d a b s
  | .movgtz sw d a b => Sys2Proof.Machine.execMovgtz sw d a b s
  | .movlez sw d a b => Sys2Proof.Machine.execMovlez sw d a b s
  | .rdc sw d c => Sys2Proof.Machine.execRdc sw d c s
  | .wrc sw a c => Sys2Proof.Machine.execWrc sw a c s
  | .setc sw d a c => Sys2Proof.Machine.execSetc sw d a c s
  | .clrc sw d a c => Sys2Proof.Machine.execClrc sw d a c s
  | .swpc sw d a c => Sys2Proof.Machine.execSwpc sw d a c s
  | .threadstWrite v => Sys2Proof.Machine.execThreadstWrite v s
  | .fpflagsAccess op d v => Sys2Proof.Machine.execFpflagsAccess op d v s
  | .poolminWrite v => Sys2Proof.Machine.execPoolminWrite v s
  | .poolcapWrite v => Sys2Proof.Machine.execPoolcapWrite v s
  | .delayselLoad v => Sys2Proof.Machine.execDelayselLoad v s
  | .nop sw => Sys2Proof.Machine.execNop sw s
  | .hbeat sw => Sys2Proof.Machine.execHbeat sw s
  | .trap sw n => Sys2Proof.Machine.execTrap sw n s
  | .tret sw => Sys2Proof.Machine.execTret sw s
  | .brk sw => Sys2Proof.Machine.execBrk sw s
  | .efence sw => Sys2Proof.Machine.execEfence sw s
  | .eret sw => Sys2Proof.Machine.execEret sw s
  | .scall sw a => Sys2Proof.Machine.execScall sw a s
  | .park sw a => Sys2Proof.Machine.execPark sw a s
  | .resume sw a => Sys2Proof.Machine.execResume sw a s
  | .preempt sw a => Sys2Proof.Machine.execPreempt sw a s
  | .tlbi sw a b => Sys2Proof.Machine.execTlbi sw a b s
  | .freq sw a => Sys2Proof.Machine.execFreq sw a s
  | .wset sw a => Sys2Proof.Machine.execWset sw a s
  | .kill sw a => Sys2Proof.Machine.execKill sw a s
  | .beqz sw a imm => Sys2Proof.Machine.execBeqz sw a imm s
  | .bnez sw a imm => Sys2Proof.Machine.execBnez sw a imm s
  | .bltz sw a imm => Sys2Proof.Machine.execBltz sw a imm s
  | .bgez sw a imm => Sys2Proof.Machine.execBgez sw a imm s
  | .bgtz sw a imm => Sys2Proof.Machine.execBgtz sw a imm s
  | .blez sw a imm => Sys2Proof.Machine.execBlez sw a imm s
  | .beq sw a b imm => Sys2Proof.Machine.execBeq sw a b imm s
  | .bne sw a b imm => Sys2Proof.Machine.execBne sw a b imm s
  | .blt sw a b imm => Sys2Proof.Machine.execBlt sw a b imm s
  | .bge sw a b imm => Sys2Proof.Machine.execBge sw a b imm s
  | .bltu sw a b imm => Sys2Proof.Machine.execBltu sw a b imm s
  | .bgeu sw a b imm => Sys2Proof.Machine.execBgeu sw a b imm s
  | .jmp sw imm => Sys2Proof.Machine.execJmp sw imm s
  | .call sw imm => Sys2Proof.Machine.execCall sw imm s
  | .jr sw a => Sys2Proof.Machine.execJr sw a s
  | .callr sw a => Sys2Proof.Machine.execCallr sw a s
  | .ret sw => Sys2Proof.Machine.execRet sw s
  | .loop sw a imm => Sys2Proof.Machine.execLoop sw a imm s
  | .endAct sw => Sys2Proof.Machine.execEndAct sw s
  | .endj sw a => Sys2Proof.Machine.execEndj sw a s
  | .ends sw a b => Sys2Proof.Machine.execEnds sw a b s
  | .fence sw c => Sys2Proof.Machine.execFence sw c s
  | .fencew sw c => Sys2Proof.Machine.execFencew sw c s
  | .fencer sw c => Sys2Proof.Machine.execFencer sw c s
  | .ackwait sw c => Sys2Proof.Machine.execAckwait sw c s
  | .ldb sw t b o => Sys2Proof.Machine.execLdb sw t b o s
  | .ldbs sw t b o => Sys2Proof.Machine.execLdbs sw t b o s
  | .ldh sw t b o => Sys2Proof.Machine.execLdh sw t b o s
  | .ldhs sw t b o => Sys2Proof.Machine.execLdhs sw t b o s
  | .ldw sw t b o => Sys2Proof.Machine.execLdw sw t b o s
  | .ldws sw t b o => Sys2Proof.Machine.execLdws sw t b o s
  | .ldd sw t b o => Sys2Proof.Machine.execLdd sw t b o s
  | .ldq sw t b o => Sys2Proof.Machine.execLdq sw t b o s
  | .stb sw t b o => Sys2Proof.Machine.execStb sw t b o s
  | .sth sw t b o => Sys2Proof.Machine.execSth sw t b o s
  | .stw sw t b o => Sys2Proof.Machine.execStw sw t b o s
  | .std sw t b o => Sys2Proof.Machine.execStd sw t b o s
  | .stq sw t b o => Sys2Proof.Machine.execStq sw t b o s
  | .ldaq sw t b o z c => Sys2Proof.Machine.execLdaq sw t b o z c s
  | .strl sw t b o z c => Sys2Proof.Machine.execStrl sw t b o z c s
  | .ldv sw t b f o => Sys2Proof.Machine.execLdv sw t b f o s
  | .stv sw t b f o => Sys2Proof.Machine.execStv sw t b f o s
  | .ldfeRff sw t b z c => Sys2Proof.Machine.execLdfeRff sw t b z c s
  | .ldfeRfe sw t b z c => Sys2Proof.Machine.execLdfeRfe sw t b z c s
  | .ldfeRawfe sw t b z c => Sys2Proof.Machine.execLdfeRawfe sw t b z c s
  | .stfeWef sw t b z c => Sys2Proof.Machine.execStfeWef sw t b z c s
  | .stfeWaf sw t b z c => Sys2Proof.Machine.execStfeWaf sw t b z c s
  | .stfeWae sw t b z c => Sys2Proof.Machine.execStfeWae sw t b z c s
  | .stfeSete sw b z c => Sys2Proof.Machine.execStfeSete sw b z c s
  | .ldagWait sw t b l c => Sys2Proof.Machine.execLdagWait sw t b l c s
  | .ldagTrap sw t b l c => Sys2Proof.Machine.execLdagTrap sw t b l c s
  | .ldagPeek sw t b l c => Sys2Proof.Machine.execLdagPeek sw t b l c s
  | .agreg sw a => Sys2Proof.Machine.execAgreg sw a s
  | .agdone sw a => Sys2Proof.Machine.execAgdone sw a s
  | .agage sw d a => Sys2Proof.Machine.execAgage sw d a s
  | .aadd sw t b r o w c => Sys2Proof.Machine.execAadd sw t b r o w c s
  | .amin sw t b r o w c => Sys2Proof.Machine.execAmin sw t b r o w c s
  | .amax sw t b r o w c => Sys2Proof.Machine.execAmax sw t b r o w c s
  | .aminu sw t b r o w c => Sys2Proof.Machine.execAminu sw t b r o w c s
  | .amaxu sw t b r o w c => Sys2Proof.Machine.execAmaxu sw t b r o w c s
  | .aand sw t b r o w c => Sys2Proof.Machine.execAand sw t b r o w c s
  | .aor sw t b r o w c => Sys2Proof.Machine.execAor sw t b r o w c s
  | .axor sw t b r o w c => Sys2Proof.Machine.execAxor sw t b r o w c s
  | .aswp sw t b r o w c => Sys2Proof.Machine.execAswp sw t b r o w c s
  | .acas sw t b r o w c => Sys2Proof.Machine.execAcas sw t b r o w c s
  | .acas2 sw t b r o c => Sys2Proof.Machine.execAcas2 sw t b r o c s
  | .nmcas sw t b r o c => Sys2Proof.Machine.execNmcas sw t b r o c s
  | .afadd sw t b r o w c => Sys2Proof.Machine.execAfadd sw t b r o w c s
  | .nmint sw d a b => Sys2Proof.Machine.execNmint sw d a b s
  | .nmres sw d a => Sys2Proof.Machine.execNmres sw d a s
  | .nmret sw d a => Sys2Proof.Machine.execNmret sw d a s
  | .nmeq sw d a b => Sys2Proof.Machine.execNmeq sw d a b s
  | .nmld sw d a => Sys2Proof.Machine.execNmld sw d a s
  | .nmst sw a b => Sys2Proof.Machine.execNmst sw a b s
  | .nmcls sw d a => Sys2Proof.Machine.execNmcls sw d a s
  | .nmorg sw d a => Sys2Proof.Machine.execNmorg sw d a s
  | .nmmove sw a b => Sys2Proof.Machine.execNmmove sw a b s
  | .spawn sw a b => Sys2Proof.Machine.execSpawn sw a b s
  | .spawnq sw d a b => Sys2Proof.Machine.execSpawnq sw d a b s
  | .send sw a b => Sys2Proof.Machine.execSend sw a b s
  | .jdec sw a b => Sys2Proof.Machine.execJdec sw a b s
  | .jinit sw a b => Sys2Proof.Machine.execJinit sw a b s
  | .handover sw a b => Sys2Proof.Machine.execHandover sw a b s
  | .sendseq sw d a b => Sys2Proof.Machine.execSendseq sw d a b s
  | .qlen sw d a => Sys2Proof.Machine.execQlen sw d a s
  | .vadd sw d a b => Sys2Proof.Machine.execVadd sw d a b s
  | .vsub sw d a b => Sys2Proof.Machine.execVsub sw d a b s
  | .vmul sw d a b => Sys2Proof.Machine.execVmul sw d a b s
  | .vdiv sw d a b => Sys2Proof.Machine.execVdiv sw d a b s
  | .vmin sw d a b => Sys2Proof.Machine.execVmin sw d a b s
  | .vmax sw d a b => Sys2Proof.Machine.execVmax sw d a b s
  | .vminn sw d a b => Sys2Proof.Machine.execVminn sw d a b s
  | .vmaxn sw d a b => Sys2Proof.Machine.execVmaxn sw d a b s
  | .vabs sw d a => Sys2Proof.Machine.execVabs sw d a s
  | .vneg sw d a => Sys2Proof.Machine.execVneg sw d a s
  | .vsqrt sw d a => Sys2Proof.Machine.execVsqrt sw d a s
  | .vrcp sw d a => Sys2Proof.Machine.execVrcp sw d a s
  | .vrsq sw d a => Sys2Proof.Machine.execVrsq sw d a s
  | .vexp2 sw d a => Sys2Proof.Machine.execVexp2 sw d a s
  | .vlog2 sw d a => Sys2Proof.Machine.execVlog2 sw d a s
  | .vand sw d a b => Sys2Proof.Machine.execVand sw d a b s
  | .vor sw d a b => Sys2Proof.Machine.execVor sw d a b s
  | .vxor sw d a b => Sys2Proof.Machine.execVxor sw d a b s
  | .vandn sw d a b => Sys2Proof.Machine.execVandn sw d a b s
  | .vnot sw d a => Sys2Proof.Machine.execVnot sw d a s
  | .vshl sw d a b => Sys2Proof.Machine.execVshl sw d a b s
  | .vshr sw d a b => Sys2Proof.Machine.execVshr sw d a b s
  | .vsar sw d a b => Sys2Proof.Machine.execVsar sw d a b s
  | .vadds sw d a b => Sys2Proof.Machine.execVadds sw d a b s
  | .vsubs sw d a b => Sys2Proof.Machine.execVsubs sw d a b s
  | .vavg sw d a b => Sys2Proof.Machine.execVavg sw d a b s
  | .vmulh sw d a b => Sys2Proof.Machine.execVmulh sw d a b s
  | .vceq sw d a b => Sys2Proof.Machine.execVceq sw d a b s
  | .vcne sw d a b => Sys2Proof.Machine.execVcne sw d a b s
  | .vclt sw d a b => Sys2Proof.Machine.execVclt sw d a b s
  | .vcle sw d a b => Sys2Proof.Machine.execVcle sw d a b s
  | .vcun sw d a b => Sys2Proof.Machine.execVcun sw d a b s
  | .vsel sw d a b => Sys2Proof.Machine.execVsel sw d a b s
  | .vclass sw d a => Sys2Proof.Machine.execVclass sw d a s
  | .vround sw d a => Sys2Proof.Machine.execVround sw d a s
  | .vshli sw d a n => Sys2Proof.Machine.execVshli sw d a n s
  | .vshri sw d a n => Sys2Proof.Machine.execVshri sw d a n s
  | .vsari sw d a n => Sys2Proof.Machine.execVsari sw d a n s
  | .vfma sw d a b => Sys2Proof.Machine.execVfma sw d a b s
  | .vfms sw d a b => Sys2Proof.Machine.execVfms sw d a b s
  | .vmad sw d a b => Sys2Proof.Machine.execVmad sw d a b s
  | .vdot2 sw d a b => Sys2Proof.Machine.execVdot2 sw d a b s
  | .vdot4 sw d a b => Sys2Proof.Machine.execVdot4 sw d a b s
  | .vdot4b sw d a b => Sys2Proof.Machine.execVdot4b sw d a b s
  | .vdote sw d a b => Sys2Proof.Machine.execVdote sw d a b s
  | .vcvt sw d a b f m => Sys2Proof.Machine.execVcvt sw d a b f m s
  | .vsplat sw d a n => Sys2Proof.Machine.execVsplat sw d a n s
  | .vins sw d a n => Sys2Proof.Machine.execVins sw d a n s
  | .vext sw d a n => Sys2Proof.Machine.execVext sw d a n s
  | .vshuf sw d a b => Sys2Proof.Machine.execVshuf sw d a b s
  | .vzipl sw d a b => Sys2Proof.Machine.execVzipl sw d a b s
  | .vziph sw d a b => Sys2Proof.Machine.execVziph sw d a b s
  | .vuzpl sw d a b => Sys2Proof.Machine.execVuzpl sw d a b s
  | .vuzph sw d a b => Sys2Proof.Machine.execVuzph sw d a b s
  | .vrev sw d a => Sys2Proof.Machine.execVrev sw d a s
  | .vcmpr sw d a b => Sys2Proof.Machine.execVcmpr sw d a b s
  | .vexpd sw d a b => Sys2Proof.Machine.execVexpd sw d a b s
  | .vpopm sw d a => Sys2Proof.Machine.execVpopm sw d a s
  | .valgn sw d a b => Sys2Proof.Machine.execValgn sw d a b s
  | .vrsum sw d a => Sys2Proof.Machine.execVrsum sw d a s
  | .vrmin sw d a => Sys2Proof.Machine.execVrmin sw d a s
  | .vrmax sw d a => Sys2Proof.Machine.execVrmax sw d a s
  | .vramax sw d a => Sys2Proof.Machine.execVramax sw d a s
  | .vrsumw sw d a => Sys2Proof.Machine.execVrsumw sw d a s
  | .vrany sw d a => Sys2Proof.Machine.execVrany sw d a s
  | .vrall sw d a => Sys2Proof.Machine.execVrall sw d a s
  | .laz sw a => Sys2Proof.Machine.execLaz sw a s
  | .laadd sw a b => Sys2Proof.Machine.execLaadd sw a b s
  | .lasub sw a b => Sys2Proof.Machine.execLasub sw a b s
  | .larnd sw d a => Sys2Proof.Machine.execLarnd sw d a s
  | .lamrg sw a b => Sys2Proof.Machine.execLamrg sw a b s
  | .larndb sw d a => Sys2Proof.Machine.execLarndb sw d a s
  | .last sw d a => Sys2Proof.Machine.execLast sw d a s
  | .svinit sw a b => Sys2Proof.Machine.execSvinit sw a b s
  | .svprb sw d a b => Sys2Proof.Machine.execSvprb sw d a b s
  | .svprb4 sw d a b => Sys2Proof.Machine.execSvprb4 sw d a b s
  | .svprbx sw d a b => Sys2Proof.Machine.execSvprbx sw d a b s
  | .svcmt sw a b => Sys2Proof.Machine.execSvcmt sw a b s
  | .svpick sw d a b => Sys2Proof.Machine.execSvpick sw d a b s
  | .svpickh sw d a b => Sys2Proof.Machine.execSvpickh sw d a b s
  | .mma sw c x y => Sys2Proof.Machine.execMma sw c x y s
  | .mmaz sw c x y => Sys2Proof.Machine.execMmaz sw c x y s
  | .mclaim sw d k t => Sys2Proof.Machine.execMclaim sw d k t s
  | .mrel sw d => Sys2Proof.Machine.execMrel sw d s
  | .mload sw d a b => Sys2Proof.Machine.execMload sw d a b s
  | .mloadt sw d a b => Sys2Proof.Machine.execMloadt sw d a b s
  | .mloadsc sw d a b => Sys2Proof.Machine.execMloadsc sw d a b s
  | .mdec sw d a b => Sys2Proof.Machine.execMdec sw d a b s
  | .mzero sw d => Sys2Proof.Machine.execMzero sw d s
  | .mstore sw d a b => Sys2Proof.Machine.execMstore sw d a b s
  | .mstoreb sw d a b => Sys2Proof.Machine.execMstoreb sw d a b s
  | .mstate sw d a => Sys2Proof.Machine.execMstate sw d a s
  | .mtbl sw a => Sys2Proof.Machine.execMtbl sw a s
  | .copy sw d j x => Sys2Proof.Machine.execCopy sw d j x s
  | .copym sw d j x => Sys2Proof.Machine.execCopym sw d j x s
  | .put sw d j x => Sys2Proof.Machine.execPut sw d j x s
  | .putsig sw d j x => Sys2Proof.Machine.execPutsig sw d j x s
  | .get sw d j x => Sys2Proof.Machine.execGet sw d j x s
  | .gather sw d j x => Sys2Proof.Machine.execGather sw d j x s
  | .scatter sw d j x => Sys2Proof.Machine.execScatter sw d j x s
  | .chain sw d j x => Sys2Proof.Machine.execChain sw d j x s
  | .agput sw d j x => Sys2Proof.Machine.execAgput sw d j x s
  | .agget sw d j x => Sys2Proof.Machine.execAgget sw d j x s
  | .collsub sw d j x => Sys2Proof.Machine.execCollsub sw d j x s
  | .barinit sw a b => Sys2Proof.Machine.execBarinit sw a b s
  | .barsig sw d a b => Sys2Proof.Machine.execBarsig sw d a b s
  | .barsign sw d a b => Sys2Proof.Machine.execBarsign sw d a b s
  | .barq sw d a => Sys2Proof.Machine.execBarq sw d a s
  | .cast sw d a t => Sys2Proof.Machine.execCast sw d a t s
  | .tagof sw d a => Sys2Proof.Machine.execTagof sw d a s
  | .tagchk sw a t => Sys2Proof.Machine.execTagchk sw a t s
  | .baddq sw d a b => Sys2Proof.Machine.execBaddq sw d a b s
  | .bquant sw d a b => Sys2Proof.Machine.execBquant sw d a b s
  | .blacc sw d a b => Sys2Proof.Machine.execBlacc sw d a b s
  | .hnop => Sys2Proof.Machine.execHnop s
  | .himm v => Sys2Proof.Machine.execHimm v s
  | .hmod r q f t => Sys2Proof.Machine.execHmod r q f t s
  | .hschedAlign n => Sys2Proof.Machine.execHschedAlign n s
  | .hschedStream => Sys2Proof.Machine.execHschedStream s
  | .dispatchGrant cluster => Sys2Proof.Machine.execDispatchGrant cluster s
  | .recordAccept cluster q r o sent => Sys2Proof.Machine.execRecordAccept cluster q r o sent s
  | .joinDecrement cell amount bits o => Sys2Proof.Machine.execJoinDecrement cell amount bits o s
  | .barrierSignal barrier amount o => Sys2Proof.Machine.execBarrierSignal barrier amount o s
  | .barrierStaggeredPush cluster k => Sys2Proof.Machine.execBarrierStaggeredPush cluster k s
  | .resultWriteback slot k => Sys2Proof.Machine.execResultWriteback slot k s
  | .slotLoadComplete core u => Sys2Proof.Machine.execSlotLoadComplete core u s
  | .mmaTileWrite core u => Sys2Proof.Machine.execMmaTileWrite core u s
  | .fetchLineDelivery core line => Sys2Proof.Machine.execFetchLineDelivery core line s
  | .alignRelease cluster => Sys2Proof.Machine.execAlignRelease cluster s
  | .alignTimeout slot => Sys2Proof.Machine.execAlignTimeout slot s
  | .pageWalk slot va acc => Sys2Proof.Machine.execPageWalk slot va acc s
  | .homeAcknowledgement slot cls => Sys2Proof.Machine.execHomeAcknowledgement slot cls s
  | .relaxedHomeFault slot cause addr pa => Sys2Proof.Machine.execRelaxedHomeFault slot cause addr pa s
  | .feHomeAccess slot => Sys2Proof.Machine.execFeHomeAccess slot s
  | .feWaitTimeout slot => Sys2Proof.Machine.execFeWaitTimeout slot s
  | .retryListResend slot => Sys2Proof.Machine.execRetryListResend slot s
  | .agputBlockApply core k => Sys2Proof.Machine.execAgputBlockApply core k s
  | .agedWaitTimeout slot => Sys2Proof.Machine.execAgedWaitTimeout slot s
  | .engineCommandStart core => Sys2Proof.Machine.execEngineCommandStart core s
  | .engineCommandComplete core k => Sys2Proof.Machine.execEngineCommandComplete core k s
  | .enginePageResume core k mapped => Sys2Proof.Machine.execEnginePageResume core k mapped s
  | .copymReceiverLanded core k receiver => Sys2Proof.Machine.execCopymReceiverLanded core k receiver s
  | .putsigSignal core k => Sys2Proof.Machine.execPutsigSignal core k s
  | .collsubAccept core k => Sys2Proof.Machine.execCollsubAccept core k s
  | .fabricPacketApply k => Sys2Proof.Machine.execFabricPacketApply k s
  | .fabricAck k => Sys2Proof.Machine.execFabricAck k s
  | .fablimitExpiry k => Sys2Proof.Machine.execFablimitExpiry k s
  | .fabricProbe slot => Sys2Proof.Machine.execFabricProbe slot s
  | .remoteNameResolution n cls => Sys2Proof.Machine.execRemoteNameResolution n cls s
  | .nameInvalidation n sector => Sys2Proof.Machine.execNameInvalidation n sector s
  | .nameRetireComplete n => Sys2Proof.Machine.execNameRetireComplete n s
  | .nameMoveComplete n => Sys2Proof.Machine.execNameMoveComplete n s
  | .linkTagFailure link => Sys2Proof.Machine.execLinkTagFailure link s
  | .linkPortFailure link => Sys2Proof.Machine.execLinkPortFailure link s
  | .linkKeyInstall link key => Sys2Proof.Machine.execLinkKeyInstall link key s
  | .keyIndexFlip link => Sys2Proof.Machine.execKeyIndexFlip link s
  | .linkRetireFlit link => Sys2Proof.Machine.execLinkRetireFlit link s
  | .timingMessage master => Sys2Proof.Machine.execTimingMessage master s
  | .timeMasterLoss => Sys2Proof.Machine.execTimeMasterLoss s
  | .relockEnd die => Sys2Proof.Machine.execRelockEnd die s
  | .scheduledFreqStep die => Sys2Proof.Machine.execScheduledFreqStep die s
  | .heartbeatFence slot => Sys2Proof.Machine.execHeartbeatFence slot s
  | .preemptWindowExpiry slot => Sys2Proof.Machine.execPreemptWindowExpiry slot s
  | .coreStateError core => Sys2Proof.Machine.execCoreStateError core s
  | .errorRecordResend slot => Sys2Proof.Machine.execErrorRecordResend slot s
  | .eolpredUpdate die source days => Sys2Proof.Machine.execEolpredUpdate die source days s
  | .debugSessionConnect id => Sys2Proof.Machine.execDebugSessionConnect id s
  | .eyepieceFailover => Sys2Proof.Machine.execEyepieceFailover s
  | .debugStop core => Sys2Proof.Machine.execDebugStop core s
  | .resetRequest => Sys2Proof.Machine.execResetRequest s
  | .i3cStart => Sys2Proof.Machine.execI3cStart s
  | .i3cStop => Sys2Proof.Machine.execI3cStop s
  | .pcap watts => Sys2Proof.Machine.execPcap watts s
  | .repairLogAppend entry => Sys2Proof.Machine.execRepairLogAppend entry s
  | .serviceImageUpdate release => Sys2Proof.Machine.execServiceImageUpdate release s
  | .writeRequest head va data => Sys2Proof.Machine.execWriteRequest head va data s
  | .readRequest head va len => Sys2Proof.Machine.execReadRequest head va len s
  | .launchRequest r => Sys2Proof.Machine.execLaunchRequest r s
  | .launchPushRetry launch => Sys2Proof.Machine.execLaunchPushRetry launch s
  | .waitRequest head payload => Sys2Proof.Machine.execWaitRequest head payload s
  | .launchEnd launch => Sys2Proof.Machine.execLaunchEnd launch s
  | .svcEcho => Sys2Proof.Machine.execSvcEcho s
  | .svcMap => Sys2Proof.Machine.execSvcMap s
  | .svcUnmap => Sys2Proof.Machine.execSvcUnmap s
  | .svcDone => Sys2Proof.Machine.execSvcDone s
  | .svcQname => Sys2Proof.Machine.execSvcQname s
  | .inServiceRepair unit => Sys2Proof.Machine.execInServiceRepair unit s
  | .laneSparingComplete link up => Sys2Proof.Machine.execLaneSparingComplete link up s
  | .holdNotice slot => Sys2Proof.Machine.execHoldNotice slot s
  | .queueAttach cluster q x => Sys2Proof.Machine.execQueueAttach cluster q x s
  | .queueDetach cluster q => Sys2Proof.Machine.execQueueDetach cluster q s
  | .debugResume place => Sys2Proof.Machine.execDebugResume place s
  | .debugBreakClaim core => Sys2Proof.Machine.execDebugBreakClaim core s
  | .debugSessionEnd => Sys2Proof.Machine.execDebugSessionEnd s
  | .powerOn => Sys2Proof.Machine.execPowerOn s
  | .powerLoss => Sys2Proof.Machine.execPowerLoss s
  | .resetAsserted => Sys2Proof.Machine.execResetAsserted s

end Sys2Proof.Machine
end

