-- ==== Sys2Proof/Machine/Sched.lean ====
section
/-! DEFINITION. Whose turn it is: the order in which slots issue and the steps that no word makes
come about is open (DESIGN CHOICE, log 1), but for the steps that are due at a time of their own. -/

namespace Sys2Proof.Machine

/-- What a step does. -/
inductive Turn where
  /-- A step of the part that no word makes. -/
  | event (i : Instr)
  /-- The oldest outside event comes in. -/
  | arrival (i : Instr) (later : List Instr)
  /-- A slot issues its next word. -/
  | slot (c : Nat)
  /-- Time passes. -/
  | idle
  deriving DecidableEq, Repr

/-- The die's clock runs (R386, R416). -/
def State.clocked (s : State) (d : Nat) : Bool := s.power == .run && (s.die d).relock.isNone

/-! ## A die whose clock stands (R386, R387)

Nothing of it changes, and nothing is performed there, until it has restarted. -/

/-- The die on which the agent of a position of the Almanac's table stands: the home of its bucket, where the
table stands is open (R76; DESIGN CHOICE, log 19). -/
def almanacDie (p : Nat) : Nat := homeDie (64 * p) ^^^ (Config.choice 0 0x600 % 8)

/-- The die of a sector (R17). -/
def sectorDie (q : Nat) : Nat := q / 28

/-- What a die holds: its units and their clocks, the memory and the names whose homes it has, its caches of
names and its links. A step that waits for its relock leaves all this as it is. -/
structure Holding where
  slots : AMap Slot
  cores : AMap Core
  clusters : AMap Cluster
  die : Die
  mem : Mem
  full : NSet
  ages : AMap (BitVec 32)
  poison : NSet
  regs : AMap PageReg
  almanac : AMap Entry
  caches : AMap (List (Quad × Word))
  serial : BitVec 88
  links : AMap Link
  flows : AMap Flow
  deriving DecidableEq

/-- What die `d` holds. -/
def State.holding (s : State) (d : Nat) : Holding :=
  let here (n : Nat) (a : Nat) : Bool := !s.remote (n * a) && homeDie (n * a) == d
  { slots := s.slots.filter fun e => dieOf e.1 == d
    cores := s.cores.filter fun e => coreDie e.1 == d
    clusters := s.clusters.filter fun e => e.1 / 512 == d
    die := { s.die d with waitingSteps := [], relock := none }
    mem := s.mem.filter fun e => here 1 e.1
    full := s.full.filter (here 8)
    ages := s.ages.filter fun e => here 256 e.1
    poison := s.poison.filter (here 8)
    regs := s.regs.filter fun e => here 65536 e.1
    almanac := s.almanac.filter fun e => almanacDie e.1 == d
    caches := s.caches.filter fun e => sectorDie e.1 == d
    serial := if d = 0 then s.serial else 0
    links := s.links.filter fun e => linkDie e.1 == d
    flows := s.flows.filter fun e => e.1 / 1024 == d }

/-- The stores issued and not performed yet, whose home stands. -/
def State.heldStores (s : State) : List Packet :=
  (s.fabric ++ s.slots.flatMap (·.2.stores)).filter fun p => p.stage != .applied && s.homeStands p.loc

/-- The loads not performed yet, whose home stands: the slot, the issue position, and the unit and piece of a unit
load. -/
def State.heldLoads (s : State) : List (Nat × Nat × Option (Nat × Nat)) :=
  let out (c : Nat) (o : Out) : Option (Nat × Nat × Option (Nat × Nat)) :=
    if o.load.any fun q => s.homeStands q.pa then some (c, o.issued, none) else none
  let piece (k u : Nat) (x : MUnit) (l : UnitLoad) : List (Nat × Nat × Option (Nat × Nat)) :=
    l.pieces.zipIdx.filterMap fun e =>
      if e.1.got.isNone && e.1.core.isNone && s.homeStands e.1.pa then
        some (ownerSlot k x, l.pos, some (u, e.2)) else none
  s.slots.flatMap (fun e => e.2.outs.filterMap (out e.1))
    ++ s.cores.flatMap fun e => e.2.units.toList.zipIdx.flatMap fun y =>
      match y.1.load with
      | some l => piece e.1 y.2 y.1 l
      | none => []

/-- A step from `s` to `t` would change what a die holds whose clock stands, or perform an access there. -/
def State.offLimits (s t : State) : Bool :=
  ((List.range 8).any fun d => s.stands d && t.stands d && s.holding d != t.holding d)
    || (s.heldStores.any fun p => !t.heldStores.any fun q => q.slot == p.slot && q.pos == p.pos && q.loc == p.loc)
    || (s.heldLoads.any fun e => !t.heldLoads.contains e)

/-- The step can come about in this state. -/
def State.can (s : State) (i : Instr) : Bool :=
  match exec i s with
  | .next t => !s.offLimits t
  | _ => false

/-- An outside event has to wait for a die to restart. -/
def State.stuck (s : State) (i : Instr) : Bool :=
  match if (encode i).isNone then exec i s else .refused .notEnabled with
  | .next t => s.offLimits t
  | _ => false

/-! ## Steps due at a time (R106, R116, R242, R266, R324, R339, R375, R386, R388, R416)

What comes at the end of a die cycle comes before anything of a later one. -/

/-- The timed steps of a slot. -/
noncomputable def slotDue (c : Nat) : List Instr :=
  [.heartbeatFence c, .alignTimeout c, .feWaitTimeout c, .agedWaitTimeout c, .preemptWindowExpiry c]

/-- The timed steps of every slot and die. -/
noncomputable def State.due (s : State) : List Instr :=
  ((s.slots.filter fun e => s.clocked (dieOf e.1) && e.2.align.isSome).map fun e =>
      .alignRelease (clusterOf e.1))
    ++ ((s.slots.filter fun e => s.clocked (dieOf e.1)).flatMap fun e => slotDue e.1)
    ++ ((s.clusters.filter fun e => s.clocked (e.1 / 512)).flatMap fun e =>
      (List.range e.2.pushes.length).map (.barrierStaggeredPush e.1 ·))
    ++ (s.fabric.zipIdx.filterMap fun e => if s.overdue e.1 then some (.fablimitExpiry e.2) else none)
    ++ s.dies.flatMap (fun e => [.relockEnd e.1, .scheduledFreqStep e.1])
    ++ s.schedule.map (fun e => .scheduledFreqStep e.1)
    ++ (if s.stopping then [.i3cStop] else [])

/-! ## Steps that come about at no stated time -/

/-- What may come back to a slot, be sent again by it, or be fetched for it. -/
noncomputable def slotEvents (c : Nat) (x : Slot) : List Instr :=
  (List.range x.outs.length).map (.resultWriteback c ·)
    ++ [.fetchLineDelivery (coreOf c) (x.pc.toNat / 64),
        .feHomeAccess c, .retryListResend c, .fabricProbe c, .holdNotice c, .errorRecordResend c,
        .homeAcknowledgement c .die, .homeAcknowledgement c .package,
        .homeAcknowledgement c .fabric, .homeAcknowledgement c .ultra]

/-- The steps of the command at place `j` of a core's engine queue. -/
noncomputable def commandEvents (k j : Nat) : List Instr :=
  [.engineCommandComplete k j, .enginePageResume k j true, .enginePageResume k j false,
   .putsigSignal k j, .agputBlockApply k j]
    ++ (List.range 16).map (.copymReceiverLanded k j ·)

/-- The steps of a core's matrix unit and engine, and of the blocks that come to it (R350). -/
noncomputable def State.coreEvents (s : State) (k : Nat) (x : Core) : List Instr :=
  (List.range 8).flatMap (fun u => [.slotLoadComplete k u, .mmaTileWrite k u])
    ++ (List.range (x.queue.length + s.incoming.length)).map (.collsubAccept k ·)
    ++ (if x.queue.isEmpty then [] else
      .engineCommandStart k :: (List.range x.queue.length).flatMap (commandEvents k))

/-- The steps of a name that retires or moves (R81, R82). -/
noncomputable def nameEvents (e : Entry) : List Instr :=
  if e.state = .live then [] else
    .nameRetireComplete e.name :: .nameMoveComplete e.name
      :: e.awaiting.map (.nameInvalidation e.name ·)

/-- The steps of stores on their way (R236, R337, R339) and of what other packages ask (R78, R340), and of
a link (R344). -/
noncomputable def State.packetEvents (s : State) : List Instr :=
  let n := s.fabric.length
  (List.range (n + s.issued.length + s.incoming.length)).map .fabricPacketApply
    ++ (List.range n).flatMap (fun k => [.fabricAck k, .fablimitExpiry k])
    ++ s.slots.map (fun e => .fablimitExpiry (n + e.1))
    ++ s.incoming.filterMap fun r => r.name.map fun e => .remoteNameResolution e.1 e.2
noncomputable def linkEvents (l : Nat) : List Instr := [.keyIndexFlip l, .linkRetireFlit l]

/-- The items that the senders of a die keep for its error queue are sent again (R419). -/
noncomputable def dieEvents (d : Nat) (x : Die) : List Instr :=
  if x.errHold.isEmpty then [] else [.errorRecordResend (32768 * d)]

/-- The steps of the service (R91, R144, R414, R420), which runs on every die. -/
noncomputable def State.serviceEvents (s : State) : List Instr :=
  if !(List.range 8).any s.clocked then [] else (if s.scalls.isEmpty then [] else [.svcEcho, .svcMap, .svcUnmap, .svcDone, .svcQname])
    ++ (List.range s.launches.length).flatMap fun l => [.launchPushRetry l, .launchEnd l]

/-- Every step that might come about of itself. -/
noncomputable def State.proposals (s : State) : List Instr :=
  (s.slots.filter fun e => s.clocked (dieOf e.1)).flatMap (fun e => slotEvents e.1 e.2)
    ++ (s.cores.filter fun e => s.clocked (coreDie e.1)).flatMap (fun e => s.coreEvents e.1 e.2)
    ++ (s.clusters.filter fun e => s.clocked (e.1 / 512) && !s.stopping).map (fun e => .dispatchGrant e.1)
    ++ (s.dies.filter fun e => s.clocked e.1).flatMap (fun e => dieEvents e.1 e.2)
    ++ s.almanac.flatMap (fun e => nameEvents e.2)
    ++ s.packetEvents
    ++ s.links.flatMap (fun e => linkEvents e.1)
    ++ s.serviceEvents ++ [.timeMasterLoss]

/-! ## Slots that issue (R112) -/

/-- The next word of slot `c` is in the buffer, or its fetch ends in a fault (R111). -/
def State.hasWord (s : State) (c : Nat) : Bool :=
  noCode (s.slot c).pc || (s.nextLine c).isSome || s.fetchFaults c (s.slot c).pc.toNat

/-- A debug stop has come to a slot of a service core within the word that it has now ended (R407). -/
def Slot.halts (x : Slot) : Bool := x.haltNext && x.between

/-- Slot `c` can issue: it runs, its die is clocked, it waits neither at an ALIGN nor for the result of a SPAWNQ,
and its next word is there. A slot that is about to halt takes its turn for that. -/
def State.issues (s : State) (c : Nat) : Bool :=
  s.clocked (dieOf c) && (s.slot c).phase.run? == some .running
    && ((s.slot c).halts || (!s.aligned c && !(s.slot c).owes && s.hasWord c))

/-- The slots of a list up to the first that surely does not hold issue. -/
def State.uptoSure (s : State) : List Nat → List Nat
  | [] => []
  | c :: cs => if (s.slot c).slow then c :: s.uptoSure cs else [c]

/-- The slots from which a core's next one comes: of those that can issue, the first from the slot pointer
on; whether one that may still be held issues, is open (R112). -/
def State.nextSlots (s : State) (core : Nat) : List Nat :=
  s.uptoSure ((s.rotation core).filter s.issues)

/-- A core issues one word in a die cycle, and the cores of a die in ascending order (R112, R136). -/
def State.inOrder (s : State) (c : Nat) : Bool :=
  match (s.die (dieOf c)).lastIssue with
  | none => true
  | some (t, k) => t != (s.die (dieOf c)).dcyc || decide (coreOf k < coreOf c)

/-- Slot `c` may be the next to issue. -/
def State.mayIssue (s : State) (c : Nat) : Bool :=
  s.inOrder c && (s.nextSlots (coreOf c)).contains c

/-- Slot `c` has issued a word: the core's slot pointer moves past it (R112). -/
def State.tookTurn (s : State) (c : Nat) : State :=
  (s.modCore (coreOf c) fun k => { k with rot := (c + 1) % 4 }).modDie (dieOf c) fun d =>
    { d with lastIssue := some (d.dcyc, c) }

/-- Slot `c` has issued a word between two states: it has gone on, or what it runs has changed. -/
def State.hasIssued (s t : State) (c : Nat) : Bool :=
  (s.slot c).pos != (t.slot c).pos || (s.slot c).pc != (t.slot c).pc
    || (s.slot c).phase != (t.slot c).phase

/-- What a step may do, when nothing is due and nothing arrives. -/
noncomputable def State.turns (s : State) : List Turn :=
  (if s.power = .run then (s.proposals.filter s.can).map .event else [])
    ++ ((s.slots.map (·.1)).filter s.mayIssue).map .slot

/-- One of several turns: which, is open (R112; DESIGN CHOICE, log 1). -/
def State.pick (s : State) : List Turn → Turn
  | [] => .idle
  | [t] => t
  | t :: u :: l => ((t :: u :: l)[Config.choice s.free 0x300 % (l.length + 2)]?).getD t

/-- The turn of this step. -/
noncomputable def State.turn (s : State) : Turn :=
  match if s.power = .run then s.due.find? s.can else none with
  | some i => .event i
  | none =>
    match s.inbox with
    | i :: l => if s.stuck i then s.pick s.turns else .arrival i l
    | [] => s.pick s.turns

/-! ## What a turn does -/

/-- Time passes over a step. -/
def timed : Host.Outcome State Fault Refusal → Host.Outcome State Fault Refusal
  | .next s => .next s.tick
  | .fault f => .fault f
  | .refused r => .refused r

/-- The word a slot issues, once it is fetched: a word that decodes to no instruction raises ILLEGAL
at itself (R44 to R47), but for a malformed hint word, whose group raises it (R42). -/
noncomputable def issueWord (w : BitVec 32) (s : State) : Host.Outcome State Fault Refusal :=
  match decodeWord w with
  | .ok i => exec i s
  | .error .hintMalformed => hintMalformed s
  | .error _ => .next (s.bump.stop (.plain .illegal))

/-- A word has retired: no hint, and its slot has taken an issue position (R393). -/
def State.retired (s t : State) (w : BitVec 32) : Bool := !s.me.isHint w && s.me.pos != t.me.pos

/-- The slot whose turn it is fetches and issues its next word; what its last word was still writing is
written first (R225). The Collimator checks a word that retires (R393). -/
noncomputable def issueNext (s : State) : Host.Outcome State Fault Refusal :=
  if s.me.halts then .next (s.bump.haltSlot s.focus)
  else
    let s := s.finishLate s.focus
    match fetchWord s with
    | .error e => .next (s.bump.stop e)
    | .ok (t, w) =>
      match issueWord w t with
      | .next u => .next (if t.retired u w then t.checked u else u)
      | o => o

/-- The turn of a slot that `s` says may issue; it holds issue where its word needs a die whose clock stands
(R387). -/
noncomputable def issueSlot (s : State) : Host.Outcome State Fault Refusal :=
  match issueNext s with
  | .next t =>
    if s.offLimits t then .next (s.bump.stop .hold)
    else .next (if s.hasIssued t s.focus then t.tookTurn s.focus else t)
  | o => o

/-- The service has left the request for later (R92). -/
def State.defers (s : State) (i : Instr) : Bool :=
  match i with
  | .launchRequest r => s.power == .run && headOf 3 r.head
  | _ => false

/-- An outside event comes in; one that cannot come about in this state leaves it as it is. A request that the
service leaves for later comes in once more, after the others: the service handles requests in any order (R413). -/
def arrive (i : Instr) (s : State) : Host.Outcome State Fault Refusal :=
  match if (encode i).isNone then exec i s else .refused .notEnabled with
  | .refused _ => .next (if s.defers i then { s.bump with inbox := s.inbox ++ [i] } else s.bump)
  | o => o

/-- The turn's effect. -/
noncomputable def State.take (s : State) : Turn → Host.Outcome State Fault Refusal
  | .event i => exec i s
  | .arrival i l => arrive i { s with inbox := l }
  | .slot c => issueSlot { s with focus := c }
  | .idle => .next s.bump

/-! ## A word placed to issue next (DESIGN CHOICE, log 21) -/

/-- A page table that maps one page at `va`, readable, writable and executable in user mode: its
three levels stand at `table` and the two frames after it, the page at the frame after those. -/
def Mem.mapPage (m : Mem) (table va : Nat) : Mem :=
  let m := m.writeLE (table + va / 2 ^ 42 % 4096 * 8) 8 (table + 0x10001)
  let m := m.writeLE (table + 0x10000 + va / 2 ^ 29 % 8192 * 8) 8 (table + 0x20001)
  m.writeLE (table + 0x20000 + va / 2 ^ 16 % 8192 * 8) 8 (table + 0x3007F)

/-- Where `placeWord` puts the table, and the address it maps. -/
def placeTable : Nat := 0x2000000
def placePc : Nat := 0x10000

/-- The line of a placed word. -/
def placeLine (asid : BitVec 16) (w : Nat) : Line :=
  ⟨placePc, asid, false, false, some (BitVec.ofNat 32 w) :: List.replicate 15 (some 0)⟩

/-- The slot whose turn it is runs an activation whose next word is `w`, as after a launch that the
host has loaded: no other slot runs, no outside event is pending, the word's line is buffered, and nothing
else is cached. -/
def State.placeWord (s : State) (w : Nat) : State :=
  let x := s.me
  let mem := (s.mem.mapPage placeTable placePc).writeLE (placeTable + 0x30000) 4 w
  { s with
    power := .run
    stopping := false
    inbox := []
    slots := [(s.focus, { x with
      phase := .active .running, pc := BitVec.ofNat 64 placePc
      root := BitVec.ofNat 40 (placeTable / 65536), hints := .empty, align := none
      heart := 0, wait := none, nameOp := none, slow := false, late := [], seen := none, stores := [], sending := [], haltNext := false })]
    cores := s.cores.set (coreOf s.focus)
      { s.myCore with itlb := [], upsets := [], buffer := [placeLine x.asid w] }
    clusters := s.clusters.set (clusterOf s.focus) { s.myCluster with tlb := [], lines := [] }
    dies := s.dies.set (dieOf s.focus) { s.myDie with lastIssue := none, relock := none }
    mem := mem }

end Sys2Proof.Machine
end

