-- ==== Sys2Proof/Machine/Step.lean ====
section
/-! DEFINITION. One step of the package, and the state in which a given instruction is the next one
to issue. -/

namespace Sys2Proof.Machine

/-- One step: a slot issues a word, or a step that no word makes comes about, or time passes. -/
noncomputable def step (s : State) : Host.Outcome State Fault Refusal := timed (s.take s.turn)

/-- `s` with the word `w` placed where the next step fetches it (DESIGN CHOICE, log 21). -/
def State.withFetchWord (s : State) (nbits w : Nat) : State := s.placeWord (w % 2 ^ nbits)

end Sys2Proof.Machine
end

