-- ==== Sys2Proof/Laws/PerInstr.lean ====
section
/-! SUPPORT. Field extraction from the packed formats of R37, and the round trip of each
constructor: decoding the word of a well-formed instruction gives it back. -/

set_option Elab.async false

namespace Sys2Proof.Laws

theorem ext_hi {m n : Nat} (x : BitVec m) (y : BitVec n) (k len start : Nat)
    (h : start = n + k) : (x ++ y).extractLsb' start len = x.extractLsb' k len := by
  subst h
  apply BitVec.eq_of_getLsbD_eq
  intro i hi
  have h2 : ¬ (n + k + i < n) := by omega
  have h3 : n + k + i - n = k + i := by omega
  simp [BitVec.getLsbD_append, hi, h2, h3]

theorem ext_lo {m n : Nat} (x : BitVec m) (y : BitVec n) : (x ++ y).extractLsb' 0 n = y := by
  apply BitVec.eq_of_getLsbD_eq
  intro i hi
  simp [BitVec.getLsbD_append, hi]

theorem ext_all {n : Nat} (y : BitVec n) : y.extractLsb' 0 n = y := by
  apply BitVec.eq_of_getLsbD_eq
  intro i hi
  simp [hi]

@[simp] theorem ofBool_beq_one (s : Bool) : (BitVec.ofBool s == 1#1) = s := by cases s <;> rfl

@[simp] theorem packA_s (s : Bool) (maj : BitVec 6) (d : BitVec 6) (a : BitVec 6) (b : BitVec 6) (fn : BitVec 7) :
    fld 31 1 (packA s maj d a b fn) = BitVec.ofBool s := by
  unfold fld packA
  rw [ext_hi (k := 24) (h := rfl), ext_hi (k := 18) (h := rfl), ext_hi (k := 12) (h := rfl), ext_hi (k := 6) (h := rfl), ext_hi (k := 0) (h := rfl), ext_all]

@[simp] theorem packA_maj (s : Bool) (maj : BitVec 6) (d : BitVec 6) (a : BitVec 6) (b : BitVec 6) (fn : BitVec 7) :
    fld 25 6 (packA s maj d a b fn) = maj := by
  unfold fld packA
  rw [ext_hi (k := 18) (h := rfl), ext_hi (k := 12) (h := rfl), ext_hi (k := 6) (h := rfl), ext_hi (k := 0) (h := rfl), ext_lo]

@[simp] theorem packA_d (s : Bool) (maj : BitVec 6) (d : BitVec 6) (a : BitVec 6) (b : BitVec 6) (fn : BitVec 7) :
    fld 19 6 (packA s maj d a b fn) = d := by
  unfold fld packA
  rw [ext_hi (k := 12) (h := rfl), ext_hi (k := 6) (h := rfl), ext_hi (k := 0) (h := rfl), ext_lo]

@[simp] theorem packA_a (s : Bool) (maj : BitVec 6) (d : BitVec 6) (a : BitVec 6) (b : BitVec 6) (fn : BitVec 7) :
    fld 13 6 (packA s maj d a b fn) = a := by
  unfold fld packA
  rw [ext_hi (k := 6) (h := rfl), ext_hi (k := 0) (h := rfl), ext_lo]

@[simp] theorem packA_b (s : Bool) (maj : BitVec 6) (d : BitVec 6) (a : BitVec 6) (b : BitVec 6) (fn : BitVec 7) :
    fld 7 6 (packA s maj d a b fn) = b := by
  unfold fld packA
  rw [ext_hi (k := 0) (h := rfl), ext_lo]

@[simp] theorem packA_fn (s : Bool) (maj : BitVec 6) (d : BitVec 6) (a : BitVec 6) (b : BitVec 6) (fn : BitVec 7) :
    fld 0 7 (packA s maj d a b fn) = fn := by
  unfold fld packA
  rw [ext_lo]

@[simp] theorem packAc_s (s : Bool) (maj : BitVec 6) (d : BitVec 6) (a : BitVec 6) (k : BitVec 1) (t : BitVec 5) (fn : BitVec 7) :
    fld 31 1 (packAc s maj d a k t fn) = BitVec.ofBool s := by
  unfold fld packAc
  rw [ext_hi (k := 24) (h := rfl), ext_hi (k := 19) (h := rfl), ext_hi (k := 18) (h := rfl), ext_hi (k := 12) (h := rfl), ext_hi (k := 6) (h := rfl), ext_hi (k := 0) (h := rfl), ext_all]

@[simp] theorem packAc_maj (s : Bool) (maj : BitVec 6) (d : BitVec 6) (a : BitVec 6) (k : BitVec 1) (t : BitVec 5) (fn : BitVec 7) :
    fld 25 6 (packAc s maj d a k t fn) = maj := by
  unfold fld packAc
  rw [ext_hi (k := 18) (h := rfl), ext_hi (k := 13) (h := rfl), ext_hi (k := 12) (h := rfl), ext_hi (k := 6) (h := rfl), ext_hi (k := 0) (h := rfl), ext_lo]

@[simp] theorem packAc_d (s : Bool) (maj : BitVec 6) (d : BitVec 6) (a : BitVec 6) (k : BitVec 1) (t : BitVec 5) (fn : BitVec 7) :
    fld 19 6 (packAc s maj d a k t fn) = d := by
  unfold fld packAc
  rw [ext_hi (k := 12) (h := rfl), ext_hi (k := 7) (h := rfl), ext_hi (k := 6) (h := rfl), ext_hi (k := 0) (h := rfl), ext_lo]

@[simp] theorem packAc_a (s : Bool) (maj : BitVec 6) (d : BitVec 6) (a : BitVec 6) (k : BitVec 1) (t : BitVec 5) (fn : BitVec 7) :
    fld 13 6 (packAc s maj d a k t fn) = a := by
  unfold fld packAc
  rw [ext_hi (k := 6) (h := rfl), ext_hi (k := 1) (h := rfl), ext_hi (k := 0) (h := rfl), ext_lo]

@[simp] theorem packAc_k (s : Bool) (maj : BitVec 6) (d : BitVec 6) (a : BitVec 6) (k : BitVec 1) (t : BitVec 5) (fn : BitVec 7) :
    fld 12 1 (packAc s maj d a k t fn) = k := by
  unfold fld packAc
  rw [ext_hi (k := 5) (h := rfl), ext_hi (k := 0) (h := rfl), ext_lo]

@[simp] theorem packAc_t (s : Bool) (maj : BitVec 6) (d : BitVec 6) (a : BitVec 6) (k : BitVec 1) (t : BitVec 5) (fn : BitVec 7) :
    fld 7 5 (packAc s maj d a k t fn) = t := by
  unfold fld packAc
  rw [ext_hi (k := 0) (h := rfl), ext_lo]

@[simp] theorem packAc_fn (s : Bool) (maj : BitVec 6) (d : BitVec 6) (a : BitVec 6) (k : BitVec 1) (t : BitVec 5) (fn : BitVec 7) :
    fld 0 7 (packAc s maj d a k t fn) = fn := by
  unfold fld packAc
  rw [ext_lo]

@[simp] theorem packW_s (s : Bool) (maj : BitVec 6) (d : BitVec 6) (a : BitVec 6) (b : BitVec 6) (fmt : BitVec 5) (mode : BitVec 2) :
    fld 31 1 (packW s maj d a b fmt mode) = BitVec.ofBool s := by
  unfold fld packW
  rw [ext_hi (k := 29) (h := rfl), ext_hi (k := 24) (h := rfl), ext_hi (k := 18) (h := rfl), ext_hi (k := 12) (h := rfl), ext_hi (k := 6) (h := rfl), ext_hi (k := 0) (h := rfl), ext_all]

@[simp] theorem packW_maj (s : Bool) (maj : BitVec 6) (d : BitVec 6) (a : BitVec 6) (b : BitVec 6) (fmt : BitVec 5) (mode : BitVec 2) :
    fld 25 6 (packW s maj d a b fmt mode) = maj := by
  unfold fld packW
  rw [ext_hi (k := 23) (h := rfl), ext_hi (k := 18) (h := rfl), ext_hi (k := 12) (h := rfl), ext_hi (k := 6) (h := rfl), ext_hi (k := 0) (h := rfl), ext_lo]

@[simp] theorem packW_d (s : Bool) (maj : BitVec 6) (d : BitVec 6) (a : BitVec 6) (b : BitVec 6) (fmt : BitVec 5) (mode : BitVec 2) :
    fld 19 6 (packW s maj d a b fmt mode) = d := by
  unfold fld packW
  rw [ext_hi (k := 17) (h := rfl), ext_hi (k := 12) (h := rfl), ext_hi (k := 6) (h := rfl), ext_hi (k := 0) (h := rfl), ext_lo]

@[simp] theorem packW_a (s : Bool) (maj : BitVec 6) (d : BitVec 6) (a : BitVec 6) (b : BitVec 6) (fmt : BitVec 5) (mode : BitVec 2) :
    fld 13 6 (packW s maj d a b fmt mode) = a := by
  unfold fld packW
  rw [ext_hi (k := 11) (h := rfl), ext_hi (k := 6) (h := rfl), ext_hi (k := 0) (h := rfl), ext_lo]

@[simp] theorem packW_b (s : Bool) (maj : BitVec 6) (d : BitVec 6) (a : BitVec 6) (b : BitVec 6) (fmt : BitVec 5) (mode : BitVec 2) :
    fld 7 6 (packW s maj d a b fmt mode) = b := by
  unfold fld packW
  rw [ext_hi (k := 5) (h := rfl), ext_hi (k := 0) (h := rfl), ext_lo]

@[simp] theorem packW_fmt (s : Bool) (maj : BitVec 6) (d : BitVec 6) (a : BitVec 6) (b : BitVec 6) (fmt : BitVec 5) (mode : BitVec 2) :
    fld 2 5 (packW s maj d a b fmt mode) = fmt := by
  unfold fld packW
  rw [ext_hi (k := 0) (h := rfl), ext_lo]

@[simp] theorem packW_mode (s : Bool) (maj : BitVec 6) (d : BitVec 6) (a : BitVec 6) (b : BitVec 6) (fmt : BitVec 5) (mode : BitVec 2) :
    fld 0 2 (packW s maj d a b fmt mode) = mode := by
  unfold fld packW
  rw [ext_lo]

@[simp] theorem packI_s (s : Bool) (maj : BitVec 6) (d : BitVec 6) (a : BitVec 6) (imm : BitVec 13) :
    fld 31 1 (packI s maj d a imm) = BitVec.ofBool s := by
  unfold fld packI
  rw [ext_hi (k := 18) (h := rfl), ext_hi (k := 12) (h := rfl), ext_hi (k := 6) (h := rfl), ext_hi (k := 0) (h := rfl), ext_all]

@[simp] theorem packI_maj (s : Bool) (maj : BitVec 6) (d : BitVec 6) (a : BitVec 6) (imm : BitVec 13) :
    fld 25 6 (packI s maj d a imm) = maj := by
  unfold fld packI
  rw [ext_hi (k := 12) (h := rfl), ext_hi (k := 6) (h := rfl), ext_hi (k := 0) (h := rfl), ext_lo]

@[simp] theorem packI_d (s : Bool) (maj : BitVec 6) (d : BitVec 6) (a : BitVec 6) (imm : BitVec 13) :
    fld 19 6 (packI s maj d a imm) = d := by
  unfold fld packI
  rw [ext_hi (k := 6) (h := rfl), ext_hi (k := 0) (h := rfl), ext_lo]

@[simp] theorem packI_a (s : Bool) (maj : BitVec 6) (d : BitVec 6) (a : BitVec 6) (imm : BitVec 13) :
    fld 13 6 (packI s maj d a imm) = a := by
  unfold fld packI
  rw [ext_hi (k := 0) (h := rfl), ext_lo]

@[simp] theorem packI_imm (s : Bool) (maj : BitVec 6) (d : BitVec 6) (a : BitVec 6) (imm : BitVec 13) :
    fld 0 13 (packI s maj d a imm) = imm := by
  unfold fld packI
  rw [ext_lo]

@[simp] theorem packSh_s (s : Bool) (maj : BitVec 6) (d : BitVec 6) (a : BitVec 6) (sel : BitVec 3) (zero : BitVec 4) (n : BitVec 6) :
    fld 31 1 (packSh s maj d a sel zero n) = BitVec.ofBool s := by
  unfold fld packSh
  rw [ext_hi (k := 25) (h := rfl), ext_hi (k := 21) (h := rfl), ext_hi (k := 18) (h := rfl), ext_hi (k := 12) (h := rfl), ext_hi (k := 6) (h := rfl), ext_hi (k := 0) (h := rfl), ext_all]

@[simp] theorem packSh_maj (s : Bool) (maj : BitVec 6) (d : BitVec 6) (a : BitVec 6) (sel : BitVec 3) (zero : BitVec 4) (n : BitVec 6) :
    fld 25 6 (packSh s maj d a sel zero n) = maj := by
  unfold fld packSh
  rw [ext_hi (k := 19) (h := rfl), ext_hi (k := 15) (h := rfl), ext_hi (k := 12) (h := rfl), ext_hi (k := 6) (h := rfl), ext_hi (k := 0) (h := rfl), ext_lo]

@[simp] theorem packSh_d (s : Bool) (maj : BitVec 6) (d : BitVec 6) (a : BitVec 6) (sel : BitVec 3) (zero : BitVec 4) (n : BitVec 6) :
    fld 19 6 (packSh s maj d a sel zero n) = d := by
  unfold fld packSh
  rw [ext_hi (k := 13) (h := rfl), ext_hi (k := 9) (h := rfl), ext_hi (k := 6) (h := rfl), ext_hi (k := 0) (h := rfl), ext_lo]

@[simp] theorem packSh_a (s : Bool) (maj : BitVec 6) (d : BitVec 6) (a : BitVec 6) (sel : BitVec 3) (zero : BitVec 4) (n : BitVec 6) :
    fld 13 6 (packSh s maj d a sel zero n) = a := by
  unfold fld packSh
  rw [ext_hi (k := 7) (h := rfl), ext_hi (k := 3) (h := rfl), ext_hi (k := 0) (h := rfl), ext_lo]

@[simp] theorem packSh_sel (s : Bool) (maj : BitVec 6) (d : BitVec 6) (a : BitVec 6) (sel : BitVec 3) (zero : BitVec 4) (n : BitVec 6) :
    fld 10 3 (packSh s maj d a sel zero n) = sel := by
  unfold fld packSh
  rw [ext_hi (k := 4) (h := rfl), ext_hi (k := 0) (h := rfl), ext_lo]

@[simp] theorem packSh_zero (s : Bool) (maj : BitVec 6) (d : BitVec 6) (a : BitVec 6) (sel : BitVec 3) (zero : BitVec 4) (n : BitVec 6) :
    fld 6 4 (packSh s maj d a sel zero n) = zero := by
  unfold fld packSh
  rw [ext_hi (k := 0) (h := rfl), ext_lo]

@[simp] theorem packSh_n (s : Bool) (maj : BitVec 6) (d : BitVec 6) (a : BitVec 6) (sel : BitVec 3) (zero : BitVec 4) (n : BitVec 6) :
    fld 0 6 (packSh s maj d a sel zero n) = n := by
  unfold fld packSh
  rw [ext_lo]

@[simp] theorem packEx_s (s : Bool) (maj : BitVec 6) (d : BitVec 6) (a : BitVec 6) (pos : BitVec 6) (len : BitVec 6) (sgn : BitVec 1) :
    fld 31 1 (packEx s maj d a pos len sgn) = BitVec.ofBool s := by
  unfold fld packEx
  rw [ext_hi (k := 30) (h := rfl), ext_hi (k := 24) (h := rfl), ext_hi (k := 18) (h := rfl), ext_hi (k := 12) (h := rfl), ext_hi (k := 6) (h := rfl), ext_hi (k := 0) (h := rfl), ext_all]

@[simp] theorem packEx_maj (s : Bool) (maj : BitVec 6) (d : BitVec 6) (a : BitVec 6) (pos : BitVec 6) (len : BitVec 6) (sgn : BitVec 1) :
    fld 25 6 (packEx s maj d a pos len sgn) = maj := by
  unfold fld packEx
  rw [ext_hi (k := 24) (h := rfl), ext_hi (k := 18) (h := rfl), ext_hi (k := 12) (h := rfl), ext_hi (k := 6) (h := rfl), ext_hi (k := 0) (h := rfl), ext_lo]

@[simp] theorem packEx_d (s : Bool) (maj : BitVec 6) (d : BitVec 6) (a : BitVec 6) (pos : BitVec 6) (len : BitVec 6) (sgn : BitVec 1) :
    fld 19 6 (packEx s maj d a pos len sgn) = d := by
  unfold fld packEx
  rw [ext_hi (k := 18) (h := rfl), ext_hi (k := 12) (h := rfl), ext_hi (k := 6) (h := rfl), ext_hi (k := 0) (h := rfl), ext_lo]

@[simp] theorem packEx_a (s : Bool) (maj : BitVec 6) (d : BitVec 6) (a : BitVec 6) (pos : BitVec 6) (len : BitVec 6) (sgn : BitVec 1) :
    fld 13 6 (packEx s maj d a pos len sgn) = a := by
  unfold fld packEx
  rw [ext_hi (k := 12) (h := rfl), ext_hi (k := 6) (h := rfl), ext_hi (k := 0) (h := rfl), ext_lo]

@[simp] theorem packEx_pos (s : Bool) (maj : BitVec 6) (d : BitVec 6) (a : BitVec 6) (pos : BitVec 6) (len : BitVec 6) (sgn : BitVec 1) :
    fld 7 6 (packEx s maj d a pos len sgn) = pos := by
  unfold fld packEx
  rw [ext_hi (k := 6) (h := rfl), ext_hi (k := 0) (h := rfl), ext_lo]

@[simp] theorem packEx_len (s : Bool) (maj : BitVec 6) (d : BitVec 6) (a : BitVec 6) (pos : BitVec 6) (len : BitVec 6) (sgn : BitVec 1) :
    fld 1 6 (packEx s maj d a pos len sgn) = len := by
  unfold fld packEx
  rw [ext_hi (k := 0) (h := rfl), ext_lo]

@[simp] theorem packEx_sgn (s : Bool) (maj : BitVec 6) (d : BitVec 6) (a : BitVec 6) (pos : BitVec 6) (len : BitVec 6) (sgn : BitVec 1) :
    fld 0 1 (packEx s maj d a pos len sgn) = sgn := by
  unfold fld packEx
  rw [ext_lo]

@[simp] theorem packL_s (s : Bool) (maj : BitVec 6) (d : BitVec 6) (imm : BitVec 19) :
    fld 31 1 (packL s maj d imm) = BitVec.ofBool s := by
  unfold fld packL
  rw [ext_hi (k := 12) (h := rfl), ext_hi (k := 6) (h := rfl), ext_hi (k := 0) (h := rfl), ext_all]

@[simp] theorem packL_maj (s : Bool) (maj : BitVec 6) (d : BitVec 6) (imm : BitVec 19) :
    fld 25 6 (packL s maj d imm) = maj := by
  unfold fld packL
  rw [ext_hi (k := 6) (h := rfl), ext_hi (k := 0) (h := rfl), ext_lo]

@[simp] theorem packL_d (s : Bool) (maj : BitVec 6) (d : BitVec 6) (imm : BitVec 19) :
    fld 19 6 (packL s maj d imm) = d := by
  unfold fld packL
  rw [ext_hi (k := 0) (h := rfl), ext_lo]

@[simp] theorem packL_imm (s : Bool) (maj : BitVec 6) (d : BitVec 6) (imm : BitVec 19) :
    fld 0 19 (packL s maj d imm) = imm := by
  unfold fld packL
  rw [ext_lo]

@[simp] theorem packK_s (s : Bool) (maj : BitVec 6) (d : BitVec 6) (a : BitVec 6) (creg : BitVec 10) (op : BitVec 3) :
    fld 31 1 (packK s maj d a creg op) = BitVec.ofBool s := by
  unfold fld packK
  rw [ext_hi (k := 28) (h := rfl), ext_hi (k := 18) (h := rfl), ext_hi (k := 12) (h := rfl), ext_hi (k := 6) (h := rfl), ext_hi (k := 0) (h := rfl), ext_all]

@[simp] theorem packK_maj (s : Bool) (maj : BitVec 6) (d : BitVec 6) (a : BitVec 6) (creg : BitVec 10) (op : BitVec 3) :
    fld 25 6 (packK s maj d a creg op) = maj := by
  unfold fld packK
  rw [ext_hi (k := 22) (h := rfl), ext_hi (k := 12) (h := rfl), ext_hi (k := 6) (h := rfl), ext_hi (k := 0) (h := rfl), ext_lo]

@[simp] theorem packK_d (s : Bool) (maj : BitVec 6) (d : BitVec 6) (a : BitVec 6) (creg : BitVec 10) (op : BitVec 3) :
    fld 19 6 (packK s maj d a creg op) = d := by
  unfold fld packK
  rw [ext_hi (k := 16) (h := rfl), ext_hi (k := 6) (h := rfl), ext_hi (k := 0) (h := rfl), ext_lo]

@[simp] theorem packK_a (s : Bool) (maj : BitVec 6) (d : BitVec 6) (a : BitVec 6) (creg : BitVec 10) (op : BitVec 3) :
    fld 13 6 (packK s maj d a creg op) = a := by
  unfold fld packK
  rw [ext_hi (k := 10) (h := rfl), ext_hi (k := 0) (h := rfl), ext_lo]

@[simp] theorem packK_creg (s : Bool) (maj : BitVec 6) (d : BitVec 6) (a : BitVec 6) (creg : BitVec 10) (op : BitVec 3) :
    fld 3 10 (packK s maj d a creg op) = creg := by
  unfold fld packK
  rw [ext_hi (k := 0) (h := rfl), ext_lo]

@[simp] theorem packK_op (s : Bool) (maj : BitVec 6) (d : BitVec 6) (a : BitVec 6) (creg : BitVec 10) (op : BitVec 3) :
    fld 0 3 (packK s maj d a creg op) = op := by
  unfold fld packK
  rw [ext_lo]

@[simp] theorem packF_s (s : Bool) (maj : BitVec 6) (zero : BitVec 19) (kind : BitVec 2) (scope : BitVec 4) :
    fld 31 1 (packF s maj zero kind scope) = BitVec.ofBool s := by
  unfold fld packF
  rw [ext_hi (k := 27) (h := rfl), ext_hi (k := 25) (h := rfl), ext_hi (k := 6) (h := rfl), ext_hi (k := 0) (h := rfl), ext_all]

@[simp] theorem packF_maj (s : Bool) (maj : BitVec 6) (zero : BitVec 19) (kind : BitVec 2) (scope : BitVec 4) :
    fld 25 6 (packF s maj zero kind scope) = maj := by
  unfold fld packF
  rw [ext_hi (k := 21) (h := rfl), ext_hi (k := 19) (h := rfl), ext_hi (k := 0) (h := rfl), ext_lo]

@[simp] theorem packF_zero (s : Bool) (maj : BitVec 6) (zero : BitVec 19) (kind : BitVec 2) (scope : BitVec 4) :
    fld 6 19 (packF s maj zero kind scope) = zero := by
  unfold fld packF
  rw [ext_hi (k := 2) (h := rfl), ext_hi (k := 0) (h := rfl), ext_lo]

@[simp] theorem packF_kind (s : Bool) (maj : BitVec 6) (zero : BitVec 19) (kind : BitVec 2) (scope : BitVec 4) :
    fld 4 2 (packF s maj zero kind scope) = kind := by
  unfold fld packF
  rw [ext_hi (k := 0) (h := rfl), ext_lo]

@[simp] theorem packF_scope (s : Bool) (maj : BitVec 6) (zero : BitVec 19) (kind : BitVec 2) (scope : BitVec 4) :
    fld 0 4 (packF s maj zero kind scope) = scope := by
  unfold fld packF
  rw [ext_lo]

@[simp] theorem packM_s (s : Bool) (maj : BitVec 6) (t : BitVec 6) (base : BitVec 6) (off : BitVec 10) (sz : BitVec 3) :
    fld 31 1 (packM s maj t base off sz) = BitVec.ofBool s := by
  unfold fld packM
  rw [ext_hi (k := 28) (h := rfl), ext_hi (k := 18) (h := rfl), ext_hi (k := 12) (h := rfl), ext_hi (k := 6) (h := rfl), ext_hi (k := 0) (h := rfl), ext_all]

@[simp] theorem packM_maj (s : Bool) (maj : BitVec 6) (t : BitVec 6) (base : BitVec 6) (off : BitVec 10) (sz : BitVec 3) :
    fld 25 6 (packM s maj t base off sz) = maj := by
  unfold fld packM
  rw [ext_hi (k := 22) (h := rfl), ext_hi (k := 12) (h := rfl), ext_hi (k := 6) (h := rfl), ext_hi (k := 0) (h := rfl), ext_lo]

@[simp] theorem packM_t (s : Bool) (maj : BitVec 6) (t : BitVec 6) (base : BitVec 6) (off : BitVec 10) (sz : BitVec 3) :
    fld 19 6 (packM s maj t base off sz) = t := by
  unfold fld packM
  rw [ext_hi (k := 16) (h := rfl), ext_hi (k := 6) (h := rfl), ext_hi (k := 0) (h := rfl), ext_lo]

@[simp] theorem packM_base (s : Bool) (maj : BitVec 6) (t : BitVec 6) (base : BitVec 6) (off : BitVec 10) (sz : BitVec 3) :
    fld 13 6 (packM s maj t base off sz) = base := by
  unfold fld packM
  rw [ext_hi (k := 10) (h := rfl), ext_hi (k := 0) (h := rfl), ext_lo]

@[simp] theorem packM_off (s : Bool) (maj : BitVec 6) (t : BitVec 6) (base : BitVec 6) (off : BitVec 10) (sz : BitVec 3) :
    fld 3 10 (packM s maj t base off sz) = off := by
  unfold fld packM
  rw [ext_hi (k := 0) (h := rfl), ext_lo]

@[simp] theorem packM_sz (s : Bool) (maj : BitVec 6) (t : BitVec 6) (base : BitVec 6) (off : BitVec 10) (sz : BitVec 3) :
    fld 0 3 (packM s maj t base off sz) = sz := by
  unfold fld packM
  rw [ext_lo]

@[simp] theorem packQ_s (s : Bool) (maj : BitVec 6) (t : BitVec 6) (base : BitVec 6) (off : BitVec 6) (sz : BitVec 3) (scope : BitVec 4) :
    fld 31 1 (packQ s maj t base off sz scope) = BitVec.ofBool s := by
  unfold fld packQ
  rw [ext_hi (k := 27) (h := rfl), ext_hi (k := 24) (h := rfl), ext_hi (k := 18) (h := rfl), ext_hi (k := 12) (h := rfl), ext_hi (k := 6) (h := rfl), ext_hi (k := 0) (h := rfl), ext_all]

@[simp] theorem packQ_maj (s : Bool) (maj : BitVec 6) (t : BitVec 6) (base : BitVec 6) (off : BitVec 6) (sz : BitVec 3) (scope : BitVec 4) :
    fld 25 6 (packQ s maj t base off sz scope) = maj := by
  unfold fld packQ
  rw [ext_hi (k := 21) (h := rfl), ext_hi (k := 18) (h := rfl), ext_hi (k := 12) (h := rfl), ext_hi (k := 6) (h := rfl), ext_hi (k := 0) (h := rfl), ext_lo]

@[simp] theorem packQ_t (s : Bool) (maj : BitVec 6) (t : BitVec 6) (base : BitVec 6) (off : BitVec 6) (sz : BitVec 3) (scope : BitVec 4) :
    fld 19 6 (packQ s maj t base off sz scope) = t := by
  unfold fld packQ
  rw [ext_hi (k := 15) (h := rfl), ext_hi (k := 12) (h := rfl), ext_hi (k := 6) (h := rfl), ext_hi (k := 0) (h := rfl), ext_lo]

@[simp] theorem packQ_base (s : Bool) (maj : BitVec 6) (t : BitVec 6) (base : BitVec 6) (off : BitVec 6) (sz : BitVec 3) (scope : BitVec 4) :
    fld 13 6 (packQ s maj t base off sz scope) = base := by
  unfold fld packQ
  rw [ext_hi (k := 9) (h := rfl), ext_hi (k := 6) (h := rfl), ext_hi (k := 0) (h := rfl), ext_lo]

@[simp] theorem packQ_off (s : Bool) (maj : BitVec 6) (t : BitVec 6) (base : BitVec 6) (off : BitVec 6) (sz : BitVec 3) (scope : BitVec 4) :
    fld 7 6 (packQ s maj t base off sz scope) = off := by
  unfold fld packQ
  rw [ext_hi (k := 3) (h := rfl), ext_hi (k := 0) (h := rfl), ext_lo]

@[simp] theorem packQ_sz (s : Bool) (maj : BitVec 6) (t : BitVec 6) (base : BitVec 6) (off : BitVec 6) (sz : BitVec 3) (scope : BitVec 4) :
    fld 4 3 (packQ s maj t base off sz scope) = sz := by
  unfold fld packQ
  rw [ext_hi (k := 0) (h := rfl), ext_lo]

@[simp] theorem packQ_scope (s : Bool) (maj : BitVec 6) (t : BitVec 6) (base : BitVec 6) (off : BitVec 6) (sz : BitVec 3) (scope : BitVec 4) :
    fld 0 4 (packQ s maj t base off sz scope) = scope := by
  unfold fld packQ
  rw [ext_lo]

@[simp] theorem packV_s (s : Bool) (maj : BitVec 6) (t : BitVec 6) (base : BitVec 6) (fmt : BitVec 5) (off : BitVec 8) :
    fld 31 1 (packV s maj t base fmt off) = BitVec.ofBool s := by
  unfold fld packV
  rw [ext_hi (k := 23) (h := rfl), ext_hi (k := 18) (h := rfl), ext_hi (k := 12) (h := rfl), ext_hi (k := 6) (h := rfl), ext_hi (k := 0) (h := rfl), ext_all]

@[simp] theorem packV_maj (s : Bool) (maj : BitVec 6) (t : BitVec 6) (base : BitVec 6) (fmt : BitVec 5) (off : BitVec 8) :
    fld 25 6 (packV s maj t base fmt off) = maj := by
  unfold fld packV
  rw [ext_hi (k := 17) (h := rfl), ext_hi (k := 12) (h := rfl), ext_hi (k := 6) (h := rfl), ext_hi (k := 0) (h := rfl), ext_lo]

@[simp] theorem packV_t (s : Bool) (maj : BitVec 6) (t : BitVec 6) (base : BitVec 6) (fmt : BitVec 5) (off : BitVec 8) :
    fld 19 6 (packV s maj t base fmt off) = t := by
  unfold fld packV
  rw [ext_hi (k := 11) (h := rfl), ext_hi (k := 6) (h := rfl), ext_hi (k := 0) (h := rfl), ext_lo]

@[simp] theorem packV_base (s : Bool) (maj : BitVec 6) (t : BitVec 6) (base : BitVec 6) (fmt : BitVec 5) (off : BitVec 8) :
    fld 13 6 (packV s maj t base fmt off) = base := by
  unfold fld packV
  rw [ext_hi (k := 5) (h := rfl), ext_hi (k := 0) (h := rfl), ext_lo]

@[simp] theorem packV_fmt (s : Bool) (maj : BitVec 6) (t : BitVec 6) (base : BitVec 6) (fmt : BitVec 5) (off : BitVec 8) :
    fld 8 5 (packV s maj t base fmt off) = fmt := by
  unfold fld packV
  rw [ext_hi (k := 0) (h := rfl), ext_lo]

@[simp] theorem packV_off (s : Bool) (maj : BitVec 6) (t : BitVec 6) (base : BitVec 6) (fmt : BitVec 5) (off : BitVec 8) :
    fld 0 8 (packV s maj t base fmt off) = off := by
  unfold fld packV
  rw [ext_lo]

@[simp] theorem packE_s (s : Bool) (maj : BitVec 6) (t : BitVec 6) (base : BitVec 6) (mode : BitVec 3) (sz : BitVec 3) (zero : BitVec 3) (scope : BitVec 4) :
    fld 31 1 (packE s maj t base mode sz zero scope) = BitVec.ofBool s := by
  unfold fld packE
  rw [ext_hi (k := 27) (h := rfl), ext_hi (k := 24) (h := rfl), ext_hi (k := 21) (h := rfl), ext_hi (k := 18) (h := rfl), ext_hi (k := 12) (h := rfl), ext_hi (k := 6) (h := rfl), ext_hi (k := 0) (h := rfl), ext_all]

@[simp] theorem packE_maj (s : Bool) (maj : BitVec 6) (t : BitVec 6) (base : BitVec 6) (mode : BitVec 3) (sz : BitVec 3) (zero : BitVec 3) (scope : BitVec 4) :
    fld 25 6 (packE s maj t base mode sz zero scope) = maj := by
  unfold fld packE
  rw [ext_hi (k := 21) (h := rfl), ext_hi (k := 18) (h := rfl), ext_hi (k := 15) (h := rfl), ext_hi (k := 12) (h := rfl), ext_hi (k := 6) (h := rfl), ext_hi (k := 0) (h := rfl), ext_lo]

@[simp] theorem packE_t (s : Bool) (maj : BitVec 6) (t : BitVec 6) (base : BitVec 6) (mode : BitVec 3) (sz : BitVec 3) (zero : BitVec 3) (scope : BitVec 4) :
    fld 19 6 (packE s maj t base mode sz zero scope) = t := by
  unfold fld packE
  rw [ext_hi (k := 15) (h := rfl), ext_hi (k := 12) (h := rfl), ext_hi (k := 9) (h := rfl), ext_hi (k := 6) (h := rfl), ext_hi (k := 0) (h := rfl), ext_lo]

@[simp] theorem packE_base (s : Bool) (maj : BitVec 6) (t : BitVec 6) (base : BitVec 6) (mode : BitVec 3) (sz : BitVec 3) (zero : BitVec 3) (scope : BitVec 4) :
    fld 13 6 (packE s maj t base mode sz zero scope) = base := by
  unfold fld packE
  rw [ext_hi (k := 9) (h := rfl), ext_hi (k := 6) (h := rfl), ext_hi (k := 3) (h := rfl), ext_hi (k := 0) (h := rfl), ext_lo]

@[simp] theorem packE_mode (s : Bool) (maj : BitVec 6) (t : BitVec 6) (base : BitVec 6) (mode : BitVec 3) (sz : BitVec 3) (zero : BitVec 3) (scope : BitVec 4) :
    fld 10 3 (packE s maj t base mode sz zero scope) = mode := by
  unfold fld packE
  rw [ext_hi (k := 6) (h := rfl), ext_hi (k := 3) (h := rfl), ext_hi (k := 0) (h := rfl), ext_lo]

@[simp] theorem packE_sz (s : Bool) (maj : BitVec 6) (t : BitVec 6) (base : BitVec 6) (mode : BitVec 3) (sz : BitVec 3) (zero : BitVec 3) (scope : BitVec 4) :
    fld 7 3 (packE s maj t base mode sz zero scope) = sz := by
  unfold fld packE
  rw [ext_hi (k := 3) (h := rfl), ext_hi (k := 0) (h := rfl), ext_lo]

@[simp] theorem packE_zero (s : Bool) (maj : BitVec 6) (t : BitVec 6) (base : BitVec 6) (mode : BitVec 3) (sz : BitVec 3) (zero : BitVec 3) (scope : BitVec 4) :
    fld 4 3 (packE s maj t base mode sz zero scope) = zero := by
  unfold fld packE
  rw [ext_hi (k := 0) (h := rfl), ext_lo]

@[simp] theorem packE_scope (s : Bool) (maj : BitVec 6) (t : BitVec 6) (base : BitVec 6) (mode : BitVec 3) (sz : BitVec 3) (zero : BitVec 3) (scope : BitVec 4) :
    fld 0 4 (packE s maj t base mode sz zero scope) = scope := by
  unfold fld packE
  rw [ext_lo]

@[simp] theorem packG_s (s : Bool) (maj : BitVec 6) (t : BitVec 6) (base : BitVec 6) (lag : BitVec 6) (mode : BitVec 3) (scope : BitVec 4) :
    fld 31 1 (packG s maj t base lag mode scope) = BitVec.ofBool s := by
  unfold fld packG
  rw [ext_hi (k := 27) (h := rfl), ext_hi (k := 24) (h := rfl), ext_hi (k := 18) (h := rfl), ext_hi (k := 12) (h := rfl), ext_hi (k := 6) (h := rfl), ext_hi (k := 0) (h := rfl), ext_all]

@[simp] theorem packG_maj (s : Bool) (maj : BitVec 6) (t : BitVec 6) (base : BitVec 6) (lag : BitVec 6) (mode : BitVec 3) (scope : BitVec 4) :
    fld 25 6 (packG s maj t base lag mode scope) = maj := by
  unfold fld packG
  rw [ext_hi (k := 21) (h := rfl), ext_hi (k := 18) (h := rfl), ext_hi (k := 12) (h := rfl), ext_hi (k := 6) (h := rfl), ext_hi (k := 0) (h := rfl), ext_lo]

@[simp] theorem packG_t (s : Bool) (maj : BitVec 6) (t : BitVec 6) (base : BitVec 6) (lag : BitVec 6) (mode : BitVec 3) (scope : BitVec 4) :
    fld 19 6 (packG s maj t base lag mode scope) = t := by
  unfold fld packG
  rw [ext_hi (k := 15) (h := rfl), ext_hi (k := 12) (h := rfl), ext_hi (k := 6) (h := rfl), ext_hi (k := 0) (h := rfl), ext_lo]

@[simp] theorem packG_base (s : Bool) (maj : BitVec 6) (t : BitVec 6) (base : BitVec 6) (lag : BitVec 6) (mode : BitVec 3) (scope : BitVec 4) :
    fld 13 6 (packG s maj t base lag mode scope) = base := by
  unfold fld packG
  rw [ext_hi (k := 9) (h := rfl), ext_hi (k := 6) (h := rfl), ext_hi (k := 0) (h := rfl), ext_lo]

@[simp] theorem packG_lag (s : Bool) (maj : BitVec 6) (t : BitVec 6) (base : BitVec 6) (lag : BitVec 6) (mode : BitVec 3) (scope : BitVec 4) :
    fld 7 6 (packG s maj t base lag mode scope) = lag := by
  unfold fld packG
  rw [ext_hi (k := 3) (h := rfl), ext_hi (k := 0) (h := rfl), ext_lo]

@[simp] theorem packG_mode (s : Bool) (maj : BitVec 6) (t : BitVec 6) (base : BitVec 6) (lag : BitVec 6) (mode : BitVec 3) (scope : BitVec 4) :
    fld 4 3 (packG s maj t base lag mode scope) = mode := by
  unfold fld packG
  rw [ext_hi (k := 0) (h := rfl), ext_lo]

@[simp] theorem packG_scope (s : Bool) (maj : BitVec 6) (t : BitVec 6) (base : BitVec 6) (lag : BitVec 6) (mode : BitVec 3) (scope : BitVec 4) :
    fld 0 4 (packG s maj t base lag mode scope) = scope := by
  unfold fld packG
  rw [ext_lo]

@[simp] theorem packX_s (s : Bool) (maj : BitVec 6) (t : BitVec 6) (base : BitVec 6) (src : BitVec 6) (ord : BitVec 2) (w : BitVec 1) (scope : BitVec 4) :
    fld 31 1 (packX s maj t base src ord w scope) = BitVec.ofBool s := by
  unfold fld packX
  rw [ext_hi (k := 27) (h := rfl), ext_hi (k := 26) (h := rfl), ext_hi (k := 24) (h := rfl), ext_hi (k := 18) (h := rfl), ext_hi (k := 12) (h := rfl), ext_hi (k := 6) (h := rfl), ext_hi (k := 0) (h := rfl), ext_all]

@[simp] theorem packX_maj (s : Bool) (maj : BitVec 6) (t : BitVec 6) (base : BitVec 6) (src : BitVec 6) (ord : BitVec 2) (w : BitVec 1) (scope : BitVec 4) :
    fld 25 6 (packX s maj t base src ord w scope) = maj := by
  unfold fld packX
  rw [ext_hi (k := 21) (h := rfl), ext_hi (k := 20) (h := rfl), ext_hi (k := 18) (h := rfl), ext_hi (k := 12) (h := rfl), ext_hi (k := 6) (h := rfl), ext_hi (k := 0) (h := rfl), ext_lo]

@[simp] theorem packX_t (s : Bool) (maj : BitVec 6) (t : BitVec 6) (base : BitVec 6) (src : BitVec 6) (ord : BitVec 2) (w : BitVec 1) (scope : BitVec 4) :
    fld 19 6 (packX s maj t base src ord w scope) = t := by
  unfold fld packX
  rw [ext_hi (k := 15) (h := rfl), ext_hi (k := 14) (h := rfl), ext_hi (k := 12) (h := rfl), ext_hi (k := 6) (h := rfl), ext_hi (k := 0) (h := rfl), ext_lo]

@[simp] theorem packX_base (s : Bool) (maj : BitVec 6) (t : BitVec 6) (base : BitVec 6) (src : BitVec 6) (ord : BitVec 2) (w : BitVec 1) (scope : BitVec 4) :
    fld 13 6 (packX s maj t base src ord w scope) = base := by
  unfold fld packX
  rw [ext_hi (k := 9) (h := rfl), ext_hi (k := 8) (h := rfl), ext_hi (k := 6) (h := rfl), ext_hi (k := 0) (h := rfl), ext_lo]

@[simp] theorem packX_src (s : Bool) (maj : BitVec 6) (t : BitVec 6) (base : BitVec 6) (src : BitVec 6) (ord : BitVec 2) (w : BitVec 1) (scope : BitVec 4) :
    fld 7 6 (packX s maj t base src ord w scope) = src := by
  unfold fld packX
  rw [ext_hi (k := 3) (h := rfl), ext_hi (k := 2) (h := rfl), ext_hi (k := 0) (h := rfl), ext_lo]

@[simp] theorem packX_ord (s : Bool) (maj : BitVec 6) (t : BitVec 6) (base : BitVec 6) (src : BitVec 6) (ord : BitVec 2) (w : BitVec 1) (scope : BitVec 4) :
    fld 5 2 (packX s maj t base src ord w scope) = ord := by
  unfold fld packX
  rw [ext_hi (k := 1) (h := rfl), ext_hi (k := 0) (h := rfl), ext_lo]

@[simp] theorem packX_w (s : Bool) (maj : BitVec 6) (t : BitVec 6) (base : BitVec 6) (src : BitVec 6) (ord : BitVec 2) (w : BitVec 1) (scope : BitVec 4) :
    fld 4 1 (packX s maj t base src ord w scope) = w := by
  unfold fld packX
  rw [ext_hi (k := 0) (h := rfl), ext_lo]

@[simp] theorem packX_scope (s : Bool) (maj : BitVec 6) (t : BitVec 6) (base : BitVec 6) (src : BitVec 6) (ord : BitVec 2) (w : BitVec 1) (scope : BitVec 4) :
    fld 0 4 (packX s maj t base src ord w scope) = scope := by
  unfold fld packX
  rw [ext_lo]

@[simp] theorem packB_s (s : Bool) (maj : BitVec 6) (a : BitVec 6) (cond : BitVec 3) (disp : BitVec 16) :
    fld 31 1 (packB s maj a cond disp) = BitVec.ofBool s := by
  unfold fld packB
  rw [ext_hi (k := 15) (h := rfl), ext_hi (k := 12) (h := rfl), ext_hi (k := 6) (h := rfl), ext_hi (k := 0) (h := rfl), ext_all]

@[simp] theorem packB_maj (s : Bool) (maj : BitVec 6) (a : BitVec 6) (cond : BitVec 3) (disp : BitVec 16) :
    fld 25 6 (packB s maj a cond disp) = maj := by
  unfold fld packB
  rw [ext_hi (k := 9) (h := rfl), ext_hi (k := 6) (h := rfl), ext_hi (k := 0) (h := rfl), ext_lo]

@[simp] theorem packB_a (s : Bool) (maj : BitVec 6) (a : BitVec 6) (cond : BitVec 3) (disp : BitVec 16) :
    fld 19 6 (packB s maj a cond disp) = a := by
  unfold fld packB
  rw [ext_hi (k := 3) (h := rfl), ext_hi (k := 0) (h := rfl), ext_lo]

@[simp] theorem packB_cond (s : Bool) (maj : BitVec 6) (a : BitVec 6) (cond : BitVec 3) (disp : BitVec 16) :
    fld 16 3 (packB s maj a cond disp) = cond := by
  unfold fld packB
  rw [ext_hi (k := 0) (h := rfl), ext_lo]

@[simp] theorem packB_disp (s : Bool) (maj : BitVec 6) (a : BitVec 6) (cond : BitVec 3) (disp : BitVec 16) :
    fld 0 16 (packB s maj a cond disp) = disp := by
  unfold fld packB
  rw [ext_lo]

@[simp] theorem packC_s (s : Bool) (maj : BitVec 6) (a : BitVec 6) (b : BitVec 6) (cond : BitVec 3) (disp : BitVec 10) :
    fld 31 1 (packC s maj a b cond disp) = BitVec.ofBool s := by
  unfold fld packC
  rw [ext_hi (k := 21) (h := rfl), ext_hi (k := 18) (h := rfl), ext_hi (k := 12) (h := rfl), ext_hi (k := 6) (h := rfl), ext_hi (k := 0) (h := rfl), ext_all]

@[simp] theorem packC_maj (s : Bool) (maj : BitVec 6) (a : BitVec 6) (b : BitVec 6) (cond : BitVec 3) (disp : BitVec 10) :
    fld 25 6 (packC s maj a b cond disp) = maj := by
  unfold fld packC
  rw [ext_hi (k := 15) (h := rfl), ext_hi (k := 12) (h := rfl), ext_hi (k := 6) (h := rfl), ext_hi (k := 0) (h := rfl), ext_lo]

@[simp] theorem packC_a (s : Bool) (maj : BitVec 6) (a : BitVec 6) (b : BitVec 6) (cond : BitVec 3) (disp : BitVec 10) :
    fld 19 6 (packC s maj a b cond disp) = a := by
  unfold fld packC
  rw [ext_hi (k := 9) (h := rfl), ext_hi (k := 6) (h := rfl), ext_hi (k := 0) (h := rfl), ext_lo]

@[simp] theorem packC_b (s : Bool) (maj : BitVec 6) (a : BitVec 6) (b : BitVec 6) (cond : BitVec 3) (disp : BitVec 10) :
    fld 13 6 (packC s maj a b cond disp) = b := by
  unfold fld packC
  rw [ext_hi (k := 3) (h := rfl), ext_hi (k := 0) (h := rfl), ext_lo]

@[simp] theorem packC_cond (s : Bool) (maj : BitVec 6) (a : BitVec 6) (b : BitVec 6) (cond : BitVec 3) (disp : BitVec 10) :
    fld 10 3 (packC s maj a b cond disp) = cond := by
  unfold fld packC
  rw [ext_hi (k := 0) (h := rfl), ext_lo]

@[simp] theorem packC_disp (s : Bool) (maj : BitVec 6) (a : BitVec 6) (b : BitVec 6) (cond : BitVec 3) (disp : BitVec 10) :
    fld 0 10 (packC s maj a b cond disp) = disp := by
  unfold fld packC
  rw [ext_lo]

@[simp] theorem packJ_s (s : Bool) (maj : BitVec 6) (disp : BitVec 25) :
    fld 31 1 (packJ s maj disp) = BitVec.ofBool s := by
  unfold fld packJ
  rw [ext_hi (k := 6) (h := rfl), ext_hi (k := 0) (h := rfl), ext_all]

@[simp] theorem packJ_maj (s : Bool) (maj : BitVec 6) (disp : BitVec 25) :
    fld 25 6 (packJ s maj disp) = maj := by
  unfold fld packJ
  rw [ext_hi (k := 0) (h := rfl), ext_lo]

@[simp] theorem packJ_disp (s : Bool) (maj : BitVec 6) (disp : BitVec 25) :
    fld 0 25 (packJ s maj disp) = disp := by
  unfold fld packJ
  rw [ext_lo]

@[simp] theorem packH_s (s : Bool) (maj : BitVec 6) (kind : BitVec 3) (payload : BitVec 22) :
    fld 31 1 (packH s maj kind payload) = BitVec.ofBool s := by
  unfold fld packH
  rw [ext_hi (k := 9) (h := rfl), ext_hi (k := 6) (h := rfl), ext_hi (k := 0) (h := rfl), ext_all]

@[simp] theorem packH_maj (s : Bool) (maj : BitVec 6) (kind : BitVec 3) (payload : BitVec 22) :
    fld 25 6 (packH s maj kind payload) = maj := by
  unfold fld packH
  rw [ext_hi (k := 3) (h := rfl), ext_hi (k := 0) (h := rfl), ext_lo]

@[simp] theorem packH_kind (s : Bool) (maj : BitVec 6) (kind : BitVec 3) (payload : BitVec 22) :
    fld 22 3 (packH s maj kind payload) = kind := by
  unfold fld packH
  rw [ext_hi (k := 0) (h := rfl), ext_lo]

@[simp] theorem packH_payload (s : Bool) (maj : BitVec 6) (kind : BitVec 3) (payload : BitVec 22) :
    fld 0 22 (packH s maj kind payload) = payload := by
  unfold fld packH
  rw [ext_lo]

@[simp] theorem packHm_s (s : Bool) (maj : BitVec 6) (kind : BitVec 3) (rnd : BitVec 3) (sat : BitVec 1) (ftz : BitVec 1) (fmt : BitVec 5) (zero : BitVec 12) :
    fld 31 1 (packHm s maj kind rnd sat ftz fmt zero) = BitVec.ofBool s := by
  unfold fld packHm
  rw [ext_hi (k := 19) (h := rfl), ext_hi (k := 14) (h := rfl), ext_hi (k := 13) (h := rfl), ext_hi (k := 12) (h := rfl), ext_hi (k := 9) (h := rfl), ext_hi (k := 6) (h := rfl), ext_hi (k := 0) (h := rfl), ext_all]

@[simp] theorem packHm_maj (s : Bool) (maj : BitVec 6) (kind : BitVec 3) (rnd : BitVec 3) (sat : BitVec 1) (ftz : BitVec 1) (fmt : BitVec 5) (zero : BitVec 12) :
    fld 25 6 (packHm s maj kind rnd sat ftz fmt zero) = maj := by
  unfold fld packHm
  rw [ext_hi (k := 13) (h := rfl), ext_hi (k := 8) (h := rfl), ext_hi (k := 7) (h := rfl), ext_hi (k := 6) (h := rfl), ext_hi (k := 3) (h := rfl), ext_hi (k := 0) (h := rfl), ext_lo]

@[simp] theorem packHm_kind (s : Bool) (maj : BitVec 6) (kind : BitVec 3) (rnd : BitVec 3) (sat : BitVec 1) (ftz : BitVec 1) (fmt : BitVec 5) (zero : BitVec 12) :
    fld 22 3 (packHm s maj kind rnd sat ftz fmt zero) = kind := by
  unfold fld packHm
  rw [ext_hi (k := 10) (h := rfl), ext_hi (k := 5) (h := rfl), ext_hi (k := 4) (h := rfl), ext_hi (k := 3) (h := rfl), ext_hi (k := 0) (h := rfl), ext_lo]

@[simp] theorem packHm_rnd (s : Bool) (maj : BitVec 6) (kind : BitVec 3) (rnd : BitVec 3) (sat : BitVec 1) (ftz : BitVec 1) (fmt : BitVec 5) (zero : BitVec 12) :
    fld 19 3 (packHm s maj kind rnd sat ftz fmt zero) = rnd := by
  unfold fld packHm
  rw [ext_hi (k := 7) (h := rfl), ext_hi (k := 2) (h := rfl), ext_hi (k := 1) (h := rfl), ext_hi (k := 0) (h := rfl), ext_lo]

@[simp] theorem packHm_sat (s : Bool) (maj : BitVec 6) (kind : BitVec 3) (rnd : BitVec 3) (sat : BitVec 1) (ftz : BitVec 1) (fmt : BitVec 5) (zero : BitVec 12) :
    fld 18 1 (packHm s maj kind rnd sat ftz fmt zero) = sat := by
  unfold fld packHm
  rw [ext_hi (k := 6) (h := rfl), ext_hi (k := 1) (h := rfl), ext_hi (k := 0) (h := rfl), ext_lo]

@[simp] theorem packHm_ftz (s : Bool) (maj : BitVec 6) (kind : BitVec 3) (rnd : BitVec 3) (sat : BitVec 1) (ftz : BitVec 1) (fmt : BitVec 5) (zero : BitVec 12) :
    fld 17 1 (packHm s maj kind rnd sat ftz fmt zero) = ftz := by
  unfold fld packHm
  rw [ext_hi (k := 5) (h := rfl), ext_hi (k := 0) (h := rfl), ext_lo]

@[simp] theorem packHm_fmt (s : Bool) (maj : BitVec 6) (kind : BitVec 3) (rnd : BitVec 3) (sat : BitVec 1) (ftz : BitVec 1) (fmt : BitVec 5) (zero : BitVec 12) :
    fld 12 5 (packHm s maj kind rnd sat ftz fmt zero) = fmt := by
  unfold fld packHm
  rw [ext_hi (k := 0) (h := rfl), ext_lo]

@[simp] theorem packHm_zero (s : Bool) (maj : BitVec 6) (kind : BitVec 3) (rnd : BitVec 3) (sat : BitVec 1) (ftz : BitVec 1) (fmt : BitVec 5) (zero : BitVec 12) :
    fld 0 12 (packHm s maj kind rnd sat ftz fmt zero) = zero := by
  unfold fld packHm
  rw [ext_lo]

@[simp] theorem packHs_s (s : Bool) (maj : BitVec 6) (kind : BitVec 3) (hk : BitVec 4) (zero : BitVec 2) (n : BitVec 16) :
    fld 31 1 (packHs s maj kind hk zero n) = BitVec.ofBool s := by
  unfold fld packHs
  rw [ext_hi (k := 15) (h := rfl), ext_hi (k := 13) (h := rfl), ext_hi (k := 9) (h := rfl), ext_hi (k := 6) (h := rfl), ext_hi (k := 0) (h := rfl), ext_all]

@[simp] theorem packHs_maj (s : Bool) (maj : BitVec 6) (kind : BitVec 3) (hk : BitVec 4) (zero : BitVec 2) (n : BitVec 16) :
    fld 25 6 (packHs s maj kind hk zero n) = maj := by
  unfold fld packHs
  rw [ext_hi (k := 9) (h := rfl), ext_hi (k := 7) (h := rfl), ext_hi (k := 3) (h := rfl), ext_hi (k := 0) (h := rfl), ext_lo]

@[simp] theorem packHs_kind (s : Bool) (maj : BitVec 6) (kind : BitVec 3) (hk : BitVec 4) (zero : BitVec 2) (n : BitVec 16) :
    fld 22 3 (packHs s maj kind hk zero n) = kind := by
  unfold fld packHs
  rw [ext_hi (k := 6) (h := rfl), ext_hi (k := 4) (h := rfl), ext_hi (k := 0) (h := rfl), ext_lo]

@[simp] theorem packHs_hk (s : Bool) (maj : BitVec 6) (kind : BitVec 3) (hk : BitVec 4) (zero : BitVec 2) (n : BitVec 16) :
    fld 18 4 (packHs s maj kind hk zero n) = hk := by
  unfold fld packHs
  rw [ext_hi (k := 2) (h := rfl), ext_hi (k := 0) (h := rfl), ext_lo]

@[simp] theorem packHs_zero (s : Bool) (maj : BitVec 6) (kind : BitVec 3) (hk : BitVec 4) (zero : BitVec 2) (n : BitVec 16) :
    fld 16 2 (packHs s maj kind hk zero n) = zero := by
  unfold fld packHs
  rw [ext_hi (k := 0) (h := rfl), ext_lo]

@[simp] theorem packHs_n (s : Bool) (maj : BitVec 6) (kind : BitVec 3) (hk : BitVec 4) (zero : BitVec 2) (n : BitVec 16) :
    fld 0 16 (packHs s maj kind hk zero n) = n := by
  unfold fld packHs
  rw [ext_lo]

@[simp] theorem Creg_ofCode_code (c : Creg) : Creg.ofCode c.code = some c := by
  cases c <;> rfl

theorem decodeWord_of_raw {w : BitVec 32} {i : Instr} (h : rawDecode w = .ok i)
    (hc : i.check = none) : decodeWord w = .ok i := by
  unfold decodeWord
  rw [h]
  simp only [hc]

/-- The word of `i` decodes to `i` (for NMCAS, to the ACAS2 it is another name of). -/
def RoundTrip.Statement (i : Instr) : Prop :=
  ∀ w, encode i = some w → i.check = none → decodeWord w = .ok i.canon

theorem RoundTrip.add (s : Bool) (d : Reg) (a : Reg) (b : Reg) : RoundTrip.Statement (.add s d a b) := by
  intro w he hc
  cases he
  refine decodeWord_of_raw ?_ hc
  simp [rawDecode, decIop, fldS, Instr.canon]

theorem RoundTrip.sub (s : Bool) (d : Reg) (a : Reg) (b : Reg) : RoundTrip.Statement (.sub s d a b) := by
  intro w he hc
  cases he
  refine decodeWord_of_raw ?_ hc
  simp [rawDecode, decIop, fldS, Instr.canon]

theorem RoundTrip.mul (s : Bool) (d : Reg) (a : Reg) (b : Reg) : RoundTrip.Statement (.mul s d a b) := by
  intro w he hc
  cases he
  refine decodeWord_of_raw ?_ hc
  simp [rawDecode, decIop, fldS, Instr.canon]

theorem RoundTrip.mulh (s : Bool) (d : Reg) (a : Reg) (b : Reg) : RoundTrip.Statement (.mulh s d a b) := by
  intro w he hc
  cases he
  refine decodeWord_of_raw ?_ hc
  simp [rawDecode, decIop, fldS, Instr.canon]

theorem RoundTrip.mulhu (s : Bool) (d : Reg) (a : Reg) (b : Reg) : RoundTrip.Statement (.mulhu s d a b) := by
  intro w he hc
  cases he
  refine decodeWord_of_raw ?_ hc
  simp [rawDecode, decIop, fldS, Instr.canon]

theorem RoundTrip.div (s : Bool) (d : Reg) (a : Reg) (b : Reg) : RoundTrip.Statement (.div s d a b) := by
  intro w he hc
  cases he
  refine decodeWord_of_raw ?_ hc
  simp [rawDecode, decIop, fldS, Instr.canon]

theorem RoundTrip.divu (s : Bool) (d : Reg) (a : Reg) (b : Reg) : RoundTrip.Statement (.divu s d a b) := by
  intro w he hc
  cases he
  refine decodeWord_of_raw ?_ hc
  simp [rawDecode, decIop, fldS, Instr.canon]

theorem RoundTrip.rem (s : Bool) (d : Reg) (a : Reg) (b : Reg) : RoundTrip.Statement (.rem s d a b) := by
  intro w he hc
  cases he
  refine decodeWord_of_raw ?_ hc
  simp [rawDecode, decIop, fldS, Instr.canon]

theorem RoundTrip.remu (s : Bool) (d : Reg) (a : Reg) (b : Reg) : RoundTrip.Statement (.remu s d a b) := by
  intro w he hc
  cases he
  refine decodeWord_of_raw ?_ hc
  simp [rawDecode, decIop, fldS, Instr.canon]

theorem RoundTrip.and (s : Bool) (d : Reg) (a : Reg) (b : Reg) : RoundTrip.Statement (.and s d a b) := by
  intro w he hc
  cases he
  refine decodeWord_of_raw ?_ hc
  simp [rawDecode, decIop, fldS, Instr.canon]

theorem RoundTrip.or (s : Bool) (d : Reg) (a : Reg) (b : Reg) : RoundTrip.Statement (.or s d a b) := by
  intro w he hc
  cases he
  refine decodeWord_of_raw ?_ hc
  simp [rawDecode, decIop, fldS, Instr.canon]

theorem RoundTrip.xor (s : Bool) (d : Reg) (a : Reg) (b : Reg) : RoundTrip.Statement (.xor s d a b) := by
  intro w he hc
  cases he
  refine decodeWord_of_raw ?_ hc
  simp [rawDecode, decIop, fldS, Instr.canon]

theorem RoundTrip.andn (s : Bool) (d : Reg) (a : Reg) (b : Reg) : RoundTrip.Statement (.andn s d a b) := by
  intro w he hc
  cases he
  refine decodeWord_of_raw ?_ hc
  simp [rawDecode, decIop, fldS, Instr.canon]

theorem RoundTrip.orn (s : Bool) (d : Reg) (a : Reg) (b : Reg) : RoundTrip.Statement (.orn s d a b) := by
  intro w he hc
  cases he
  refine decodeWord_of_raw ?_ hc
  simp [rawDecode, decIop, fldS, Instr.canon]

theorem RoundTrip.shl (s : Bool) (d : Reg) (a : Reg) (b : Reg) : RoundTrip.Statement (.shl s d a b) := by
  intro w he hc
  cases he
  refine decodeWord_of_raw ?_ hc
  simp [rawDecode, decIop, fldS, Instr.canon]

theorem RoundTrip.shr (s : Bool) (d : Reg) (a : Reg) (b : Reg) : RoundTrip.Statement (.shr s d a b) := by
  intro w he hc
  cases he
  refine decodeWord_of_raw ?_ hc
  simp [rawDecode, decIop, fldS, Instr.canon]

theorem RoundTrip.sar (s : Bool) (d : Reg) (a : Reg) (b : Reg) : RoundTrip.Statement (.sar s d a b) := by
  intro w he hc
  cases he
  refine decodeWord_of_raw ?_ hc
  simp [rawDecode, decIop, fldS, Instr.canon]

theorem RoundTrip.rotl (s : Bool) (d : Reg) (a : Reg) (b : Reg) : RoundTrip.Statement (.rotl s d a b) := by
  intro w he hc
  cases he
  refine decodeWord_of_raw ?_ hc
  simp [rawDecode, decIop, fldS, Instr.canon]

theorem RoundTrip.rotr (s : Bool) (d : Reg) (a : Reg) (b : Reg) : RoundTrip.Statement (.rotr s d a b) := by
  intro w he hc
  cases he
  refine decodeWord_of_raw ?_ hc
  simp [rawDecode, decIop, fldS, Instr.canon]

theorem RoundTrip.min (s : Bool) (d : Reg) (a : Reg) (b : Reg) : RoundTrip.Statement (.min s d a b) := by
  intro w he hc
  cases he
  refine decodeWord_of_raw ?_ hc
  simp [rawDecode, decIop, fldS, Instr.canon]

theorem RoundTrip.max (s : Bool) (d : Reg) (a : Reg) (b : Reg) : RoundTrip.Statement (.max s d a b) := by
  intro w he hc
  cases he
  refine decodeWord_of_raw ?_ hc
  simp [rawDecode, decIop, fldS, Instr.canon]

theorem RoundTrip.minu (s : Bool) (d : Reg) (a : Reg) (b : Reg) : RoundTrip.Statement (.minu s d a b) := by
  intro w he hc
  cases he
  refine decodeWord_of_raw ?_ hc
  simp [rawDecode, decIop, fldS, Instr.canon]

theorem RoundTrip.maxu (s : Bool) (d : Reg) (a : Reg) (b : Reg) : RoundTrip.Statement (.maxu s d a b) := by
  intro w he hc
  cases he
  refine decodeWord_of_raw ?_ hc
  simp [rawDecode, decIop, fldS, Instr.canon]

theorem RoundTrip.slt (s : Bool) (d : Reg) (a : Reg) (b : Reg) : RoundTrip.Statement (.slt s d a b) := by
  intro w he hc
  cases he
  refine decodeWord_of_raw ?_ hc
  simp [rawDecode, decIop, fldS, Instr.canon]

theorem RoundTrip.sltu (s : Bool) (d : Reg) (a : Reg) (b : Reg) : RoundTrip.Statement (.sltu s d a b) := by
  intro w he hc
  cases he
  refine decodeWord_of_raw ?_ hc
  simp [rawDecode, decIop, fldS, Instr.canon]

theorem RoundTrip.seq (s : Bool) (d : Reg) (a : Reg) (b : Reg) : RoundTrip.Statement (.seq s d a b) := by
  intro w he hc
  cases he
  refine decodeWord_of_raw ?_ hc
  simp [rawDecode, decIop, fldS, Instr.canon]

theorem RoundTrip.sne (s : Bool) (d : Reg) (a : Reg) (b : Reg) : RoundTrip.Statement (.sne s d a b) := by
  intro w he hc
  cases he
  refine decodeWord_of_raw ?_ hc
  simp [rawDecode, decIop, fldS, Instr.canon]

theorem RoundTrip.clz (s : Bool) (d : Reg) (a : Reg) : RoundTrip.Statement (.clz s d a) := by
  intro w he hc
  cases he
  refine decodeWord_of_raw ?_ hc
  simp [rawDecode, decIop, fldS, Instr.canon]

theorem RoundTrip.ctz (s : Bool) (d : Reg) (a : Reg) : RoundTrip.Statement (.ctz s d a) := by
  intro w he hc
  cases he
  refine decodeWord_of_raw ?_ hc
  simp [rawDecode, decIop, fldS, Instr.canon]

theorem RoundTrip.popc (s : Bool) (d : Reg) (a : Reg) : RoundTrip.Statement (.popc s d a) := by
  intro w he hc
  cases he
  refine decodeWord_of_raw ?_ hc
  simp [rawDecode, decIop, fldS, Instr.canon]

theorem RoundTrip.bswap (s : Bool) (d : Reg) (a : Reg) : RoundTrip.Statement (.bswap s d a) := by
  intro w he hc
  cases he
  refine decodeWord_of_raw ?_ hc
  simp [rawDecode, decIop, fldS, Instr.canon]

theorem RoundTrip.sextb (s : Bool) (d : Reg) (a : Reg) : RoundTrip.Statement (.sextb s d a) := by
  intro w he hc
  cases he
  refine decodeWord_of_raw ?_ hc
  simp [rawDecode, decIop, fldS, Instr.canon]

theorem RoundTrip.sexth (s : Bool) (d : Reg) (a : Reg) : RoundTrip.Statement (.sexth s d a) := by
  intro w he hc
  cases he
  refine decodeWord_of_raw ?_ hc
  simp [rawDecode, decIop, fldS, Instr.canon]

theorem RoundTrip.sextw (s : Bool) (d : Reg) (a : Reg) : RoundTrip.Statement (.sextw s d a) := by
  intro w he hc
  cases he
  refine decodeWord_of_raw ?_ hc
  simp [rawDecode, decIop, fldS, Instr.canon]

theorem RoundTrip.zextw (s : Bool) (d : Reg) (a : Reg) : RoundTrip.Statement (.zextw s d a) := by
  intro w he hc
  cases he
  refine decodeWord_of_raw ?_ hc
  simp [rawDecode, decIop, fldS, Instr.canon]

theorem RoundTrip.mov (s : Bool) (d : Reg) (a : Reg) : RoundTrip.Statement (.mov s d a) := by
  intro w he hc
  cases he
  refine decodeWord_of_raw ?_ hc
  simp [rawDecode, decIop, fldS, Instr.canon]

theorem RoundTrip.addw (s : Bool) (d : Reg) (a : Reg) (b : Reg) : RoundTrip.Statement (.addw s d a b) := by
  intro w he hc
  cases he
  refine decodeWord_of_raw ?_ hc
  simp [rawDecode, decIop, fldS, Instr.canon]

theorem RoundTrip.subw (s : Bool) (d : Reg) (a : Reg) (b : Reg) : RoundTrip.Statement (.subw s d a b) := by
  intro w he hc
  cases he
  refine decodeWord_of_raw ?_ hc
  simp [rawDecode, decIop, fldS, Instr.canon]

theorem RoundTrip.mulw (s : Bool) (d : Reg) (a : Reg) (b : Reg) : RoundTrip.Statement (.mulw s d a b) := by
  intro w he hc
  cases he
  refine decodeWord_of_raw ?_ hc
  simp [rawDecode, decIop, fldS, Instr.canon]

theorem RoundTrip.adds1 (s : Bool) (d : Reg) (a : Reg) (b : Reg) : RoundTrip.Statement (.adds1 s d a b) := by
  intro w he hc
  cases he
  refine decodeWord_of_raw ?_ hc
  simp [rawDecode, decIop, fldS, Instr.canon]

theorem RoundTrip.adds2 (s : Bool) (d : Reg) (a : Reg) (b : Reg) : RoundTrip.Statement (.adds2 s d a b) := by
  intro w he hc
  cases he
  refine decodeWord_of_raw ?_ hc
  simp [rawDecode, decIop, fldS, Instr.canon]

theorem RoundTrip.adds3 (s : Bool) (d : Reg) (a : Reg) (b : Reg) : RoundTrip.Statement (.adds3 s d a b) := by
  intro w he hc
  cases he
  refine decodeWord_of_raw ?_ hc
  simp [rawDecode, decIop, fldS, Instr.canon]

theorem RoundTrip.absd (s : Bool) (d : Reg) (a : Reg) (b : Reg) : RoundTrip.Statement (.absd s d a b) := by
  intro w he hc
  cases he
  refine decodeWord_of_raw ?_ hc
  simp [rawDecode, decIop, fldS, Instr.canon]

theorem RoundTrip.addi (s : Bool) (d : Reg) (a : Reg) (i : BitVec 13) : RoundTrip.Statement (.addi s d a i) := by
  intro w he hc
  cases he
  refine decodeWord_of_raw ?_ hc
  simp [rawDecode, fldS, Instr.canon]

theorem RoundTrip.andi (s : Bool) (d : Reg) (a : Reg) (i : BitVec 13) : RoundTrip.Statement (.andi s d a i) := by
  intro w he hc
  cases he
  refine decodeWord_of_raw ?_ hc
  simp [rawDecode, fldS, Instr.canon]

theorem RoundTrip.ori (s : Bool) (d : Reg) (a : Reg) (i : BitVec 13) : RoundTrip.Statement (.ori s d a i) := by
  intro w he hc
  cases he
  refine decodeWord_of_raw ?_ hc
  simp [rawDecode, fldS, Instr.canon]

theorem RoundTrip.xori (s : Bool) (d : Reg) (a : Reg) (i : BitVec 13) : RoundTrip.Statement (.xori s d a i) := by
  intro w he hc
  cases he
  refine decodeWord_of_raw ?_ hc
  simp [rawDecode, fldS, Instr.canon]

theorem RoundTrip.slti (s : Bool) (d : Reg) (a : Reg) (i : BitVec 13) : RoundTrip.Statement (.slti s d a i) := by
  intro w he hc
  cases he
  refine decodeWord_of_raw ?_ hc
  simp [rawDecode, fldS, Instr.canon]

theorem RoundTrip.sltiu (s : Bool) (d : Reg) (a : Reg) (i : BitVec 13) : RoundTrip.Statement (.sltiu s d a i) := by
  intro w he hc
  cases he
  refine decodeWord_of_raw ?_ hc
  simp [rawDecode, fldS, Instr.canon]

theorem RoundTrip.shli (s : Bool) (d : Reg) (a : Reg) (n : BitVec 6) : RoundTrip.Statement (.shli s d a n) := by
  intro w he hc
  cases he
  refine decodeWord_of_raw ?_ hc
  simp [rawDecode, decShifti, fldS, Instr.canon]

theorem RoundTrip.shri (s : Bool) (d : Reg) (a : Reg) (n : BitVec 6) : RoundTrip.Statement (.shri s d a n) := by
  intro w he hc
  cases he
  refine decodeWord_of_raw ?_ hc
  simp [rawDecode, decShifti, fldS, Instr.canon]

theorem RoundTrip.sari (s : Bool) (d : Reg) (a : Reg) (n : BitVec 6) : RoundTrip.Statement (.sari s d a n) := by
  intro w he hc
  cases he
  refine decodeWord_of_raw ?_ hc
  simp [rawDecode, decShifti, fldS, Instr.canon]

theorem RoundTrip.rotli (s : Bool) (d : Reg) (a : Reg) (n : BitVec 6) : RoundTrip.Statement (.rotli s d a n) := by
  intro w he hc
  cases he
  refine decodeWord_of_raw ?_ hc
  simp [rawDecode, decShifti, fldS, Instr.canon]

theorem RoundTrip.limm (s : Bool) (d : Reg) (i : BitVec 19) : RoundTrip.Statement (.limm s d i) := by
  intro w he hc
  cases he
  refine decodeWord_of_raw ?_ hc
  simp [rawDecode, fldS, Instr.canon]

theorem RoundTrip.addpc (s : Bool) (d : Reg) (i : BitVec 19) : RoundTrip.Statement (.addpc s d i) := by
  intro w he hc
  cases he
  refine decodeWord_of_raw ?_ hc
  simp [rawDecode, fldS, Instr.canon]

theorem RoundTrip.extr (s : Bool) (d : Reg) (a : Reg) (p : BitVec 6) (l : BitVec 6) : RoundTrip.Statement (.extr s d a p l) := by
  intro w he hc
  cases he
  refine decodeWord_of_raw ?_ hc
  simp [rawDecode, decExtr, fldS, Instr.canon]

theorem RoundTrip.extrs (s : Bool) (d : Reg) (a : Reg) (p : BitVec 6) (l : BitVec 6) : RoundTrip.Statement (.extrs s d a p l) := by
  intro w he hc
  cases he
  refine decodeWord_of_raw ?_ hc
  simp [rawDecode, decExtr, fldS, Instr.canon]

theorem RoundTrip.ins (s : Bool) (d : Reg) (a : Reg) (p : BitVec 6) (l : BitVec 6) : RoundTrip.Statement (.ins s d a p l) := by
  intro w he hc
  cases he
  refine decodeWord_of_raw ?_ hc
  simp [rawDecode, decIns, fldS, Instr.canon]

theorem RoundTrip.moveqz (s : Bool) (d : Reg) (a : Reg) (b : Reg) : RoundTrip.Statement (.moveqz s d a b) := by
  intro w he hc
  cases he
  refine decodeWord_of_raw ?_ hc
  simp [rawDecode, decMovc, fldS, Instr.canon]

theorem RoundTrip.movnez (s : Bool) (d : Reg) (a : Reg) (b : Reg) : RoundTrip.Statement (.movnez s d a b) := by
  intro w he hc
  cases he
  refine decodeWord_of_raw ?_ hc
  simp [rawDecode, decMovc, fldS, Instr.canon]

theorem RoundTrip.movltz (s : Bool) (d : Reg) (a : Reg) (b : Reg) : RoundTrip.Statement (.movltz s d a b) := by
  intro w he hc
  cases he
  refine decodeWord_of_raw ?_ hc
  simp [rawDecode, decMovc, fldS, Instr.canon]

theorem RoundTrip.movgez (s : Bool) (d : Reg) (a : Reg) (b : Reg) : RoundTrip.Statement (.movgez s d a b) := by
  intro w he hc
  cases he
  refine decodeWord_of_raw ?_ hc
  simp [rawDecode, decMovc, fldS, Instr.canon]

theorem RoundTrip.movgtz (s : Bool) (d : Reg) (a : Reg) (b : Reg) : RoundTrip.Statement (.movgtz s d a b) := by
  intro w he hc
  cases he
  refine decodeWord_of_raw ?_ hc
  simp [rawDecode, decMovc, fldS, Instr.canon]

theorem RoundTrip.movlez (s : Bool) (d : Reg) (a : Reg) (b : Reg) : RoundTrip.Statement (.movlez s d a b) := by
  intro w he hc
  cases he
  refine decodeWord_of_raw ?_ hc
  simp [rawDecode, decMovc, fldS, Instr.canon]

theorem RoundTrip.rdc (s : Bool) (d : Reg) (c : Creg) : RoundTrip.Statement (.rdc s d c) := by
  intro w he hc
  cases he
  refine decodeWord_of_raw ?_ hc
  simp [rawDecode, decCtrl, fldS, Instr.canon]

theorem RoundTrip.wrc (s : Bool) (a : Reg) (c : Creg) : RoundTrip.Statement (.wrc s a c) := by
  intro w he hc
  cases he
  refine decodeWord_of_raw ?_ hc
  simp [rawDecode, decCtrl, fldS, Instr.canon]

theorem RoundTrip.setc (s : Bool) (d : Reg) (a : Reg) (c : Creg) : RoundTrip.Statement (.setc s d a c) := by
  intro w he hc
  cases he
  refine decodeWord_of_raw ?_ hc
  simp [rawDecode, decCtrl, fldS, Instr.canon]

theorem RoundTrip.clrc (s : Bool) (d : Reg) (a : Reg) (c : Creg) : RoundTrip.Statement (.clrc s d a c) := by
  intro w he hc
  cases he
  refine decodeWord_of_raw ?_ hc
  simp [rawDecode, decCtrl, fldS, Instr.canon]

theorem RoundTrip.swpc (s : Bool) (d : Reg) (a : Reg) (c : Creg) : RoundTrip.Statement (.swpc s d a c) := by
  intro w he hc
  cases he
  refine decodeWord_of_raw ?_ hc
  simp [rawDecode, decCtrl, fldS, Instr.canon]

theorem RoundTrip.threadstWrite (v : Word) : RoundTrip.Statement (.threadstWrite v) :=
  fun _ he => nomatch he

theorem RoundTrip.fpflagsAccess (op : BitVec 3) (d : Reg) (v : Word) : RoundTrip.Statement (.fpflagsAccess op d v) :=
  fun _ he => nomatch he

theorem RoundTrip.poolminWrite (v : Word) : RoundTrip.Statement (.poolminWrite v) :=
  fun _ he => nomatch he

theorem RoundTrip.poolcapWrite (v : Word) : RoundTrip.Statement (.poolcapWrite v) :=
  fun _ he => nomatch he

theorem RoundTrip.delayselLoad (v : Word) : RoundTrip.Statement (.delayselLoad v) :=
  fun _ he => nomatch he

theorem RoundTrip.nop (s : Bool) : RoundTrip.Statement (.nop s) := by
  intro w he hc
  cases he
  refine decodeWord_of_raw ?_ hc
  simp [rawDecode, decSys, fldS, Instr.canon]

theorem RoundTrip.hbeat (s : Bool) : RoundTrip.Statement (.hbeat s) := by
  intro w he hc
  cases he
  refine decodeWord_of_raw ?_ hc
  simp [rawDecode, decSys, fldS, Instr.canon]

theorem RoundTrip.trap (s : Bool) (n : BitVec 6) : RoundTrip.Statement (.trap s n) := by
  intro w he hc
  cases he
  refine decodeWord_of_raw ?_ hc
  simp [rawDecode, decSys, fldS, Instr.canon]

theorem RoundTrip.tret (s : Bool) : RoundTrip.Statement (.tret s) := by
  intro w he hc
  cases he
  refine decodeWord_of_raw ?_ hc
  simp [rawDecode, decSys, fldS, Instr.canon]

theorem RoundTrip.brk (s : Bool) : RoundTrip.Statement (.brk s) := by
  intro w he hc
  cases he
  refine decodeWord_of_raw ?_ hc
  simp [rawDecode, decSys, fldS, Instr.canon]

theorem RoundTrip.efence (s : Bool) : RoundTrip.Statement (.efence s) := by
  intro w he hc
  cases he
  refine decodeWord_of_raw ?_ hc
  simp [rawDecode, decSys, fldS, Instr.canon]

theorem RoundTrip.eret (s : Bool) : RoundTrip.Statement (.eret s) := by
  intro w he hc
  cases he
  refine decodeWord_of_raw ?_ hc
  simp [rawDecode, decSys, fldS, Instr.canon]

theorem RoundTrip.scall (s : Bool) (a : Reg) : RoundTrip.Statement (.scall s a) := by
  intro w he hc
  cases he
  refine decodeWord_of_raw ?_ hc
  simp [rawDecode, decSys, fldS, Instr.canon]

theorem RoundTrip.park (s : Bool) (a : Reg) : RoundTrip.Statement (.park s a) := by
  intro w he hc
  cases he
  refine decodeWord_of_raw ?_ hc
  simp [rawDecode, decSys, fldS, Instr.canon]

theorem RoundTrip.resume (s : Bool) (a : Reg) : RoundTrip.Statement (.resume s a) := by
  intro w he hc
  cases he
  refine decodeWord_of_raw ?_ hc
  simp [rawDecode, decSys, fldS, Instr.canon]

theorem RoundTrip.preempt (s : Bool) (a : Reg) : RoundTrip.Statement (.preempt s a) := by
  intro w he hc
  cases he
  refine decodeWord_of_raw ?_ hc
  simp [rawDecode, decSys, fldS, Instr.canon]

theorem RoundTrip.tlbi (s : Bool) (a : Reg) (b : Reg) : RoundTrip.Statement (.tlbi s a b) := by
  intro w he hc
  cases he
  refine decodeWord_of_raw ?_ hc
  simp [rawDecode, decSys, fldS, Instr.canon]

theorem RoundTrip.freq (s : Bool) (a : Reg) : RoundTrip.Statement (.freq s a) := by
  intro w he hc
  cases he
  refine decodeWord_of_raw ?_ hc
  simp [rawDecode, decSys, fldS, Instr.canon]

theorem RoundTrip.wset (s : Bool) (a : Reg) : RoundTrip.Statement (.wset s a) := by
  intro w he hc
  cases he
  refine decodeWord_of_raw ?_ hc
  simp [rawDecode, decSys, fldS, Instr.canon]

theorem RoundTrip.kill (s : Bool) (a : Reg) : RoundTrip.Statement (.kill s a) := by
  intro w he hc
  cases he
  refine decodeWord_of_raw ?_ hc
  simp [rawDecode, decSys, fldS, Instr.canon]

theorem RoundTrip.beqz (s : Bool) (a : Reg) (i : BitVec 16) : RoundTrip.Statement (.beqz s a i) := by
  intro w he hc
  cases he
  refine decodeWord_of_raw ?_ hc
  simp [rawDecode, decBrc, fldS, Instr.canon]

theorem RoundTrip.bnez (s : Bool) (a : Reg) (i : BitVec 16) : RoundTrip.Statement (.bnez s a i) := by
  intro w he hc
  cases he
  refine decodeWord_of_raw ?_ hc
  simp [rawDecode, decBrc, fldS, Instr.canon]

theorem RoundTrip.bltz (s : Bool) (a : Reg) (i : BitVec 16) : RoundTrip.Statement (.bltz s a i) := by
  intro w he hc
  cases he
  refine decodeWord_of_raw ?_ hc
  simp [rawDecode, decBrc, fldS, Instr.canon]

theorem RoundTrip.bgez (s : Bool) (a : Reg) (i : BitVec 16) : RoundTrip.Statement (.bgez s a i) := by
  intro w he hc
  cases he
  refine decodeWord_of_raw ?_ hc
  simp [rawDecode, decBrc, fldS, Instr.canon]

theorem RoundTrip.bgtz (s : Bool) (a : Reg) (i : BitVec 16) : RoundTrip.Statement (.bgtz s a i) := by
  intro w he hc
  cases he
  refine decodeWord_of_raw ?_ hc
  simp [rawDecode, decBrc, fldS, Instr.canon]

theorem RoundTrip.blez (s : Bool) (a : Reg) (i : BitVec 16) : RoundTrip.Statement (.blez s a i) := by
  intro w he hc
  cases he
  refine decodeWord_of_raw ?_ hc
  simp [rawDecode, decBrc, fldS, Instr.canon]

theorem RoundTrip.beq (s : Bool) (a : Reg) (b : Reg) (i : BitVec 10) : RoundTrip.Statement (.beq s a b i) := by
  intro w he hc
  cases he
  refine decodeWord_of_raw ?_ hc
  simp [rawDecode, decBcmp, fldS, Instr.canon]

theorem RoundTrip.bne (s : Bool) (a : Reg) (b : Reg) (i : BitVec 10) : RoundTrip.Statement (.bne s a b i) := by
  intro w he hc
  cases he
  refine decodeWord_of_raw ?_ hc
  simp [rawDecode, decBcmp, fldS, Instr.canon]

theorem RoundTrip.blt (s : Bool) (a : Reg) (b : Reg) (i : BitVec 10) : RoundTrip.Statement (.blt s a b i) := by
  intro w he hc
  cases he
  refine decodeWord_of_raw ?_ hc
  simp [rawDecode, decBcmp, fldS, Instr.canon]

theorem RoundTrip.bge (s : Bool) (a : Reg) (b : Reg) (i : BitVec 10) : RoundTrip.Statement (.bge s a b i) := by
  intro w he hc
  cases he
  refine decodeWord_of_raw ?_ hc
  simp [rawDecode, decBcmp, fldS, Instr.canon]

theorem RoundTrip.bltu (s : Bool) (a : Reg) (b : Reg) (i : BitVec 10) : RoundTrip.Statement (.bltu s a b i) := by
  intro w he hc
  cases he
  refine decodeWord_of_raw ?_ hc
  simp [rawDecode, decBcmp, fldS, Instr.canon]

theorem RoundTrip.bgeu (s : Bool) (a : Reg) (b : Reg) (i : BitVec 10) : RoundTrip.Statement (.bgeu s a b i) := by
  intro w he hc
  cases he
  refine decodeWord_of_raw ?_ hc
  simp [rawDecode, decBcmp, fldS, Instr.canon]

theorem RoundTrip.jmp (s : Bool) (i : BitVec 25) : RoundTrip.Statement (.jmp s i) := by
  intro w he hc
  cases he
  refine decodeWord_of_raw ?_ hc
  simp [rawDecode, fldS, Instr.canon]

theorem RoundTrip.call (s : Bool) (i : BitVec 25) : RoundTrip.Statement (.call s i) := by
  intro w he hc
  cases he
  refine decodeWord_of_raw ?_ hc
  simp [rawDecode, fldS, Instr.canon]

theorem RoundTrip.jr (s : Bool) (a : Reg) : RoundTrip.Statement (.jr s a) := by
  intro w he hc
  cases he
  refine decodeWord_of_raw ?_ hc
  simp [rawDecode, decJreg, fldS, Instr.canon]

theorem RoundTrip.callr (s : Bool) (a : Reg) : RoundTrip.Statement (.callr s a) := by
  intro w he hc
  cases he
  refine decodeWord_of_raw ?_ hc
  simp [rawDecode, decJreg, fldS, Instr.canon]

theorem RoundTrip.ret (s : Bool) : RoundTrip.Statement (.ret s) := by
  intro w he hc
  cases he
  refine decodeWord_of_raw ?_ hc
  simp [rawDecode, decJreg, fldS, Instr.canon]

theorem RoundTrip.loop (s : Bool) (a : Reg) (i : BitVec 16) : RoundTrip.Statement (.loop s a i) := by
  intro w he hc
  cases he
  refine decodeWord_of_raw ?_ hc
  simp [rawDecode, decLoop, fldS, Instr.canon]

theorem RoundTrip.endAct (s : Bool) : RoundTrip.Statement (.endAct s) := by
  intro w he hc
  cases he
  refine decodeWord_of_raw ?_ hc
  simp [rawDecode, decEndg, fldS, Instr.canon]

theorem RoundTrip.endj (s : Bool) (a : Reg) : RoundTrip.Statement (.endj s a) := by
  intro w he hc
  cases he
  refine decodeWord_of_raw ?_ hc
  simp [rawDecode, decEndg, fldS, Instr.canon]

theorem RoundTrip.ends (s : Bool) (a : Reg) (b : Reg) : RoundTrip.Statement (.ends s a b) := by
  intro w he hc
  cases he
  refine decodeWord_of_raw ?_ hc
  simp [rawDecode, decEndg, fldS, Instr.canon]

theorem RoundTrip.fence (s : Bool) (c : BitVec 4) : RoundTrip.Statement (.fence s c) := by
  intro w he hc
  cases he
  refine decodeWord_of_raw ?_ hc
  simp [rawDecode, decFence, fldS, Instr.canon]

theorem RoundTrip.fencew (s : Bool) (c : BitVec 4) : RoundTrip.Statement (.fencew s c) := by
  intro w he hc
  cases he
  refine decodeWord_of_raw ?_ hc
  simp [rawDecode, decFence, fldS, Instr.canon]

theorem RoundTrip.fencer (s : Bool) (c : BitVec 4) : RoundTrip.Statement (.fencer s c) := by
  intro w he hc
  cases he
  refine decodeWord_of_raw ?_ hc
  simp [rawDecode, decFence, fldS, Instr.canon]

theorem RoundTrip.ackwait (s : Bool) (c : BitVec 4) : RoundTrip.Statement (.ackwait s c) := by
  intro w he hc
  cases he
  refine decodeWord_of_raw ?_ hc
  simp [rawDecode, decFence, fldS, Instr.canon]

theorem RoundTrip.ldb (s : Bool) (t : Reg) (b : Reg) (o : BitVec 10) : RoundTrip.Statement (.ldb s t b o) := by
  intro w he hc
  cases he
  refine decodeWord_of_raw ?_ hc
  simp [rawDecode, decLds, fldS, Instr.canon]

theorem RoundTrip.ldbs (s : Bool) (t : Reg) (b : Reg) (o : BitVec 10) : RoundTrip.Statement (.ldbs s t b o) := by
  intro w he hc
  cases he
  refine decodeWord_of_raw ?_ hc
  simp [rawDecode, decLds, fldS, Instr.canon]

theorem RoundTrip.ldh (s : Bool) (t : Reg) (b : Reg) (o : BitVec 10) : RoundTrip.Statement (.ldh s t b o) := by
  intro w he hc
  cases he
  refine decodeWord_of_raw ?_ hc
  simp [rawDecode, decLds, fldS, Instr.canon]

theorem RoundTrip.ldhs (s : Bool) (t : Reg) (b : Reg) (o : BitVec 10) : RoundTrip.Statement (.ldhs s t b o) := by
  intro w he hc
  cases he
  refine decodeWord_of_raw ?_ hc
  simp [rawDecode, decLds, fldS, Instr.canon]

theorem RoundTrip.ldw (s : Bool) (t : Reg) (b : Reg) (o : BitVec 10) : RoundTrip.Statement (.ldw s t b o) := by
  intro w he hc
  cases he
  refine decodeWord_of_raw ?_ hc
  simp [rawDecode, decLds, fldS, Instr.canon]

theorem RoundTrip.ldws (s : Bool) (t : Reg) (b : Reg) (o : BitVec 10) : RoundTrip.Statement (.ldws s t b o) := by
  intro w he hc
  cases he
  refine decodeWord_of_raw ?_ hc
  simp [rawDecode, decLds, fldS, Instr.canon]

theorem RoundTrip.ldd (s : Bool) (t : Reg) (b : Reg) (o : BitVec 10) : RoundTrip.Statement (.ldd s t b o) := by
  intro w he hc
  cases he
  refine decodeWord_of_raw ?_ hc
  simp [rawDecode, decLds, fldS, Instr.canon]

theorem RoundTrip.ldq (s : Bool) (t : Reg) (b : Reg) (o : BitVec 10) : RoundTrip.Statement (.ldq s t b o) := by
  intro w he hc
  cases he
  refine decodeWord_of_raw ?_ hc
  simp [rawDecode, decLds, fldS, Instr.canon]

theorem RoundTrip.stb (s : Bool) (t : Reg) (b : Reg) (o : BitVec 10) : RoundTrip.Statement (.stb s t b o) := by
  intro w he hc
  cases he
  refine decodeWord_of_raw ?_ hc
  simp [rawDecode, decSts, fldS, Instr.canon]

theorem RoundTrip.sth (s : Bool) (t : Reg) (b : Reg) (o : BitVec 10) : RoundTrip.Statement (.sth s t b o) := by
  intro w he hc
  cases he
  refine decodeWord_of_raw ?_ hc
  simp [rawDecode, decSts, fldS, Instr.canon]

theorem RoundTrip.stw (s : Bool) (t : Reg) (b : Reg) (o : BitVec 10) : RoundTrip.Statement (.stw s t b o) := by
  intro w he hc
  cases he
  refine decodeWord_of_raw ?_ hc
  simp [rawDecode, decSts, fldS, Instr.canon]

theorem RoundTrip.std (s : Bool) (t : Reg) (b : Reg) (o : BitVec 10) : RoundTrip.Statement (.std s t b o) := by
  intro w he hc
  cases he
  refine decodeWord_of_raw ?_ hc
  simp [rawDecode, decSts, fldS, Instr.canon]

theorem RoundTrip.stq (s : Bool) (t : Reg) (b : Reg) (o : BitVec 10) : RoundTrip.Statement (.stq s t b o) := by
  intro w he hc
  cases he
  refine decodeWord_of_raw ?_ hc
  simp [rawDecode, decSts, fldS, Instr.canon]

theorem RoundTrip.ldaq (s : Bool) (t : Reg) (b : Reg) (o : BitVec 6) (z : BitVec 3) (c : BitVec 4) : RoundTrip.Statement (.ldaq s t b o z c) := by
  intro w he hc
  cases he
  refine decodeWord_of_raw ?_ hc
  simp [rawDecode, fldS, Instr.canon]

theorem RoundTrip.strl (s : Bool) (t : Reg) (b : Reg) (o : BitVec 6) (z : BitVec 3) (c : BitVec 4) : RoundTrip.Statement (.strl s t b o z c) := by
  intro w he hc
  cases he
  refine decodeWord_of_raw ?_ hc
  simp [rawDecode, fldS, Instr.canon]

theorem RoundTrip.ldv (s : Bool) (t : Reg) (b : Reg) (f : BitVec 5) (o : BitVec 8) : RoundTrip.Statement (.ldv s t b f o) := by
  intro w he hc
  cases he
  refine decodeWord_of_raw ?_ hc
  simp [rawDecode, fldS, Instr.canon]

theorem RoundTrip.stv (s : Bool) (t : Reg) (b : Reg) (f : BitVec 5) (o : BitVec 8) : RoundTrip.Statement (.stv s t b f o) := by
  intro w he hc
  cases he
  refine decodeWord_of_raw ?_ hc
  simp [rawDecode, fldS, Instr.canon]

theorem RoundTrip.ldfeRff (s : Bool) (t : Reg) (b : Reg) (z : BitVec 3) (c : BitVec 4) : RoundTrip.Statement (.ldfeRff s t b z c) := by
  intro w he hc
  cases he
  refine decodeWord_of_raw ?_ hc
  simp [rawDecode, decLdfe, fldS, Instr.canon]

theorem RoundTrip.ldfeRfe (s : Bool) (t : Reg) (b : Reg) (z : BitVec 3) (c : BitVec 4) : RoundTrip.Statement (.ldfeRfe s t b z c) := by
  intro w he hc
  cases he
  refine decodeWord_of_raw ?_ hc
  simp [rawDecode, decLdfe, fldS, Instr.canon]

theorem RoundTrip.ldfeRawfe (s : Bool) (t : Reg) (b : Reg) (z : BitVec 3) (c : BitVec 4) : RoundTrip.Statement (.ldfeRawfe s t b z c) := by
  intro w he hc
  cases he
  refine decodeWord_of_raw ?_ hc
  simp [rawDecode, decLdfe, fldS, Instr.canon]

theorem RoundTrip.stfeWef (s : Bool) (t : Reg) (b : Reg) (z : BitVec 3) (c : BitVec 4) : RoundTrip.Statement (.stfeWef s t b z c) := by
  intro w he hc
  cases he
  refine decodeWord_of_raw ?_ hc
  simp [rawDecode, decStfe, fldS, Instr.canon]

theorem RoundTrip.stfeWaf (s : Bool) (t : Reg) (b : Reg) (z : BitVec 3) (c : BitVec 4) : RoundTrip.Statement (.stfeWaf s t b z c) := by
  intro w he hc
  cases he
  refine decodeWord_of_raw ?_ hc
  simp [rawDecode, decStfe, fldS, Instr.canon]

theorem RoundTrip.stfeWae (s : Bool) (t : Reg) (b : Reg) (z : BitVec 3) (c : BitVec 4) : RoundTrip.Statement (.stfeWae s t b z c) := by
  intro w he hc
  cases he
  refine decodeWord_of_raw ?_ hc
  simp [rawDecode, decStfe, fldS, Instr.canon]

theorem RoundTrip.stfeSete (s : Bool) (b : Reg) (z : BitVec 3) (c : BitVec 4) : RoundTrip.Statement (.stfeSete s b z c) := by
  intro w he hc
  cases he
  refine decodeWord_of_raw ?_ hc
  simp [rawDecode, decStfe, fldS, Instr.canon]

theorem RoundTrip.ldagWait (s : Bool) (t : Reg) (b : Reg) (l : Reg) (c : BitVec 4) : RoundTrip.Statement (.ldagWait s t b l c) := by
  intro w he hc
  cases he
  refine decodeWord_of_raw ?_ hc
  simp [rawDecode, decLdag, fldS, Instr.canon]

theorem RoundTrip.ldagTrap (s : Bool) (t : Reg) (b : Reg) (l : Reg) (c : BitVec 4) : RoundTrip.Statement (.ldagTrap s t b l c) := by
  intro w he hc
  cases he
  refine decodeWord_of_raw ?_ hc
  simp [rawDecode, decLdag, fldS, Instr.canon]

theorem RoundTrip.ldagPeek (s : Bool) (t : Reg) (b : Reg) (l : Reg) (c : BitVec 4) : RoundTrip.Statement (.ldagPeek s t b l c) := by
  intro w he hc
  cases he
  refine decodeWord_of_raw ?_ hc
  simp [rawDecode, decLdag, fldS, Instr.canon]

theorem RoundTrip.agreg (s : Bool) (a : Reg) : RoundTrip.Statement (.agreg s a) := by
  intro w he hc
  cases he
  refine decodeWord_of_raw ?_ hc
  simp [rawDecode, decAgop, fldS, Instr.canon]

theorem RoundTrip.agdone (s : Bool) (a : Reg) : RoundTrip.Statement (.agdone s a) := by
  intro w he hc
  cases he
  refine decodeWord_of_raw ?_ hc
  simp [rawDecode, decAgop, fldS, Instr.canon]

theorem RoundTrip.agage (s : Bool) (d : Reg) (a : Reg) : RoundTrip.Statement (.agage s d a) := by
  intro w he hc
  cases he
  refine decodeWord_of_raw ?_ hc
  simp [rawDecode, decAgop, fldS, Instr.canon]

theorem RoundTrip.aadd (s : Bool) (t : Reg) (b : Reg) (r : Reg) (o : BitVec 2) (w : BitVec 1) (c : BitVec 4) : RoundTrip.Statement (.aadd s t b r o w c) := by
  intro w he hc
  cases he
  refine decodeWord_of_raw ?_ hc
  simp [rawDecode, fldS, Instr.canon]

theorem RoundTrip.amin (s : Bool) (t : Reg) (b : Reg) (r : Reg) (o : BitVec 2) (w : BitVec 1) (c : BitVec 4) : RoundTrip.Statement (.amin s t b r o w c) := by
  intro w he hc
  cases he
  refine decodeWord_of_raw ?_ hc
  simp [rawDecode, fldS, Instr.canon]

theorem RoundTrip.amax (s : Bool) (t : Reg) (b : Reg) (r : Reg) (o : BitVec 2) (w : BitVec 1) (c : BitVec 4) : RoundTrip.Statement (.amax s t b r o w c) := by
  intro w he hc
  cases he
  refine decodeWord_of_raw ?_ hc
  simp [rawDecode, fldS, Instr.canon]

theorem RoundTrip.aminu (s : Bool) (t : Reg) (b : Reg) (r : Reg) (o : BitVec 2) (w : BitVec 1) (c : BitVec 4) : RoundTrip.Statement (.aminu s t b r o w c) := by
  intro w he hc
  cases he
  refine decodeWord_of_raw ?_ hc
  simp [rawDecode, fldS, Instr.canon]

theorem RoundTrip.amaxu (s : Bool) (t : Reg) (b : Reg) (r : Reg) (o : BitVec 2) (w : BitVec 1) (c : BitVec 4) : RoundTrip.Statement (.amaxu s t b r o w c) := by
  intro w he hc
  cases he
  refine decodeWord_of_raw ?_ hc
  simp [rawDecode, fldS, Instr.canon]

theorem RoundTrip.aand (s : Bool) (t : Reg) (b : Reg) (r : Reg) (o : BitVec 2) (w : BitVec 1) (c : BitVec 4) : RoundTrip.Statement (.aand s t b r o w c) := by
  intro w he hc
  cases he
  refine decodeWord_of_raw ?_ hc
  simp [rawDecode, fldS, Instr.canon]

theorem RoundTrip.aor (s : Bool) (t : Reg) (b : Reg) (r : Reg) (o : BitVec 2) (w : BitVec 1) (c : BitVec 4) : RoundTrip.Statement (.aor s t b r o w c) := by
  intro w he hc
  cases he
  refine decodeWord_of_raw ?_ hc
  simp [rawDecode, fldS, Instr.canon]

theorem RoundTrip.axor (s : Bool) (t : Reg) (b : Reg) (r : Reg) (o : BitVec 2) (w : BitVec 1) (c : BitVec 4) : RoundTrip.Statement (.axor s t b r o w c) := by
  intro w he hc
  cases he
  refine decodeWord_of_raw ?_ hc
  simp [rawDecode, fldS, Instr.canon]

theorem RoundTrip.aswp (s : Bool) (t : Reg) (b : Reg) (r : Reg) (o : BitVec 2) (w : BitVec 1) (c : BitVec 4) : RoundTrip.Statement (.aswp s t b r o w c) := by
  intro w he hc
  cases he
  refine decodeWord_of_raw ?_ hc
  simp [rawDecode, fldS, Instr.canon]

theorem RoundTrip.acas (s : Bool) (t : Reg) (b : Reg) (r : Reg) (o : BitVec 2) (w : BitVec 1) (c : BitVec 4) : RoundTrip.Statement (.acas s t b r o w c) := by
  intro w he hc
  cases he
  refine decodeWord_of_raw ?_ hc
  simp [rawDecode, fldS, Instr.canon]

theorem RoundTrip.acas2 (s : Bool) (t : Reg) (b : Reg) (r : Reg) (o : BitVec 2) (c : BitVec 4) : RoundTrip.Statement (.acas2 s t b r o c) := by
  intro w he hc
  cases he
  refine decodeWord_of_raw ?_ hc
  simp [rawDecode, fldS, Instr.canon]

theorem RoundTrip.nmcas (s : Bool) (t : Reg) (b : Reg) (r : Reg) (o : BitVec 2) (c : BitVec 4) : RoundTrip.Statement (.nmcas s t b r o c) := by
  intro w he hc
  cases he
  refine decodeWord_of_raw ?_ hc
  simp [rawDecode, fldS, Instr.canon]

theorem RoundTrip.afadd (s : Bool) (t : Reg) (b : Reg) (r : Reg) (o : BitVec 2) (w : BitVec 1) (c : BitVec 4) : RoundTrip.Statement (.afadd s t b r o w c) := by
  intro w he hc
  cases he
  refine decodeWord_of_raw ?_ hc
  simp [rawDecode, fldS, Instr.canon]

theorem RoundTrip.nmint (s : Bool) (d : Reg) (a : Reg) (b : Reg) : RoundTrip.Statement (.nmint s d a b) := by
  intro w he hc
  cases he
  refine decodeWord_of_raw ?_ hc
  simp [rawDecode, decName, fldS, Instr.canon]

theorem RoundTrip.nmres (s : Bool) (d : Reg) (a : Reg) : RoundTrip.Statement (.nmres s d a) := by
  intro w he hc
  cases he
  refine decodeWord_of_raw ?_ hc
  simp [rawDecode, decName, fldS, Instr.canon]

theorem RoundTrip.nmret (s : Bool) (d : Reg) (a : Reg) : RoundTrip.Statement (.nmret s d a) := by
  intro w he hc
  cases he
  refine decodeWord_of_raw ?_ hc
  simp [rawDecode, decName, fldS, Instr.canon]

theorem RoundTrip.nmeq (s : Bool) (d : Reg) (a : Reg) (b : Reg) : RoundTrip.Statement (.nmeq s d a b) := by
  intro w he hc
  cases he
  refine decodeWord_of_raw ?_ hc
  simp [rawDecode, decName, fldS, Instr.canon]

theorem RoundTrip.nmld (s : Bool) (d : Reg) (a : Reg) : RoundTrip.Statement (.nmld s d a) := by
  intro w he hc
  cases he
  refine decodeWord_of_raw ?_ hc
  simp [rawDecode, decName, fldS, Instr.canon]

theorem RoundTrip.nmst (s : Bool) (a : Reg) (b : Reg) : RoundTrip.Statement (.nmst s a b) := by
  intro w he hc
  cases he
  refine decodeWord_of_raw ?_ hc
  simp [rawDecode, decName, fldS, Instr.canon]

theorem RoundTrip.nmcls (s : Bool) (d : Reg) (a : Reg) : RoundTrip.Statement (.nmcls s d a) := by
  intro w he hc
  cases he
  refine decodeWord_of_raw ?_ hc
  simp [rawDecode, decName, fldS, Instr.canon]

theorem RoundTrip.nmorg (s : Bool) (d : Reg) (a : Reg) : RoundTrip.Statement (.nmorg s d a) := by
  intro w he hc
  cases he
  refine decodeWord_of_raw ?_ hc
  simp [rawDecode, decName, fldS, Instr.canon]

theorem RoundTrip.nmmove (s : Bool) (a : Reg) (b : Reg) : RoundTrip.Statement (.nmmove s a b) := by
  intro w he hc
  cases he
  refine decodeWord_of_raw ?_ hc
  simp [rawDecode, decName, fldS, Instr.canon]

theorem RoundTrip.spawn (s : Bool) (a : Reg) (b : Reg) : RoundTrip.Statement (.spawn s a b) := by
  intro w he hc
  cases he
  refine decodeWord_of_raw ?_ hc
  simp [rawDecode, decQop, fldS, Instr.canon]

theorem RoundTrip.spawnq (s : Bool) (d : Reg) (a : Reg) (b : Reg) : RoundTrip.Statement (.spawnq s d a b) := by
  intro w he hc
  cases he
  refine decodeWord_of_raw ?_ hc
  simp [rawDecode, decQop, fldS, Instr.canon]

theorem RoundTrip.send (s : Bool) (a : Reg) (b : Reg) : RoundTrip.Statement (.send s a b) := by
  intro w he hc
  cases he
  refine decodeWord_of_raw ?_ hc
  simp [rawDecode, decQop, fldS, Instr.canon]

theorem RoundTrip.jdec (s : Bool) (a : Reg) (b : Reg) : RoundTrip.Statement (.jdec s a b) := by
  intro w he hc
  cases he
  refine decodeWord_of_raw ?_ hc
  simp [rawDecode, decQop, fldS, Instr.canon]

theorem RoundTrip.jinit (s : Bool) (a : Reg) (b : Reg) : RoundTrip.Statement (.jinit s a b) := by
  intro w he hc
  cases he
  refine decodeWord_of_raw ?_ hc
  simp [rawDecode, decQop, fldS, Instr.canon]

theorem RoundTrip.handover (s : Bool) (a : Reg) (b : Reg) : RoundTrip.Statement (.handover s a b) := by
  intro w he hc
  cases he
  refine decodeWord_of_raw ?_ hc
  simp [rawDecode, decQop, fldS, Instr.canon]

theorem RoundTrip.sendseq (s : Bool) (d : Reg) (a : Reg) (b : Reg) : RoundTrip.Statement (.sendseq s d a b) := by
  intro w he hc
  cases he
  refine decodeWord_of_raw ?_ hc
  simp [rawDecode, decQop, fldS, Instr.canon]

theorem RoundTrip.qlen (s : Bool) (d : Reg) (a : Reg) : RoundTrip.Statement (.qlen s d a) := by
  intro w he hc
  cases he
  refine decodeWord_of_raw ?_ hc
  simp [rawDecode, decQop, fldS, Instr.canon]

theorem RoundTrip.vadd (s : Bool) (d : Reg) (a : Reg) (b : Reg) : RoundTrip.Statement (.vadd s d a b) := by
  intro w he hc
  cases he
  refine decodeWord_of_raw ?_ hc
  simp [rawDecode, decVop, fldS, Instr.canon]

theorem RoundTrip.vsub (s : Bool) (d : Reg) (a : Reg) (b : Reg) : RoundTrip.Statement (.vsub s d a b) := by
  intro w he hc
  cases he
  refine decodeWord_of_raw ?_ hc
  simp [rawDecode, decVop, fldS, Instr.canon]

theorem RoundTrip.vmul (s : Bool) (d : Reg) (a : Reg) (b : Reg) : RoundTrip.Statement (.vmul s d a b) := by
  intro w he hc
  cases he
  refine decodeWord_of_raw ?_ hc
  simp [rawDecode, decVop, fldS, Instr.canon]

theorem RoundTrip.vdiv (s : Bool) (d : Reg) (a : Reg) (b : Reg) : RoundTrip.Statement (.vdiv s d a b) := by
  intro w he hc
  cases he
  refine decodeWord_of_raw ?_ hc
  simp [rawDecode, decVop, fldS, Instr.canon]

theorem RoundTrip.vmin (s : Bool) (d : Reg) (a : Reg) (b : Reg) : RoundTrip.Statement (.vmin s d a b) := by
  intro w he hc
  cases he
  refine decodeWord_of_raw ?_ hc
  simp [rawDecode, decVop, fldS, Instr.canon]

theorem RoundTrip.vmax (s : Bool) (d : Reg) (a : Reg) (b : Reg) : RoundTrip.Statement (.vmax s d a b) := by
  intro w he hc
  cases he
  refine decodeWord_of_raw ?_ hc
  simp [rawDecode, decVop, fldS, Instr.canon]

theorem RoundTrip.vminn (s : Bool) (d : Reg) (a : Reg) (b : Reg) : RoundTrip.Statement (.vminn s d a b) := by
  intro w he hc
  cases he
  refine decodeWord_of_raw ?_ hc
  simp [rawDecode, decVop, fldS, Instr.canon]

theorem RoundTrip.vmaxn (s : Bool) (d : Reg) (a : Reg) (b : Reg) : RoundTrip.Statement (.vmaxn s d a b) := by
  intro w he hc
  cases he
  refine decodeWord_of_raw ?_ hc
  simp [rawDecode, decVop, fldS, Instr.canon]

theorem RoundTrip.vabs (s : Bool) (d : Reg) (a : Reg) : RoundTrip.Statement (.vabs s d a) := by
  intro w he hc
  cases he
  refine decodeWord_of_raw ?_ hc
  simp [rawDecode, decVop, fldS, Instr.canon]

theorem RoundTrip.vneg (s : Bool) (d : Reg) (a : Reg) : RoundTrip.Statement (.vneg s d a) := by
  intro w he hc
  cases he
  refine decodeWord_of_raw ?_ hc
  simp [rawDecode, decVop, fldS, Instr.canon]

theorem RoundTrip.vsqrt (s : Bool) (d : Reg) (a : Reg) : RoundTrip.Statement (.vsqrt s d a) := by
  intro w he hc
  cases he
  refine decodeWord_of_raw ?_ hc
  simp [rawDecode, decVop, fldS, Instr.canon]

theorem RoundTrip.vrcp (s : Bool) (d : Reg) (a : Reg) : RoundTrip.Statement (.vrcp s d a) := by
  intro w he hc
  cases he
  refine decodeWord_of_raw ?_ hc
  simp [rawDecode, decVop, fldS, Instr.canon]

theorem RoundTrip.vrsq (s : Bool) (d : Reg) (a : Reg) : RoundTrip.Statement (.vrsq s d a) := by
  intro w he hc
  cases he
  refine decodeWord_of_raw ?_ hc
  simp [rawDecode, decVop, fldS, Instr.canon]

theorem RoundTrip.vexp2 (s : Bool) (d : Reg) (a : Reg) : RoundTrip.Statement (.vexp2 s d a) := by
  intro w he hc
  cases he
  refine decodeWord_of_raw ?_ hc
  simp [rawDecode, decVop, fldS, Instr.canon]

theorem RoundTrip.vlog2 (s : Bool) (d : Reg) (a : Reg) : RoundTrip.Statement (.vlog2 s d a) := by
  intro w he hc
  cases he
  refine decodeWord_of_raw ?_ hc
  simp [rawDecode, decVop, fldS, Instr.canon]

theorem RoundTrip.vand (s : Bool) (d : Reg) (a : Reg) (b : Reg) : RoundTrip.Statement (.vand s d a b) := by
  intro w he hc
  cases he
  refine decodeWord_of_raw ?_ hc
  simp [rawDecode, decVop, fldS, Instr.canon]

theorem RoundTrip.vor (s : Bool) (d : Reg) (a : Reg) (b : Reg) : RoundTrip.Statement (.vor s d a b) := by
  intro w he hc
  cases he
  refine decodeWord_of_raw ?_ hc
  simp [rawDecode, decVop, fldS, Instr.canon]

theorem RoundTrip.vxor (s : Bool) (d : Reg) (a : Reg) (b : Reg) : RoundTrip.Statement (.vxor s d a b) := by
  intro w he hc
  cases he
  refine decodeWord_of_raw ?_ hc
  simp [rawDecode, decVop, fldS, Instr.canon]

theorem RoundTrip.vandn (s : Bool) (d : Reg) (a : Reg) (b : Reg) : RoundTrip.Statement (.vandn s d a b) := by
  intro w he hc
  cases he
  refine decodeWord_of_raw ?_ hc
  simp [rawDecode, decVop, fldS, Instr.canon]

theorem RoundTrip.vnot (s : Bool) (d : Reg) (a : Reg) : RoundTrip.Statement (.vnot s d a) := by
  intro w he hc
  cases he
  refine decodeWord_of_raw ?_ hc
  simp [rawDecode, decVop, fldS, Instr.canon]

theorem RoundTrip.vshl (s : Bool) (d : Reg) (a : Reg) (b : Reg) : RoundTrip.Statement (.vshl s d a b) := by
  intro w he hc
  cases he
  refine decodeWord_of_raw ?_ hc
  simp [rawDecode, decVop, fldS, Instr.canon]

theorem RoundTrip.vshr (s : Bool) (d : Reg) (a : Reg) (b : Reg) : RoundTrip.Statement (.vshr s d a b) := by
  intro w he hc
  cases he
  refine decodeWord_of_raw ?_ hc
  simp [rawDecode, decVop, fldS, Instr.canon]

theorem RoundTrip.vsar (s : Bool) (d : Reg) (a : Reg) (b : Reg) : RoundTrip.Statement (.vsar s d a b) := by
  intro w he hc
  cases he
  refine decodeWord_of_raw ?_ hc
  simp [rawDecode, decVop, fldS, Instr.canon]

theorem RoundTrip.vadds (s : Bool) (d : Reg) (a : Reg) (b : Reg) : RoundTrip.Statement (.vadds s d a b) := by
  intro w he hc
  cases he
  refine decodeWord_of_raw ?_ hc
  simp [rawDecode, decVop, fldS, Instr.canon]

theorem RoundTrip.vsubs (s : Bool) (d : Reg) (a : Reg) (b : Reg) : RoundTrip.Statement (.vsubs s d a b) := by
  intro w he hc
  cases he
  refine decodeWord_of_raw ?_ hc
  simp [rawDecode, decVop, fldS, Instr.canon]

theorem RoundTrip.vavg (s : Bool) (d : Reg) (a : Reg) (b : Reg) : RoundTrip.Statement (.vavg s d a b) := by
  intro w he hc
  cases he
  refine decodeWord_of_raw ?_ hc
  simp [rawDecode, decVop, fldS, Instr.canon]

theorem RoundTrip.vmulh (s : Bool) (d : Reg) (a : Reg) (b : Reg) : RoundTrip.Statement (.vmulh s d a b) := by
  intro w he hc
  cases he
  refine decodeWord_of_raw ?_ hc
  simp [rawDecode, decVop, fldS, Instr.canon]

theorem RoundTrip.vceq (s : Bool) (d : Reg) (a : Reg) (b : Reg) : RoundTrip.Statement (.vceq s d a b) := by
  intro w he hc
  cases he
  refine decodeWord_of_raw ?_ hc
  simp [rawDecode, decVop, fldS, Instr.canon]

theorem RoundTrip.vcne (s : Bool) (d : Reg) (a : Reg) (b : Reg) : RoundTrip.Statement (.vcne s d a b) := by
  intro w he hc
  cases he
  refine decodeWord_of_raw ?_ hc
  simp [rawDecode, decVop, fldS, Instr.canon]

theorem RoundTrip.vclt (s : Bool) (d : Reg) (a : Reg) (b : Reg) : RoundTrip.Statement (.vclt s d a b) := by
  intro w he hc
  cases he
  refine decodeWord_of_raw ?_ hc
  simp [rawDecode, decVop, fldS, Instr.canon]

theorem RoundTrip.vcle (s : Bool) (d : Reg) (a : Reg) (b : Reg) : RoundTrip.Statement (.vcle s d a b) := by
  intro w he hc
  cases he
  refine decodeWord_of_raw ?_ hc
  simp [rawDecode, decVop, fldS, Instr.canon]

theorem RoundTrip.vcun (s : Bool) (d : Reg) (a : Reg) (b : Reg) : RoundTrip.Statement (.vcun s d a b) := by
  intro w he hc
  cases he
  refine decodeWord_of_raw ?_ hc
  simp [rawDecode, decVop, fldS, Instr.canon]

theorem RoundTrip.vsel (s : Bool) (d : Reg) (a : Reg) (b : Reg) : RoundTrip.Statement (.vsel s d a b) := by
  intro w he hc
  cases he
  refine decodeWord_of_raw ?_ hc
  simp [rawDecode, decVop, fldS, Instr.canon]

theorem RoundTrip.vclass (s : Bool) (d : Reg) (a : Reg) : RoundTrip.Statement (.vclass s d a) := by
  intro w he hc
  cases he
  refine decodeWord_of_raw ?_ hc
  simp [rawDecode, decVop, fldS, Instr.canon]

theorem RoundTrip.vround (s : Bool) (d : Reg) (a : Reg) : RoundTrip.Statement (.vround s d a) := by
  intro w he hc
  cases he
  refine decodeWord_of_raw ?_ hc
  simp [rawDecode, decVop, fldS, Instr.canon]

theorem RoundTrip.vshli (s : Bool) (d : Reg) (a : Reg) (n : BitVec 6) : RoundTrip.Statement (.vshli s d a n) := by
  intro w he hc
  cases he
  refine decodeWord_of_raw ?_ hc
  simp [rawDecode, decVop, fldS, Instr.canon]

theorem RoundTrip.vshri (s : Bool) (d : Reg) (a : Reg) (n : BitVec 6) : RoundTrip.Statement (.vshri s d a n) := by
  intro w he hc
  cases he
  refine decodeWord_of_raw ?_ hc
  simp [rawDecode, decVop, fldS, Instr.canon]

theorem RoundTrip.vsari (s : Bool) (d : Reg) (a : Reg) (n : BitVec 6) : RoundTrip.Statement (.vsari s d a n) := by
  intro w he hc
  cases he
  refine decodeWord_of_raw ?_ hc
  simp [rawDecode, decVop, fldS, Instr.canon]

theorem RoundTrip.vfma (s : Bool) (d : Reg) (a : Reg) (b : Reg) : RoundTrip.Statement (.vfma s d a b) := by
  intro w he hc
  cases he
  refine decodeWord_of_raw ?_ hc
  simp [rawDecode, decVfma, fldS, Instr.canon]

theorem RoundTrip.vfms (s : Bool) (d : Reg) (a : Reg) (b : Reg) : RoundTrip.Statement (.vfms s d a b) := by
  intro w he hc
  cases he
  refine decodeWord_of_raw ?_ hc
  simp [rawDecode, decVfma, fldS, Instr.canon]

theorem RoundTrip.vmad (s : Bool) (d : Reg) (a : Reg) (b : Reg) : RoundTrip.Statement (.vmad s d a b) := by
  intro w he hc
  cases he
  refine decodeWord_of_raw ?_ hc
  simp [rawDecode, decVfma, fldS, Instr.canon]

theorem RoundTrip.vdot2 (s : Bool) (d : Reg) (a : Reg) (b : Reg) : RoundTrip.Statement (.vdot2 s d a b) := by
  intro w he hc
  cases he
  refine decodeWord_of_raw ?_ hc
  simp [rawDecode, decVfma, fldS, Instr.canon]

theorem RoundTrip.vdot4 (s : Bool) (d : Reg) (a : Reg) (b : Reg) : RoundTrip.Statement (.vdot4 s d a b) := by
  intro w he hc
  cases he
  refine decodeWord_of_raw ?_ hc
  simp [rawDecode, decVfma, fldS, Instr.canon]

theorem RoundTrip.vdot4b (s : Bool) (d : Reg) (a : Reg) (b : Reg) : RoundTrip.Statement (.vdot4b s d a b) := by
  intro w he hc
  cases he
  refine decodeWord_of_raw ?_ hc
  simp [rawDecode, decVfma, fldS, Instr.canon]

theorem RoundTrip.vdote (s : Bool) (d : Reg) (a : Reg) (b : Reg) : RoundTrip.Statement (.vdote s d a b) := by
  intro w he hc
  cases he
  refine decodeWord_of_raw ?_ hc
  simp [rawDecode, decVfma, fldS, Instr.canon]

theorem RoundTrip.vcvt (s : Bool) (d : Reg) (a : Reg) (b : Reg) (f : BitVec 5) (m : BitVec 2) : RoundTrip.Statement (.vcvt s d a b f m) := by
  intro w he hc
  cases he
  refine decodeWord_of_raw ?_ hc
  simp [rawDecode, fldS, Instr.canon]

theorem RoundTrip.vsplat (s : Bool) (d : Reg) (a : Reg) (n : BitVec 6) : RoundTrip.Statement (.vsplat s d a n) := by
  intro w he hc
  cases he
  refine decodeWord_of_raw ?_ hc
  simp [rawDecode, decVperm, fldS, Instr.canon]

theorem RoundTrip.vins (s : Bool) (d : Reg) (a : Reg) (n : BitVec 6) : RoundTrip.Statement (.vins s d a n) := by
  intro w he hc
  cases he
  refine decodeWord_of_raw ?_ hc
  simp [rawDecode, decVperm, fldS, Instr.canon]

theorem RoundTrip.vext (s : Bool) (d : Reg) (a : Reg) (n : BitVec 6) : RoundTrip.Statement (.vext s d a n) := by
  intro w he hc
  cases he
  refine decodeWord_of_raw ?_ hc
  simp [rawDecode, decVperm, fldS, Instr.canon]

theorem RoundTrip.vshuf (s : Bool) (d : Reg) (a : Reg) (b : Reg) : RoundTrip.Statement (.vshuf s d a b) := by
  intro w he hc
  cases he
  refine decodeWord_of_raw ?_ hc
  simp [rawDecode, decVperm, fldS, Instr.canon]

theorem RoundTrip.vzipl (s : Bool) (d : Reg) (a : Reg) (b : Reg) : RoundTrip.Statement (.vzipl s d a b) := by
  intro w he hc
  cases he
  refine decodeWord_of_raw ?_ hc
  simp [rawDecode, decVperm, fldS, Instr.canon]

theorem RoundTrip.vziph (s : Bool) (d : Reg) (a : Reg) (b : Reg) : RoundTrip.Statement (.vziph s d a b) := by
  intro w he hc
  cases he
  refine decodeWord_of_raw ?_ hc
  simp [rawDecode, decVperm, fldS, Instr.canon]

theorem RoundTrip.vuzpl (s : Bool) (d : Reg) (a : Reg) (b : Reg) : RoundTrip.Statement (.vuzpl s d a b) := by
  intro w he hc
  cases he
  refine decodeWord_of_raw ?_ hc
  simp [rawDecode, decVperm, fldS, Instr.canon]

theorem RoundTrip.vuzph (s : Bool) (d : Reg) (a : Reg) (b : Reg) : RoundTrip.Statement (.vuzph s d a b) := by
  intro w he hc
  cases he
  refine decodeWord_of_raw ?_ hc
  simp [rawDecode, decVperm, fldS, Instr.canon]

theorem RoundTrip.vrev (s : Bool) (d : Reg) (a : Reg) : RoundTrip.Statement (.vrev s d a) := by
  intro w he hc
  cases he
  refine decodeWord_of_raw ?_ hc
  simp [rawDecode, decVperm, fldS, Instr.canon]

theorem RoundTrip.vcmpr (s : Bool) (d : Reg) (a : Reg) (b : Reg) : RoundTrip.Statement (.vcmpr s d a b) := by
  intro w he hc
  cases he
  refine decodeWord_of_raw ?_ hc
  simp [rawDecode, decVperm, fldS, Instr.canon]

theorem RoundTrip.vexpd (s : Bool) (d : Reg) (a : Reg) (b : Reg) : RoundTrip.Statement (.vexpd s d a b) := by
  intro w he hc
  cases he
  refine decodeWord_of_raw ?_ hc
  simp [rawDecode, decVperm, fldS, Instr.canon]

theorem RoundTrip.vpopm (s : Bool) (d : Reg) (a : Reg) : RoundTrip.Statement (.vpopm s d a) := by
  intro w he hc
  cases he
  refine decodeWord_of_raw ?_ hc
  simp [rawDecode, decVperm, fldS, Instr.canon]

theorem RoundTrip.valgn (s : Bool) (d : Reg) (a : Reg) (b : Reg) : RoundTrip.Statement (.valgn s d a b) := by
  intro w he hc
  cases he
  refine decodeWord_of_raw ?_ hc
  simp [rawDecode, decVperm, fldS, Instr.canon]

theorem RoundTrip.vrsum (s : Bool) (d : Reg) (a : Reg) : RoundTrip.Statement (.vrsum s d a) := by
  intro w he hc
  cases he
  refine decodeWord_of_raw ?_ hc
  simp [rawDecode, decVred, fldS, Instr.canon]

theorem RoundTrip.vrmin (s : Bool) (d : Reg) (a : Reg) : RoundTrip.Statement (.vrmin s d a) := by
  intro w he hc
  cases he
  refine decodeWord_of_raw ?_ hc
  simp [rawDecode, decVred, fldS, Instr.canon]

theorem RoundTrip.vrmax (s : Bool) (d : Reg) (a : Reg) : RoundTrip.Statement (.vrmax s d a) := by
  intro w he hc
  cases he
  refine decodeWord_of_raw ?_ hc
  simp [rawDecode, decVred, fldS, Instr.canon]

theorem RoundTrip.vramax (s : Bool) (d : Reg) (a : Reg) : RoundTrip.Statement (.vramax s d a) := by
  intro w he hc
  cases he
  refine decodeWord_of_raw ?_ hc
  simp [rawDecode, decVred, fldS, Instr.canon]

theorem RoundTrip.vrsumw (s : Bool) (d : Reg) (a : Reg) : RoundTrip.Statement (.vrsumw s d a) := by
  intro w he hc
  cases he
  refine decodeWord_of_raw ?_ hc
  simp [rawDecode, decVred, fldS, Instr.canon]

theorem RoundTrip.vrany (s : Bool) (d : Reg) (a : Reg) : RoundTrip.Statement (.vrany s d a) := by
  intro w he hc
  cases he
  refine decodeWord_of_raw ?_ hc
  simp [rawDecode, decVred, fldS, Instr.canon]

theorem RoundTrip.vrall (s : Bool) (d : Reg) (a : Reg) : RoundTrip.Statement (.vrall s d a) := by
  intro w he hc
  cases he
  refine decodeWord_of_raw ?_ hc
  simp [rawDecode, decVred, fldS, Instr.canon]

theorem RoundTrip.laz (s : Bool) (a : Reg) : RoundTrip.Statement (.laz s a) := by
  intro w he hc
  cases he
  refine decodeWord_of_raw ?_ hc
  simp [rawDecode, decLacc, fldS, Instr.canon]

theorem RoundTrip.laadd (s : Bool) (a : Reg) (b : Reg) : RoundTrip.Statement (.laadd s a b) := by
  intro w he hc
  cases he
  refine decodeWord_of_raw ?_ hc
  simp [rawDecode, decLacc, fldS, Instr.canon]

theorem RoundTrip.lasub (s : Bool) (a : Reg) (b : Reg) : RoundTrip.Statement (.lasub s a b) := by
  intro w he hc
  cases he
  refine decodeWord_of_raw ?_ hc
  simp [rawDecode, decLacc, fldS, Instr.canon]

theorem RoundTrip.larnd (s : Bool) (d : Reg) (a : Reg) : RoundTrip.Statement (.larnd s d a) := by
  intro w he hc
  cases he
  refine decodeWord_of_raw ?_ hc
  simp [rawDecode, decLacc, fldS, Instr.canon]

theorem RoundTrip.lamrg (s : Bool) (a : Reg) (b : Reg) : RoundTrip.Statement (.lamrg s a b) := by
  intro w he hc
  cases he
  refine decodeWord_of_raw ?_ hc
  simp [rawDecode, decLacc, fldS, Instr.canon]

theorem RoundTrip.larndb (s : Bool) (d : Reg) (a : Reg) : RoundTrip.Statement (.larndb s d a) := by
  intro w he hc
  cases he
  refine decodeWord_of_raw ?_ hc
  simp [rawDecode, decLacc, fldS, Instr.canon]

theorem RoundTrip.last (s : Bool) (d : Reg) (a : Reg) : RoundTrip.Statement (.last s d a) := by
  intro w he hc
  cases he
  refine decodeWord_of_raw ?_ hc
  simp [rawDecode, decLacc, fldS, Instr.canon]

theorem RoundTrip.svinit (s : Bool) (a : Reg) (b : Reg) : RoundTrip.Statement (.svinit s a b) := by
  intro w he hc
  cases he
  refine decodeWord_of_raw ?_ hc
  simp [rawDecode, decSurvey, fldS, Instr.canon]

theorem RoundTrip.svprb (s : Bool) (d : Reg) (a : Reg) (b : Reg) : RoundTrip.Statement (.svprb s d a b) := by
  intro w he hc
  cases he
  refine decodeWord_of_raw ?_ hc
  simp [rawDecode, decSurvey, fldS, Instr.canon]

theorem RoundTrip.svprb4 (s : Bool) (d : Reg) (a : Reg) (b : Reg) : RoundTrip.Statement (.svprb4 s d a b) := by
  intro w he hc
  cases he
  refine decodeWord_of_raw ?_ hc
  simp [rawDecode, decSurvey, fldS, Instr.canon]

theorem RoundTrip.svprbx (s : Bool) (d : Reg) (a : Reg) (b : Reg) : RoundTrip.Statement (.svprbx s d a b) := by
  intro w he hc
  cases he
  refine decodeWord_of_raw ?_ hc
  simp [rawDecode, decSurvey, fldS, Instr.canon]

theorem RoundTrip.svcmt (s : Bool) (a : Reg) (b : Reg) : RoundTrip.Statement (.svcmt s a b) := by
  intro w he hc
  cases he
  refine decodeWord_of_raw ?_ hc
  simp [rawDecode, decSurvey, fldS, Instr.canon]

theorem RoundTrip.svpick (s : Bool) (d : Reg) (a : Reg) (b : Reg) : RoundTrip.Statement (.svpick s d a b) := by
  intro w he hc
  cases he
  refine decodeWord_of_raw ?_ hc
  simp [rawDecode, decSurvey, fldS, Instr.canon]

theorem RoundTrip.svpickh (s : Bool) (d : Reg) (a : Reg) (b : Reg) : RoundTrip.Statement (.svpickh s d a b) := by
  intro w he hc
  cases he
  refine decodeWord_of_raw ?_ hc
  simp [rawDecode, decSurvey, fldS, Instr.canon]

theorem RoundTrip.mma (s : Bool) (c : Reg) (x : Reg) (y : Reg) : RoundTrip.Statement (.mma s c x y) := by
  intro w he hc
  cases he
  refine decodeWord_of_raw ?_ hc
  simp [rawDecode, decMat, fldS, Instr.canon]

theorem RoundTrip.mmaz (s : Bool) (c : Reg) (x : Reg) (y : Reg) : RoundTrip.Statement (.mmaz s c x y) := by
  intro w he hc
  cases he
  refine decodeWord_of_raw ?_ hc
  simp [rawDecode, decMat, fldS, Instr.canon]

theorem RoundTrip.mclaim (s : Bool) (d : Reg) (k : BitVec 1) (t : BitVec 5) : RoundTrip.Statement (.mclaim s d k t) := by
  intro w he hc
  cases he
  refine decodeWord_of_raw ?_ hc
  simp [rawDecode, decMslot, fldS, Instr.canon]

theorem RoundTrip.mrel (s : Bool) (d : Reg) : RoundTrip.Statement (.mrel s d) := by
  intro w he hc
  cases he
  refine decodeWord_of_raw ?_ hc
  simp [rawDecode, decMslot, fldS, Instr.canon]

theorem RoundTrip.mload (s : Bool) (d : Reg) (a : Reg) (b : Reg) : RoundTrip.Statement (.mload s d a b) := by
  intro w he hc
  cases he
  refine decodeWord_of_raw ?_ hc
  simp [rawDecode, decMslot, fldS, Instr.canon]

theorem RoundTrip.mloadt (s : Bool) (d : Reg) (a : Reg) (b : Reg) : RoundTrip.Statement (.mloadt s d a b) := by
  intro w he hc
  cases he
  refine decodeWord_of_raw ?_ hc
  simp [rawDecode, decMslot, fldS, Instr.canon]

theorem RoundTrip.mloadsc (s : Bool) (d : Reg) (a : Reg) (b : Reg) : RoundTrip.Statement (.mloadsc s d a b) := by
  intro w he hc
  cases he
  refine decodeWord_of_raw ?_ hc
  simp [rawDecode, decMslot, fldS, Instr.canon]

theorem RoundTrip.mdec (s : Bool) (d : Reg) (a : Reg) (b : Reg) : RoundTrip.Statement (.mdec s d a b) := by
  intro w he hc
  cases he
  refine decodeWord_of_raw ?_ hc
  simp [rawDecode, decMslot, fldS, Instr.canon]

theorem RoundTrip.mzero (s : Bool) (d : Reg) : RoundTrip.Statement (.mzero s d) := by
  intro w he hc
  cases he
  refine decodeWord_of_raw ?_ hc
  simp [rawDecode, decMslot, fldS, Instr.canon]

theorem RoundTrip.mstore (s : Bool) (d : Reg) (a : Reg) (b : Reg) : RoundTrip.Statement (.mstore s d a b) := by
  intro w he hc
  cases he
  refine decodeWord_of_raw ?_ hc
  simp [rawDecode, decMslot, fldS, Instr.canon]

theorem RoundTrip.mstoreb (s : Bool) (d : Reg) (a : Reg) (b : Reg) : RoundTrip.Statement (.mstoreb s d a b) := by
  intro w he hc
  cases he
  refine decodeWord_of_raw ?_ hc
  simp [rawDecode, decMslot, fldS, Instr.canon]

theorem RoundTrip.mstate (s : Bool) (d : Reg) (a : Reg) : RoundTrip.Statement (.mstate s d a) := by
  intro w he hc
  cases he
  refine decodeWord_of_raw ?_ hc
  simp [rawDecode, decMslot, fldS, Instr.canon]

theorem RoundTrip.mtbl (s : Bool) (a : Reg) : RoundTrip.Statement (.mtbl s a) := by
  intro w he hc
  cases he
  refine decodeWord_of_raw ?_ hc
  simp [rawDecode, decMslot, fldS, Instr.canon]

theorem RoundTrip.copy (s : Bool) (d : Reg) (j : Reg) (x : Reg) : RoundTrip.Statement (.copy s d j x) := by
  intro w he hc
  cases he
  refine decodeWord_of_raw ?_ hc
  simp [rawDecode, decEng, fldS, Instr.canon]

theorem RoundTrip.copym (s : Bool) (d : Reg) (j : Reg) (x : Reg) : RoundTrip.Statement (.copym s d j x) := by
  intro w he hc
  cases he
  refine decodeWord_of_raw ?_ hc
  simp [rawDecode, decEng, fldS, Instr.canon]

theorem RoundTrip.put (s : Bool) (d : Reg) (j : Reg) (x : Reg) : RoundTrip.Statement (.put s d j x) := by
  intro w he hc
  cases he
  refine decodeWord_of_raw ?_ hc
  simp [rawDecode, decEng, fldS, Instr.canon]

theorem RoundTrip.putsig (s : Bool) (d : Reg) (j : Reg) (x : Reg) : RoundTrip.Statement (.putsig s d j x) := by
  intro w he hc
  cases he
  refine decodeWord_of_raw ?_ hc
  simp [rawDecode, decEng, fldS, Instr.canon]

theorem RoundTrip.get (s : Bool) (d : Reg) (j : Reg) (x : Reg) : RoundTrip.Statement (.get s d j x) := by
  intro w he hc
  cases he
  refine decodeWord_of_raw ?_ hc
  simp [rawDecode, decEng, fldS, Instr.canon]

theorem RoundTrip.gather (s : Bool) (d : Reg) (j : Reg) (x : Reg) : RoundTrip.Statement (.gather s d j x) := by
  intro w he hc
  cases he
  refine decodeWord_of_raw ?_ hc
  simp [rawDecode, decEng, fldS, Instr.canon]

theorem RoundTrip.scatter (s : Bool) (d : Reg) (j : Reg) (x : Reg) : RoundTrip.Statement (.scatter s d j x) := by
  intro w he hc
  cases he
  refine decodeWord_of_raw ?_ hc
  simp [rawDecode, decEng, fldS, Instr.canon]

theorem RoundTrip.chain (s : Bool) (d : Reg) (j : Reg) (x : Reg) : RoundTrip.Statement (.chain s d j x) := by
  intro w he hc
  cases he
  refine decodeWord_of_raw ?_ hc
  simp [rawDecode, decEng, fldS, Instr.canon]

theorem RoundTrip.agput (s : Bool) (d : Reg) (j : Reg) (x : Reg) : RoundTrip.Statement (.agput s d j x) := by
  intro w he hc
  cases he
  refine decodeWord_of_raw ?_ hc
  simp [rawDecode, decEng, fldS, Instr.canon]

theorem RoundTrip.agget (s : Bool) (d : Reg) (j : Reg) (x : Reg) : RoundTrip.Statement (.agget s d j x) := by
  intro w he hc
  cases he
  refine decodeWord_of_raw ?_ hc
  simp [rawDecode, decEng, fldS, Instr.canon]

theorem RoundTrip.collsub (s : Bool) (d : Reg) (j : Reg) (x : Reg) : RoundTrip.Statement (.collsub s d j x) := by
  intro w he hc
  cases he
  refine decodeWord_of_raw ?_ hc
  simp [rawDecode, decEng, fldS, Instr.canon]

theorem RoundTrip.barinit (s : Bool) (a : Reg) (b : Reg) : RoundTrip.Statement (.barinit s a b) := by
  intro w he hc
  cases he
  refine decodeWord_of_raw ?_ hc
  simp [rawDecode, decBar, fldS, Instr.canon]

theorem RoundTrip.barsig (s : Bool) (d : Reg) (a : Reg) (b : Reg) : RoundTrip.Statement (.barsig s d a b) := by
  intro w he hc
  cases he
  refine decodeWord_of_raw ?_ hc
  simp [rawDecode, decBar, fldS, Instr.canon]

theorem RoundTrip.barsign (s : Bool) (d : Reg) (a : Reg) (b : Reg) : RoundTrip.Statement (.barsign s d a b) := by
  intro w he hc
  cases he
  refine decodeWord_of_raw ?_ hc
  simp [rawDecode, decBar, fldS, Instr.canon]

theorem RoundTrip.barq (s : Bool) (d : Reg) (a : Reg) : RoundTrip.Statement (.barq s d a) := by
  intro w he hc
  cases he
  refine decodeWord_of_raw ?_ hc
  simp [rawDecode, decBar, fldS, Instr.canon]

theorem RoundTrip.cast (s : Bool) (d : Reg) (a : Reg) (t : BitVec 5) : RoundTrip.Statement (.cast s d a t) := by
  intro w he hc
  cases he
  refine decodeWord_of_raw ?_ hc
  simp [rawDecode, decTag, fldS, Instr.canon]

theorem RoundTrip.tagof (s : Bool) (d : Reg) (a : Reg) : RoundTrip.Statement (.tagof s d a) := by
  intro w he hc
  cases he
  refine decodeWord_of_raw ?_ hc
  simp [rawDecode, decTag, fldS, Instr.canon]

theorem RoundTrip.tagchk (s : Bool) (a : Reg) (t : BitVec 5) : RoundTrip.Statement (.tagchk s a t) := by
  intro w he hc
  cases he
  refine decodeWord_of_raw ?_ hc
  simp [rawDecode, decTag, fldS, Instr.canon]

theorem RoundTrip.baddq (s : Bool) (d : Reg) (a : Reg) (b : Reg) : RoundTrip.Statement (.baddq s d a b) := by
  intro w he hc
  cases he
  refine decodeWord_of_raw ?_ hc
  simp [rawDecode, decBlk, fldS, Instr.canon]

theorem RoundTrip.bquant (s : Bool) (d : Reg) (a : Reg) (b : Reg) : RoundTrip.Statement (.bquant s d a b) := by
  intro w he hc
  cases he
  refine decodeWord_of_raw ?_ hc
  simp [rawDecode, decBlk, fldS, Instr.canon]

theorem RoundTrip.blacc (s : Bool) (d : Reg) (a : Reg) (b : Reg) : RoundTrip.Statement (.blacc s d a b) := by
  intro w he hc
  cases he
  refine decodeWord_of_raw ?_ hc
  simp [rawDecode, decBlk, fldS, Instr.canon]

theorem RoundTrip.hnop : RoundTrip.Statement (.hnop) := by
  intro w he hc
  cases he
  refine decodeWord_of_raw ?_ hc
  simp [rawDecode, decHint, Instr.canon]

theorem RoundTrip.himm (v : BitVec 22) : RoundTrip.Statement (.himm v) := by
  intro w he hc
  cases he
  refine decodeWord_of_raw ?_ hc
  simp [rawDecode, decHint, Instr.canon]

theorem RoundTrip.hmod (r : BitVec 3) (q : BitVec 1) (f : BitVec 1) (t : BitVec 5) : RoundTrip.Statement (.hmod r q f t) := by
  intro w he hc
  cases he
  refine decodeWord_of_raw ?_ hc
  simp [rawDecode, decHint, Instr.canon]

theorem RoundTrip.hschedAlign (n : BitVec 16) : RoundTrip.Statement (.hschedAlign n) := by
  intro w he hc
  cases he
  refine decodeWord_of_raw ?_ hc
  simp [rawDecode, decHint, Instr.canon]

theorem RoundTrip.hschedStream : RoundTrip.Statement (.hschedStream) := by
  intro w he hc
  cases he
  refine decodeWord_of_raw ?_ hc
  simp [rawDecode, decHint, Instr.canon]

theorem RoundTrip.dispatchGrant (cluster : Nat) : RoundTrip.Statement (.dispatchGrant cluster) :=
  fun _ he => nomatch he

theorem RoundTrip.recordAccept (cluster : Nat) (q : Nat) (r : BitVec 256) (o : Sender) (sent : BitVec 40) : RoundTrip.Statement (.recordAccept cluster q r o sent) :=
  fun _ he => nomatch he

theorem RoundTrip.joinDecrement (cell : Word) (amount : Word) (bits : BitVec 16) (o : Sender) : RoundTrip.Statement (.joinDecrement cell amount bits o) :=
  fun _ he => nomatch he

theorem RoundTrip.barrierSignal (barrier : Word) (amount : Word) (o : Sender) : RoundTrip.Statement (.barrierSignal barrier amount o) :=
  fun _ he => nomatch he

theorem RoundTrip.barrierStaggeredPush (cluster : Nat) (k : Nat) : RoundTrip.Statement (.barrierStaggeredPush cluster k) :=
  fun _ he => nomatch he

theorem RoundTrip.resultWriteback (slot : Nat) (k : Nat) : RoundTrip.Statement (.resultWriteback slot k) :=
  fun _ he => nomatch he

theorem RoundTrip.slotLoadComplete (core : Nat) (u : Nat) : RoundTrip.Statement (.slotLoadComplete core u) :=
  fun _ he => nomatch he

theorem RoundTrip.mmaTileWrite (core : Nat) (u : Nat) : RoundTrip.Statement (.mmaTileWrite core u) :=
  fun _ he => nomatch he

theorem RoundTrip.fetchLineDelivery (core : Nat) (line : Nat) : RoundTrip.Statement (.fetchLineDelivery core line) :=
  fun _ he => nomatch he

theorem RoundTrip.alignRelease (cluster : Nat) : RoundTrip.Statement (.alignRelease cluster) :=
  fun _ he => nomatch he

theorem RoundTrip.alignTimeout (slot : Nat) : RoundTrip.Statement (.alignTimeout slot) :=
  fun _ he => nomatch he

theorem RoundTrip.pageWalk (slot : Nat) (va : Word) (acc : Access) : RoundTrip.Statement (.pageWalk slot va acc) :=
  fun _ he => nomatch he

theorem RoundTrip.homeAcknowledgement (slot : Nat) (cls : AckClass) : RoundTrip.Statement (.homeAcknowledgement slot cls) :=
  fun _ he => nomatch he

theorem RoundTrip.relaxedHomeFault (slot : Nat) (cause : BitVec 6) (addr : Word) (pa : Nat) : RoundTrip.Statement (.relaxedHomeFault slot cause addr pa) :=
  fun _ he => nomatch he

theorem RoundTrip.feHomeAccess (slot : Nat) : RoundTrip.Statement (.feHomeAccess slot) :=
  fun _ he => nomatch he

theorem RoundTrip.feWaitTimeout (slot : Nat) : RoundTrip.Statement (.feWaitTimeout slot) :=
  fun _ he => nomatch he

theorem RoundTrip.retryListResend (slot : Nat) : RoundTrip.Statement (.retryListResend slot) :=
  fun _ he => nomatch he

theorem RoundTrip.agputBlockApply (core : Nat) (k : Nat) : RoundTrip.Statement (.agputBlockApply core k) :=
  fun _ he => nomatch he

theorem RoundTrip.agedWaitTimeout (slot : Nat) : RoundTrip.Statement (.agedWaitTimeout slot) :=
  fun _ he => nomatch he

theorem RoundTrip.engineCommandStart (core : Nat) : RoundTrip.Statement (.engineCommandStart core) :=
  fun _ he => nomatch he

theorem RoundTrip.engineCommandComplete (core : Nat) (k : Nat) : RoundTrip.Statement (.engineCommandComplete core k) :=
  fun _ he => nomatch he

theorem RoundTrip.enginePageResume (core : Nat) (k : Nat) (mapped : Bool) : RoundTrip.Statement (.enginePageResume core k mapped) :=
  fun _ he => nomatch he

theorem RoundTrip.copymReceiverLanded (core : Nat) (k : Nat) (receiver : Nat) : RoundTrip.Statement (.copymReceiverLanded core k receiver) :=
  fun _ he => nomatch he

theorem RoundTrip.putsigSignal (core : Nat) (k : Nat) : RoundTrip.Statement (.putsigSignal core k) :=
  fun _ he => nomatch he

theorem RoundTrip.collsubAccept (core : Nat) (k : Nat) : RoundTrip.Statement (.collsubAccept core k) :=
  fun _ he => nomatch he

theorem RoundTrip.fabricPacketApply (k : Nat) : RoundTrip.Statement (.fabricPacketApply k) :=
  fun _ he => nomatch he

theorem RoundTrip.fabricAck (k : Nat) : RoundTrip.Statement (.fabricAck k) :=
  fun _ he => nomatch he

theorem RoundTrip.fablimitExpiry (k : Nat) : RoundTrip.Statement (.fablimitExpiry k) :=
  fun _ he => nomatch he

theorem RoundTrip.fabricProbe (slot : Nat) : RoundTrip.Statement (.fabricProbe slot) :=
  fun _ he => nomatch he

theorem RoundTrip.remoteNameResolution (n : Quad) (cls : Byte) : RoundTrip.Statement (.remoteNameResolution n cls) :=
  fun _ he => nomatch he

theorem RoundTrip.nameInvalidation (n : Quad) (sector : Nat) : RoundTrip.Statement (.nameInvalidation n sector) :=
  fun _ he => nomatch he

theorem RoundTrip.nameRetireComplete (n : Quad) : RoundTrip.Statement (.nameRetireComplete n) :=
  fun _ he => nomatch he

theorem RoundTrip.nameMoveComplete (n : Quad) : RoundTrip.Statement (.nameMoveComplete n) :=
  fun _ he => nomatch he

theorem RoundTrip.linkTagFailure (link : Nat) : RoundTrip.Statement (.linkTagFailure link) :=
  fun _ he => nomatch he

theorem RoundTrip.linkPortFailure (link : Nat) : RoundTrip.Statement (.linkPortFailure link) :=
  fun _ he => nomatch he

theorem RoundTrip.linkKeyInstall (link : Nat) (key : BitVec 256) : RoundTrip.Statement (.linkKeyInstall link key) :=
  fun _ he => nomatch he

theorem RoundTrip.keyIndexFlip (link : Nat) : RoundTrip.Statement (.keyIndexFlip link) :=
  fun _ he => nomatch he

theorem RoundTrip.linkRetireFlit (link : Nat) : RoundTrip.Statement (.linkRetireFlit link) :=
  fun _ he => nomatch he

theorem RoundTrip.timingMessage (master : Word) : RoundTrip.Statement (.timingMessage master) :=
  fun _ he => nomatch he

theorem RoundTrip.timeMasterLoss : RoundTrip.Statement (.timeMasterLoss) :=
  fun _ he => nomatch he

theorem RoundTrip.relockEnd (die : Nat) : RoundTrip.Statement (.relockEnd die) :=
  fun _ he => nomatch he

theorem RoundTrip.scheduledFreqStep (die : Nat) : RoundTrip.Statement (.scheduledFreqStep die) :=
  fun _ he => nomatch he

theorem RoundTrip.heartbeatFence (slot : Nat) : RoundTrip.Statement (.heartbeatFence slot) :=
  fun _ he => nomatch he

theorem RoundTrip.preemptWindowExpiry (slot : Nat) : RoundTrip.Statement (.preemptWindowExpiry slot) :=
  fun _ he => nomatch he

theorem RoundTrip.coreStateError (core : Nat) : RoundTrip.Statement (.coreStateError core) :=
  fun _ he => nomatch he

theorem RoundTrip.errorRecordResend (slot : Nat) : RoundTrip.Statement (.errorRecordResend slot) :=
  fun _ he => nomatch he

theorem RoundTrip.eolpredUpdate (die : Nat) (source : BitVec 4) (days : BitVec 16) : RoundTrip.Statement (.eolpredUpdate die source days) :=
  fun _ he => nomatch he

theorem RoundTrip.debugSessionConnect (id : Nat) : RoundTrip.Statement (.debugSessionConnect id) :=
  fun _ he => nomatch he

theorem RoundTrip.eyepieceFailover : RoundTrip.Statement (.eyepieceFailover) :=
  fun _ he => nomatch he

theorem RoundTrip.debugStop (core : Nat) : RoundTrip.Statement (.debugStop core) :=
  fun _ he => nomatch he

theorem RoundTrip.resetRequest : RoundTrip.Statement (.resetRequest) :=
  fun _ he => nomatch he

theorem RoundTrip.i3cStart : RoundTrip.Statement (.i3cStart) :=
  fun _ he => nomatch he

theorem RoundTrip.i3cStop : RoundTrip.Statement (.i3cStop) :=
  fun _ he => nomatch he

theorem RoundTrip.pcap (watts : Nat) : RoundTrip.Statement (.pcap watts) :=
  fun _ he => nomatch he

theorem RoundTrip.repairLogAppend (entry : List Byte) : RoundTrip.Statement (.repairLogAppend entry) :=
  fun _ he => nomatch he

theorem RoundTrip.serviceImageUpdate (release : Nat) : RoundTrip.Statement (.serviceImageUpdate release) :=
  fun _ he => nomatch he

theorem RoundTrip.writeRequest (head : BitVec 256) (va data : List Byte) : RoundTrip.Statement (.writeRequest head va data) :=
  fun _ he => nomatch he

theorem RoundTrip.readRequest (head : BitVec 256) (va len : List Byte) : RoundTrip.Statement (.readRequest head va len) :=
  fun _ he => nomatch he

theorem RoundTrip.launchRequest (r : Request) : RoundTrip.Statement (.launchRequest r) :=
  fun _ he => nomatch he

theorem RoundTrip.launchPushRetry (launch : Nat) : RoundTrip.Statement (.launchPushRetry launch) :=
  fun _ he => nomatch he

theorem RoundTrip.waitRequest (head : BitVec 256) (payload : List Byte) : RoundTrip.Statement (.waitRequest head payload) :=
  fun _ he => nomatch he

theorem RoundTrip.launchEnd (launch : Nat) : RoundTrip.Statement (.launchEnd launch) :=
  fun _ he => nomatch he

theorem RoundTrip.svcEcho : RoundTrip.Statement (.svcEcho) :=
  fun _ he => nomatch he

theorem RoundTrip.svcMap : RoundTrip.Statement (.svcMap) :=
  fun _ he => nomatch he

theorem RoundTrip.svcUnmap : RoundTrip.Statement (.svcUnmap) :=
  fun _ he => nomatch he

theorem RoundTrip.svcDone : RoundTrip.Statement (.svcDone) :=
  fun _ he => nomatch he

theorem RoundTrip.svcQname : RoundTrip.Statement (.svcQname) :=
  fun _ he => nomatch he

theorem RoundTrip.inServiceRepair (unit : Nat × Nat) : RoundTrip.Statement (.inServiceRepair unit) :=
  fun _ he => nomatch he

theorem RoundTrip.laneSparingComplete (link : Nat) (up : Bool) : RoundTrip.Statement (.laneSparingComplete link up) :=
  fun _ he => nomatch he

theorem RoundTrip.holdNotice (slot : Nat) : RoundTrip.Statement (.holdNotice slot) :=
  fun _ he => nomatch he

theorem RoundTrip.queueAttach (cluster : Nat) (q : Nat) (x : QueueSettings) : RoundTrip.Statement (.queueAttach cluster q x) :=
  fun _ he => nomatch he

theorem RoundTrip.queueDetach (cluster : Nat) (q : Nat) : RoundTrip.Statement (.queueDetach cluster q) :=
  fun _ he => nomatch he

theorem RoundTrip.debugResume (place : Nat × Option Nat) : RoundTrip.Statement (.debugResume place) :=
  fun _ he => nomatch he

theorem RoundTrip.debugBreakClaim (core : Nat) : RoundTrip.Statement (.debugBreakClaim core) :=
  fun _ he => nomatch he

theorem RoundTrip.debugSessionEnd : RoundTrip.Statement (.debugSessionEnd) :=
  fun _ he => nomatch he

theorem RoundTrip.powerOn : RoundTrip.Statement (.powerOn) :=
  fun _ he => nomatch he

theorem RoundTrip.powerLoss : RoundTrip.Statement (.powerLoss) :=
  fun _ he => nomatch he

theorem RoundTrip.resetAsserted : RoundTrip.Statement (.resetAsserted) :=
  fun _ he => nomatch he

end Sys2Proof.Laws
end

