-- ==== Sys2Proof/Safety.lean ====
section
/-! DEFINITION. The words in which claims are stated: when a word may have its own effect, what a
result and a retirement leave, the frames of register words and of stores, and the invariant on
memory. -/

namespace Sys2Proof.Machine

/-! ## When a word has its own effect -/

/-- The word's checks of R25, R42 and R44 pass: the hints before it are hints it takes, the mode
may run it, and no register it names is pending. -/
structure Ready (h : Takes) (s : State) (rs : List Reg) : Prop where
  hints : h.group s.me.hints = true
  mode : h.super = true → s.me.super = true
  clear : ∀ r ∈ rs, s.me.pending r = false

/-- The state a word's effect starts from: free values are new (DESIGN CHOICE, log 6), and EFF is set by the words
of R398. -/
def State.atIssue (s : State) (h : Takes) : State :=
  if h.eff then s.bump.modMe fun x => { x with eff := true } else s.bump

/-- The registers of the list hold integers: tag I64 or RAW (R34). -/
def State.ints (s : State) (rs : List Reg) : Prop :=
  ∀ r ∈ rs, (s.me.read r).tag = .i64 ∨ (s.me.read r).tag = .raw

/-- The low 64 bits of a register. -/
def State.int (s : State) (r : Reg) : Word := (s.me.read r).val.setWidth 64

/-- No pending error stands at the slot (R240). -/
def State.noError (s : State) : Prop := s.me.err.valid = false

/-! ## What is outside a slot's registers -/

/-- All of the state but the slots, cores and clusters, which stand below, and the counter of free
values (DESIGN CHOICE, log 6): memory, names, dies, links, the service, the module. -/
def State.outside (s : State) : State := { s with slots := [], cores := [], clusters := [], free := 0 }

/-- A cluster without the union of the flags and what accrued of it in a die cycle (R139). -/
def Cluster.outside (k : Cluster) : Cluster := { k with flagsUnion := 0, flagsNow := 0, flagsAt := 0 }

/-- A slot's special registers and control state: all but the general registers and their pending
results, the pc with its issue position and hints, the flags of R136, EFF (R398), and whether a word is
held at the pc. -/
def Slot.special (x : Slot) : Slot :=
  { x with file := Vector.replicate 93 .zero, l0 := ⟨.zero, 0, 0⟩, l1 := ⟨.zero, 0, 0⟩, outs := [],
           pos := 0, pc := 0, hints := .empty, fpflags := 0, eff := false, slow := false, seen := none, due0 := [], due1 := [],
           unit := .other }

/-- A slot without what results, stores, errors and acknowledgements change. -/
def Slot.ctl (x : Slot) : Slot :=
  { x with file := Vector.replicate 93 .zero, l0 := ⟨.zero, 0, 0⟩, l1 := ⟨.zero, 0, 0⟩, outs := [],
           fpflags := 0, acks := ⟨0, 0, 0, 0⟩, err := .none, late := [], unit := .other, stores := [], due0 := [], due1 := [] }

/-- No earlier word of the slot has flags still to bring to a register (R138). -/
def State.flagless (s : State) : Prop := ∀ o ∈ s.me.outs, o.flags.getD 0 = 0

/-- The frame of a word that writes registers only: every byte of memory and of every scratchpad,
every other slot, every special register, every core and cluster are as before; the flags change
by what earlier words bring (R138), and by nothing when they bring none. -/
structure SlotFrame (s t : State) : Prop where
  mem : ∀ a, t.mem.read a = s.mem.read a
  scratch : ∀ k a, (t.core k).scratch.read a = (s.core k).scratch.read a
  others : ∀ c, c ≠ s.focus → t.slot c = s.slot c
  special : t.me.special = s.me.special
  cores : ∀ k, t.core k = s.core k
  clusters : ∀ k, (t.cluster k).outside = (s.cluster k).outside
  outside : t.outside = s.outside
  flags : s.flagless → t.me.fpflags = s.me.fpflags ∧
    ∀ k, (t.cluster k).flagsUnion = (s.cluster k).flagsUnion

/-! ## What a word leaves

A word with the switch marker `m` ends in `t.settle s.focus m`, where `t` is what the word itself leaves and
the rest is the wait of R26. The statements below are about `t`. -/

/-- The word has gone on to `target`: it took an issue position (R24), and the hint state is spent (R118). -/
structure Retired (s t : State) (target : Word) : Prop where
  focus : t.focus = s.focus
  pc : t.me.pc = target
  pos : t.me.pos = s.me.pos + 1
  hints : t.me.hints = .empty

/-- Entry `i` of the register file (R28, R31). -/
def Slot.entry (x : Slot) (i : Nat) : RV := vget x.file .zero i

/-- The entry that the destination `d` names holds `v`; a write of z is discarded; every other entry
of the file is as before (R28 to R31). -/
structure Holds (s t : State) (d : Reg) (v : RV) : Prop where
  dest : ∀ i, regRef s.me.wbase d = .file i → t.me.entry i = v
  zero : t.me.read 0#6 = .zero
  regs : ∀ i, regRef s.me.wbase d ≠ .file i → t.me.entry i = s.me.entry i

/-- Every entry of the file is as before. -/
def FileKept (s t : State) : Prop := ∀ i, t.me.entry i = s.me.entry i

/-- What l0 holds at the next issue position, where it holds `l` before: `l`, or a result that a wait has had written
early and that completes by then (R30; DEDUCED, log 70). -/
def Slot.next0 (x : Slot) (l : Last) : Last :=
  (x.due0.filter fun r => decide (r.done ≤ x.pos + 1)).foldl Last.later l

/-- The same of l1. -/
def Slot.next1 (x : Slot) (l : Last) : Last :=
  (x.due1.filter fun r => decide (r.done ≤ x.pos + 1)).foldl Last.later l

/-- A fixed result of latency `n` enters l0 unless it already holds a later one, and l1 keeps its
value (R30); an l0 result never names l1 (R30). -/
def EntersL0 (s t : State) (d : Reg) (v : RV) (n : Nat) : Prop :=
  t.me.l0 = s.me.next0 (s.me.l0.later ⟨v, s.me.pos + n, s.me.pos⟩) ∧
    (d ≠ 63#6 → t.me.l1 = s.me.next1 s.me.l1)

/-- The same of l1. -/
def EntersL1 (s t : State) (d : Reg) (v : RV) (n : Nat) : Prop :=
  t.me.l1 = s.me.next1 (s.me.l1.later ⟨v, s.me.pos + n, s.me.pos⟩) ∧
    (d ≠ 62#6 → t.me.l0 = s.me.next0 s.me.l0)

/-- The word brings nothing to either last-result register. -/
def LastKept (s t : State) : Prop := t.me.l0 = s.me.next0 s.me.l0 ∧ t.me.l1 = s.me.next1 s.me.l1

/-- Neither last-result register changes: the slot has not come to another issue position. -/
def LastSame (s t : State) : Prop := t.me.l0 = s.me.l0 ∧ t.me.l1 = s.me.l1

/-- The slot has taken a user trap (R367): it has waited for its outstanding results (R27), the trap
registers are written, the hint state is clear, and the handler is next. `s` is the state in which the trap
is raised. -/
structure Trapped (s t : State) (cause : Cause) (pc addr info : Word) (pend : Bool) : Prop where
  trapPc : wordAddr t.me.trapPc = wordAddr (addrField pc)
  trapCause : t.me.trapCause = cause.code
  trapPend : t.me.trapPend = pend
  trapAddr : t.me.trapAddr = addr
  trapInfo : t.me.trapInfo = info
  inTrap : t.me.inTrap = true
  handler : t.me.pc = wordAddr s.me.trapVec
  hints : t.me.hints = .empty
  outs : t.me.outs = []
  super : t.me.super = s.me.super
  file : FileKept (s.drain s.focus) t
  mem : ∀ a, t.mem.read a = (s.drain s.focus).mem.read a
  scratch : ∀ k a, (t.core k).scratch.read a = ((s.drain s.focus).core k).scratch.read a
  others : ∀ c, c ≠ s.focus → t.slot c = (s.drain s.focus).slot c

/-- The slot can take a user trap: a handler is set and none runs (R367, R368). -/
def State.canTrap (s : State) : Prop := s.me.inTrap = false ∧ s.me.trapVec ≠ 0

/-! ## Scopes (R283 to R285) -/

/-- Slot `q` of the package is a party of a scope of slot `p` (R283). -/
def party (scope : BitVec 4) (p q : Nat) : Bool :=
  match scope.toNat with
  | 0 => p == q
  | 1 => coreOf p == coreOf q
  | 2 => clusterOf p == clusterOf q
  | 3 => clusterOf p == clusterOf q || (match sectorOf (coreOf p), sectorOf (coreOf q) with
    | some a, some b => a == b
    | _, _ => false)
  | 4 => dieOf p == dieOf q
  | 5 | 6 | 7 | 8 | 9 => true
  | _ => false

/-- The slots of another package, with its tray and pod, are parties of a scope of a slot of this one
(R283, R284); a tray has 16 packages, a reach lists pods. -/
def State.partyPkg (s : State) (scope : BitVec 4) (tray : BitVec 16) (pod : BitVec 6) : Bool :=
  match scope.toNat with
  | 6 => tray == s.image.tray && pod == s.image.pod
  | 7 => pod == s.image.pod
  | 8 | 9 => pod == s.image.pod || s.image.reach.any fun r => r.2.1 == pod
  | _ => false

/-- A release by `p` at a scope and an acquire by `q` at another can synchronise (R285). -/
def synchronise (s1 s2 : BitVec 4) (p q : Nat) : Bool := party s1 p q && party s2 q p

/-! ## The invariant on memory -/

/-- Memory and every scratchpad keep their canonical form. -/
def State.canonical (s : State) : Prop := s.mem.wf ∧ ∀ k, (s.core k).scratch.wf

end Sys2Proof.Machine
end

