-- ==== Sys2Proof/Certificates/Slice0/Obligations.lean ====
section
/-! DEFINITION. The statements for the provers. Where a statement speaks of a word's effect, its
hypotheses are on the state and the operands alone, and its conclusion is that the word answers a
next state and what that state holds. -/

open Sys2Proof Sys2Proof.Machine

/-! ## The integer and address pipe (R119 to R127) -/

/-- The first of the two-source words of IOP that R120 gives, with their latencies (R45) and
results. -/
def Sys2Proof.twoSourceA : List ((Bool → Reg → Reg → Reg → Instr) × Machine.Lat × (Word → Word → Word)) :=
  [(.add, .fixed 1, fun a b => a + b),
   (.sub, .fixed 1, fun a b => a - b),
   (.mul, .fixed 3, fun a b => a * b),
   (.mulh, .fixed 3, fun a b => BitVec.ofInt 64 (a.toInt * b.toInt / 2 ^ 64)),
   (.mulhu, .fixed 3, fun a b => BitVec.ofNat 64 (a.toNat * b.toNat / 2 ^ 64)),
   (.and, .fixed 1, fun a b => a &&& b),
   (.or, .fixed 1, fun a b => a ||| b),
   (.xor, .fixed 1, fun a b => a ^^^ b),
   (.andn, .fixed 1, fun a b => a &&& ~~~b),
   (.orn, .fixed 1, fun a b => a ||| ~~~b),
   (.shl, .fixed 1, fun a b => a <<< (b.toNat % 64)),
   (.shr, .fixed 1, fun a b => a >>> (b.toNat % 64)),
   (.sar, .fixed 1, fun a b => BitVec.ofInt 64 (a.toInt / 2 ^ (b.toNat % 64))),
   (.rotl, .fixed 1, fun a b => a <<< (b.toNat % 64) ||| a >>> (64 - b.toNat % 64)),
   (.rotr, .fixed 1, fun a b => a >>> (b.toNat % 64) ||| a <<< (64 - b.toNat % 64))]

/-- The rest of them. -/
def Sys2Proof.twoSourceB : List ((Bool → Reg → Reg → Reg → Instr) × Machine.Lat × (Word → Word → Word)) :=
  [(.min, .fixed 1, fun a b => if a.toInt ≤ b.toInt then a else b),
   (.max, .fixed 1, fun a b => if a.toInt ≤ b.toInt then b else a),
   (.minu, .fixed 1, fun a b => if a.toNat ≤ b.toNat then a else b),
   (.maxu, .fixed 1, fun a b => if a.toNat ≤ b.toNat then b else a),
   (.slt, .fixed 1, fun a b => if a.toInt < b.toInt then 1 else 0),
   (.sltu, .fixed 1, fun a b => if a.toNat < b.toNat then 1 else 0),
   (.seq, .fixed 1, fun a b => if a = b then 1 else 0),
   (.sne, .fixed 1, fun a b => if a = b then 0 else 1),
   (.addw, .fixed 1, fun a b => BitVec.ofInt 64 ((a.toInt + b.toInt).bmod (2 ^ 32))),
   (.subw, .fixed 1, fun a b => BitVec.ofInt 64 ((a.toInt - b.toInt).bmod (2 ^ 32))),
   (.mulw, .fixed 3, fun a b => BitVec.ofInt 64 ((a.toInt * b.toInt).bmod (2 ^ 32))),
   (.adds1, .fixed 1, fun a b => a + b * 2),
   (.adds2, .fixed 1, fun a b => a + b * 4),
   (.adds3, .fixed 1, fun a b => a + b * 8),
   (.absd, .fixed 1, fun a b => BitVec.ofInt 64 |a.toInt - b.toInt|)]

/-- The two-source words of IOP. -/
def Sys2Proof.twoSource : List ((Bool → Reg → Reg → Reg → Instr) × Machine.Lat × (Word → Word → Word)) :=
  twoSourceA ++ twoSourceB

/-- R120, R119, R29, R30: every two-source word but the divisions, on operands that are I64 or RAW
and with no register it names pending, answers a next state in which the destination holds the
result, tagged I64, the result has entered l0, the slot goes on at the next word, and nothing else
has changed. -/
def Sys2Proof.Claims.TwoSource : Prop :=
  ∀ e ∈ twoSource, ∀ (s : State) (m : Bool) (d a b : Reg),
    Ready {} s [a, b, d] → s.ints [a, b] →
    ∃ t, exec (e.1 m d a b) s = .next (t.settle s.focus m) ∧
      Holds s t d (.int (e.2.2 (s.int a) (s.int b))) ∧
      Retired s t (s.me.pc + 4) ∧ SlotFrame s t ∧
      ∀ n, e.2.1 = .fixed n → EntersL0 s t d (.int (e.2.2 (s.int a) (s.int b))) n

/-- R121: quotients round toward zero and remainders take the sign of the dividend; division by
zero gives all ones and the dividend, the signed overflow the dividend and zero; none of it traps. The word
takes the core's divider, whose other contents are as before (R113, R114). -/
def Sys2Proof.Claims.Divisions : Prop :=
  ∀ (s : State) (m : Bool) (d a b : Reg), Ready {} s [a, b, d] → s.ints [a, b] →
    s.myCore.divUntil ≤ s.myDie.dcyc →
    let x := s.int a
    let y := s.int b
    let q : Word := if y = 0 then BitVec.allOnes 64 else BitVec.ofInt 64 (x.toInt.tdiv y.toInt)
    let qu : Word := if y = 0 then BitVec.allOnes 64 else BitVec.ofNat 64 (x.toNat / y.toNat)
    ∀ e ∈ [((.div : Bool → Reg → Reg → Reg → Instr), q), (.divu, qu), (.rem, x - q * y),
        (.remu, x - qu * y)],
      ∃ t, exec (e.1 m d a b) s = .next (t.settle s.focus m) ∧ Holds s t d (.int e.2) ∧
        Retired s t (s.me.pc + 4) ∧
        ∃ v, SlotFrame (s.modMyCore fun k => { k with divUntil := v }) t

/-- R113, R114: while the core's divider is in use, a division holds issue: the slot stays at its word, and
nothing else changes. -/
def Sys2Proof.Claims.DividerHolds : Prop :=
  ∀ e ∈ [(.div : Bool → Reg → Reg → Reg → Instr), .divu, .rem, .remu],
    ∀ (s : State) (m : Bool) (d a b : Reg), Ready {} s [a, b, d] → s.ints [a, b] →
      s.myDie.dcyc < s.myCore.divUntil →
      exec (e m d a b) s = .next (s.bump.modMe fun x => { x with slow := true })

/-- R119 to R121, R29, R30, R114: the two-source words. -/
def Obligations.TwoSourceResults : Prop := Claims.TwoSource ∧ Claims.Divisions ∧ Claims.DividerHolds

/-- The one-source words of IOP that R120 gives, with their results. -/
def Sys2Proof.oneSource : List ((Bool → Reg → Reg → Instr) × (Word → Word)) :=
  [(.clz, fun a => BitVec.ofNat 64
      ((List.range 64).reverse.takeWhile fun i => !a.getLsbD i).length),
   (.ctz, fun a => BitVec.ofNat 64 ((List.range 64).takeWhile fun i => !a.getLsbD i).length),
   (.popc, fun a => BitVec.ofNat 64 ((List.range 64).filter fun i => a.getLsbD i).length),
   (.bswap, fun a => BitVec.ofNat 64
      (((List.range 8).map fun i => a.toNat / 256 ^ (7 - i) % 256 * 256 ^ i).sum)),
   (.sextb, fun a => BitVec.ofInt 64 ((a.toInt).bmod (2 ^ 8))),
   (.sexth, fun a => BitVec.ofInt 64 ((a.toInt).bmod (2 ^ 16))),
   (.sextw, fun a => BitVec.ofInt 64 ((a.toInt).bmod (2 ^ 32))),
   (.zextw, fun a => BitVec.ofNat 64 (a.toNat % 2 ^ 32))]

/-- R120: the one-source words but MOV. -/
def Sys2Proof.Claims.OneSource : Prop :=
  ∀ e ∈ oneSource, ∀ (s : State) (m : Bool) (d a : Reg), Ready {} s [a, d] → s.ints [a] →
    ∃ t, exec (e.1 m d a) s = .next (t.settle s.focus m) ∧ Holds s t d (.int (e.2 (s.int a))) ∧
      Retired s t (s.me.pc + 4) ∧ SlotFrame s t ∧ EntersL0 s t d (.int (e.2 (s.int a))) 1

/-- R122: MOV copies all 128 bits and the tag, whatever the tag, and the copy enters l0. -/
def Sys2Proof.Claims.MovCopies : Prop :=
  ∀ (s : State) (m : Bool) (d a : Reg), Ready {} s [a, d] →
    ∃ t, exec (.mov m d a) s = .next (t.settle s.focus m) ∧ Holds s t d (s.me.read a) ∧
      Retired s t (s.me.pc + 4) ∧ SlotFrame s t ∧ EntersL0 s t d (s.me.read a) 1

/-- R120, R122: the one-source words and MOV. -/
def Obligations.OneSourceResults : Prop :=
  Claims.OneSource ∧ Claims.MovCopies

/-- The combined immediate of R40: up to two HIMM payloads of 22 bits stand above the field, and
the whole is sign-extended from its top bit. -/
def Sys2Proof.combined (g : Hints) (n f : Nat) : Int :=
  let u := g.imm.foldl (fun v p => v * 2 ^ 22 + p.toNat) 0 * 2 ^ n + f;
  (u : Int).bmod (2 ^ (22 * g.imm.length + n))

/-- The immediate words of R123, with their results. -/
def Sys2Proof.immediate : List ((Bool → Reg → Reg → BitVec 13 → Instr) × (Word → Word → Word)) :=
  [(.addi, fun a b => a + b), (.andi, fun a b => a &&& b), (.ori, fun a b => a ||| b),
   (.xori, fun a b => a ^^^ b), (.slti, fun a b => if a.toInt < b.toInt then 1 else 0),
   (.sltiu, fun a b => if a.toNat < b.toNat then 1 else 0)]

/-- R123, R40: the immediate words, with and without HIMM prefixes. -/
def Sys2Proof.Claims.Immediates : Prop :=
  ∀ e ∈ immediate, ∀ (s : State) (m : Bool) (d a : Reg) (i : BitVec 13),
    Ready { imm := true } s [a, d] → s.ints [a] →
    let r := e.2 (s.int a) (BitVec.ofInt 64 (combined s.me.hints 13 i.toNat))
    ∃ t, exec (e.1 m d a i) s = .next (t.settle s.focus m) ∧ Holds s t d (.int r) ∧
      Retired s t (s.me.pc + 4) ∧ SlotFrame s t ∧ EntersL0 s t d (.int r) 1

/-- R124: the shifts and the rotation by a constant. -/
def Sys2Proof.Claims.ConstantShifts : Prop :=
  ∀ e ∈ [((.shli : Bool → Reg → Reg → BitVec 6 → Instr), fun (a : Word) (n : Nat) => a <<< n),
      (.shri, fun a n => a >>> n), (.sari, fun a n => BitVec.ofInt 64 (a.toInt / 2 ^ n)),
      (.rotli, fun a n => a <<< n ||| a >>> (64 - n))],
    ∀ (s : State) (m : Bool) (d a : Reg) (n : BitVec 6), Ready {} s [a, d] → s.ints [a] →
    ∃ t, exec (e.1 m d a n) s = .next (t.settle s.focus m) ∧ Holds s t d (.int (e.2 (s.int a) n.toNat)) ∧
      Retired s t (s.me.pc + 4) ∧ SlotFrame s t ∧
      EntersL0 s t d (.int (e.2 (s.int a) n.toNat)) 1

/-- R125: LIMM writes its immediate, and ADDPC the address of its own word plus four times its
immediate. -/
def Sys2Proof.Claims.LimmAndAddpc : Prop :=
  ∀ (s : State) (m : Bool) (d : Reg) (i : BitVec 19), Ready { imm := true } s [d] →
    let v : Word := BitVec.ofInt 64 (combined s.me.hints 19 i.toNat);
    (∃ t, exec (.limm m d i) s = .next (t.settle s.focus m) ∧ Holds s t d (.int v) ∧
      Retired s t (s.me.pc + 4) ∧ SlotFrame s t ∧ EntersL0 s t d (.int v) 1) ∧
    (∃ t, exec (.addpc m d i) s = .next (t.settle s.focus m) ∧ Holds s t d (.int (s.me.pc + v * 4)) ∧
      Retired s t (s.me.pc + 4) ∧ SlotFrame s t ∧
      EntersL0 s t d (.int (s.me.pc + v * 4)) 1)

/-- R123, R124, R125, R40: the words with an immediate. -/
def Obligations.ImmediateResults : Prop :=
  Claims.Immediates ∧ Claims.ConstantShifts ∧ Claims.LimmAndAddpc

/-- R126: EXTR and EXTRS take the field of `l + 1` bits at bit `p`, and INS replaces it in the old
destination. -/
def Sys2Proof.Claims.FieldEffects : Prop :=
  ∀ (s : State) (m : Bool) (d a : Reg) (p l : BitVec 6), p.toNat + l.toNat < 64 →
    Ready {} s [a, d] → s.ints [a] →
    let len := l.toNat + 1
    let field := (s.int a).toNat / 2 ^ p.toNat % 2 ^ len
    let low := (s.int a).toNat % 2 ^ len
    let old := (s.int d).toNat
    let kept := old - old / 2 ^ p.toNat % 2 ^ len * 2 ^ p.toNat;
    (∃ t, exec (.extr m d a p l) s = .next (t.settle s.focus m) ∧ Holds s t d (.int (BitVec.ofNat 64 field)) ∧
      Retired s t (s.me.pc + 4) ∧ SlotFrame s t ∧
      EntersL0 s t d (.int (BitVec.ofNat 64 field)) 1) ∧
    (∃ t, exec (.extrs m d a p l) s = .next (t.settle s.focus m) ∧
      Holds s t d (.int (BitVec.ofInt 64 ((field : Int).bmod (2 ^ len)))) ∧
      Retired s t (s.me.pc + 4) ∧ SlotFrame s t ∧
      EntersL0 s t d (.int (BitVec.ofInt 64 ((field : Int).bmod (2 ^ len)))) 1) ∧
    (s.ints [d] → ∃ t, exec (.ins m d a p l) s = .next (t.settle s.focus m) ∧
      Holds s t d (.int (BitVec.ofNat 64 (kept + low * 2 ^ p.toNat))) ∧
      Retired s t (s.me.pc + 4) ∧ SlotFrame s t ∧
      EntersL0 s t d (.int (BitVec.ofNat 64 (kept + low * 2 ^ p.toNat))) 1)

/-- R126, R25, R119: INS reads its destination: a pending one traps HAZARD, one with another tag than
I64 or RAW FORMAT. -/
def Sys2Proof.Claims.InsReadsDest : Prop :=
  ∀ (s : State) (m : Bool) (d a : Reg) (p l : BitVec 6), s.canTrap →
    Takes.group {} s.me.hints = true →
    (s.me.pending d = true → ∃ t, exec (.ins m d a p l) s = .next t ∧
      Trapped s.bump t .hazard s.me.groupStart 0 0 false) ∧
    (s.me.pending a = false → s.me.pending d = false → ¬ s.ints [d] →
      ∃ t, exec (.ins m d a p l) s = .next t ∧ Trapped s.bump t .format s.me.groupStart 0 0 false)

/-- R126: the fields of the words: pos in bits 12:7, len - 1 in bits 6:1, the sign in bit 0; a field that
does not fit, and INS with bit 0 set, decode to nothing. -/
def Sys2Proof.Claims.FieldWords : Prop :=
  ∀ w : BitVec 32,
    let d := w.extractLsb' 19 6
    let a := w.extractLsb' 13 6
    let p := w.extractLsb' 7 6
    let l := w.extractLsb' 1 6
    let m := w.getLsbD 31
    let fits := p.toNat + l.toNat < 64;
    (w.extractLsb' 25 6 = 0x0B#6 →
      (fits → (Instr.extr m d a p l).check = none →
        decodeWord w = .ok (if w.getLsbD 0 then .extrs m d a p l else .extr m d a p l)) ∧
      (¬ fits → ∃ e, decodeWord w = .error e)) ∧
    (w.extractLsb' 25 6 = 0x0C#6 →
      (fits → w.getLsbD 0 = false → (Instr.ins m d a p l).check = none →
        decodeWord w = .ok (.ins m d a p l)) ∧
      (¬ fits ∨ w.getLsbD 0 = true → ∃ e, decodeWord w = .error e))

/-- R126: the field words. -/
def Obligations.FieldResults : Prop :=
  Claims.FieldEffects ∧ Claims.InsReadsDest ∧ Claims.FieldWords

/-- The words of MOVC, with their tests (R127). -/
def Sys2Proof.conditional : List ((Bool → Reg → Reg → Reg → Instr) × (Int → Bool)) :=
  [(.moveqz, fun b => decide (b = 0)), (.movnez, fun b => decide (b ≠ 0)),
   (.movltz, fun b => decide (b < 0)), (.movgez, fun b => decide (0 ≤ b)),
   (.movgtz, fun b => decide (0 < b)), (.movlez, fun b => decide (b ≤ 0))]

/-- R127: a conditional move copies A when its test on B holds; otherwise D receives its own old
value, tagged I64; either result enters l0. D is a source too: pending, it traps HAZARD, and with
another tag than I64 or RAW, as any source, FORMAT. -/
def Obligations.ConditionalMoves : Prop :=
  ∀ e ∈ conditional, ∀ (s : State) (m : Bool) (d a b : Reg),
    (Ready {} s [a, b, d] → s.ints [a, b, d] →
      let r := if e.2 (s.int b).toInt then s.int a else s.int d
      ∃ t, exec (e.1 m d a b) s = .next (t.settle s.focus m) ∧ Holds s t d (.int r) ∧
        Retired s t (s.me.pc + 4) ∧ SlotFrame s t ∧ EntersL0 s t d (.int r) 1) ∧
    (s.canTrap → Takes.group {} s.me.hints = true →
      ((∃ r ∈ [a, b, d], s.me.pending r = true) → ∃ t, exec (e.1 m d a b) s = .next t ∧
        Trapped s.bump t .hazard s.me.groupStart 0 0 false) ∧
      ((∀ r ∈ [a, b, d], s.me.pending r = false) → ¬ s.ints [a, b, d] →
        ∃ t, exec (e.1 m d a b) s = .next t ∧ Trapped s.bump t .format s.me.groupStart 0 0 false))

/-! ## Checks that come before an effect (R25, R34, R44, R119) -/

/-- R25, R119, R27, R367: a two-source integer word that names a register still pending traps HAZARD
precisely at itself, and one whose registers are not pending but whose source carries another tag
than I64 or RAW traps FORMAT; the trap is taken at the first word of the group. -/
def Sys2Proof.Claims.HazardAndFormat : Prop :=
  ∀ e ∈ twoSource, ∀ (s : State) (m : Bool) (d a b : Reg), s.canTrap →
    Takes.group {} s.me.hints = true →
    ((∃ r ∈ [a, b, d], s.me.pending r = true) →
      ∃ t, exec (e.1 m d a b) s = .next t ∧ Trapped s.bump t .hazard s.me.groupStart 0 0 false) ∧
    ((∀ r ∈ [a, b, d], s.me.pending r = false) → ¬ s.ints [a, b] →
      ∃ t, exec (e.1 m d a b) s = .next t ∧ Trapped s.bump t .format s.me.groupStart 0 0 false)

/-- R44, R45: in user mode the words of supervisor mode trap PRIV, whatever their operands. -/
def Sys2Proof.Claims.Privileged : Prop :=
  ∀ (m : Bool) (a b : Reg),
    ∀ i ∈ [Instr.eret m, .park m a, .resume m a, .preempt m a, .kill m a, .tlbi m a b, .freq m a,
      .nmmove m a b],
    ∀ s : State, s.canTrap → s.me.super = false → Takes.group {} s.me.hints = true →
      ∃ t, exec i s = .next t ∧ Trapped s.bump t .priv s.me.groupStart 0 0 false

/-- R42, R47: a group whose hints the main word does not take traps ILLEGAL, here for NOP, which
takes ALIGN only. -/
def Sys2Proof.Claims.RefusedHints : Prop :=
  ∀ (s : State) (m : Bool), s.canTrap → Takes.group {} s.me.hints = false →
    ∃ t, exec (.nop m) s = .next t ∧ Trapped s.bump t .illegal s.me.groupStart 0 0 false

/-- R26, R27: a word without the switch marker ends as it is; with it the slot then waits until none of its
results, objects or units is under way, at the same place. -/
def Sys2Proof.Claims.MarkersWait : Prop :=
  ∀ (t : State) (c : Nat), t.settle c false = t ∧
    let u := t.settle c true
    (u.slot c).outs = [] ∧ (u.slot c).late = [] ∧ (u.slot c).pc = (t.slot c).pc ∧
    (u.slot c).pos = (t.slot c).pos ∧ (u.slot c).phase = (t.slot c).phase ∧
    (∀ k, k < 8 → (vget (u.core (coreOf c)).units .reset k).loads c = false) ∧
    ((∀ o ∈ (t.slot c).outs, o.load = none) →
      (∀ k, k < 8 → (vget (t.core (coreOf c)).units .reset k).loads c = false) →
      (u.slot c).file = (t.slot c).file ∧ (∀ a, u.mem.read a = t.mem.read a) ∧
      (∀ k, k ≠ c → coreOf k ≠ coreOf c → u.slot k = t.slot k))

/-- R25 to R27, R34, R42, R44, R45, R47, R119, R367: the checks that come before an effect, and the wait of
a marked word after it. -/
def Obligations.IssueChecks : Prop :=
  Claims.HazardAndFormat ∧ Claims.Privileged ∧ Claims.RefusedHints ∧ Claims.MarkersWait

/-! ## Control transfer (R128 to R133) -/

/-- The target of a branch (R129): PC + sext(DISP) x 4. -/
def Sys2Proof.dispTarget (pc : Word) {n : Nat} (disp : BitVec n) : Word :=
  pc + BitVec.ofInt 64 (disp.toInt * 4)

/-- R129: a branch goes to PC + sext(DISP) x 4 when its condition holds and to the next word when it
does not; it writes no register. COND values 6 and 7 decode to nothing. -/
def Obligations.Branches : Prop :=
  (∀ e ∈ [((.beqz : Bool → Reg → BitVec 16 → Instr), fun (x : Int) => decide (x = 0)),
      (.bnez, fun x => decide (x ≠ 0)), (.bltz, fun x => decide (x < 0)),
      (.bgez, fun x => decide (0 ≤ x)), (.bgtz, fun x => decide (0 < x)),
      (.blez, fun x => decide (x ≤ 0))],
    ∀ (s : State) (m : Bool) (a : Reg) (i : BitVec 16), Ready {} s [a] → s.ints [a] →
      ∃ t, exec (e.1 m a i) s = .next (t.settle s.focus m) ∧
        Retired s t (if e.2 (s.int a).toInt then dispTarget s.me.pc i else s.me.pc + 4) ∧
        FileKept s t ∧ LastKept s t ∧ SlotFrame s t) ∧
  (∀ e ∈ [((.beq : Bool → Reg → Reg → BitVec 10 → Instr), fun (x y : Word) => decide (x = y)),
      (.bne, fun x y => decide (x ≠ y)), (.blt, fun x y => decide (x.toInt < y.toInt)),
      (.bge, fun x y => decide (y.toInt ≤ x.toInt)), (.bltu, fun x y => decide (x.toNat < y.toNat)),
      (.bgeu, fun x y => decide (y.toNat ≤ x.toNat))],
    ∀ (s : State) (m : Bool) (a b : Reg) (i : BitVec 10), Ready {} s [a, b] → s.ints [a, b] →
      ∃ t, exec (e.1 m a b i) s = .next (t.settle s.focus m) ∧
        Retired s t (if e.2 (s.int a) (s.int b) then dispTarget s.me.pc i else s.me.pc + 4) ∧
        FileKept s t ∧ LastKept s t ∧ SlotFrame s t) ∧
  ∀ w : BitVec 32, (w.extractLsb' 25 6 = 0x10#6 ∧ 6 ≤ (w.extractLsb' 16 3).toNat) ∨
      (w.extractLsb' 25 6 = 0x11#6 ∧ 6 ≤ (w.extractLsb' 10 3).toNat) →
    ∃ e, decodeWord w = .error e

/-- R130, R131, R23: JMP and JR write nothing; CALL and CALLR write lk, which does not enter l0; RET
goes where lk says; a target of JR, CALLR or RET that is no multiple of 4 traps MISALIGN at the jump, and CALL,
CALLR and RET trap HAZARD while lk is pending. That TRAPADDR of the MISALIGN is the target is the model's
(DEDUCED, log 46). -/
def Obligations.Jumps : Prop :=
  ∀ (s : State) (m : Bool) (a : Reg) (i : BitVec 25),
    (Ready {} s [] → ∃ t, exec (.jmp m i) s = .next (t.settle s.focus m) ∧ Retired s t (dispTarget s.me.pc i) ∧
      FileKept s t ∧ LastKept s t ∧ SlotFrame s t) ∧
    (Ready {} s [39#6] → ∃ t, exec (.call m i) s = .next (t.settle s.focus m) ∧
      Retired s t (dispTarget s.me.pc i) ∧ Holds s t 39#6 (.int (s.me.pc + 4)) ∧
      LastKept s t ∧ SlotFrame s t) ∧
    (Ready {} s [a] → s.ints [a] → (s.int a).toNat % 4 = 0 →
      ∃ t, exec (.jr m a) s = .next (t.settle s.focus m) ∧ Retired s t (s.int a) ∧ FileKept s t ∧ LastKept s t ∧
        SlotFrame s t) ∧
    (Ready {} s [a, 39#6] → s.ints [a] → (s.int a).toNat % 4 = 0 →
      ∃ t, exec (.callr m a) s = .next (t.settle s.focus m) ∧ Retired s t (s.int a) ∧
        Holds s t 39#6 (.int (s.me.pc + 4)) ∧ LastKept s t ∧ SlotFrame s t) ∧
    (Ready {} s [39#6] → s.ints [39#6] → s.int 39#6 ≠ 0 → (s.int 39#6).toNat % 4 = 0 →
      ∃ t, exec (.ret m) s = .next (t.settle s.focus m) ∧ Retired s t (s.int 39#6) ∧ FileKept s t ∧
        LastKept s t ∧ SlotFrame s t) ∧
    (s.canTrap → Takes.group {} s.me.hints = true → s.me.pending 39#6 = true →
      ∀ j ∈ [Instr.call m i, .callr m a, .ret m], ∃ t, exec j s = .next t ∧
        Trapped s.bump t .hazard s.me.groupStart 0 0 false) ∧
    (Ready {} s [a, 39#6] → s.ints [a] → (s.int a).toNat % 4 ≠ 0 → s.canTrap →
      ∀ j ∈ [Instr.jr m a, .callr m a], ∃ t, exec j s = .next t ∧
        Trapped s.bump t .misalign s.me.groupStart (s.int a) 0 false) ∧
    (Ready {} s [39#6] → s.ints [39#6] → (s.int 39#6).toNat % 4 ≠ 0 → s.canTrap →
      ∃ t, exec (.ret m) s = .next t ∧
        Trapped s.bump t .misalign s.me.groupStart (s.int 39#6) 0 false)

/-- R132, R31: LOOP decrements its count, leaves it in the ring entry its name meant before the
rotation, rotates the window whether or not it branches, and branches unless the count is now
zero; z, l0 and l1 as its count are ILLEGAL. -/
def Sys2Proof.Claims.LoopRotates : Prop :=
  ∀ (s : State) (m : Bool) (a : Reg) (i : BitVec 16), a ∉ [0#6, 62#6, 63#6] →
    Ready {} s [a] → s.ints [a] →
    let c := s.int a - 1
    let w : BitVec 6 := BitVec.ofNat 6 ((s.me.wbase.toNat + 47) % 48);
    s.me.wbase.toNat < 48 →
    ∃ t, exec (.loop m a i) s = .next (t.settle s.focus m) ∧ Holds s t a (.int c) ∧ LastKept s t ∧
      Retired s t (if c = 0 then s.me.pc + 4 else dispTarget s.me.pc i) ∧
      SlotFrame (s.modMe fun x => { x with wbase := w }) t

/-- R132: z, l0 and l1 are no count of LOOP, and a non-zero COND decodes to nothing. -/
def Sys2Proof.Claims.LoopWords : Prop :=
  (∀ (m : Bool) (i : BitVec 16), ∀ a ∈ [0#6, 62#6, 63#6], (Instr.loop m a i).check ≠ none) ∧
  ∀ w : BitVec 32, w.extractLsb' 25 6 = 0x15#6 → w.extractLsb' 16 3 ≠ 0#3 →
    ∃ e, decodeWord w = .error e

/-- R133, R32: WSET, or a write of WBASE, sets WBASE to the low six bits of A, minus 48 when they are
48 to 63. -/
def Sys2Proof.Claims.WsetSets : Prop :=
  ∀ (s : State) (m : Bool) (a : Reg), Ready {} s [a] → s.ints [a] →
    let w : BitVec 6 := BitVec.ofNat 6 ((s.int a).toNat % 64 % 48)
    ∀ i ∈ [Instr.wset m a, .wrc m a .wbase],
      ∃ t, exec i s = .next (t.settle s.focus m) ∧ FileKept s t ∧ LastKept s t ∧
        Retired s t (s.me.pc + 4) ∧ SlotFrame (s.modMe fun x => { x with wbase := w }) t

/-- R31, R32, R132, R133: the words that move the register window. -/
def Obligations.WindowWords : Prop :=
  Claims.LoopRotates ∧ Claims.LoopWords ∧ Claims.WsetSets

/-! ## Control registers (R134 to R140) -/

/-- The registers a user may not read (R135). -/
def Sys2Proof.superRead : List Creg := [.flagsunion, .asid, .ptbase]

/-- The registers only a supervisor may write (R135). -/
def Sys2Proof.superWrite : List Creg :=
  [.flagsunion, .hbint, .barstep, .dwellmax, .poolsel, .poolmin, .poolcap, .asid, .ptbase, .errwin,
   .errthr]

/-- The writable fields of the registers whose write no rule can refuse (R32, R97, R106, R115,
R137 to R140, R268, R357, R400). -/
def Sys2Proof.plainWrite : List (Creg × Word) :=
  [(.fpflags, 0x1F), (.flagsunion, 0x1F), (.trapvec, 0x3FFFFFFFFFFFFC),
   (.trappc, 0x3FFFFFFFFFFFFC), (.fetchgrp, 0xFFFF), (.hbint, 0xFFFFFFFF),
   (.agwaitmax, 0xFFFFFFFF), (.fewaitmax, 0xFFFFFFFF), (.barstray, 0xFFFFFFFF),
   (.barstep, 0xFFFF), (.dwellmax, 0xFFFFFFFF), (.poolsel, 0xFF), (.asid, 0xFFFF),
   (.ptbase, 0x00FFFFFFFFFF0000), (.errwin, 0xFFFFFFFF), (.errthr, 0xFFFF)]

/-- The registers whose value depends on the selection that `c` makes (R97, R404). -/
def Sys2Proof.selectedBy (c : Creg) : List Creg :=
  if c = .poolsel then [.poolmin, .poolcap, .pooluse]
  else if c = .delaysel then [.delaycnt, .delaytrn, .delayqw, .delayrun]
  else []

/-- What an access to control register `c` leaves as it was: every other control register but those
`c` selects, memory, scratchpads, other slots and the register file but for `d`. -/
structure Sys2Proof.CtrlFrame (s t : State) (c : Creg) : Prop where
  others : s.flagless → ∀ k, k ≠ c → k ∉ selectedBy c → t.creg k = s.creg k
  mem : ∀ a, t.mem.read a = s.mem.read a
  scratch : ∀ k a, (t.core k).scratch.read a = (s.core k).scratch.read a
  slots : ∀ k, k ≠ s.focus → t.slot k = s.slot k

/-- R134, R135: RDC delivers the register's value at issue, tagged I64, into l0 too, and changes no
control register; the registers of `superRead` need supervisor mode. Here all registers but FPFLAGS. -/
def Sys2Proof.Claims.RdcReads : Prop :=
  ∀ (s : State) (m : Bool) (d : Reg) (c : Creg), c ≠ .fpflags →
    Ready { super := decide (c ∈ superRead) } s [d] →
    ∃ t, exec (.rdc m d c) s = .next (t.settle s.focus m) ∧ Holds s t d (.int (s.creg c)) ∧
      Retired s t (s.me.pc + 4) ∧ SlotFrame s t ∧ EntersL0 s t d (.int (s.creg c)) 1

/-- What a write of `v` to a control register of the slot brings: FLAGSUNION keeps what accrues to it
in the same die cycle (R139). -/
def Sys2Proof.writtenAs (s : State) (c : Creg) (v : Word) : Word :=
  if c = .flagsunion ∧ s.myCluster.flagsAt = s.myDie.dcyc then v ||| s.myCluster.flagsNow.setWidth 64
  else v

/-- R134, R6, R136, R139: WRC writes the writable fields and leaves the others; SETC, CLRC and SWPC also
deliver the old value, and write old or a, old and not a, and a. The old value is the one after the wait
for flags that an access to FPFLAGS makes. -/
def Obligations.CtrlWrites : Prop :=
  ∀ e ∈ plainWrite, ∀ (s : State) (m : Bool) (d a : Reg),
    let h : Takes := { super := decide (e.1 ∈ superWrite) }
    let u := awaitFlags e.1 s.bump
    let old := u.creg e.1
    let put (v : Word) : Word := (old &&& ~~~e.2) ||| (writtenAs s e.1 v &&& e.2);
    s.flagless → s.ints [a] →
    (Ready h s [a] → ∃ t, exec (.wrc m a e.1) s = .next (t.settle s.focus m) ∧
      t.creg e.1 = put (s.int a) ∧ FileKept s t ∧ Retired s t (s.me.pc + 4) ∧ CtrlFrame u t e.1) ∧
    (Ready h s [a, d] → ∀ f ∈ [((.setc : Bool → Reg → Reg → Creg → Instr), old ||| s.int a),
        (.clrc, old &&& ~~~s.int a), (.swpc, s.int a)],
      ∃ t, exec (f.1 m d a e.1) s = .next (t.settle s.focus m) ∧ Holds s t d (.int old) ∧
        t.creg e.1 = put f.2 ∧ Retired s t (s.me.pc + 4) ∧ CtrlFrame u t e.1)

/-- R136, R138: an access to FPFLAGS waits until no result has a flag left to bring: a read sees all that
stand already and all that outstanding results bring. -/
def Sys2Proof.Claims.FpflagsSees : Prop :=
  ∀ (s : State) (m : Bool) (d : Reg), Ready {} s [d] →
    let f := (s.bump.drainFlags s.focus).me.fpflags
    (s.me.fpflags ||| dueFlags s.me.outs) &&& ~~~f = 0 ∧
    ∃ t, exec (.rdc m d .fpflags) s = .next (t.settle s.focus m) ∧ Holds s t d (.int (f.setWidth 64)) ∧
      t.me.fpflags = f ∧ t.flagless ∧ Retired s t (s.me.pc + 4)

/-- R137: a write of THREADST changes FTZ and RND only; one that would leave RND at 0, 6 or 7 traps
PROT with TRAPINFO = 7 and leaves THREADST unchanged. -/
def Sys2Proof.Claims.ThreadstWrites : Prop :=
  ∀ (s : State) (m : Bool) (a : Reg), Ready {} s [a] → s.ints [a] →
    let v := s.int a
    let r := v.toNat / 16 % 8
    let new : Word := (s.creg .threadst &&& ~~~0xF0) ||| (v &&& 0xF0);
    (r ∉ [0, 6, 7] → ∃ t, exec (.wrc m a .threadst) s = .next (t.settle s.focus m) ∧ t.creg .threadst = new ∧
      FileKept s t ∧ Retired s t (s.me.pc + 4) ∧ CtrlFrame s t .threadst) ∧
    (r ∈ [0, 6, 7] → s.canTrap → ∃ t, exec (.wrc m a .threadst) s = .next t ∧
      Trapped s.bump t .prot s.me.groupStart 0 7 false ∧ t.me.rnd = s.me.rnd ∧ t.me.ftz = s.me.ftz)

/-- The access steps the table lists beside the words: THREADST, POOLMIN, POOLCAP and DELAYSEL
written, and FPFLAGS read and written (R97, R134, R137, R138, R404). -/
def Sys2Proof.Claims.AccessSteps : Prop :=
  ∀ (s : State) (v : Word), s.flagless →
    (Ready {} s [] → v.toNat / 16 % 8 ∉ [0, 6, 7] →
      ∃ t, exec (.threadstWrite v) s = .next t ∧
        t.creg .threadst = (s.creg .threadst &&& ~~~0xF0) ||| (v &&& 0xF0) ∧ FileKept s t ∧
        CtrlFrame s t .threadst) ∧
    (Ready { super := true } s [] →
      let k := s.myCluster
      let q := k.queue k.poolSel.toNat
      let sum (x : Queue) : Nat := ((k.queues.set k.poolSel.toNat x).map fun e => e.2.min.toNat).sum
      let min : BitVec 12 := v.setWidth 12;
      k.queues.Pairwise (fun x y => x.1 < y.1) →
      (q.cap ≠ 0 → min ≤ q.cap → sum { q with min := min } ≤ 2048 →
        ∃ t, exec (.poolminWrite v) s = .next t ∧ t.creg .poolmin = v &&& 0xFFF ∧ FileKept s t ∧
          CtrlFrame s t .poolmin) ∧
      (min ≠ 0 → q.min ≤ min → sum { q with cap := min } ≤ 2048 →
        ∃ t, exec (.poolcapWrite v) s = .next t ∧ t.creg .poolcap = v &&& 0xFFF ∧ FileKept s t ∧
          CtrlFrame s t .poolcap)) ∧
    (Ready {} s [] → (∀ e, s.myCore.ended = some e → e.1 ≠ s.myDie.dcyc) →
      ∃ t, exec (.delayselLoad v) s = .next t ∧
        t.creg .delaysel = v &&& 0x003FFFFF0006000F ∧ t.creg .delaycnt = 0 ∧
        t.creg .delaytrn = 0 ∧ t.creg .delayqw = 0 ∧ t.creg .delayrun = 0 ∧ FileKept s t ∧
        CtrlFrame s t .delaysel) ∧
    (∀ (op : BitVec 3) (d : Reg), Ready {} s [d] →
      let u := s.bump.drainFlags s.focus
      let old := u.creg .fpflags
      let new := if op = 0#3 then old else if op = 2#3 then old ||| v
        else if op = 3#3 then old &&& ~~~v else v
      ∃ t, exec (.fpflagsAccess op d v) s = .next t ∧ t.creg .fpflags = new &&& 0x1F ∧
        (op ≠ 1#3 → Holds s t d (.int old)) ∧ CtrlFrame u t .fpflags)

/-- R140, R138, R365: TRAPVEC and TRAPPC are word addresses, FPFLAGS five bits, TRAPCAUSE a cause
with its PEND bit: the bits of these registers stand where their layouts say. -/
def Sys2Proof.Claims.RegisterLayouts : Prop :=
  ∀ s : State,
    (s.creg .threadst).getLsbD 15 = s.me.super ∧ (s.creg .threadst).getLsbD 14 = s.me.inTrap ∧
    (s.creg .threadst).getLsbD 7 = s.me.ftz ∧ (s.creg .threadst).extractLsb' 4 3 = s.me.rnd ∧
    (s.creg .threadst).extractLsb' 16 48 = 0 ∧ (s.creg .threadst).extractLsb' 8 6 = 0 ∧
    (s.creg .threadst).extractLsb' 0 4 = 0 ∧
    (s.creg .trapvec).extractLsb' 2 52 = s.me.trapVec ∧ (s.creg .trapvec).extractLsb' 0 2 = 0 ∧
    (s.creg .trappc).extractLsb' 2 52 = s.me.trapPc ∧ (s.creg .trappc).extractLsb' 54 10 = 0 ∧
    (s.creg .trapcause).extractLsb' 0 6 = s.me.trapCause ∧
    (s.creg .trapcause).getLsbD 8 = s.me.trapPend ∧
    (s.creg .fpflags).extractLsb' 0 5 = s.me.fpflags ∧
    (s.creg .coord).toNat = s.focus % 2 ^ 18

/-- R134, R137, R138, R140, R97, R404: the writes that a rule can refuse, and the access steps the table lists; and
where the fields of the slot's registers stand. -/
def Obligations.CtrlSteps : Prop :=
  Claims.AccessSteps ∧ Claims.ThreadstWrites ∧ Claims.RegisterLayouts

/-- R134 to R140, R365: what a read of a control register gives. -/
def Obligations.ControlReads : Prop :=
  Claims.RdcReads ∧ Claims.FpflagsSees

/-! ## System words of the slot (R141 to R143, R378) -/

/-- R141, R106: NOP only takes its issue position; HBEAT sets the heartbeat count to zero, and
nothing else. -/
def Sys2Proof.Claims.NopAndHbeat : Prop :=
  ∀ (s : State) (m : Bool), Ready {} s [] →
    (∃ t, exec (.nop m) s = .next (t.settle s.focus m) ∧ Retired s t (s.me.pc + 4) ∧ FileKept s t ∧
      LastKept s t ∧ SlotFrame s t) ∧
    (∃ t, exec (.hbeat m) s = .next (t.settle s.focus m) ∧ Retired s t (s.me.pc + 4) ∧ FileKept s t ∧
      LastKept s t ∧ SlotFrame (s.modMe fun x => { x with heart := 0 }) t)

/-- R142, R43, R367: TRAP raises TRAPI and BREAK, unless a debug session has claimed it, BREAK;
TRAPPC is the group's first word, TRAPINFO the words from it to the trapping word and TRAP's n, and
the handler is next. -/
def Sys2Proof.Claims.TrapAndBreak : Prop :=
  ∀ (s : State) (m : Bool) (n : BitVec 6), Ready {} s [] → s.canTrap →
    let len := (s.me.pc - s.me.groupStart).toNat / 4 + 1
    let info (k : Nat) : Word := BitVec.ofNat 64 (len % 32 * 256 + k);
    (∃ t, exec (.trap m n) s = .next t ∧
      Trapped s.bump t .trapI s.me.groupStart 0 (info n.toNat) false) ∧
    (s.myCore.claimed = false → ∃ t, exec (.brk m) s = .next t ∧
      Trapped s.bump t .brk s.me.groupStart 0 (info 0) false)

/-- R408: a claimed BREAK stops its slot before the next word. -/
def Sys2Proof.Claims.ClaimedBreak : Prop :=
  ∀ (s : State) (m : Bool), Ready {} s [] → s.myCore.claimed = true →
    ∃ t, exec (.brk m) s = .next t ∧ t.me.phase.run? = some .stopped ∧ t.me.atBreak = true ∧
      t.me.pc = s.me.pc + 4 ∧ t.me.outs = [] ∧
      ∀ c, c ≠ s.focus → (t.slot c).ctl = (s.slot c).ctl

/-- R368, R370, R98, R419: a user trap with TRAPVEC zero, or taken while a handler runs, aborts the
activation: the slot is idle, or HELD when it was draining, and its error record, which takes two
entries, is in the die's error queue when the queue has room. -/
def Sys2Proof.Claims.TrapAborts : Prop :=
  ∀ (s : State) (m : Bool) (n : BitVec 6), Ready {} s [] →
    s.me.inTrap = true ∨ s.me.trapVec = 0 →
    let k := serviceCluster (dieOf s.focus)
    let q := (s.cluster k).queue errIndex
    ∃ t, exec (.trap m n) s = .next t ∧ t.me.phase = s.me.phase.ended ∧
      t.me.outs = [] ∧ t.me.stores = [] ∧ t.me.hints = .empty ∧
      (∀ c, c ≠ s.focus → (t.slot c).ctl = (s.slot c).ctl) ∧
      (q.attached = true → q.kind ≠ .stage → q.sealed_ = false → q.ext = [] →
        (s.cluster k).poolRoom (s.die (dieOf s.focus)).dcyc errIndex 2 = true →
        ∃ x r, ((t.cluster k).queue errIndex).pool = q.pool ++ [x] ∧ x.err = some (.slot r) ∧
          r.extractLsb' 0 256 = s.me.record ∧ r.extractLsb' 256 6 = Cause.trapI.code ∧
          r.extractLsb' 265 3 = if s.me.inTrap then 2#3 else 1#3)

/-- R142, R43, R367, R368, R370, R408: TRAP and BREAK, and the trap that aborts its activation. -/
def Obligations.TrapEntry : Prop :=
  Claims.TrapAndBreak ∧ Claims.ClaimedBreak ∧ Claims.TrapAborts

/-- R143, R378: TRET ends a handler and continues at TRAPPC; outside one it traps ILLEGAL with
TRAPINFO = 1; ERET also leaves supervisor mode. -/
def Obligations.TrapReturns : Prop :=
  ∀ (s : State) (m : Bool),
    (Ready {} s [] → s.me.inTrap = true → ∃ t, exec (.tret m) s = .next (t.settle s.focus m) ∧
      Retired s t (wordAddr s.me.trapPc) ∧ FileKept s t ∧
      SlotFrame (s.modMe fun x => { x with inTrap := false }) t) ∧
    (Ready {} s [] → s.me.inTrap = false → s.me.trapVec ≠ 0 → ∃ t, exec (.tret m) s = .next t ∧
      Trapped s.bump t .illegal s.me.groupStart 0 1 false) ∧
    (Ready { super := true } s [] → ∃ t, exec (.eret m) s = .next (t.settle s.focus m) ∧
      Retired s t (wordAddr s.me.trapPc) ∧ FileKept s t ∧
      SlotFrame (s.modMe fun x => { x with inTrap := false, super := false }) t)

/-! ## Hints (R39 to R42, R118) -/

/-- R39 to R41, R118: a hint word adds itself to the hint state and has no other effect; the group's
first word is kept; ALIGN with a count also sets when its wait ends. -/
def Sys2Proof.Claims.HintsGather : Prop :=
  ∀ (s : State) (v : BitVec 22) (r : BitVec 3) (q f : BitVec 1) (k : BitVec 5) (n : BitVec 16),
    s.me.groupLength ≤ 16 → ∀ e ∈ [(Instr.hnop, fun (h : Hints) => h),
      (.himm v, fun h => { h with imm := h.imm ++ [v] }),
      (.hmod r q f k, fun h => { h with mod := h.mod ++ [r ++ q ++ f ++ k ++ 0#12] }),
      (.hschedStream, fun h => { h with sched := h.sched ++ [0x40000#22] }),
      (.hschedAlign n, fun h => { h with sched := h.sched ++ [n.setWidth 22],
                                         t0 := s.myDie.dcyc.toNat })],
    let align := if e.1 = .hschedAlign n ∧ n ≠ 0 then some (s.myDie.dcyc.toNat + n.toNat)
      else s.me.align
    ∃ t, exec e.1 s = .next t ∧
      t.me.hints = e.2 { s.me.hints with first := some s.me.groupStart } ∧
      t.me.pc = s.me.pc + 4 ∧ t.me.pos = s.me.pos + 1 ∧ FileKept s t ∧ LastKept s t ∧
      SlotFrame ((s.modMe fun x => { x with align := align }).cameToWait s.focus) t

/-- R141, R106, R39 to R41, R118: the words that only take an issue position, reset the heartbeat, or gather hints. -/
def Obligations.NopHbeatAndHints : Prop :=
  Claims.NopAndHbeat ∧ Claims.HintsGather

/-! ## Loads and stores (R232, R240, R245 to R248) -/

/-- R232, R245: the checks of an access: address bits 63:54 must be zero, the address must be
aligned to the access, and below 0x8000 the own scratchpad answers without translation. -/
def Sys2Proof.Claims.TargetChecks : Prop :=
  ∀ (s : State) (va : Word) (n : Nat), 0 < n → ∀ k ∈ [AccKind.load, .store, .atomic],
    (2 ^ 54 ≤ va.toNat → target s va n k false = .error (.trap .prot va 20 false)) ∧
    (va.toNat < 2 ^ 54 → va.toNat % n ≠ 0 →
      target s va n k false = .error (.trap .misalign va 0 false)) ∧
    (va.toNat < 0x8000 → va.toNat % n = 0 →
      target s va n k false = .ok (s, .scratch (coreOf s.focus) va.toNat))

/-- R245, R366: a load whose checks refuse it traps at itself, with the address of the access. -/
def Sys2Proof.Claims.RefusedLoad : Prop :=
  ∀ (s : State) (m : Bool) (t b : Reg) (o : BitVec 10) (c : Cause) (a i : Word), s.canTrap →
    Ready { imm := true, stream := true } s [b, t] → s.ints [b] →
    target s.bump (s.int b + BitVec.ofInt 64 (combined s.me.hints 10 o.toNat * 8)) 8 .load false
      = .error (.trap c a i false) →
    ∃ u, exec (.ldd m t b o) s = .next u ∧ Trapped s.bump u c s.me.groupStart a i false

/-- R232, R245, R366: the checks of an access, and the trap of a load they refuse. -/
def Obligations.AccessChecks : Prop :=
  Claims.TargetChecks ∧ Claims.RefusedLoad

/-- The byte at place `i` of an access's bytes. -/
def Sys2Proof.byteAt (s : State) (tg : Target) (i : Nat) : Byte :=
  match tg with
  | .scratch k off => (s.core k).scratch.read (off + i)
  | .phys pa _ => s.mem.read (pa + i)

/-- From `u` to `t` the `n` bytes at the target took the low bytes of `v`, little-endian (R2), and
every other byte of memory and of every scratchpad, and every other slot, is as before. -/
structure Sys2Proof.Stored (u t : State) (tg : Target) (n v : Nat) : Prop where
  bytes : ∀ i, i < n → byteAt t tg i = BitVec.ofNat 8 (v / 256 ^ i)
  mem : ∀ a, (∀ pa leaf, tg = .phys pa leaf → a < pa ∨ pa + n ≤ a) → t.mem.read a = u.mem.read a
  scratch : ∀ k a, (∀ off, tg = .scratch k off → a < off ∨ off + n ≤ a) →
    (t.core k).scratch.read a = (u.core k).scratch.read a
  others : ∀ c, c ≠ u.focus → t.slot c = u.slot c

/-- What loaded bytes become, as a number `v` (R246 to R248). -/
def Sys2Proof.loaded (f : Fit) (v : Nat) : RV :=
  match f with
  | .zext => .int (BitVec.ofNat 64 v)
  | .sext k => .int (BitVec.ofInt 64 ((v : Int).bmod (2 ^ (8 * k))))
  | .quad g => ⟨BitVec.ofNat 128 v, g⟩

/-- The entry of the register file that a register names, if it names one. -/
def Sys2Proof.entryOf (s : State) (d : Reg) : Option Nat :=
  match regRef s.me.wbase d with
  | .file i => some i
  | _ => none

/-- R246, R248, R24, R236: the relaxed loads. The address is the base plus the scaled offset; `u` and
`tg` are the state and the target that its checks give. In a scratchpad the bytes are delivered; a load of
global memory retires with its result outstanding and its register pending. That LDV and LDQ with the tag I64
keep all 128 bits is the model's (DESIGN CHOICE, log 58). -/
def Sys2Proof.Claims.LoadWords : Prop :=
  ∀ (s u : State) (m : Bool) (t b : Reg) (tg : Target), s.ints [b] →
    let short (h : Takes) (i : Instr) (off : Int) (n : Nat) (f : Fit) : Prop :=
      Ready h s [b, t] →
      let va := s.int b + BitVec.ofInt 64 (off * n)
      target s.bump va n .load false = .ok (u, tg) →
      (∀ k o, tg = .scratch k o → ∃ w, exec i s = .next (w.settle s.focus m) ∧
        Holds s w t (loaded f ((u.core k).scratch.readLE o n)) ∧ Retired s w (s.me.pc + 4) ∧
        LastKept s w ∧ SlotFrame u w) ∧
      (∀ pa leaf, tg = .phys pa leaf → ∃ w, exec i s = .next (w.settle s.focus m) ∧ FileKept s w ∧
        Retired s w (s.me.pc + 4) ∧ LastKept s w ∧ SlotFrame u w ∧
        ∃ o ∈ w.me.outs, o.dst = entryOf s t ∧ o.ready = none ∧ o.issued = s.me.pos ∧
          o.load = some ⟨va, pa, leafCached leaf, n, f, s.me.asid⟩)
    let lds : Takes := { imm := true, stream := true };
    (∀ o : BitVec 10, let off := combined s.me.hints 10 o.toNat;
      short lds (.ldb m t b o) off 1 .zext ∧ short lds (.ldbs m t b o) off 1 (.sext 1) ∧
      short lds (.ldh m t b o) off 2 .zext ∧ short lds (.ldhs m t b o) off 2 (.sext 2) ∧
      short lds (.ldw m t b o) off 4 .zext ∧ short lds (.ldws m t b o) off 4 (.sext 4) ∧
      short lds (.ldd m t b o) off 8 .zext ∧
      ∀ g : Tag, g ≠ .name → fmtTag s = g →
        short { lds with fmt := true } (.ldq m t b o) off 16 (.quad g)) ∧
    (∀ (f : BitVec 5) (o : BitVec 8) (g : Tag), Tag.ofCode f = some g → g ≠ .name →
      short lds (.ldv m t b f o) (combined s.me.hints 8 o.toNat) 16 (.quad g))

/-- R236, R240, R286: an outstanding load is performed when it reads: its register takes the bytes, and is
written when the result is; a fault that it meets delivers zero, RAW, and becomes pending. -/
def Sys2Proof.Claims.LoadsPerform : Prop :=
  ∀ (s : State) (c i d : Nat) (o : Out) (q : Load), (s.slot c).outs[i]? = some o → o.load = some q →
    o.dst = some d → d < 93 →
    let r := s.readGlobal c q.pa q.cached q.n
    let t := s.performLoad c i
    ((t.slot c).outs[i]?).map (·.load) = some none ∧
    (∀ v, r.2 = .ok v → v < 256 ^ q.n → (t.slot c).entry d = loaded q.fit v ∧
      (t.slot c).err = (r.1.slot c).err) ∧
    (∀ e, r.2 = .error e → (t.slot c).entry d = .zero ∧
      (t.slot c).err = (r.1.slot c).err.record e q.va 0 o.issued)

/-- The slot whose turn it is has no access of memory under way: no load outstanding, no store on its
way from its cluster, no unit loading. -/
structure Sys2Proof.Idle (s : State) : Prop where
  loads : ∀ o ∈ s.me.outs, o.load = none
  stores : s.me.stores = []
  units : ∀ u, u < 8 → (vget s.myCore.units .reset u).loads s.focus = false
  fabric : ∀ p ∈ s.fabric, clusterOf p.slot ≠ clusterOf s.focus

/-- What the cluster's read cache holds is what memory holds (R236). -/
def Sys2Proof.Coherent (s : State) : Prop := ∀ a b, s.myCluster.cache.find a = some b → b = s.mem.read a

/-- A range that lies in one line of the own package's memory and is not poisoned (R234, R240). -/
structure Sys2Proof.Plain (s : State) (pa n : Nat) : Prop where
  some : 0 < n
  line : pa % 64 + n ≤ 64
  own : s.remote pa = false
  memory : localOf pa < 2 ^ 40
  sound : ∀ i, i < 64 → s.poisoned (pa / 64 * 64 + i) 1 = false

/-- R236, R286: with no store of the cluster on its way, and a read cache that holds what memory holds, a
read delivers the bytes that stand in memory. -/
def Sys2Proof.Claims.ReadsHome : Prop :=
  ∀ (s : State) (pa n : Nat) (cached : Bool), Idle s → Coherent s → Plain s pa n →
    (s.readGlobal s.focus pa cached n).2 = .ok (s.mem.readLE pa n)

/-- R24, R236, R240, R246, R248, R286: the relaxed loads. -/
def Obligations.Loads : Prop :=
  Claims.LoadWords ∧ Claims.LoadsPerform ∧ Claims.ReadsHome

/-- R245, R248, R243, R236, R298: the relaxed stores. The address stored to is the base plus the scaled
offset; `u` and `tg` are the state and target its checks give. In a scratchpad the bytes are written. A
store to global memory is under way from then on, with its bytes, and one acknowledgement is outstanding;
`v` is the state after the slot's earlier loads of those bytes. It holds issue while its count stands at
65,535, or while the write-through buffer it would enter is full. STV stores any tag with FMT 0, and
otherwise the tag of its FMT. -/
def Sys2Proof.Claims.StoreWords : Prop :=
  ∀ (s u : State) (m : Bool) (t b : Reg) (tg : Target), s.ints [b] →
    Ready { imm := true } s [b, t] →
    let data := (s.me.read t).val.toNat
    let short (i : Instr) (off : Int) (n : Nat) : Prop :=
      let va := s.int b + BitVec.ofInt 64 (off * n)
      target s.bump va n .store false = .ok (u, tg) →
      (∀ k o, tg = .scratch k o → ∃ w, exec i s = .next (w.settle s.focus m) ∧ Stored u w tg n data ∧
        FileKept s w ∧ LastKept s w ∧ Retired s w (s.me.pc + 4) ∧ w.me.special = s.me.special) ∧
      (∀ pa leaf, tg = .phys pa leaf →
        let k := u.ackClass s.focus pa
        let v := u.earlierLoads s.focus pa n
        let full := leafCached leaf = true ∧
          (u.cluster (clusterOf s.focus)).bufCap ≤ u.buffered (clusterOf s.focus);
        (¬ full → v.me.acks.get k ≠ BitVec.allOnes 16 →
          ∃ w p, exec i s = .next (w.settle s.focus m) ∧ FileKept v w ∧ LastKept v w ∧
            Retired s w (s.me.pc + 4) ∧ w.me.stores = v.me.stores ++ [p] ∧ p.slot = s.focus ∧
            p.loc = pa ∧ p.va = va ∧ p.buffered = leafCached leaf ∧ p.bytes.length = n ∧
            (∀ j, j < n → p.bytes[j]? = some (BitVec.ofNat 8 (data / 256 ^ j))) ∧
            w.me.acks = v.me.acks.set k (v.me.acks.get k + 1) ∧
            (∀ a, w.mem.read a = v.mem.read a) ∧ ∀ c, c ≠ s.focus → w.slot c = v.slot c) ∧
        (full ∨ v.me.acks.get k = BitVec.allOnes 16 → ∃ w, exec i s = .next w ∧ w.me.pc = s.me.pc ∧
          w.me.pos = s.me.pos ∧ FileKept s w ∧ w.me.stores = s.me.stores ∧
          w.me.acks = s.me.acks ∧ ∀ a, w.mem.read a = s.mem.read a))
    (∀ o : BitVec 10, let off := combined s.me.hints 10 o.toNat;
      short (.stb m t b o) off 1 ∧ short (.sth m t b o) off 2 ∧ short (.stw m t b o) off 4 ∧
      short (.std m t b o) off 8 ∧ short (.stq m t b o) off 16) ∧
    (∀ (f : BitVec 5) (o : BitVec 8), f = 0 ∨ (s.me.read t).tag.code = f →
      short (.stv m t b f o) (combined s.me.hints 8 o.toNat) 16)

/-- R236, R240: a store is performed at its home: its bytes stand in memory and no other byte changes; one
that finds a fault writes nothing, and the fault becomes pending in the slot that stored. -/
def Sys2Proof.Claims.StoresPerform : Prop :=
  ∀ (s : State) (p : Packet),
    (localOf p.loc < 2 ^ 40 → ∀ a, (s.perform p none).mem.read a =
      if p.loc ≤ a ∧ a < p.loc + p.bytes.length then p.bytes.getD (a - p.loc) 0 else s.mem.read a) ∧
    ∀ e, (∀ a, (s.perform p (some e)).mem.read a = s.mem.read a) ∧
      (p.orphan = false →
        ((s.perform p (some e)).slot p.slot).err = (s.slot p.slot).err.record e p.va 0 p.pos)

/-- R236, R240, R243, R245, R248, R298: the relaxed stores. -/
def Obligations.Stores : Prop := Claims.StoreWords ∧ Claims.StoresPerform

/-- An access at `va` lands at `tg`: in the own scratchpad (R232), or in the own package's memory, where no
cached translation applies and a walk finds the leaf (R359); `u` is the state with the leaf cached. A
write to a DET page is one the core holds the region of (R104); the clock of the home's die runs (R387); and a
write has room among the acknowledgements of its class (R298). -/
def Sys2Proof.Lands (s u : State) (va : Word) (n : Nat) (k : AccKind) (tg : Target) : Prop :=
  va.toNat % n = 0 ∧
  match tg with
  | .scratch j off => va.toNat < 0x8000 ∧ j = coreOf s.focus ∧ off = va.toNat ∧ u = s
  | .phys pa leaf => 0x8000 ≤ va.toNat ∧ va.toNat < 2 ^ 54 ∧
    usable (s.myCore.dtlb ++ s.myCluster.tlb) s.me.asid va.toNat k s.me.super = [] ∧
    s.walkFill (coreOf s.focus) s.me.asid s.me.root s.me.super va.toNat k = .ok u pa leaf ∧
    (k.writes = true → pteDet leaf = true → s.holdsDet (coreOf s.focus) s.me.asid va = true) ∧
    s.remote pa = false ∧ s.reachAlias pa = false ∧ localOf pa < 2 ^ 40 ∧ s.homeStands pa = false ∧
    (k.writes = true → s.me.acks.get (s.ackClass s.focus pa) ≠ BitVec.allOnes 16)

/-- `n` bytes at a target, as memory or the scratchpad holds them. -/
def Sys2Proof.held (s : State) (tg : Target) (n : Nat) : Nat :=
  match tg with
  | .scratch k off => (s.core k).scratch.readLE off n
  | .phys pa _ => s.mem.readLE pa n

/-- No word of the range is poisoned (R240). -/
def Sys2Proof.sound (s : State) (tg : Target) (n : Nat) : Prop :=
  ∀ pa leaf, tg = .phys pa leaf → s.poisoned pa n = false

/-- Memory, scratchpads and other slots are as before, and of the slot's special registers all but the
counts of acknowledgements. -/
structure Sys2Proof.Untouched (u w : State) : Prop where
  mem : ∀ a, w.mem.read a = u.mem.read a
  scratch : ∀ k a, (w.core k).scratch.read a = (u.core k).scratch.read a
  others : ∀ c, c ≠ u.focus → w.slot c = u.slot c
  special : w.me.special = { u.me with acks := w.me.acks }.special

/-- The counts of acknowledgements after a wait for the classes that a scope covers (R243). -/
def Sys2Proof.waited (a : Acks) (c : BitVec 4) : Acks :=
  ⟨if scopeCovers c .die then 0 else a.die, if scopeCovers c .package then 0 else a.pkg,
   if scopeCovers c .fabric then 0 else a.fabric, if scopeCovers c .ultra then 0 else a.ue⟩

/-- R247, R244, R236: with nothing of the slot under way, LDAQ delivers its bytes, zero-extended, or RAW
for sixteen, and from sector up discards the read cache; STRL waits for what its scope covers and stores.
LDAQ's bytes are those at the home, unless its scope is narrower than sector and the page may be cached.
-/
def Sys2Proof.Claims.AcquireWords : Prop :=
  ∀ (s u : State) (m : Bool) (t b : Reg) (o : BitVec 6) (z : BitVec 3) (c : BitVec 4)
    (tg : Target), s.ints [b] → s.noError → Idle s → z.toNat ≤ 4 →
    let n : Nat := 2 ^ z.toNat
    let va := s.int b + BitVec.ofInt 64 (combined s.me.hints 6 o.toNat * (n : Int));
    sound s tg n →
    (Ready { imm := true, stream := true } s [b, t] → Lands s.bump u va n .load tg →
      ∃ w v, exec (.ldaq m t b o z c) s = .next (w.settle s.focus m) ∧
        Holds s w t (if z = 4#3 then ⟨BitVec.ofNat 128 v, .raw⟩ else .int (BitVec.ofNat 64 v)) ∧
        ((∀ pa leaf, tg = .phys pa leaf → scopeWide c = true ∨ leafCached leaf = false) →
          v = held u tg n) ∧
        (scopeWide c = true → w.myCluster.cache = []) ∧
        Retired s w (s.me.pc + 4) ∧ LastKept s w ∧ Untouched u w ∧ w.me.acks = s.me.acks) ∧
    (Ready { imm := true } s [b, t] → Lands s.bump u va n .store tg →
      ∃ w, exec (.strl m t b o z c) s = .next (w.settle s.focus m) ∧
        Stored u w tg n (s.me.read t).val.toNat ∧ FileKept s w ∧ LastKept s w ∧
        Retired s w (s.me.pc + 4) ∧ w.me.acks = waited s.me.acks c)

/-- R240, R243, R244, R292 to R294: after a release no load of the slot is outstanding and no error is
pending; at core or wider every store of the slot that its cluster buffers has been performed at its home, from
sector up no store of the cluster waits for its home, none of the slot in a class that the scope covers is
outstanding, and the counts that the scope covers are zero. -/
def Sys2Proof.Claims.ReleaseWaits : Prop :=
  ∀ (s t : State) (c : BitVec 4), release s c = .ok t →
    t.me.err.valid = false ∧ (∀ o ∈ t.me.outs, o.load = none) ∧
    (1 ≤ c.toNat ∧ c.toNat ≤ 9 → (∀ p ∈ t.me.stores, p.buffered = false) ∧
      ∀ p ∈ t.fabric, p.slot = s.focus → p.orphan = false → p.buffered = true → p.stage = .applied) ∧
    (∀ p ∈ t.me.stores, scopeCovers c (t.ackClass s.focus p.loc) = false) ∧
    (scopeWide c = true → ∀ p ∈ t.fabric, p.unacked (clusterOf s.focus) = false) ∧
    ∀ k, scopeCovers c k = true → t.me.acks.get k = 0

/-- R283, R285: the parties of the scopes from slot to home: a slot is a party of its own scopes, a wider scope
holds the parties of a narrower one, and a release and an acquire synchronise only where each is a party of
the other's scope. -/
def Sys2Proof.Claims.Scopes : Prop :=
  ∀ (a b : BitVec 4) (p q : Nat),
    (a.toNat ≤ 9 → party a p p = true) ∧
    (a.toNat ≤ b.toNat → b.toNat ≤ 9 → party a p q = true → party b p q = true) ∧
    (party 0 p q = true ↔ p = q) ∧ (5 ≤ a.toNat → a.toNat ≤ 9 → party a p q = true) ∧
    synchronise a b p q = synchronise b a q p ∧
    (synchronise a b p q = true → party a p q = true ∧ party b q p = true) ∧
    ∀ (s : State) (tray : BitVec 16) (pod : BitVec 6), a.toNat ≤ b.toNat → b.toNat ≤ 9 →
      s.partyPkg a tray pod = true → s.partyPkg b tray pod = true

/-- R236, R240, R243, R244, R247, R283, R285, R293, R294: acquire loads and release stores, what a release
waits for, and whom scopes bring together. -/
def Obligations.AcquireAndRelease : Prop :=
  Claims.AcquireWords ∧ Claims.ReleaseWaits ∧ Claims.Scopes

/-! ## Atomics and fences (R250 to R252) -/

/-- The integer atomics but ACAS: whether the old value is sign-extended, and what is written, as
numbers of 8n bits. -/
def Sys2Proof.atomics :
    List ((Bool → Reg → Reg → Reg → BitVec 2 → BitVec 1 → BitVec 4 → Instr) × Bool ×
      ((k : Nat) → BitVec k → BitVec k → BitVec k)) :=
  [(.aadd, true, fun _ x y => x + y),
   (.amin, true, fun _ x y => if x.toInt ≤ y.toInt then x else y),
   (.amax, true, fun _ x y => if x.toInt ≤ y.toInt then y else x),
   (.aminu, false, fun _ x y => if x.toNat ≤ y.toNat then x else y),
   (.amaxu, false, fun _ x y => if x.toNat ≤ y.toNat then y else x),
   (.aand, true, fun _ x y => x &&& y), (.aor, true, fun _ x y => x ||| y),
   (.axor, true, fun _ x y => x ^^^ y), (.aswp, true, fun _ _ y => y)]

/-- What an atomic leaves: T holds the old value as `r`, and where the atomic writes, the bytes at
the home hold `new`. `u` is the state in which it meets its home. -/
structure Sys2Proof.Swapped (s u w : State) (t : Reg) (r : RV) (tg : Target) (n : Nat)
    (new : Option Nat) : Prop where
  result : Holds s w t r
  last : LastKept s w
  retired : Retired s w (s.me.pc + 4)
  stored : ∀ x, new = some x → Stored u w tg n x
  kept : new = none → Untouched u w
  effect : w.me.eff = true

/-- R250, R34, R89, R244, R398: with nothing of the slot under way, each atomic reads its home and writes
it in one step, delivers the old value in T, sign-extended or for AMINU and AMAXU zero-extended, and sets
EFF; ORD 2 and 3 release first and leave the counts that their scope covers at zero. ACAS, ACAS2 and NMCAS
write only when the home holds T. AFADD adds in RNE without flush-to-zero. -/
def Sys2Proof.Claims.AtomicResults : Prop :=
  ∀ (s u : State) (m : Bool) (t b r : Reg) (o : BitVec 2) (c : BitVec 4) (tg : Target),
    Ready { eff := true } s [b, r, t] → s.ints [b] → s.noError → Idle s →
    let s' := s.atIssue { eff := true }
    let done (i : Instr) (res : RV) (n : Nat) (new : Option Nat) : Prop :=
      ∃ x, exec i s = .next (x.settle s.focus m) ∧ Swapped s u x t res tg n new ∧
        x.me.acks = if o.getLsbD 1 then waited s.me.acks c else s.me.acks;
    (∀ w : BitVec 1,
      let n := if w = 1#1 then 8 else 4
      let old := held u tg n
      let src := (s.me.read r).val.toNat % 2 ^ (8 * n)
      let sext : RV := .int (BitVec.ofInt 64 ((old : Int).bmod (2 ^ (8 * n))))
      let zext : RV := .int (BitVec.ofNat 64 old);
      sound s tg n → Lands s' u (s.int b) n .atomic tg →
      (s.ints [r] →
        (∀ e ∈ atomics, done (e.1 m t b r o w c) (if e.2.1 then sext else zext) n
          (some (e.2.2 (8 * n) (BitVec.ofNat _ old) (BitVec.ofNat _ src)).toNat)) ∧
        (s.ints [t] → done (.acas m t b r o w c) sext n
          (if old = (s.me.read t).val.toNat % 2 ^ (8 * n) then some src else none))) ∧
      ((∀ pa leaf, tg = .phys pa leaf → pteDet leaf = false) →
        let g : Tag := if w = 1#1 then .f64x2 else .f32x4;
        (s.me.read r).tag = g ∨ (s.me.read r).tag = .raw →
        let f := if w = 1#1 then fp64 else fp32
        done (.afadd m t b r o w c) ⟨BitVec.ofNat 128 old, g⟩ n
          (some (f.add ⟨.rne, false, false⟩ old src).bits))) ∧
    (let old := held u tg 16;
      sound s tg 16 → Lands s' u (s.int b) 16 .atomic tg →
      ((s.me.read r).tag = .name ↔ (s.me.read t).tag = .name) →
      ∀ i ∈ [Instr.acas2 m t b r o c, .nmcas m t b r o c],
        done i ⟨BitVec.ofNat 128 old, if (s.me.read t).tag = .name then .name else .raw⟩ 16
          (if old = (s.me.read t).val.toNat then some (s.me.read r).val.toNat else none))

/-- R250, R89: exactly one NAME among the operands of ACAS2 traps FORMAT. -/
def Sys2Proof.Claims.MixedNames : Prop :=
  ∀ (s : State) (m : Bool) (t b r : Reg) (o : BitVec 2) (c : BitVec 4), s.canTrap →
    Ready { eff := true } s [b, r, t] → s.ints [b] →
    ¬ ((s.me.read r).tag = .name ↔ (s.me.read t).tag = .name) →
    ∃ x, exec (.acas2 m t b r o c) s = .next x ∧ Trapped s.bump x .format s.me.groupStart 0 0 false

/-- R250, R34, R89, R244, R398: the atomics. -/
def Obligations.Atomics : Prop :=
  Claims.AtomicResults ∧ Claims.MixedNames

/-- R251, R252, R243, R244, R236: with no error pending and nothing of the slot under way the fences
complete: FENCE, FENCEW and ACKWAIT leave the counts that their scope covers at zero, EFENCE all of them,
FENCER none; FENCE and FENCER at sector or wider discard the read cache. -/
def Sys2Proof.Claims.FencesComplete : Prop :=
  ∀ (s : State) (m : Bool) (c : BitVec 4), Ready {} s [] → s.noError → Idle s →
    ∀ e ∈ [(Instr.fence m c, waited s.me.acks c, true), (.fencew m c, waited s.me.acks c, false),
        (.ackwait m c, waited s.me.acks c, false), (.fencer m c, s.me.acks, true),
        (.efence m, ⟨0, 0, 0, 0⟩, false)],
      ∃ t, exec e.1 s = .next (t.settle s.focus m) ∧ Retired s t (s.me.pc + 4) ∧ FileKept s t ∧
        LastKept s t ∧ Untouched s t ∧ t.me.acks = e.2.1 ∧
        (e.2.2 = true → scopeWide c = true → t.myCluster.cache = [])

/-- R240, R251: with an error pending each of them but EFENCE raises it instead, with its PEND bit set. -/
def Sys2Proof.Claims.FencesRaise : Prop :=
  ∀ (s : State) (m : Bool) (c : BitVec 4), Ready {} s [] → s.me.err.valid = true → s.canTrap →
    ∀ i ∈ [Instr.fence m c, .fencew m c, .fencer m c, .ackwait m c],
      ∃ t, exec i s = .next t ∧ t.me.trapCause = (Cause.ofCode s.me.err.cause).code ∧
        t.me.trapAddr = s.me.err.addr ∧ t.me.trapInfo = s.me.err.info ∧ t.me.trapPend = true ∧
        t.me.inTrap = true ∧ t.me.pc = wordAddr s.me.trapVec ∧
        (Idle s → t.me.err.valid = false)

/-- R252, R240: EFENCE raises an error that stands pending when every earlier access has been answered. -/
def Sys2Proof.Claims.EfenceRaises : Prop :=
  ∀ (s : State) (m : Bool), Ready {} s [] → s.canTrap → s.me.err.valid = true → Idle s →
    ∃ t, exec (.efence m) s = .next t ∧ t.me.trapCause = (Cause.ofCode s.me.err.cause).code ∧
      t.me.trapAddr = s.me.err.addr ∧ t.me.trapPend = true ∧ t.me.err.valid = false

/-- R236, R240, R243, R244, R251, R252: the fences. -/
def Obligations.Fences : Prop :=
  Claims.FencesComplete ∧ Claims.FencesRaise ∧ Claims.EfenceRaises

/-! ## Full-empty words (R241, R242, R249) -/

/-- The words of the access are all full; all empty. -/
def Sys2Proof.allFull (u : State) (ws : List Nat) : Prop := ∀ w ∈ ws, w ∈ u.full
def Sys2Proof.allEmpty (u : State) (ws : List Nat) : Prop := ∀ w ∈ ws, w ∉ u.full

/-- R241, R249, R398, R244: with nothing of the slot under way, each full-empty form, when its condition
holds and no waiter stands at the home, is performed at once: what it reads, what it writes, and the
state it leaves the words in; LDFE .rawfe also brings the words' state to l0. -/
def Sys2Proof.Claims.FullEmptyDone : Prop :=
  ∀ (s u : State) (m : Bool) (t b : Reg) (z : BitVec 3) (c : BitVec 4) (pa : Nat) (leaf : Word),
    z = 3#3 ∨ z = 4#3 → s.ints [b] → s.noError → Idle s → (s.die (s.homeOf pa)).retry = [] →
    let quad := z = 4#3
    let n := if quad then 16 else 8
    let ws := if quad then [pa / 8, pa / 8 + 1] else [pa / 8]
    let tg : Target := .phys pa leaf;
    s.poisoned pa n = false →
    (∀ e ∈ [(Instr.ldfeRff m t b z c, ({} : Takes)), (.ldfeRfe m t b z c, { eff := true }),
        (.ldfeRawfe m t b z c, {})],
      Ready e.2 s [b, t] → Lands (s.atIssue e.2) u (s.int b) n .feLoad tg →
      (e.1 = .ldfeRawfe m t b z c ∨ allFull s ws) →
      ∃ x, exec e.1 s = .next (x.settle s.focus m) ∧
        Holds s x t ⟨BitVec.ofNat 128 (held u tg n), if quad then .raw else .i64⟩ ∧
        Retired s x (s.me.pc + 4) ∧ (∀ a, x.mem.read a = u.mem.read a) ∧
        (∀ k, k ≠ s.focus → x.slot k = s.slot k) ∧
        (∀ w, w ∈ x.full ↔ w ∈ s.full ∧ ¬ (e.1 = .ldfeRfe m t b z c ∧ w ∈ ws)) ∧
        (scopeWide c = true → x.myCluster.cache = []) ∧
        (e.1 = .ldfeRawfe m t b z c → ∃ o ∈ x.me.outs, o.ready = none ∧
          o.l0 = some (.int (BitVec.ofNat 64 ((if pa / 8 ∈ s.full then 1 else 0)
            + if quad ∧ pa / 8 + 1 ∈ s.full then 2 else 0))))) ∧
    (∀ e ∈ [(Instr.stfeWef m t b z c, true), (.stfeWaf m t b z c, true),
        (.stfeWae m t b z c, false)],
      Ready { eff := true } s [b, t] →
      Lands (s.atIssue { eff := true }) u (s.int b) n .feStore tg →
      (e.1 = .stfeWef m t b z c → allEmpty s ws) →
      ∃ x, exec e.1 s = .next (x.settle s.focus m) ∧ FileKept s x ∧ Retired s x (s.me.pc + 4) ∧
        Stored u x tg n (s.me.read t).val.toNat ∧ x.me.acks = waited s.me.acks c ∧
        (∀ w, w ∈ x.full ↔ (w ∈ ws ∧ e.2 = true) ∨ (w ∉ ws ∧ w ∈ s.full))) ∧
    (Ready { eff := true } s [b, 0#6] →
      Lands (s.atIssue { eff := true }) u (s.int b) n .feStore tg →
      ∃ x, exec (.stfeSete m b z c) s = .next (x.settle s.focus m) ∧ FileKept s x ∧
        Retired s x (s.me.pc + 4) ∧ (∀ a, x.mem.read a = u.mem.read a) ∧
        x.me.acks = waited s.me.acks c ∧ ∀ w, w ∈ x.full ↔ w ∉ ws ∧ w ∈ s.full)

/-- R242: a full-empty form whose condition does not hold parks its slot, with an entry in the retry list
of the home when the list has room, and has no other effect. -/
def Sys2Proof.Claims.FullEmptyParks : Prop :=
  ∀ (s u : State) (m : Bool) (t b : Reg) (z : BitVec 3) (c : BitVec 4) (pa : Nat) (leaf : Word),
    z = 3#3 ∨ z = 4#3 → s.ints [b] → s.noError → Idle s →
    let n := if z = 4#3 then 16 else 8
    let ws := if z = 4#3 then [pa / 8, pa / 8 + 1] else [pa / 8]
    ∀ e ∈ [(Instr.ldfeRff m t b z c, ({} : Takes), AccKind.feLoad),
        (.ldfeRfe m t b z c, { eff := true }, .feLoad), (.stfeWef m t b z c, { eff := true }, .feStore)],
      Ready e.2.1 s [b, t] → Lands (s.atIssue e.2.1) u (s.int b) n e.2.2 (.phys pa leaf) →
      (e.2.2 = .feStore → s.poisoned pa n = false) →
      (e.2.2 = .feLoad → ¬ allFull s ws) → (e.2.2 = .feStore → ¬ allEmpty s ws) →
      ∃ x w, exec e.1 s = .next x ∧ x.me.phase = s.me.phase.withRun .waiting ∧
        x.me.wait = some w ∧ w.loc = pa ∧ w.addr = s.int b ∧ x.me.pc = s.me.pc ∧ FileKept s x ∧
        (w.accepted = true ↔ (s.die (s.homeOf pa)).retry.length < 4096) ∧
        (∀ a, x.mem.read a = u.mem.read a) ∧ x.full = s.full

/-- R241, R242, R244, R249, R398: the full-empty accesses. -/
def Obligations.FullEmptyAccesses : Prop :=
  Claims.FullEmptyDone ∧ Claims.FullEmptyParks

/-! ## Aged memory (R318 to R330) -/

/-- The need of a demand (R322): i - L when i exceeds L, and 0 otherwise. -/
def Sys2Proof.demandNeed (d : Word) : Nat := d.toNat / 2 ^ 32 - d.toNat % 2 ^ 32

/-- The age word of R319: the age in bits 31:0, STALE, STOPPED and TIMEOUT above it. -/
def Sys2Proof.ageWordIs (w : Word) (age : Nat) (stale stopped : Bool) : Prop :=
  w.toNat = age + (if stale then 2 ^ 32 else 0) + (if stopped then 2 ^ 33 else 0)

/-- R322, R323, R319, R327, R244: with nothing of the slot under way, LDAG delivers the block's data and
its age word when the age meets the need, in every mode; below the need PEEK delivers with STALE set, TRAP
traps AGESTALE, and WAIT parks, or traps AGESTOP when the region has no writer registered. That the data keep
all 128 bits under the tag I64 is the model's (DESIGN CHOICE, log 58). -/
def Obligations.AgedLoads : Prop :=
  ∀ (s u : State) (m : Bool) (t b l : Reg) (c : BitVec 4) (pa : Nat) (leaf : Word) (g : Tag),
    Ready { fmt := true } s [b, l, t] → s.ints [b, l] → s.noError → Idle s → fmtTag s = g →
    g ≠ .name → Lands s.bump u (s.int b) 16 .aged (.phys pa leaf) →
    let age := (s.ages.get 0 (pa / 256)).toNat
    let idle := decide ((s.regOf pa).state ≠ .registered)
    let meets := demandNeed (s.int l) ≤ age
    let at_ := u.atHome s.focus pa 16
    let served (i : Instr) (stale : Bool) : Prop := s.poisoned pa 16 = false →
      ∃ x w, exec i s = .next (x.settle s.focus m) ∧ ageWordIs w age stale idle ∧
        Holds s x t ⟨BitVec.ofNat 128 (u.mem.readLE pa 16), g⟩ ∧
        Retired s x (s.me.pc + 4) ∧ Untouched u x ∧ x.me.acks = s.me.acks ∧
        (scopeWide c = true → x.myCluster.cache = []) ∧
        ∃ o ∈ x.me.outs, o.l0 = some (.int w) ∧ o.ready = none
    (meets → served (.ldagWait m t b l c) false ∧ served (.ldagTrap m t b l c) false ∧
      served (.ldagPeek m t b l c) false) ∧
    (¬ meets → served (.ldagPeek m t b l c) true ∧
      (s.canTrap → ∃ x i, exec (.ldagTrap m t b l c) s = .next x ∧ ageWordIs i age true idle ∧
        Trapped at_ x .ageStale s.me.groupStart (s.int b) i false) ∧
      (idle = true → s.canTrap → ∃ x i, exec (.ldagWait m t b l c) s = .next x ∧
        ageWordIs i age true idle ∧ Trapped at_ x .ageStop s.me.groupStart (s.int b) i false) ∧
      (idle = false → ∃ x w, exec (.ldagWait m t b l c) s = .next x ∧
        x.me.phase = s.me.phase.withRun .waiting ∧ x.me.wait = some w ∧ w.loc = pa ∧
        x.me.pc = s.me.pc ∧ FileKept s x ∧ ∀ a, x.mem.read a = u.mem.read a))

/-- R320, R321, R329: AGREG gives the pages of a region to the issuing core as their writer, and AGDONE
ends the registration of every page record of the region, whatever its pages are mapped to; `u`, `p`,
`base` and `size` are what the checks of the operand give, and `pages` what the region's pages translate
to; the clocks of their homes run (R387). -/
def Sys2Proof.Claims.RegionWords : Prop :=
  ∀ (s u : State) (m : Bool) (a : Reg) (p : Place) (base size : Nat) (pages : List (Nat × Nat × Bool)),
    Ready { eff := true } s [] → s.noError →
    regionOperand (s.atIssue { eff := true }) a = .ok (u, p, base, size) →
    u.me = { s.me with eff := true } → u.focus = s.focus → u.image = s.image → Idle u →
    (∀ a, u.homeStands a = false) →
    let me := (mkCoreAddr s.image.pkg (coreOf s.focus) 0).toNat
    let st := u.readPlace p 40 8 % 4;
    (u.regionPages base (size / 65536) = .ok pages → (∀ e ∈ pages, e.2.2 = true) →
      ¬ (st = 1 ∧ u.readPlace p 32 8 ≠ me) → ¬ (st = 2 ∧ s.me.super = false) →
      ∃ x, exec (.agreg m a) s = .next (x.settle s.focus m) ∧ FileKept s x ∧
        Retired s x (s.me.pc + 4) ∧
        ∀ q, (q ∉ pages.map (·.1) → x.regOf (65536 * q) = u.regOf (65536 * q)) ∧
          (q ∈ pages.map (·.1) → (x.regOf (65536 * q)).state = .registered ∧
            (x.regOf (65536 * q)).writer = coreOf s.focus ∧
            (x.regOf (65536 * q)).asid = s.me.asid)) ∧
    (st = 1 → u.readPlace p 32 8 = me → u.regs.Pairwise (fun x y => x.1 < y.1) →
      (∀ d ∈ u.dies, d.2.retry = []) →
      ∃ x, exec (.agdone m a) s = .next (x.settle s.focus m) ∧ FileKept s x ∧
        Retired s x (s.me.pc + 4) ∧
        ∀ q r, u.regs.find q = some r → x.regs.find q = some (if r.of s.me.asid base size
          then { r with state := .done } else r))

/-- R330, R319: AGAGE delivers the age word of a block to D alone. -/
def Sys2Proof.Claims.AgeReads : Prop :=
  ∀ (s u : State) (m : Bool) (d a : Reg) (pa : Nat) (leaf : Word), Ready {} s [a, d] →
    s.ints [a] → s.noError → Lands s.bump u (s.int a) 1 .aged (.phys pa leaf) →
    ∃ x w, exec (.agage m d a) s = .next (x.settle s.focus m) ∧
      ageWordIs w (s.ages.get 0 (pa / 256)).toNat false
        (decide ((s.regOf pa).state ≠ .registered)) ∧
      Holds s x d (.int w) ∧ Retired s x (s.me.pc + 4) ∧ LastKept s x ∧ SlotFrame u x

/-- R319 to R321, R329, R330: the registration of a region and the age of a block. -/
def Obligations.AgedRegistration : Prop :=
  Claims.RegionWords ∧ Claims.AgeReads

/-! ## Names (R69 to R89) -/

/-- R85, R84: NMCLS and NMORG read the class and the origin off a name, and NMEQ compares two names;
an operand without the NAME tag traps FORMAT. -/
def Obligations.NameFields : Prop :=
  ∀ (s : State) (m : Bool) (d a b : Reg), Ready {} s [a, b, d] →
    let x := s.me.read a
    let y := s.me.read b
    (x.tag = .name → y.tag = .name →
      ∀ e ∈ [(Instr.nmcls m d a, BitVec.ofNat 64 (x.val.toNat / 2 ^ 104 % 256)),
        (.nmorg m d a, BitVec.ofNat 64 (x.val.toNat / 2 ^ 112)),
        (.nmeq m d a b, if x.val = y.val then 1 else 0)],
      ∃ t, exec e.1 s = .next (t.settle s.focus m) ∧ Holds s t d (.int e.2) ∧ EntersL0 s t d (.int e.2) 1 ∧
        Retired s t (s.me.pc + 4) ∧ SlotFrame s t) ∧
    (x.tag ≠ .name → s.canTrap → ∀ i ∈ [Instr.nmcls m d a, .nmorg m d a, .nmeq m d a b],
      ∃ t, exec i s = .next t ∧ Trapped s.bump t .format s.me.groupStart 0 0 false)

/-- R84, R72, R75, R398: NMINT draws the next serial, makes a live entry for it at the first free place
of its probe sequence, owned by the issuing core and bound to the descriptor, and delivers the name
with tag NAME. `u`, `loc` and `odd` are what the descriptor operand gives. -/
def Sys2Proof.Claims.Minted : Prop :=
  ∀ (s u : State) (m : Bool) (d a b : Reg) (loc : Word) (odd : Bool) (p : Nat),
    Ready { eff := true } s [a, b, d] → s.ints [a, b] → s.noError → Idle s →
    let c := (s.int a).toNat
    (1 ≤ c ∧ c ≤ 7 ∧ c ≠ 3) ∨ (0x80 ≤ c ∧ c ≤ 0xFF ∧ s.me.super = true) →
    descLoc (s.atIssue { eff := true }) (s.int b) = .ok (u, loc, odd) →
    s.serial.setWidth 64 ≠ BitVec.allOnes 64 →
    let n := s.mkName (BitVec.ofNat 8 c) (s.serial + 1)
    (s.probes n).find? s.freeAt = some p →
    ∃ t, exec (.nmint m d a b) s = .next (t.settle s.focus m) ∧ Holds s t d ⟨n, .name⟩ ∧
      Retired s t (s.me.pc + 4) ∧ t.serial = s.serial + 1 ∧
      t.almanac.find p = some ⟨n, .live, s.ownerOf (coreOf s.focus), loc, 0, [], 0, odd, false⟩ ∧
      (∀ q, q ≠ p → t.almanac.find q = s.almanac.find q) ∧
      (∀ x, t.mem.read x = u.mem.read x) ∧ t.me.eff = true

/-- R84: NMINT refuses the class codes that are reserved, with FORMAT and TRAPINFO = 2, and the
supervisor's classes in user mode, with PROT and TRAPINFO = 2. -/
def Sys2Proof.Claims.NmintRefuses : Prop :=
  ∀ (s : State) (m : Bool) (d a b : Reg), Ready { eff := true } s [a, b, d] → s.ints [a, b] →
    s.canTrap →
    let c := (s.int a).toNat
    (c = 0 ∨ (8 ≤ c ∧ c ≤ 0x7F) ∨ 0xFF < c → ∃ t, exec (.nmint m d a b) s = .next t ∧
      Trapped s.bump t .format s.me.groupStart 0 2 false) ∧
    (0x80 ≤ c ∧ c ≤ 0xFF → s.me.super = false → ∃ t, exec (.nmint m d a b) s = .next t ∧
      Trapped s.bump t .prot s.me.groupStart 0 2 false)

/-- R84, R72, R75, R398: NMINT. -/
def Obligations.NmintIssues : Prop :=
  Claims.Minted ∧ Claims.NmintRefuses

/-- R85, R78: NMRES delivers the class of a live name and 0 for a gone one, and never traps for a gone
name; what the resolution leaves in the Almanac and the caches is `u`. -/
def Sys2Proof.Claims.NmresAnswers : Prop :=
  ∀ (s u : State) (m : Bool) (d a : Reg), Ready {} s [a, d] → (s.me.read a).tag = .name →
    let n := (s.me.read a).val
    (∀ l, s.bump.resolve (coreOf s.focus) n none = (u, .loc l) →
      ∃ t, exec (.nmres m d a) s = .next (t.settle s.focus m) ∧
        Holds s t d (.int (BitVec.ofNat 64 (n.toNat / 2 ^ 104 % 256))) ∧ Retired s t (s.me.pc + 4) ∧
        SlotFrame u t) ∧
    (s.bump.resolve (coreOf s.focus) n none = (u, .gone) →
      ∃ t, exec (.nmres m d a) s = .next (t.settle s.focus m) ∧ Holds s t d (.int 0) ∧
        Retired s t (s.me.pc + 4) ∧ SlotFrame u t)

/-- R86, R36: NMLD loads sixteen bytes with tag NAME, as a relaxed load does, into l0 too; NMST stores the
sixteen bytes of a name, as a relaxed store does. -/
def Sys2Proof.Claims.NmldNmst : Prop :=
  ∀ (s u : State) (m : Bool) (d a b : Reg) (tg : Target), s.ints [a] →
    (Ready {} s [a, d] → target s.bump (s.int a) 16 .load false = .ok (u, tg) →
      ∃ t, exec (.nmld m d a) s = .next (t.settle s.focus m) ∧ Retired s t (s.me.pc + 4) ∧
        SlotFrame u t ∧
        (∀ k o, tg = .scratch k o →
          Holds s t d ⟨BitVec.ofNat 128 ((u.core k).scratch.readLE o 16), .name⟩) ∧
        (∀ pa leaf, tg = .phys pa leaf → FileKept s t ∧ ∃ o ∈ t.me.outs, o.dst = entryOf s d ∧
          o.l0.isSome = true ∧ o.ready = none ∧
          o.load = some ⟨s.int a, pa, leafCached leaf, 16, .quad .name, s.me.asid⟩)) ∧
    (Ready { eff := true } s [a, b] → (s.me.read b).tag = .name →
      target (s.atIssue { eff := true }) (s.int a) 16 .store false = .ok (u, tg) →
      (∀ k o, tg = .scratch k o → ∃ t, exec (.nmst m a b) s = .next (t.settle s.focus m) ∧
        Stored u t tg 16 (s.me.read b).val.toNat ∧ FileKept s t ∧ Retired s t (s.me.pc + 4)) ∧
      (∀ pa leaf, tg = .phys pa leaf → Idle s →
        (leafCached leaf = true →
          u.buffered (clusterOf s.focus) < (u.cluster (clusterOf s.focus)).bufCap) →
        s.me.acks.get (u.ackClass s.focus pa) ≠ BitVec.allOnes 16 →
        ∃ t p, exec (.nmst m a b) s = .next (t.settle s.focus m) ∧ FileKept s t ∧
          Retired s t (s.me.pc + 4) ∧ t.me.stores = [p] ∧ p.loc = pa ∧ p.va = s.int a ∧
          p.bytes.length = 16 ∧
          ∀ j, j < 16 → p.bytes[j]? = some (BitVec.ofNat 8 ((s.me.read b).val.toNat / 256 ^ j))))

/-- R78, R85, R86, R36: NMRES, NMLD and NMST. -/
def Obligations.NameMemory : Prop :=
  Claims.NmresAnswers ∧ Claims.NmldNmst

/-- R81, R82, R87, R88: a live name that no sector holds and no engine uses is retired at once, its
entry free and D zero, by its owner or a supervisor; NMMOVE, a supervisor's, gives the entry of
such a name its new location. That a name of bring-up has left its entry is said there by the null name
(DESIGN CHOICE, log 19). -/
def Obligations.NameRetireAndMove : Prop :=
  ∀ (s u : State) (m : Bool) (d a b : Reg) (p : Nat) (e : Entry) (dst : Word) (odd : Bool),
    (s.me.read a).tag = .name → s.me.nameOp = none →
    let n := (s.me.read a).val
    n ≠ 0 → nameOrigin n = s.origin → s.forgedName n = false → s.entryAt n = some (p, e) →
    e.state = .live → e.presence = 0 → s.inFlight n none = false →
    (Ready { eff := true } s [a, d] → s.me.super = true ∨ e.owner = s.ownerOf (coreOf s.focus) →
      ∃ t, exec (.nmret m d a) s = .next (t.settle s.focus m) ∧ Holds s t d (.int 0) ∧
        Retired s t (s.me.pc + 4) ∧
        t.freeAt p = true ∧ (∀ f : Entry, t.almanac.find p = some f → f.name = 0) ∧
        (∀ q, q ≠ p → t.almanac.find q = s.almanac.find q) ∧ ∀ x, t.mem.read x = s.mem.read x) ∧
    (Ready { super := true, eff := true } s [a, b] → s.ints [b] →
      descLoc (s.atIssue { super := true, eff := true }) (s.int b) = .ok (u, dst, odd) →
      u.almanac = s.almanac → u.image = s.image → u.serial = s.serial → u.epoch = s.epoch →
      u.inFlight n none = false →
      ∃ t, exec (.nmmove m a b) s = .next (t.settle s.focus m) ∧ FileKept s t ∧
        Retired s t (s.me.pc + 4) ∧
        t.almanac.find p = some { e with state := .live, loc := dst, odd := odd, presence := 0,
                                         awaiting := [], newLoc := 0, newOdd := false } ∧
        ∀ q, q ≠ p → t.almanac.find q = s.almanac.find q)

/-! ## Records and queues (R51 to R67, R93 to R98) -/

/-- The operand of R61: a name, or a word. -/
def Sys2Proof.nameOr (s : State) (r : Reg) : NameOr :=
  if (s.me.read r).tag = .name then .name (s.me.read r).val else .word (s.int r)

/-- The operand carries NAME, I64 or RAW (R61). -/
def Sys2Proof.nameOrInt (s : State) (r : Reg) : Prop :=
  (s.me.read r).tag = .name ∨ (s.me.read r).tag = .i64 ∨ (s.me.read r).tag = .raw

/-- The queue at index `q` of cluster `cl` has taken the record last, with the sender's envelope
(R53, R98); no other queue of the cluster has changed, and no byte of memory but those where its extension
keeps a record that the pool has no room for (R95). -/
structure Sys2Proof.Accepted (u t : State) (cl q : Nat) (r : BitVec 256) (env : Envelope) : Prop where
  last : ∃ e : QRec, e.body = r ∧ e.env = env ∧
    ((t.cluster cl).queue q).pool ++ ((t.cluster cl).queue q).ext
      = ((u.cluster cl).queue q).pool ++ ((u.cluster cl).queue q).ext ++ [e]
  others : ∀ j, j ≠ q → (t.cluster cl).queue j = (u.cluster cl).queue j
  mem : let x := (u.cluster cl).queue q
    ∀ a, a < x.extAt x.ext.length ∨ x.extAt x.ext.length + 32 ≤ a → t.mem.read a = u.mem.read a

/-- R61 to R64, R57, R53, R98, R398: with nothing of the slot under way, SPAWN, SEND, SPAWNQ and SENDSEQ
read the record and push it with STATUS zero and the sender's envelope onto the queue; SPAWNQ then
delivers 0. A refusal with status 1 or 3 traps QUEUEFULL in SPAWN, SEND and SENDSEQ, one with status 2, as where
the operand leads to no queue, NAMEGONE, each with the status as TRAPINFO; the status is SPAWNQ's result; nothing
is sent. `u` and `r` are the record operand's, `w`, `cl` and `q` the queue operand's, whose die runs (R387). -/
def Sys2Proof.Claims.SendWords : Prop :=
  ∀ (s u w : State) (m : Bool) (d a b : Reg) (r : BitVec 256) (cl q : Nat), s.ints [b] →
    nameOrInt s a → recordOperand (s.atIssue { eff := true }) (s.int b) = .ok (u, r) →
    w.noError → Idle w → w.me.file = s.me.file → w.stands (cl / 512) = false →
    let env := w.sendEnv s.focus
    let sent (i : Instr) (t : State) (r : BitVec 256) : Prop :=
      exec i s = .next (t.settle s.focus m) ∧ Accepted w t cl q r env ∧
      Retired s t (s.me.pc + 4) ∧ t.me.eff = true
    let x := (w.cluster cl).queue q
    let refused (i : Instr) (n : Nat) : Prop := ∃ t, exec i s = .next t ∧
      t.me.trapCause = (if n = 2 then Cause.nameGone else Cause.queueFull).code ∧
      t.me.trapInfo = BitVec.ofNat 64 n ∧ t.me.inTrap = true ∧ (t.cluster cl).queue q = x
    ((u.queueOperand (nameOr s a) false (recPri r) = (w, .at cl q) →
      (∀ z, w.push cl q r env = .ok z →
        (Ready { eff := true } s [a, b] → ∃ t, sent (.spawn m a b) t r ∧ FileKept s t) ∧
        (Ready { eff := true } s [a, b, d] →
          ∃ t, sent (.spawnq m d a b) t r ∧ Holds s t d (.int 0))) ∧
      (∀ z, x.kind = .stage → (s.me.read a).tag = .name →
        w.push cl q (recWithSeq r x.nextSeq) env = .ok z →
        Ready { eff := true } s [a, b, d] → ∃ t,
          sent (.sendseq m d a b) t (recWithSeq r x.nextSeq) ∧
          Holds s t d (.int (x.nextSeq.setWidth 64)) ∧
          ((t.cluster cl).queue q).nextSeq = x.nextSeq + 1) ∧
      (∀ n, w.push cl q r env = .error n →
        (Ready { eff := true } s [a, b, d] → ∃ t,
          exec (.spawnq m d a b) s = .next (t.settle s.focus m) ∧
          Holds s t d (.int (BitVec.ofNat 64 n)) ∧ (t.cluster cl).queue q = x ∧
          Retired s t (s.me.pc + 4)) ∧
        (Ready { eff := true } s [a, b] → s.canTrap → refused (.spawn m a b) n)) ∧
      (∀ n, x.kind = .stage → (s.me.read a).tag = .name →
        w.push cl q (recWithSeq r x.nextSeq) env = .error n →
        Ready { eff := true } s [a, b, d] → s.canTrap → refused (.sendseq m d a b) n) ∧
      (x.kind ≠ .stage → (s.me.read a).tag = .name → Ready { eff := true } s [a, b, d] → s.canTrap →
        refused (.sendseq m d a b) 2)) ∧
    (u.queueOperand (nameOr s a) true (recPri r) = (w, .at cl q) →
      (∀ z, w.push cl q r env = .ok z →
        Ready { eff := true } s [a, b] → ∃ t, sent (.send m a b) t r ∧ FileKept s t) ∧
      (∀ n, w.push cl q r env = .error n →
        Ready { eff := true } s [a, b] → s.canTrap → refused (.send m a b) n)) ∧
    (u.queueOperand (nameOr s a) false (recPri r) = (w, .none) →
      (Ready { eff := true } s [a, b, d] → ∃ t,
        exec (.spawnq m d a b) s = .next (t.settle s.focus m) ∧ Holds s t d (.int 2) ∧
        (t.cluster cl).queue q = x ∧ Retired s t (s.me.pc + 4)) ∧
      (Ready { eff := true } s [a, b] → s.canTrap → refused (.spawn m a b) 2)) ∧
    (u.queueOperand (nameOr s a) true (recPri r) = (w, .none) →
      Ready { eff := true } s [a, b] → s.canTrap → refused (.send m a b) 2))

/-- R52: a record whose ENTRY is no multiple of 4 traps MISALIGN, and one with a reserved bit of
word 0 set FORMAT, each with TRAPINFO = 1. -/
def Sys2Proof.Claims.RecordChecks : Prop :=
  ∀ r : BitVec 256,
    (r.toNat % 4 ≠ 0 → checkRecord r = .error (.trap .misalign 0 1 false)) ∧
    (r.toNat % 4 = 0 → r.toNat / 2 ^ 54 % 64 ≠ 0 →
      checkRecord r = .error (.trap .format 0 1 false)) ∧
    (r.toNat % 4 = 0 → r.toNat / 2 ^ 54 % 64 = 0 → checkRecord r = .ok ())

/-- R52, R53, R57, R61 to R64, R98, R398: the words that send a record. -/
def Obligations.Sends : Prop :=
  Claims.SendWords ∧ Claims.RecordChecks

/-- COUNT and STATUS of the join cell at offset `o` of a scratchpad (R58). -/
def Sys2Proof.cellCount (s : State) (k o : Nat) : Word :=
  BitVec.ofNat 64 ((s.core k).scratch.readLE (o + 48) 8)
def Sys2Proof.cellStatus (s : State) (k o : Nat) : Word :=
  BitVec.ofNat 64 ((s.core k).scratch.readLE (o + 56) 8)

/-- R58, R60, R65: on a cell in the own scratchpad, JDEC takes its amount, or 1 for z, off COUNT; a
count driven below zero sets STATUS bit 15; JINIT sets COUNT and clears STATUS; a cell that does not
come to zero releases nothing, and every byte of the scratchpad outside the two words is as
before. That a COUNT which leaves the signed 64-bit numbers wraps, and its bit 15 follows the wrapped value, is the
model's (DESIGN CHOICE, log 62). -/
def Sys2Proof.Claims.CellWords : Prop :=
  ∀ (s : State) (m : Bool) (a b : Reg), Ready { eff := true } s [a, b] → s.ints [a, b] →
    s.noError → Idle s →
    let k := coreOf s.focus
    let o := (s.int a).toNat
    k < 65536 → o < 0x8000 → o % 64 = 0 → s.myCore.fenced = false → s.myCore.contained = false →
    s.stands (coreDie k) = false →
    let kept (t : State) : Prop := FileKept s t ∧ Retired s t (s.me.pc + 4) ∧
      (∀ x, t.mem.read x = s.mem.read x) ∧
      ∀ x, x < o + 48 ∨ o + 64 ≤ x → (t.core k).scratch.read x = (s.core k).scratch.read x
    (let amount := if b = 0#6 then 1 else s.int b
      let left := cellCount s k o - amount
      (cellStatus s k o).getLsbD 15 = false → left ≠ 0 →
      ∃ t, exec (.jdec m a b) s = .next (t.settle s.focus m) ∧ kept t ∧ cellCount t k o = left ∧
        cellStatus t k o = if left.toInt < 0 then cellStatus s k o ||| 0x8000
          else cellStatus s k o) ∧
    (s.int b ≠ 0 → (s.core k).scratch.readLE o 8 % 4 = 0 →
      (s.core k).scratch.readLE o 8 / 2 ^ 54 % 64 = 0 →
      ∃ t, exec (.jinit m a b) s = .next (t.settle s.focus m) ∧ kept t ∧ cellCount t k o = s.int b ∧
        cellStatus t k o = if (s.int b).toInt < 0 then 0x8000 else 0)

/-- R60: a decrement that brings COUNT from above zero to zero pushes the cell's record, with the
cell's STATUS in it, onto the queue that its QUEUE names. Where that queue lies in another cluster, what the
decrements have released is performed first (R57; DEDUCED, log 71); from which sector the name is resolved is the
model's (DESIGN CHOICE, log 72). -/
def Sys2Proof.Claims.JoinReleases : Prop :=
  ∀ (s v : State) (l d : Word) (env : Envelope) (cl q : Nat),
    (BitVec.ofNat 64 (s.readLoc (l + 56) 8)).getLsbD 15 = false →
    BitVec.ofNat 64 (s.readLoc (l + 48) 8) = d → 0 < d.toInt →
    let w := (s.writeLoc (l + 48) 8 0).writeLoc (l + 56) 8
      (BitVec.ofNat 64 (s.readLoc (l + 56) 8)).toNat
    w.queueOf (match locCore l with | some a => a.core | none => noSector)
      (BitVec.ofNat 128 (w.readLoc (l + 32) 16)) = (v, .at cl q) →
    let r := recWithStatus (BitVec.ofNat 256 (w.readLoc l 32))
      (BitVec.ofNat 16 (w.readLoc (l + 56) 2))
    let x := v.spread l (.at cl q)
    ∀ z, x.push cl q r env = .ok z → Accepted x (s.joinDec l d 0 env) cl q r env

/-- R58, R60, R65: the join cell. -/
def Obligations.JoinCells : Prop :=
  Claims.CellWords ∧ Claims.JoinReleases

/-- R66: QLEN delivers how many records a queue holds. -/
def Sys2Proof.Claims.QlenCounts : Prop :=
  ∀ (s : State) (m : Bool) (d a : Reg) (cl q : Nat), Ready {} s [a, d] → s.ints [a] →
    s.int a ≠ 0xFF → localQueue (clusterOf s.focus) (s.int a) 0 = .at cl q → s.stands (cl / 512) = false →
    let x := (s.cluster cl).queue q
    let v : RV := .int (BitVec.ofNat 64 (x.pool.length + x.ext.length))
    ∃ t, exec (.qlen m d a) s = .next (t.settle s.focus m) ∧ Holds s t d v ∧ Retired s t (s.me.pc + 4) ∧
      SlotFrame s t

/-- R67, R103: HANDOVER passes a region this core holds to another core of the package, after every store
that its slots have issued has been performed: the region leaves this core's table and joins the
other's. To its own core it changes nothing. That a core address of any OFFSET names the core is the model's
(DEDUCED, log 22). -/
def Sys2Proof.Claims.HandoverPasses : Prop :=
  ∀ (s u : State) (m : Bool) (a b : Reg) (l : Word) (g : CoreAddr),
    Ready { eff := true } s [a, b] → s.ints [b] → (s.me.read a).tag = .name →
    let n := (s.me.read a).val
    let k := coreOf s.focus
    useName (s.atIssue { eff := true }) n clsRegion = .ok (u, .at l) → u.regionPlain l = true →
    u.readLoc (l + 24) 8 = (mkCoreAddr u.image.pkg k 0).toNat → u.focus = s.focus →
    coreAddr (s.int b) = some g → g.pkg = u.image.pkg → u.locStands l = false →
    u.stands (coreDie g.core) = false →
    let v := u.coreStores k
    (g.core ≠ k → (v.core g.core).fenced = false → (v.core g.core).contained = false →
      (v.core g.core).det.length < 8 →
      ∃ t, exec (.handover m a b) s = .next (t.settle s.focus m) ∧ FileKept u t ∧
        Retired u t (u.me.pc + 4) ∧
        (t.core k).det = (v.core k).det.filter (fun r => r.name != n) ∧
        (∃ r, r.name = n ∧ (t.core g.core).det = (v.core g.core).det ++ [r])) ∧
    (g.core = k → ∃ t, exec (.handover m a b) s = .next (t.settle s.focus m) ∧ FileKept u t ∧
      Retired u t (u.me.pc + 4) ∧ SlotFrame u t)

/-- R66, R67, R103: QLEN and HANDOVER. -/
def Obligations.QlenAndHandover : Prop :=
  Claims.QlenCounts ∧ Claims.HandoverPasses

/-- R68, R370, R240, R403: with no error pending and no access under way, END waits for every result and
the slot is then idle, or HELD when it was draining; its units are free. ENDJ also takes 1 off its cell
and ENDS pushes its record before that: `v` is the state in which either has done so. -/
def Obligations.Ends : Prop :=
  ∀ (s v : State) (m : Bool) (a b : Reg) (r : BitVec 256),
    let u := ((s.atIssue {}).drain s.focus).answered s.focus
    s.noError → Idle s → s.me.nameOp = none → s.me.sending = [] →
    let ended (w t : State) : Prop := t.me.phase = w.me.phase.ended ∧ t.me.outs = [] ∧
      t.me.hints = .empty ∧ t.me.heart = 0 ∧ (∀ x, t.mem.read x = w.mem.read x) ∧
      (∀ c, c ≠ s.focus → t.slot c = w.slot c) ∧
      (∀ i, (h : i < 8) → ¬ ((t.core (coreOf s.focus)).units[i].owner = BitVec.ofNat 2 s.focus ∧
        (t.core (coreOf s.focus)).units[i].state ≠ .free))
    (Ready {} s [] → ∃ t, exec (.endAct m) s = .next t ∧ ended u t) ∧
    (Ready {} s [39#6] → s.ints [39#6] → s.int 39#6 = 0 →
      ∃ t, exec (.ret m) s = .next t ∧ ended u t) ∧
    (Ready {} s [a] → nameOrInt s a → decrementBy u (nameOr s a) 1 true = .ok v →
      v.focus = s.focus → v.me.nameOp = none → ∃ t, exec (.endj m a) s = .next t ∧ ended v t) ∧
    (Ready {} s [a, b] → nameOrInt s a → s.ints [b] →
      sendPlain u (nameOr s a) (s.int b) false false = .ok (v, r) → v.focus = s.focus →
      v.me.nameOp = none → ∃ t, exec (.ends m a b) s = .next t ∧ ended v t)

/-! ## The service and slots (R144, R370 to R379) -/

/-- R144: SCALL, on an aligned block and with room in the request queue,
posts the block with the caller's slot, address space and launch; a full queue traps QUEUEFULL with
TRAPINFO = 8. -/
def Obligations.ScallPosts : Prop :=
  ∀ (s u : State) (m : Bool) (a : Reg) (tg : Target), Ready { eff := true } s [a] → s.ints [a] →
    s.noError → Idle s → (s.int a).toNat % 64 = 0 →
    target (s.atIssue { eff := true }) (s.int a) 64 .load false = .ok (u, tg) →
    (u.scalls.length < u.scallCap → ∃ t, exec (.scall m a) s = .next (t.settle s.focus m) ∧ FileKept s t ∧
      Retired s t (s.me.pc + 4) ∧ ∃ c : Scall, t.scalls = u.scalls ++ [c] ∧ c.slot = s.focus ∧
        c.asid = s.me.asid ∧ c.root = s.me.root ∧ c.super = s.me.super ∧
        c.launch = s.me.env.launch ∧ c.block = u.targetLoc tg) ∧
    (u.scallCap ≤ u.scalls.length → s.canTrap → ∃ t, exec (.scall m a) s = .next t ∧
      t.me.trapCause = Cause.queueFull.code ∧ t.me.trapInfo = 8 ∧ t.me.inTrap = true ∧
      t.scalls = u.scalls)

/-- R372: a selector with FORM other than 0b10, a reserved bit, an empty MASK, ACTION or NOWAIT out of
place, or the issuing slot, traps FORMAT with TRAPINFO = 34; one of another package or of no compute
cluster traps PROT with TRAPINFO = 36. Here for PARK and KILL, which take neither field. -/
def Sys2Proof.Claims.SelectorRefusals : Prop :=
  ∀ (s : State) (m : Bool) (a : Reg), Ready { super := true } s [a] → s.ints [a] → s.canTrap →
    let v := (s.int a).toNat
    let own := v / 2 ^ 52 % 2 ^ 10 = s.image.pkg.toNat
    let bad := v / 2 ^ 62 ≠ 2 ∨ v / 2 ^ 15 % 2 ^ 21 ≠ 0 ∨ v / 16 % 2 ^ 11 ≠ 0 ∨ v % 16 = 0 ∨
      (own ∧ s.focus / 4 = v / 2 ^ 36 % 2 ^ 16 ∧ v / 2 ^ (s.focus % 4) % 2 = 1)
    ∀ i ∈ [Instr.park m a, .kill m a],
      (bad → ∃ t, exec i s = .next t ∧ Trapped s.bump t .format s.me.groupStart 0 34 false) ∧
      (¬ bad → ¬ own ∨ 448 ≤ v / 2 ^ 40 % 2 ^ 9 → ∃ t, exec i s = .next t ∧
        Trapped s.bump t .prot s.me.groupStart 0 36 false)

/-- The slots that a selector value names (R372). -/
def Sys2Proof.selected (v : Nat) : List Nat :=
  ((List.range 4).filter fun i => v / 2 ^ i % 2 = 1).map fun i => 4 * (v / 2 ^ 36 % 2 ^ 16) + i

/-- A selector value that R372 lets through, with the slots it names. -/
structure Sys2Proof.Selects (s : State) (v : Nat) (action nowait : Bool) : Prop where
  form : v / 2 ^ 62 = 2
  reserved : v / 2 ^ 15 % 2 ^ 21 = 0 ∧ v / 2 ^ 8 % 2 ^ 7 = 0
  some : v % 16 ≠ 0
  action : v / 16 % 8 ≤ if action then 1 else 0
  nowait : nowait = false → v / 2 ^ 7 % 2 = 0
  own : v / 2 ^ 52 % 2 ^ 10 = s.image.pkg.toNat
  compute : v / 2 ^ 40 % 2 ^ 9 < 448
  other : s.focus ∉ selected v
  alone : ∀ c ∈ selected v, (s.slot c).opBy = none

/-- R373, R374, R375, R379, R370, R372: the words complete on the slots that they select. PARK stops every
running one and leaves others, but for waiting ones, as they are; RESUME lets stopped and faulted ones run
and empties HELD ones without context; PREEMPT turns idle ones HELD and, with NOWAIT, saves the active ones
at once; KILL frees idle ones and HELD ones without context. -/
def Sys2Proof.Claims.SlotWordsComplete : Prop :=
  ∀ (s : State) (m : Bool) (a : Reg), Ready { super := true } s [a] → s.ints [a] →
    s.me.nameOp ≠ some .slots →
    let v := (s.int a).toNat
    let ph (c : Nat) : Phase := (s.slot c).phase
    let done (i : Instr) (after : Nat → Phase) : Prop := ∃ t, exec i s = .next (t.settle s.focus m) ∧
      FileKept s t ∧ Retired s t (s.me.pc + 4) ∧ ∀ c ∈ selected v, (t.slot c).phase = after c
    (Selects s v false false → (∀ c ∈ selected v, ph c ≠ .active .waiting) →
      done (.park m a) fun c => if ph c = .active .running then .active .stopped else ph c) ∧
    (Selects s v true false → v / 16 % 8 = 0 →
      (∀ c ∈ selected v, ph c ∈ [.active .stopped, .active .faulted, .held false]) →
      done (.resume m a) fun c => if ph c = .held false then .idle else .active .running) ∧
    (Selects s v false true →
      (∀ c ∈ selected v, ph c ∈ [.idle, .held false, .held true] ∨
        ((∃ p, ph c = .active p) ∧ v / 2 ^ 7 % 2 = 1 ∧ (s.slot c).nameOp = none ∧
          (s.slot c).sending = [])) →
      done (.preempt m a) fun c => if ph c = .idle then .held false
        else if ph c = .held false then .held false else .held true) ∧
    (Selects s v false false →
      (∀ c ∈ selected v, ph c ∈ [.idle, .held false] ∧ (s.slot c).heldErr = none) →
      done (.kill m a) fun _ => .idle)

/-- R372 to R375, R379, R370, R98: on one slot: PARK waits for the end of a wait at a home; RESUME refuses
a slot that is idle or runs; PREEMPT without NOWAIT gives an active one its drain window; KILL aborts a
stopped one, whose record, of two entries, the error queue takes. -/
def Sys2Proof.Claims.SlotWords : Prop :=
  ∀ (s : State) (m : Bool) (a : Reg) (c : Nat), Ready { super := true } s [a] → s.ints [a] →
    s.me.nameOp ≠ some .slots →
    let v := (s.int a).toNat
    selected v = [c] →
    (Selects s v false false → (s.slot c).phase = .active .waiting →
      ∃ t, exec (.park m a) s = .next t ∧ t.me.pc = s.me.pc ∧ t.me.nameOp = some .slots ∧
        (t.slot c).parkNext = true ∧ (t.slot c).opBy = some s.focus ∧ FileKept s t ∧
        ∀ x, t.mem.read x = s.mem.read x) ∧
    (Selects s v true false → (s.slot c).phase ∈ [.idle, .active .running] → s.canTrap →
      ∃ t, exec (.resume m a) s = .next t ∧
        Trapped s.bump t .slotState s.me.groupStart 0 (BitVec.ofNat 64 (8 + c % 4)) false) ∧
    (∀ p, Selects s v false true → (s.slot c).phase = .active p → v / 2 ^ 7 % 2 = 0 →
      0 < s.image.preWin → ∃ t, exec (.preempt m a) s = .next t ∧ (t.slot c).phase = .draining p ∧
        (t.slot c).drainAt = some (s.nominal c + s.image.preWin) ∧ t.me.pc = s.me.pc ∧
        FileKept s t ∧ ∀ x, t.mem.read x = s.mem.read x) ∧
    (let k := serviceCluster (dieOf c)
      let q := (s.cluster k).queue errIndex
      Selects s v false false → (s.slot c).phase = .active .stopped → (s.slot c).heldErr = none →
      q.attached = true → q.kind ≠ .stage → q.sealed_ = false → q.ext = [] →
      (s.cluster k).poolRoom (s.die (dieOf c)).dcyc errIndex 2 = true →
      ∃ t, exec (.kill m a) s = .next (t.settle s.focus m) ∧ (t.slot c).phase = .idle ∧
        FileKept s t ∧ Retired s t (s.me.pc + 4) ∧
        ∃ x r, ((t.cluster k).queue errIndex).pool = q.pool ++ [x] ∧ x.err = some (.slot r) ∧
          r.extractLsb' 0 256 = (s.slot c).record ∧ r.extractLsb' 265 3 = 3#3)

/-- R370, R372 to R375, R379: the words that act on other slots. -/
def Obligations.SlotCommands : Prop :=
  Claims.SelectorRefusals ∧ Claims.SlotWordsComplete ∧ Claims.SlotWords

/-- R363, R364: TLBI on all addresses and every address space empties every TLB and drops every
retained line, once no access waits at a home. -/
def Sys2Proof.Claims.TlbiAll : Prop :=
  ∀ (s : State) (m : Bool) (a b : Reg), Ready { super := true } s [a, b] → s.ints [a, b] →
    s.noError → Idle s → s.int b = 0x30000 → (∀ e ∈ s.slots, e.2.wait = none) →
    (∀ e ∈ s.cores, ∀ c ∈ e.2.queue, c.await = none) →
    ∃ t, exec (.tlbi m a b) s = .next (t.settle s.focus m) ∧ FileKept s t ∧ Retired s t (s.me.pc + 4) ∧
      (∀ k, (t.core k).dtlb = [] ∧ (t.core k).itlb = [] ∧ (t.core k).buffer = []) ∧
      ∀ k, (t.cluster k).tlb = [] ∧ (t.cluster k).lines = []

/-- R388, R386: FREQ begins a relock of the die that its operand names, toward a frequency that is a
multiple of 100 MHz from 600 to 1,800: the die finishes its cycle and stands for 1,500 ns within 20; the word holds
until the relock has ended, and then retires. At the frequency that the die already has it retires at once. While
another step is in progress or waits, its step waits behind it. Any other operand traps FORMAT with
TRAPINFO = 38. -/
def Sys2Proof.Claims.FreqSteps : Prop :=
  ∀ (s : State) (m : Bool) (a : Reg), Ready { super := true, eff := true } s [a] → s.ints [a] →
    let v := (s.int a).toNat
    let f := v % 2 ^ 16
    let d := v / 2 ^ 16 % 8
    let good := v < 2 ^ 19 ∧ 600 ≤ f ∧ f ≤ 1800 ∧ f % 100 = 0;
    let y := s.die d
    let begins (t : State) : Prop := exec (.freq m a) s = .next t ∧ FileKept s t ∧ t.me.pc = s.me.pc ∧
      t.me.nameOp = some .freq ∧ (t.die d).mhz = y.mhz ∧ ∀ x, t.mem.read x = s.mem.read x
    (good → ((if s.me.nameOp = some .freq then y.owesStep s.focus = false
          else y.stepWaits = false ∧ y.mhz.toNat = f) →
        ∃ t, exec (.freq m a) s = .next (t.settle s.focus m) ∧
        FileKept s t ∧ Retired s t (s.me.pc + 4) ∧ t.me.nameOp = none ∧ t.die d = y ∧
        ∀ x, t.mem.read x = s.mem.read x) ∧
      (s.me.nameOp ≠ some .freq → y.stepWaits = false → y.mhz.toNat ≠ f → ∃ t r, begins t ∧
        (t.die d).relock = some r ∧ r.old = y.mhz ∧ r.new.toNat = f ∧ r.asked = s.sidereal ∧
        r.by_ = some s.focus ∧ 1480 ≤ r.len ∧ r.len ≤ 1520 ∧ r.left = y.rest + r.len * timeUnit ∧
        (t.die d).frac = 0) ∧
      (s.me.nameOp ≠ some .freq → y.stepWaits = true →
        (∀ r, y.relock = some r → r.yields s.focus s.sidereal = false) → ∃ t, begins t ∧
        (t.die d).relock = y.relock ∧ ⟨some s.focus, BitVec.ofNat 16 f, s.sidereal⟩ ∈ (t.die d).waitingSteps)) ∧
    (¬ good → s.canTrap → ∃ t, exec (.freq m a) s = .next t ∧
      Trapped s.bump t .format s.me.groupStart 0 38 false)

/-- R363, R364, R386, R388: TLBI and FREQ. -/
def Obligations.TlbiAndFreq : Prop := Claims.TlbiAll ∧ Claims.FreqSteps

/-! ## The values of floating-point codes and their one rounding (R145 to R150) -/

/-- What a code stands for (R145): NaN, an infinity, or a number under the sign of its code. `bad` stands
for the outcome of an invalid product (R149). -/
inductive Sys2Proof.Val where
  | bad
  | nan (signalling : Bool)
  | inf (neg : Bool)
  | num (neg : Bool) (x : ℚ)

/-- Minus one under a sign. -/
def Sys2Proof.signed (neg : Bool) : ℚ := if neg then -1 else 1

/-- R145, R146: the value of a code by its exponent field e and mantissa field m of width M: plus or minus
2^(e - bias) x (1 + m / 2^M), and 2^(1 - bias) x m / 2^M where e is 0, which FTZ reads as zero (R150). -/
def Sys2Proof.valOf (f : Fmt) (ftz : Bool) (b : Nat) : Val :=
  let neg := decide (b / 2 ^ (f.w - 1) % 2 = 1)
  let top := 2 ^ (f.w - 1 - f.m) - 1
  let e := b / 2 ^ f.m % 2 ^ (f.w - 1 - f.m)
  let m := b % 2 ^ f.m
  if f.special = .ieee ∧ e = top then
    if m = 0 then .inf neg else .nan (decide (m < 2 ^ (f.m - 1)))
  else if f.special = .top ∧ e = top ∧ m = 2 ^ f.m - 1 then .nan false
  else if e = 0 then
    .num neg (if ftz && f.ftz then 0 else signed neg * (2 : ℚ) ^ (1 - (f.bias : ℤ)) * (m / 2 ^ f.m))
  else .num neg (signed neg * (2 : ℚ) ^ ((e : ℤ) - f.bias) * (1 + m / 2 ^ f.m))

def Sys2Proof.Val.isBad : Val → Bool | .bad => true | _ => false
def Sys2Proof.Val.isNan : Val → Bool | .nan _ => true | _ => false
def Sys2Proof.Val.snan : Val → Bool | .nan s => s | _ => false
def Sys2Proof.Val.isInf (neg : Bool) : Val → Bool | .inf n => n == neg | _ => false
def Sys2Proof.Val.neg : Val → Bool | .inf n => n | .num n _ => n | _ => false
def Sys2Proof.Val.number : Val → ℚ | .num _ x => x | _ => 0

/-- An exact product, its sign the exclusive or of the signs (R147); infinity times zero is invalid. -/
def Sys2Proof.Val.times : Val → Val → Val
  | .nan a, .nan b => .nan (a || b)
  | .nan a, _ => .nan a
  | _, .nan b => .nan b
  | .inf a, .inf b => .inf (a != b)
  | .inf a, .num b x => if x = 0 then .bad else .inf (a != b)
  | .num a x, .inf b => if x = 0 then .bad else .inf (a != b)
  | .num a x, .num b y => .num (a != b) (x * y)
  | _, _ => .bad

/-- The value with the other sign. -/
def Sys2Proof.Val.minus : Val → Val
  | .inf n => .inf (!n)
  | .num n x => .num (!n) (-x)
  | v => v

/-- The canonical NaN (R146): exponent all ones and the mantissa's top bit; 0x7F in E4M3. -/
def Sys2Proof.canonNan (f : Fmt) : Nat :=
  if f.special = .top then 0x7F else 2 ^ (f.w - 1) - 2 ^ (f.m - 1)
/-- The sign bit of a code. -/
def Sys2Proof.signBit (f : Fmt) (neg : Bool) : Nat := if neg then 2 ^ (f.w - 1) else 0
/-- The code of an infinity (R145). -/
def Sys2Proof.infCode (f : Fmt) (neg : Bool) : Nat := 2 ^ (f.w - 1) - 2 ^ f.m + signBit f neg

/-- A mode that rounds this sign away from zero. -/
def Sys2Proof.away (mode : Round) (neg : Bool) : Prop :=
  (mode = .rup ∧ neg = false) ∨ (mode = .rdn ∧ neg = true)

/-- R148: `x`, rounded with an unbounded exponent, exceeds the largest finite value of the format. The next
value up would be one `ulp` away; the nearer modes reach it from half of that on, RNE on a tie only where
the largest value's last mantissa bit is 1. -/
def Sys2Proof.Overflows (f : Fmt) (mode : Round) (x : ℝ) : Prop :=
  let ulp : ℝ := (2 : ℝ) ^ (((f.largest / 2 ^ f.m : Nat) : ℤ) - f.bias - f.m)
  let largest : ℝ := ulp * ((2 ^ f.m + f.largest % 2 ^ f.m : Nat) : ℝ)
  (mode = .rne ∧ (largest + ulp / 2 < |x| ∨ (|x| = largest + ulp / 2 ∧ f.largest % 2 = 1))) ∨
  (mode = .rna ∧ largest + ulp / 2 ≤ |x|) ∨
  (away mode (decide (x < 0)) ∧ largest < |x|) ∨
  (mode ≠ .rne ∧ mode ≠ .rna ∧ largest + ulp ≤ |x|)

/-- R149: `x`, rounded with an unbounded exponent, is below the smallest normal value, under which the
values of an unbounded exponent stand `step` apart. -/
def Sys2Proof.Tiny (f : Fmt) (mode : Round) (x : ℝ) : Prop :=
  let least : ℝ := (2 : ℝ) ^ (1 - (f.bias : ℤ))
  let step : ℝ := (2 : ℝ) ^ (-(f.bias : ℤ) - f.m)
  ((mode = .rne ∨ mode = .rna) ∧ |x| < least - step / 2) ∨
  (away mode (decide (x < 0)) ∧ |x| ≤ least - step) ∨
  (mode ≠ .rne ∧ mode ≠ .rna ∧ ¬ away mode (decide (x < 0)) ∧ |x| < least)

/-- R148: `b` is the code of the value that the mode picks for `x` among all finite values of the format: in
RNE and RNA the nearer, on a tie the one whose last mantissa bit is 0 or the larger in magnitude; in RTZ the
one of smaller magnitude, of the same sign; in RUP and RDN the next above or below. It has the sign of `x`
(R147). -/
def Sys2Proof.Picked (f : Fmt) (mode : Round) (x : ℝ) (b : Nat) : Prop :=
  b < 2 ^ f.w ∧ ∃ q : ℚ, valOf f false b = .num (decide (x < 0)) q ∧
    ∀ d < 2 ^ f.w, ∀ n p, valOf f false d = .num n p →
      let v : ℝ := (q : ℝ)
      let y : ℝ := (p : ℝ)
      (mode = .rne ∨ mode = .rna → |v - x| ≤ |y - x|) ∧
      (|v - x| = |y - x| → y ≠ v → (mode = .rne → b % 2 = 0) ∧ (mode = .rna → |y| ≤ |v|)) ∧
      (mode = .rtz → |v| ≤ |x| ∧ 0 ≤ v * x ∧ (0 ≤ x * y → |y| ≤ |x| → |y| ≤ |v|)) ∧
      (mode = .rup → x ≤ v ∧ (x ≤ y → v ≤ y)) ∧
      (mode = .rdn → v ≤ x ∧ (y ≤ x → y ≤ v))

/-- R148: an overflow delivers the largest finite value, and not an infinity: under SAT, in a format that
has none, and in the modes that round this sign toward zero. -/
def Sys2Proof.staysFinite (f : Fmt) (c : Ctx) (neg : Bool) : Prop :=
  c.sat = true ∨ f.special ≠ .ieee ∨ c.mode = .rtz ∨ (c.mode = .rup ∧ neg = true) ∨
    (c.mode = .rdn ∧ neg = false)

/-- R148 to R150: `r` is `x`, which is not zero, rounded once into the format in the context's mode, with
the flags of the rounding. -/
structure Sys2Proof.Rounded (f : Fmt) (c : Ctx) (x : ℝ) (r : Lane) : Prop where
  above : Overflows f c.mode x → r.fl = flOF ||| flNX ∧
    let neg := decide (x < 0)
    (staysFinite f c neg → r.bits = f.largest + signBit f neg) ∧
    (¬ staysFinite f c neg → r.bits = infCode f neg)
  flushed : ¬ Overflows f c.mode x → Tiny f c.mode x → c.ftz = true → f.ftz = true →
    r = ⟨signBit f (decide (x < 0)), flUF ||| flNX⟩
  picked : ¬ Overflows f c.mode x → ¬ (Tiny f c.mode x ∧ c.ftz = true ∧ f.ftz = true) →
    Picked f c.mode x r.bits ∧
      let v : ℝ := ((valOf f false r.bits).number : ℝ)
      (v = x → r.fl = 0) ∧ (v ≠ x → Tiny f c.mode x → r.fl = flUF ||| flNX) ∧
      (v ≠ x → ¬ Tiny f c.mode x → r.fl = flNX)

/-- The exact sum of the terms, products and addends, rounded once (R146, R147, R149, R166, R174, R175): an
invalid product, or two infinities that disagree, give the canonical NaN and set NV; a NaN gives the
canonical NaN and sets NV only where it is a signalling one; an infinity stays; a number is rounded once;
and a zero has the terms' sign, and where they disagree is negative in RDN alone. That an invalid product
sets NV beside a NaN is DEDUCED, log 26. -/
structure Sys2Proof.SumOf (f : Fmt) (c : Ctx) (l : List Val) (r : Lane) : Prop where
  invalid : l.any Val.isBad = true → r = ⟨canonNan f, flNV⟩
  nan : l.any Val.isBad = false → l.any Val.isNan = true →
    (l.any (Val.isInf true) && l.any (Val.isInf false)) = false →
    r = ⟨canonNan f, if l.any Val.snan then flNV else 0⟩
  clash : l.any Val.isBad = false → l.any Val.isNan = false → l.any (Val.isInf true) = true →
    l.any (Val.isInf false) = true → r = ⟨canonNan f, flNV⟩
  infinite : l.any Val.isBad = false → l.any Val.isNan = false → ∀ n, l.any (Val.isInf n) = true →
    l.any (Val.isInf !n) = false → r = ⟨infCode f n, 0⟩
  finite : l.any Val.isBad = false → l.any Val.isNan = false → (∀ n, l.any (Val.isInf n) = false) →
    let x : ℚ := (l.map Val.number).sum
    (x ≠ 0 → Rounded f c (x : ℝ) r) ∧
    (x = 0 → r = ⟨signBit f (if l.all Val.neg then true else l.any Val.neg && c.mode == .rdn), 0⟩)

/-- R148: `n` is `x` rounded to an integer in the mode. -/
def Sys2Proof.IntRounded (mode : Round) (x : ℚ) (n : ℤ) : Prop :=
  (mode = .rne → |(n : ℚ) - x| ≤ 1 / 2 ∧ (|(n : ℚ) - x| = 1 / 2 → n % 2 = 0)) ∧
  (mode = .rna → |(n : ℚ) - x| ≤ 1 / 2 ∧ (|(n : ℚ) - x| = 1 / 2 → |x| ≤ |(n : ℚ)|)) ∧
  (mode = .rtz → |(n : ℚ)| ≤ |x| ∧ |x| < |(n : ℚ)| + 1 ∧ 0 ≤ (n : ℚ) * x) ∧
  (mode = .rup → x ≤ n ∧ (n : ℚ) < x + 1) ∧
  (mode = .rdn → (n : ℚ) ≤ x ∧ x < n + 1)

/-! ## Vectors (R33, R145 to R194, R418) -/

/-- What a register word whose result brings flags `f` leaves as it was: as `SlotFrame`, but that
the flags and their union grow by `f` when the result is written (R138, R139, R161). -/
structure Sys2Proof.FlagFrame (s t : State) (f : Flags5) : Prop where
  mem : ∀ a, t.mem.read a = s.mem.read a
  scratch : ∀ k a, (t.core k).scratch.read a = (s.core k).scratch.read a
  others : ∀ c, c ≠ s.focus → t.slot c = s.slot c
  special : t.me.special = s.me.special
  cores : ∀ k, t.core k = s.core k
  clusters : ∀ k, (t.cluster k).outside = (s.cluster k).outside
  outside : t.outside = s.outside
  flags : t.me.fpflags ||| dueFlags t.me.outs = s.me.fpflags ||| dueFlags s.me.outs ||| f
  union : t.myCluster.flagsUnion ||| dueFlags t.me.outs
    = s.myCluster.flagsUnion ||| dueFlags s.me.outs ||| f

/-- Lane `i` of width `w`, counted from the low end (R33). -/
def Sys2Proof.lane (v : RV) (w i : Nat) : Nat := v.val.toNat / 2 ^ (w * i) % 2 ^ w

/-- The registers share the element type `g`: each carries it or RAW, and one carries it (R34). -/
def Sys2Proof.Shares (s : State) (rs : List Reg) (g : Tag) : Prop :=
  (∀ r ∈ rs, (s.me.read r).tag = g ∨ (s.me.read r).tag = .raw) ∧ ∃ r ∈ rs, (s.me.read r).tag = g

/-- A vector result: its lanes are those of `l`, it carries tag `g`, it enters l1, after the fixed
latency where there is one, and its flags accrue when it is written (R161, R30). -/
structure Sys2Proof.VectorResult (s t : State) (d : Reg) (g : Tag) (w : Nat)
    (l : List Lane) (lat : Option Nat) : Prop where
  result : Holds s t d (.ofLanes g w (lanesBits l))
  retired : Retired s t (s.me.pc + 4)
  frame : FlagFrame s t (lanesFlags l)
  last : ∀ n, lat = some n → EntersL1 s t d (.ofLanes g w (lanesBits l)) n
  later : lat = none → ∃ o ∈ t.me.outs,
    o.l1 = some (.ofLanes g w (lanesBits l)) ∧ o.ready = none

def Sys2Proof.floats : List Tag := [.f64x2, .f32x4, .f16x8, .bf16x8]
def Sys2Proof.ints : List Tag := [.i32x4, .i16x8, .i8x16, .b8x16]
def Sys2Proof.signedInts : List Tag := [.i32x4, .i16x8, .i8x16]

/-- An integer lane read as its type says: B8x16 is unsigned (R167). -/
def Sys2Proof.readInt (g : Tag) (x : Nat) : Int :=
  if g = .b8x16 then x else (x : Int).bmod (2 ^ g.width)
/-- A number delivered modulo 2^w (R167). -/
def Sys2Proof.wrap (g : Tag) (v : Int) : Lane := ⟨(v % (2 ^ g.width : Int)).toNat, 0⟩
/-- A number clamped to the lane range; a lane that is clamped sets NV (R163, R167). -/
def Sys2Proof.clamp (g : Tag) (v : Int) : Lane :=
  let lo : Int := if g = .b8x16 then 0 else -2 ^ (g.width - 1)
  let hi : Int := if g = .b8x16 then 2 ^ g.width - 1 else 2 ^ (g.width - 1) - 1
  let c := min hi (max lo v)
  ⟨(c % (2 ^ g.width : Int)).toNat, if c = v then 0 else flNV⟩

/-- A lane operation with a float form and an integer form, which saturates under SAT. -/
def Sys2Proof.either (f : Fmt → Ctx → Nat → Nat → Lane) (i : Int → Int → Int) (c : Ctx) (g : Tag)
    (x y : Nat) : Lane :=
  match g.fmt with
  | some k => f k c x y
  | none => if c.sat then clamp g (i (readInt g x) (readInt g y))
    else wrap g (i (readInt g x) (readInt g y))

/-- An integer operation delivered by `k`. -/
def Sys2Proof.onInts (k : Tag → Int → Lane) (i : Tag → Int → Int → Int) (_ : Ctx) (g : Tag)
    (x y : Nat) : Lane := k g (i g (readInt g x) (readInt g y))

/-- The extremes (R167, R169). -/
def Sys2Proof.extreme (big num : Bool) (c : Ctx) (g : Tag) (x y : Nat) : Lane :=
  match g.fmt with
  | some k => k.pick c.ftz big num x y
  | none => wrap g (if big then max (readInt g x) (readInt g y) else min (readInt g x) (readInt g y))

/-- A shift by the count of the other lane (R172). -/
def Sys2Proof.shifted (f : Tag → Int → Nat → Int) (_ : Ctx) (g : Tag) (x n : Nat) : Lane :=
  wrap g (f g (readInt g x) n)

/-- The shifts: left; right with zeros; right with copies of the sign (R172). -/
def Sys2Proof.shiftKinds : List (Tag → Int → Nat → Int) :=
  [fun g x n => if n < g.width then x * 2 ^ n else 0,
   fun g x n => if n < g.width then x % 2 ^ g.width / 2 ^ n else 0,
   fun g x n => if n < g.width then x / 2 ^ n else if x < 0 then -1 else 0]

/-- A mask lane (R170). -/
def Sys2Proof.mask (g : Tag) (p : Bool × Flags5) : Lane :=
  ⟨if p.1 then 2 ^ g.width - 1 else 0, p.2⟩
def Sys2Proof.relation (r : Rel) (i : Int → Int → Bool) (c : Ctx) (g : Tag) (x y : Nat) : Lane :=
  match g.fmt with
  | some k => mask g (k.compare c.ftz r x y)
  | none => mask g (i (readInt g x) (readInt g y), 0)

/-- A row of the two-source words: the word, the hints and the types it takes, the tag of its
result, its latency class, and its lanes. -/
structure Sys2Proof.Row2 where
  op : Bool → Reg → Reg → Reg → Instr
  hints : Takes
  types : List Tag
  result : Tag → Tag
  fixed : Bool
  f : Ctx → Tag → Nat → Nat → Lane

/-- Latencies of R45: 2 on integers, 4 otherwise. -/
def Sys2Proof.latency (fixed : Bool) (g : Tag) : Option Nat :=
  if fixed then some (if g ∈ ints then 2 else 4) else none

/-- The two-source words of VOP that work lane by lane (R162, R165 to R172). -/
def Sys2Proof.vop2Rows : List Sys2Proof.Row2 :=
  let arith : Takes := { rnd := true, sat := true, ftz := true }
  let ftz : Takes := { ftz := true }
  let same (op : Bool → Reg → Reg → Reg → Instr) (f : Ctx → Tag → Nat → Nat → Lane) : Row2 :=
    ⟨op, {}, ints, id, true, f⟩
  let cmp (op : Bool → Reg → Reg → Reg → Instr) (r : Rel) (i : Int → Int → Bool) : Row2 :=
    ⟨op, ftz, floats ++ ints ++ [.e4m3x16, .e5m2x16], maskTag, true, relation r i⟩
  [⟨.vadd, arith, floats ++ ints, id, true, either Fmt.add (· + ·)⟩,
   ⟨.vsub, arith, floats ++ ints, id, true, either Fmt.sub (· - ·)⟩,
   ⟨.vmul, arith, floats ++ ints, id, true, either Fmt.mul (· * ·)⟩,
   ⟨.vdiv, { rnd := true, ftz := true }, floats, id, false, either Fmt.div fun x _ => x⟩,
   ⟨.vmin, ftz, floats ++ ints, id, true, extreme false false⟩,
   ⟨.vmax, ftz, floats ++ ints, id, true, extreme true false⟩,
   ⟨.vminn, ftz, floats ++ ints, id, true, extreme false true⟩,
   ⟨.vmaxn, ftz, floats ++ ints, id, true, extreme true true⟩,
   same .vadds (onInts clamp fun _ x y => x + y),
   same .vsubs (onInts clamp fun _ x y => x - y),
   same .vavg (onInts wrap fun _ x y => (x + y + 1) / 2),
   same .vmulh (onInts wrap fun g x y => x * y / 2 ^ g.width),
   same .vshl (shifted fun g x n => if n < g.width then x * 2 ^ n else 0),
   same .vshr (shifted fun g x n => if n < g.width then x % 2 ^ g.width / 2 ^ n else 0),
   same .vsar (shifted fun g x n => if n < g.width then x / 2 ^ n else if x < 0 then -1 else 0),
   cmp .vceq .eq fun x y => decide (x = y),
   cmp .vcne .ne fun x y => decide (x ≠ y),
   cmp .vclt .lt fun x y => decide (x < y),
   cmp .vcle .le fun x y => decide (x ≤ y),
   ⟨.vcun, ftz, floats ++ [.e4m3x16, .e5m2x16], maskTag, true, relation .un fun _ _ => false⟩]

/-- R161 to R172: the two-source words of VOP, lane by lane: the sums, products, extremes, averages,
shifts and comparisons, on every type each takes. -/
def Sys2Proof.Claims.VopTwo : Prop :=
  ∀ e ∈ vop2Rows, ∀ g ∈ e.types, ∀ (s : State) (m : Bool) (d a b : Reg),
    Ready e.hints s [a, b, d] → Shares s [a, b] g →
    let l := (List.range g.lanes).map fun i =>
      e.f s.bump.ctx g (lane (s.me.read a) g.width i) (lane (s.me.read b) g.width i)
    ∃ t, exec (e.op m d a b) s = .next (t.settle s.focus m) ∧
      VectorResult s t d (e.result g) g.width l (latency e.fixed g)

/-- A row of the one-source words. -/
structure Sys2Proof.Row1 where
  op : Bool → Reg → Reg → Instr
  hints : Takes
  types : List Tag
  result : Tag → Tag
  fixed : Bool
  f : Ctx → Tag → Nat → Lane

/-- A float operation of one lane. -/
def Sys2Proof.onFloat (f : Fmt → Ctx → Nat → Lane) (c : Ctx) (g : Tag) (x : Nat) : Lane :=
  match g.fmt with
  | some k => f k c x
  | none => ⟨x, 0⟩

/-- A sign operation on floats, an integer operation on integers (R167, R418). -/
def Sys2Proof.signOp (f : Nat → Nat → Nat) (i : Int → Int) (_ : Ctx) (g : Tag) (x : Nat) : Lane :=
  if g.fmt.isSome then ⟨f (2 ^ (g.width - 1)) x, 0⟩ else wrap g (i (readInt g x))

/-- The one-source words of VOP that work lane by lane (R162, R165 to R173, R418), the shifts by the
constant `n` among them. -/
def Sys2Proof.vop1Rows (n : BitVec 6) : List Sys2Proof.Row1 :=
  let rounds : Takes := { rnd := true, ftz := true }
  let float (op : Bool → Reg → Reg → Instr) (f : Fmt → Ctx → Nat → Lane) : Row1 :=
    ⟨op, rounds, floats, id, false, onFloat f⟩
  [⟨.vabs, {}, floats ++ signedInts, id, true, signOp (fun top x => x % top) (fun x => |x|)⟩,
   ⟨.vneg, {}, floats ++ signedInts, id, true,
     signOp (fun top x => if x < top then x + top else x - top) (fun x => -x)⟩,
   float .vsqrt Fmt.sqrt, float .vrcp Fmt.rcp, float .vrsq Fmt.rsqrt, float .vexp2 Fmt.exp2,
   float .vlog2 Fmt.log2,
   ⟨.vclass, {}, floats, maskTag, true, onFloat fun k _ x => ⟨2 ^ k.classBit x, 0⟩⟩,
   ⟨.vround, rounds, floats, id, true, onFloat Fmt.integral⟩,
   ⟨fun m d a => .vshli m d a n, {}, ints, id, true, fun c g x =>
     shifted (fun g x n => if n < g.width then x * 2 ^ n else 0) c g x n.toNat⟩,
   ⟨fun m d a => .vshri m d a n, {}, ints, id, true, fun c g x =>
     shifted (fun g x n => if n < g.width then x % 2 ^ g.width / 2 ^ n else 0) c g x n.toNat⟩,
   ⟨fun m d a => .vsari m d a n, {}, ints, id, true, fun c g x =>
     shifted (fun g x n => if n < g.width then x / 2 ^ n else if x < 0 then -1 else 0) c g x
       n.toNat⟩]

/-- R161 to R173, R418: the one-source words of VOP, lane by lane, on every type each takes, among
them the shifts by a constant. -/
def Sys2Proof.Claims.VopOne : Prop :=
  ∀ n : BitVec 6, ∀ e ∈ vop1Rows n, ∀ g ∈ e.types, ∀ (s : State) (m : Bool) (d a : Reg),
    Ready e.hints s [a, d] → (s.me.read a).tag = g →
    let l := (List.range g.lanes).map fun i => e.f s.bump.ctx g (lane (s.me.read a) g.width i)
    ∃ t, exec (e.op m d a) s = .next (t.settle s.focus m) ∧
      VectorResult s t d (e.result g) g.width l (latency e.fixed g)

/-- The sources share `g`, or all of them are RAW and `g` is RAW; I64 and NAME are no element types
(R34, R171, R183). -/
def Sys2Proof.SharesOrRaw (s : State) (rs : List Reg) (g : Tag) : Prop :=
  g ≠ .i64 ∧ g ≠ .name ∧ ((g ≠ .raw ∧ Shares s rs g) ∨
    (g = .raw ∧ ∀ r ∈ rs, (s.me.read r).tag = .raw))

/-- A vector word's result without flags that enters l1 with latency 2. -/
structure Sys2Proof.Moved (s t : State) (d : Reg) (v : RV) : Prop where
  result : Holds s t d v
  retired : Retired s t (s.me.pc + 4)
  frame : SlotFrame s t
  last : EntersL1 s t d v 2

/-- R171: the bitwise words on all 128 bits. -/
def Sys2Proof.Claims.Bitwise : Prop :=
  ∀ (s : State) (m : Bool) (d a b : Reg) (g : Tag),
    let x := (s.me.read a).val
    let y := (s.me.read b).val
    let k := s.me.read d
    (Ready {} s [a, b, d] → SharesOrRaw s [a, b] g →
      (∀ e ∈ [(Instr.vand m d a b, x &&& y), (.vor m d a b, x ||| y), (.vxor m d a b, x ^^^ y),
          (.vandn m d a b, x &&& ~~~y)],
        ∃ t, exec e.1 s = .next (t.settle s.focus m) ∧ Moved s t d ⟨e.2, g⟩) ∧
      (k.tag ≠ .i64 → k.tag ≠ .name → ∃ t, exec (.vsel m d a b) s = .next (t.settle s.focus m) ∧
        Moved s t d ⟨(k.val &&& x) ||| (~~~k.val &&& y), g⟩)) ∧
    (Ready {} s [a, d] → SharesOrRaw s [a] g →
      ∃ t, exec (.vnot m d a) s = .next (t.settle s.focus m) ∧ Moved s t d ⟨~~~x, g⟩)

/-- R161, R162: an integer word on an F32x4 register, or with two types that disagree, traps
FORMAT. -/
def Sys2Proof.Claims.VopRefusals : Prop :=
  ∀ (s : State) (m : Bool) (d a b : Reg), s.canTrap → Ready {} s [a, b, d] →
    ((s.me.read a).tag = .f32x4 ∨ ((s.me.read a).tag = .i32x4 ∧ (s.me.read b).tag = .i16x8) ∨
      ((s.me.read a).tag = .raw ∧ (s.me.read b).tag = .raw) ∨ (s.me.read a).tag = .i64) →
    ∃ t, exec (.vadds m d a b) s = .next t ∧ Trapped s.bump t .format s.me.groupStart 0 0 false

/-- R161 to R173, R418: the words of VOP. -/
def Obligations.VectorResults : Prop :=
  Claims.VopTwo ∧ Claims.VopOne ∧ Claims.Bitwise ∧ Claims.VopRefusals

/-- The lanes of `n` products that belong to result lane `i` (R175). -/
def Sys2Proof.group (x y : RV) (w n i : Nat) : List (Nat × Nat) :=
  (List.range n).map fun j => (lane x w (n * i + j), lane y w (n * i + j))

/-- A vector result of `n` lanes of width `w`, each of which is what `p` says of it. -/
def Sys2Proof.VectorOf (s : State) (m : Bool) (i : Instr) (d : Reg) (g : Tag) (w n lat : Nat)
    (p : Nat → Lane → Prop) : Prop :=
  ∃ (t : State) (r : Nat → Lane), exec i s = .next (t.settle s.focus m) ∧ (∀ k, k < n → p k (r k)) ∧
    VectorResult s t d g w ((List.range n).map r) (some lat)

/-- R174, R175, R147 to R150: the fused words and the float dot products deliver in each lane the exact sum of
the products and the addend, rounded once; the integer dot products are exact modulo 2^32, or clamped under
SAT. That an invalid product sets NV beside a NaN operand is DEDUCED, log 26. -/
def Obligations.FusedAndDots : Prop :=
  ∀ (s : State) (m : Bool) (d a b : Reg),
    let x := s.me.read a
    let y := s.me.read b
    let z := s.me.read d
    let c := s.bump.ctx
    let ok (src dst : Tag) : Prop := (x.tag = src ∨ x.tag = .raw) ∧ (y.tag = src ∨ y.tag = .raw) ∧
      (z.tag = dst ∨ z.tag = .raw)
    (Ready { rnd := true, sat := true, ftz := true } s [a, b, d] →
      (∀ g ∈ floats, Shares s [a, b, d] g → ∀ f, g.fmt = some f →
        let p i := lane x g.width i
        let q i := lane y g.width i
        let r i := lane z g.width i;
        let v (k : Nat) : Val := valOf f c.ftz k;
        ∀ e ∈ [(Instr.vfma m d a b, fun i => [(v (p i)).times (v (q i)), v (r i)]),
            (.vfms m d a b, fun i => [(v (p i)).minus.times (v (q i)), v (r i)]),
            (.vmad m d a b, fun i => [(v (p i)).times (v (r i)), v (q i)])],
          VectorOf s m e.1 d g g.width g.lanes 4 fun i => SumOf f c (e.2 i)) ∧
      ∀ e ∈ [(Instr.vdot2 m d a b, Tag.bf16x8, bf16, 16, 2), (.vdote m d a b, .e4m3x16, e4m3, 8, 4)],
        let (w, src, f, n, k) := e
        ok src .f32x4 → VectorOf s m w d .f32x4 32 4 4 fun i => SumOf fp32 c
          (valOf fp32 c.ftz (lane z 32 i) ::
            (group x y n k i).map fun p => (valOf f c.ftz p.1).times (valOf f c.ftz p.2))) ∧
    (Ready { sat := true } s [a, b, d] →
      ∀ e ∈ [(Instr.vdot4 m d a b, Tag.i8x16), (.vdot4b m d a b, .b8x16)], ok e.2 .i32x4 →
        let sum i := (group x y 8 4 i).foldl (fun n p => n + readInt e.2 p.1 * readInt e.2 p.2)
          (readInt .i32x4 (lane z 32 i))
        ∃ t, exec e.1 s = .next (t.settle s.focus m) ∧ VectorResult s t d .i32x4 32 ((List.range 4).map fun i =>
          if c.sat then clamp .i32x4 (sum i) else wrap .i32x4 (sum i)) (some 2))

/-- The value of a source lane (R145, R150, R151): a float, a power of two in E8M0, or an integer. -/
def Sys2Proof.sourceVal (g : Tag) (ftz : Bool) (x : Nat) : Val :=
  match g.fmt with
  | some f => valOf f ftz x
  | none =>
    if g = .e8m0x16 then if x = 0xFF then .nan false else .num false ((2 : ℚ) ^ ((x : ℤ) - 127))
    else .num (decide (readInt g x < 0)) (readInt g x)

/-- A value times an exact power of two. -/
def Sys2Proof.Val.scaled (v : Val) (k : ℤ) : Val :=
  match v with
  | .num n x => .num n (x * (2 : ℚ) ^ k)
  | v => v

/-- R178, R179, R181: a value delivered into a float format: a number rounded once, a zero with its sign;
the formats without an infinity take their largest value for one, and E2M1 zero for a NaN, with NV. -/
structure Sys2Proof.IntoFloat (f : Fmt) (c : Ctx) (v : Val) (r : Lane) : Prop where
  nan : ∀ q, v = .nan q → r = if f.special = .none then ⟨0, flNV⟩ else ⟨canonNan f, if q then flNV else 0⟩
  inf : ∀ n, v = .inf n →
    r = if f.special = .ieee then ⟨infCode f n, 0⟩ else ⟨f.largest + signBit f n, flNV⟩
  zero : ∀ n, v = .num n 0 → r = ⟨signBit f n, 0⟩
  num : ∀ n x, v = .num n x → x ≠ 0 → Rounded f c (x : ℝ) r

/-- R179: the exponent of a magnitude, as an E8M0 code. -/
structure Sys2Proof.IntoScale (v : Val) (r : Lane) : Prop where
  nan : ∀ q, v = .nan q → r = ⟨0xFF, if q then flNV else 0⟩
  inf : ∀ n, v = .inf n → r = ⟨0xFE, flNV⟩
  zero : ∀ n, v = .num n 0 → r = ⟨0, flNX⟩
  num : ∀ n x (k : ℤ), v = .num n x → (2 : ℚ) ^ k ≤ |x| → |x| < (2 : ℚ) ^ (k + 1) →
    r = if k + 127 < 0 then ⟨0, flNX⟩ else if 254 < k + 127 then ⟨0xFE, flNX⟩
      else ⟨(k + 127).toNat, if |x| = (2 : ℚ) ^ k then 0 else flNX⟩

/-- The least and the greatest integer of a lane (R151). -/
def Sys2Proof.leastInt (g : Tag) : Int := if g = .b8x16 then 0 else -2 ^ (g.width - 1)
def Sys2Proof.greatestInt (g : Tag) : Int :=
  if g = .b8x16 then 2 ^ g.width - 1 else 2 ^ (g.width - 1) - 1

/-- R180: a value rounded to an integer of the target's range. -/
structure Sys2Proof.IntoInt (g : Tag) (mode : Round) (v : Val) (r : Lane) : Prop where
  nan : ∀ q, v = .nan q → r = ⟨0, flNV⟩
  inf : ∀ n, v = .inf n → r = ⟨(wrap g (if n then leastInt g else greatestInt g)).bits, flNV⟩
  num : ∀ n x, v = .num n x → ∃ k : ℤ, IntRounded mode x k ∧
    r = if greatestInt g < k then ⟨(wrap g (greatestInt g)).bits, flNV⟩
      else if k < leastInt g then ⟨(wrap g (leastInt g)).bits, flNV⟩
      else ⟨(wrap g k).bits, if (k : ℚ) = x then 0 else flNX⟩

/-- R178 to R182: one lane converted, under the scale code `e` where there is one: the product with the
scale is exact, MXINT8 counts in units of 2^-6, and the scale 0xFF gives the canonical NaN. -/
structure Sys2Proof.Converts (c : Ctx) (src dst : Tag) (e : Option Nat) (x : Nat) (r : Lane) : Prop where
  plain : ∀ f, dst.fmt = some f → e = none → IntoFloat f c (sourceVal src c.ftz x) r
  scaled : ∀ f k, dst.fmt = some f → e = some k → k ≠ 0xFF → IntoFloat f c
    ((sourceVal src c.ftz x).scaled ((k : ℤ) - 127 - if src = .i8x16 then 6 else 0)) r
  lost : ∀ f, dst.fmt = some f → e = some 0xFF → r = ⟨canonNan f, 0⟩
  scale : dst = .e8m0x16 → IntoScale (sourceVal src c.ftz x) r
  rounds : dst.fmt = none → dst ≠ .e8m0x16 → src.fmt.isSome = true →
    IntoInt dst c.mode (sourceVal src c.ftz x) r
  ints : dst.fmt = none → dst ≠ .e8m0x16 → src.fmt = none →
    r = if c.sat then clamp dst (readInt src x) else wrap dst (readInt src x)

/-- R176 to R182: VCVT on a pair of R177 with a B it accepts: each lane of the source that the mode
picks is converted, a number rounded once into the target; the lanes it does not write keep the old
destination where the class keeps it. `dst` is the type of the FMT field, `k` the pair's class, `sc` what B
brings. That z as B stands for lanes of zeros of the source's type in the narrowing classes is DEDUCED, log
27. -/
def Obligations.Conversions : Prop :=
  ∀ (s : State) (m : Bool) (d a b : Reg) (f : BitVec 5) (md : BitVec 2) (dst : Tag) (k : CvtClass)
    (sc : CvtB), Tag.ofCode f = some dst → cvtClass (s.me.read a).tag dst = some k →
    cvtB k (s.me.read a).tag dst b (s.me.read b) = .ok sc →
    Ready { rnd := true, sat := true, ftz := true } s [a, b, d] →
    let old := s.me.read d
    (k.keeps = true → old.tag = dst ∨ old.tag = .raw) →
    let c := { s.bump.ctx with sat := s.bump.ctx.sat || md.getLsbD 0 }
    let src := (s.me.read a).tag
    let e : Option Nat := match sc with
      | .scale e => some e
      | _ => none
    let la i := lane (s.me.read a) src.width i
    let ab i := if i < src.lanes then la i else lane (s.me.read b) src.width (i - src.lanes)
    let hi := md.getLsbD 1
    let n := dst.lanes
    let from' : List Nat := match k with
      | .same => (List.range n).map la
      | .wide => (List.range n).map fun i => la (if hi then n + i else i)
      | .half => (List.range n).map ab
      | .quarter => (List.range (n / 2)).map ab
      | .toI64 => [la (if hi then 1 else 0)]
      | .ofI64 => [la 0]
    let kept (i j : Nat) : List Nat := (List.range' i (j - i)).map fun i => lane old dst.width i
    ∃ news : List Lane, List.Forall₂ (Converts c src dst e) from' news ∧
    let bits : List Nat := match k with
      | .quarter => if hi then kept 0 (n / 2) ++ lanesBits news else lanesBits news ++ kept (n / 2) n
      | .ofI64 => if hi then kept 0 1 ++ lanesBits news else lanesBits news ++ kept 1 2
      | _ => lanesBits news
    ∃ t, exec (.vcvt m d a b f md) s = .next (t.settle s.focus m) ∧ Holds s t d (.ofLanes dst dst.width bits) ∧
      Retired s t (s.me.pc + 4) ∧ FlagFrame s t (lanesFlags news) ∧
      EntersL1 s t d (.ofLanes dst dst.width bits) 4

/-- The places `i` whose mask lane is selected: its top bit is 1 (R183). -/
def Sys2Proof.chosen (v : RV) (g : Tag) (i : Nat) : Bool :=
  decide (2 ^ (g.width - 1) ≤ lane v g.width i)

/-- R183 to R187: the permutes move lanes: reversed, splatted, extracted, inserted, zipped, unzipped,
shuffled, compressed, expanded, counted and aligned. -/
def Sys2Proof.Claims.Permuted : Prop :=
  ∀ (s : State) (m : Bool) (d a b : Reg) (i : BitVec 6) (g : Tag),
    let n := g.lanes
    let w := g.width
    let x k := lane (s.me.read a) w k
    let y k := lane (s.me.read b) w k
    let z k := lane (s.me.read d) w k
    let out (f : Nat → Nat) : RV := .ofLanes g w ((List.range n).map f)
    let isMask (v : RV) : Prop := v.tag ≠ .i64 ∧ v.tag ≠ .name
    (Ready {} s [a, d] → SharesOrRaw s [a] g →
      (∃ t, exec (.vrev m d a) s = .next (t.settle s.focus m) ∧ Moved s t d (out fun k => x (n - 1 - k))) ∧
      (i.toNat < n →
        (∃ t, exec (.vsplat m d a i) s = .next (t.settle s.focus m) ∧ Moved s t d (out fun _ => x i.toNat)) ∧
        (∃ t, exec (.vext m d a i) s = .next (t.settle s.focus m) ∧ Moved s t d (.int (BitVec.ofInt 64
          (if g ∈ signedInts then readInt g (x i.toNat) else (x i.toNat : Int)))))) ∧
      (n ≤ i.toNat → s.canTrap → ∀ j ∈ [Instr.vsplat m d a i, .vext m d a i],
        ∃ t, exec j s = .next t ∧ Trapped s.bump t .format s.me.groupStart 0 9 false)) ∧
    (Ready {} s [a, d] → i.toNat < n →
      ((s.me.read a).tag = .i64 ∧ SharesOrRaw s [d] g) ∨ SharesOrRaw s [a, d] g →
      ∃ t, exec (.vins m d a i) s = .next (t.settle s.focus m) ∧
        Moved s t d (out fun k => if k = i.toNat then x 0 else z k)) ∧
    (Ready {} s [a, b, d] → SharesOrRaw s [a, b] g →
      ∀ e ∈ [(Instr.vzipl m d a b, fun k => if k % 2 = 0 then x (k / 2) else y (k / 2)),
        (.vziph m d a b, fun k => if k % 2 = 0 then x (n / 2 + k / 2) else y (n / 2 + k / 2)),
        (.vuzpl m d a b, fun k => if k < n / 2 then x (2 * k) else y (2 * (k - n / 2))),
        (.vuzph m d a b, fun k => if k < n / 2 then x (2 * k + 1) else y (2 * (k - n / 2) + 1))],
        ∃ t, exec e.1 s = .next (t.settle s.focus m) ∧ Moved s t d (out e.2)) ∧
    (Ready {} s [a, b, d] → SharesOrRaw s [a] g → isMask (s.me.read b) →
      let sel k := chosen (s.me.read b) g k
      let some := (List.range n).filter sel
      let count : RV := .int (BitVec.ofNat 64 some.length);
      (g ≠ .e2m1x32 → ∃ t, exec (.vshuf m d a b) s = .next (t.settle s.focus m) ∧
        Moved s t d (out fun k => let j := lane (s.me.read b) 8 k
                                    if j < n then x j else 0)) ∧
      (∃ t, exec (.vexpd m d a b) s = .next (t.settle s.focus m) ∧ Moved s t d
        (out fun k => if sel k then x ((List.range k).filter sel).length else 0)) ∧
      (d ≠ 62#6 → ∃ t, exec (.vcmpr m d a b) s = .next (t.settle s.focus m) ∧
        Holds s t d (out fun k => (some[k]?.map x).getD 0) ∧ Retired s t (s.me.pc + 4) ∧
        SlotFrame s t ∧
        t.me.l1 = s.me.next1 (s.me.l1.later
            ⟨out fun k => (some[k]?.map x).getD 0, s.me.pos + 2, s.me.pos⟩) ∧
          t.me.l0 = s.me.next0 (s.me.l0.later ⟨count, s.me.pos + 2, s.me.pos⟩))) ∧
    (Ready {} s [a, d] → isMask (s.me.read a) → g = (s.me.read a).tag → d ≠ 62#6 →
      let v : RV := .int (BitVec.ofNat 64
        ((List.range n).filter fun k => chosen (s.me.read a) g k).length)
      ∃ t, exec (.vpopm m d a) s = .next (t.settle s.focus m) ∧ Holds s t d v ∧ Retired s t (s.me.pc + 4) ∧
        SlotFrame s t ∧ t.me.l1 = s.me.next1 (s.me.l1.later ⟨v, s.me.pos + 2, s.me.pos⟩) ∧
          t.me.l0 = s.me.next0 (s.me.l0.later ⟨v, s.me.pos + 2, s.me.pos⟩)) ∧
    (Ready {} s [a, b, d] → SharesOrRaw s [a, d] g → s.ints [b] →
      ∃ t, exec (.valgn m d a b) s = .next (t.settle s.focus m) ∧ Moved s t d ⟨BitVec.ofNat 128
        (((s.me.read d).val.toNat * 2 ^ 128 + (s.me.read a).val.toNat)
          / 2 ^ (8 * ((s.int b).toNat % 16))), g⟩)

/-- R188 to R191: the reductions on every type each takes. The sums and extremes of floats follow the pairwise
tree, in which the lower half meets the upper half (R159); its addition and its extremes are those of
`Claims.ExactlyRounded`, and the lanes of a widening sum are converted first (R178). -/
def Sys2Proof.Claims.Reduced : Prop :=
  ∀ (s : State) (m : Bool) (d a : Reg) (g : Tag), (s.me.read a).tag = g →
    let l := (List.range g.lanes).map fun i => lane (s.me.read a) g.width i
    let c := s.bump.ctx
    let ns := l.map (readInt g)
    let sum : Int := ns.sum
    let out (t : State) (g' : Tag) (r : Lane) : Prop := Holds s t d ⟨BitVec.ofNat 128 r.bits, g'⟩ ∧
      Retired s t (s.me.pc + 4) ∧ FlagFrame s t r.fl ∧
      EntersL1 s t d ⟨BitVec.ofNat 128 r.bits, g'⟩ (if g ∈ ints then 2 else 4)
    (Ready { rnd := true, ftz := true } s [a, d] →
      (∀ f, g ∈ floats → g.fmt = some f → ∃ t, exec (.vrsum m d a) s = .next (t.settle s.focus m) ∧
        out t g (tree (f.add c) g.lanes.log2 l)) ∧
      (g ∈ ints → (∃ t, exec (.vrsum m d a) s = .next (t.settle s.focus m) ∧ out t g (wrap g sum)) ∧
        ∃ t, exec (.vrsumw m d a) s = .next (t.settle s.focus m) ∧ Moved s t d (.int (BitVec.ofInt 64 sum))) ∧
      (g ∈ [Tag.f16x8, .bf16x8] → ∃ (t : State) (wide : List Lane),
        exec (.vrsumw m d a) s = .next (t.settle s.focus m) ∧
        List.Forall₂ (Converts c g .f32x4 none) l wide ∧
        let r := tree (fp32.add c) 3 (lanesBits wide)
        out t .f32x4 ⟨r.bits, r.fl ||| lanesFlags wide⟩)) ∧
    (Ready { ftz := true } s [a, d] →
      (g ∈ floats ++ ints → (∃ t, exec (.vrmin m d a) s = .next (t.settle s.focus m) ∧
          out t g (tree (extreme false false c g) g.lanes.log2 l)) ∧
        ∃ t, exec (.vrmax m d a) s = .next (t.settle s.focus m) ∧
          out t g (tree (extreme true false c g) g.lanes.log2 l)) ∧
      (g ∈ signedInts → ∃ t, exec (.vramax m d a) s = .next (t.settle s.focus m) ∧
        out t g ⟨(ns.map Int.natAbs).foldl max 0, 0⟩) ∧
      (∀ f, g ∈ floats → g.fmt = some f → ∃ t, exec (.vramax m d a) s = .next (t.settle s.focus m) ∧
        out t g (tree (f.pick c.ftz true true) g.lanes.log2
          (l.map fun x => x % 2 ^ (g.width - 1))))) ∧
    (Ready {} s [a, d] → g ≠ .i64 → g ≠ .name →
      let tops := (List.range g.lanes).map fun i => chosen (s.me.read a) g i;
      (∃ t, exec (.vrany m d a) s = .next (t.settle s.focus m) ∧
        Moved s t d (.int (if ∃ x ∈ tops, x = true then 1 else 0))) ∧
      ∃ t, exec (.vrall m d a) s = .next (t.settle s.focus m) ∧
        Moved s t d (.int (if ∀ x ∈ tops, x = true then 1 else 0)))

/-- R183 to R191, R159: the words of VPERM and of VRED. -/
def Obligations.PermutesAndReductions : Prop := Claims.Permuted ∧ Claims.Reduced

/-- R192 to R194, R36: CAST relabels and copies the bits; TAGOF delivers the tag's code; TAGCHK has no
effect on the tag it names and otherwise traps FORMAT with the code found. -/
def Obligations.TagWords : Prop :=
  ∀ (s : State) (m : Bool) (d a : Reg) (f : BitVec 5),
    let x := s.me.read a
    (Ready {} s [a, d] → ∀ g, Tag.ofCode f = some g → x.tag ≠ .name → g ≠ .name →
      (g = .i64 → x.val.toNat < 2 ^ 64) →
      ∃ t, exec (.cast m d a f) s = .next (t.settle s.focus m) ∧ Holds s t d ⟨x.val, g⟩ ∧
        Retired s t (s.me.pc + 4) ∧ SlotFrame s t ∧ EntersL0 s t d ⟨x.val, g⟩ 1) ∧
    (Ready {} s [a, d] → s.canTrap → ∀ g, Tag.ofCode f = some g →
      x.tag = .name ∨ g = .name ∨ (g = .i64 ∧ 2 ^ 64 ≤ x.val.toNat) →
      ∃ t, exec (.cast m d a f) s = .next t ∧ Trapped s.bump t .format s.me.groupStart 0 0 false) ∧
    (Ready {} s [a, d] → ∃ t, exec (.tagof m d a) s = .next (t.settle s.focus m) ∧
      Holds s t d (.int (x.tag.code.setWidth 64)) ∧ Retired s t (s.me.pc + 4) ∧ SlotFrame s t ∧
      EntersL0 s t d (.int (x.tag.code.setWidth 64)) 1) ∧
    (Ready {} s [a] → x.tag.code = f → ∃ t, exec (.tagchk m a f) s = .next (t.settle s.focus m) ∧
      Retired s t (s.me.pc + 4) ∧ FileKept s t ∧ LastKept s t ∧ SlotFrame s t) ∧
    (Ready {} s [a] → x.tag.code ≠ f → s.canTrap → ∃ t, exec (.tagchk m a f) s = .next t ∧
      Trapped s.bump t .format s.me.groupStart 0 (x.tag.code.setWidth 64) false)

/-- The value of a number of `Dy`: m x 2^e. -/
def Sys2Proof.ratOf (d : Dy) : ℚ := (d.m : ℚ) * (2 : ℚ) ^ d.e

/-- R147 to R150: the rounding of a number into any of the formats, in every mode, with and without FTZ and
SAT; a zero has the sign it is given. -/
def Sys2Proof.Claims.OneRounding : Prop :=
  ∀ f ∈ [fp64, fp32, fp16, bf16, e4m3, e5m2, e2m1], ∀ (c : Ctx) (z : Bool) (d : Dy),
    let r := f.roundDy c.mode c.ftz c.sat z d
    (d.m ≠ 0 → Rounded f c (ratOf d : ℝ) r) ∧ (d.m = 0 → r = ⟨signBit f z, 0⟩)

/-- R168: a root, a reciprocal, or the exact powers and logarithms of two. `v` is the operand; the special
operands give the results of the table. -/
structure Sys2Proof.RootRows (f : Fmt) (c : Ctx) (v : Val) (sqrt rcp rsqrt exp2 log2 : Lane) : Prop where
  nan : ∀ q, v = .nan q → ∀ r ∈ [sqrt, rcp, rsqrt, exp2, log2], r = ⟨canonNan f, if q then flNV else 0⟩
  minusInf : v = .inf true → rcp = ⟨signBit f true, 0⟩ ∧ exp2 = ⟨0, 0⟩ ∧
    ∀ r ∈ [sqrt, rsqrt, log2], r = ⟨canonNan f, flNV⟩
  plusInf : v = .inf false → rcp = ⟨0, 0⟩ ∧ rsqrt = ⟨0, 0⟩ ∧ ∀ r ∈ [sqrt, exp2, log2],
    r = ⟨infCode f false, 0⟩
  zero : ∀ n, v = .num n 0 → sqrt = ⟨signBit f n, 0⟩ ∧ rcp = ⟨infCode f n, flDZ⟩ ∧
    rsqrt = ⟨infCode f n, flDZ⟩ ∧ Rounded f c 1 exp2 ∧ log2 = ⟨infCode f true, flDZ⟩
  below : ∀ n x, v = .num n x → x < 0 → ∀ r ∈ [sqrt, rsqrt, log2], r = ⟨canonNan f, flNV⟩
  roots : ∀ n x, v = .num n x → 0 < x →
    Rounded f c (Real.sqrt (x : ℝ)) sqrt ∧ Rounded f c (1 / Real.sqrt (x : ℝ)) rsqrt
  inverse : ∀ n x, v = .num n x → x ≠ 0 → Rounded f c (1 / (x : ℝ)) rcp
  powers : ∀ n (k : ℤ), v = .num n k → Rounded f c ((2 : ℝ) ^ k) exp2
  logs : ∀ n (k : ℤ), v = .num n ((2 : ℚ) ^ k) →
    (k = 0 → log2 = ⟨0, 0⟩) ∧ (k ≠ 0 → Rounded f c (k : ℝ) log2)

/-- R166: a quotient. -/
structure Sys2Proof.Quotient (f : Fmt) (c : Ctx) (u v : Val) (r : Lane) : Prop where
  nan : u.isNan || v.isNan → r = ⟨canonNan f, if u.snan || v.snan then flNV else 0⟩
  infs : ∀ m n, u = .inf m → v = .inf n → r = ⟨canonNan f, flNV⟩
  ofInf : ∀ m n y, u = .inf m → v = .num n y → r = ⟨infCode f (m != n), 0⟩
  byInf : ∀ m n x, u = .num m x → v = .inf n → r = ⟨signBit f (m != n), 0⟩
  zeros : ∀ m n, u = .num m 0 → v = .num n 0 → r = ⟨canonNan f, flNV⟩
  byZero : ∀ m n x, u = .num m x → x ≠ 0 → v = .num n 0 → r = ⟨infCode f (m != n), flDZ⟩
  ofZero : ∀ m n y, u = .num m 0 → v = .num n y → y ≠ 0 → r = ⟨signBit f (m != n), 0⟩
  nums : ∀ m n x y, u = .num m x → x ≠ 0 → v = .num n y → y ≠ 0 → Rounded f c ((x / y : ℚ) : ℝ) r

/-- The order of R169: minus infinity first, minus zero before plus zero. -/
def Sys2Proof.Val.before (u v : Val) : Prop :=
  match u, v with
  | .inf m, .inf n => m = true ∧ n = false
  | .inf m, .num _ _ => m = true
  | .num _ _, .inf n => n = false
  | .num m x, .num n y => x < y ∨ (x = y ∧ m = true ∧ n = false)
  | _, _ => False

/-- R169: an extreme: one of the two lanes, with none of the two before it, or after it; with a NaN the
canonical NaN, or the other lane where numbers are preferred. Under FTZ a subnormal lane is a zero. -/
structure Sys2Proof.Extreme (f : Fmt) (ftz big num : Bool) (a b : Nat) (r : Lane) : Prop where
  flag : r.fl = if (valOf f ftz a).snan || (valOf f ftz b).snan then flNV else 0
  nans : (valOf f ftz a).isNan = true → (valOf f ftz b).isNan = true → r.bits = canonNan f
  first : (valOf f ftz a).isNan = true → (valOf f ftz b).isNan = false →
    if num then valOf f false r.bits = valOf f ftz b else r.bits = canonNan f
  second : (valOf f ftz a).isNan = false → (valOf f ftz b).isNan = true →
    if num then valOf f false r.bits = valOf f ftz a else r.bits = canonNan f
  lanes : (valOf f ftz a).isNan = false → (valOf f ftz b).isNan = false →
    let v := valOf f false r.bits
    (v = valOf f ftz a ∨ v = valOf f ftz b) ∧
      ∀ u, u = valOf f ftz a ∨ u = valOf f ftz b → if big then ¬ v.before u else ¬ u.before v

/-- R170: a compare. -/
structure Sys2Proof.Compared (f : Fmt) (ftz : Bool) (r : Rel) (a b : Nat) (p : Bool × Flags5) : Prop where
  un : (valOf f ftz a).isNan || (valOf f ftz b).isNan →
    p = (r == .ne || r == .un, if (valOf f ftz a).snan || (valOf f ftz b).snan || r == .lt || r == .le
      then flNV else 0)
  ordered : ∀ x y : EReal, (∀ n q, valOf f ftz a = .num n q → x = ((q : ℝ) : EReal)) →
    (∀ n q, valOf f ftz b = .num n q → y = ((q : ℝ) : EReal)) →
    (∀ n, valOf f ftz a = .inf n → x = if n then ⊥ else ⊤) →
    (∀ n, valOf f ftz b = .inf n → y = if n then ⊥ else ⊤) →
    (valOf f ftz a).isNan = false → (valOf f ftz b).isNan = false →
    p.2 = 0 ∧ (p.1 = true ↔ match r with
      | .eq => x = y
      | .ne => x ≠ y
      | .lt => x < y
      | .le => x ≤ y
      | .un => False)

/-- R173: a lane rounded to an integral value. -/
structure Sys2Proof.Integral (f : Fmt) (c : Ctx) (v : Val) (r : Lane) : Prop where
  nan : ∀ q, v = .nan q → r = ⟨canonNan f, if q then flNV else 0⟩
  inf : ∀ n, v = .inf n → r = ⟨infCode f n, 0⟩
  num : ∀ n x, v = .num n x → ∃ k : ℤ, IntRounded c.mode x k ∧ valOf f false r.bits = .num n (k : ℚ) ∧
    r.fl = if (k : ℚ) = x then 0 else flNX

/-- R166, R168, R169, R170, R173: the lane operations of the float rows of VOP and VRED, on every code: sums,
products and quotients are the exact value rounded once, and so are roots and reciprocals, the powers of two
of integers and the logarithms of powers of two. That every other power or logarithm is rounded once too
rests on the digits carried (log 13). -/
def Sys2Proof.Claims.ExactlyRounded : Prop :=
  ∀ f ∈ [fp64, fp32, fp16, bf16], ∀ (c : Ctx) (a b : Nat), a < 2 ^ f.w → b < 2 ^ f.w →
    let u := valOf f c.ftz a
    let v := valOf f c.ftz b
    SumOf f c [u, v] (f.add c a b) ∧ SumOf f c [u, v.minus] (f.sub c a b) ∧
    SumOf f c [u.times v] (f.mul c a b) ∧ Quotient f c u v (f.div c a b) ∧
    RootRows f c u (f.sqrt c a) (f.rcp c a) (f.rsqrt c a) (f.exp2 c a) (f.log2 c a) ∧
    (∀ big num, Extreme f c.ftz big num a b (f.pick c.ftz big num a b)) ∧
    (∀ r, Compared f c.ftz r a b (f.compare c.ftz r a b)) ∧ Integral f c u (f.integral c a)

/-- R145 to R150, R166 to R170, R173: a rounding delivers, of all finite values of the format, the one that
the mode picks, with ties to the even code in RNE and away from zero in RNA, with the overflow, the underflow
and the flush that the rules give; and the lane operations of the vector words are exact values rounded once
by it. -/
def Obligations.RoundingIsNearest : Prop := Claims.OneRounding ∧ Claims.ExactlyRounded

/-! ## Exact sums and Surveys (R157, R195 to R200, R220 to R231) -/

/-- The number times 2^160, which is an integer for the formats an accumulator takes (R157). -/
def Sys2Proof.fixed160 : Machine.Num → Int
  | .fin n m e => (if n then -1 else 1) * (m : Int) * 2 ^ (e + 160).toNat
  | _ => 0

/-- The own scratchpad as a word of the object unit reads it: some pieces may have been read before (R196,
R225, R300; that it may hold issue between them is DESIGN CHOICE, log 1). -/
def Sys2Proof.seenScratch (s : State) : Mem := s.myCore.scratch.writePieces (s.me.seen.getD [])

/-- The own scratchpad with what the slot still has to write into it (R196, R225). -/
def Sys2Proof.full (s : State) : Mem := s.myCore.scratch.writePieces s.me.late

/-- No slot of the core reads an object in the unit `u` or has pieces of one still to write there: the unit
works on one at a time (R196, R224). What the other unit has under way does not hold it (R225). -/
structure Sys2Proof.Alone (s : State) (u : ObjUnit) : Prop where
  own : s.me.late = []
  late : ∀ i, i < 4 → (s.slot (4 * coreOf s.focus + i)).unit = u →
    (s.slot (4 * coreOf s.focus + i)).late = []
  mates : ∀ i, i < 4 → 4 * coreOf s.focus + i ≠ s.focus → (s.slot (4 * coreOf s.focus + i)).unit = u →
    (s.slot (4 * coreOf s.focus + i)).readsObject = false

/-- The word has read some pieces, as they stand, and reads the others at its next turn. -/
def Sys2Proof.Begun (s : State) (i : Instr) : Prop :=
  ∃ t ps, exec i s = .next t ∧ t.me.seen = some ps ∧
    (∀ x, (s.myCore.scratch.writePieces ps).read x = s.myCore.scratch.read x) ∧
    t.me.pc = s.me.pc ∧ t.me.pos = s.me.pos ∧ FileKept s t ∧ LastSame s t ∧
    (∀ x, t.mem.read x = s.mem.read x) ∧ (∀ k, t.core k = s.core k) ∧
    ∀ c, c ≠ s.focus → t.slot c = s.slot c

/-- A word that reads objects has its effect, or has begun, and then it has its effect at its next turn. -/
def Sys2Proof.Reads (s : State) (i : Instr) (effect : Prop) : Prop :=
  (s.me.seen ≠ none → effect) ∧ (s.me.seen = none → effect ∨ Begun s i)

/-- The fields of a long accumulator (R157): VALUE, COUNT and the three status bits. -/
structure Sys2Proof.AccIs (x : Nat) (value : Int) (count : Nat) (ninf pinf nan : Bool) : Prop where
  value : ((x % 2 ^ 384 : Nat) : Int) = value % 2 ^ 384
  count : x / 2 ^ 384 % 2 ^ 61 = min count (2 ^ 61 - 1)
  ninf : x.testBit 445 = ninf
  pinf : x.testBit 446 = pinf
  nan : x.testBit 447 = nan
  reserved : x / 2 ^ 448 = 0

/-- A word that writes objects of the own scratchpad has gone on: no register, no memory and no other slot
or core has changed, and of the scratchpad only the bytes that `out` leaves; each byte is the old one or the
one that it is when all has been written. -/
structure Sys2Proof.ObjectLeft (s t : State) (out : Nat → Prop) : Prop where
  file : FileKept s t
  last : LastKept s t
  retired : Retired s t (s.me.pc + 4)
  mem : ∀ x, t.mem.read x = s.mem.read x
  kept : ∀ x, out x → (full t).read x = s.myCore.scratch.read x
  bytes : ∀ x, t.myCore.scratch.read x = s.myCore.scratch.read x ∨
    t.myCore.scratch.read x = (full t).read x
  cores : ∀ k, k ≠ coreOf s.focus → t.core k = s.core k
  others : ∀ c, c ≠ s.focus → t.slot c = s.slot c
  special : { t.me with late := [] }.special = s.me.special

/-- A word that replaces the 64 bytes of an object. -/
def Sys2Proof.ObjectWord (s : State) (m : Bool) (i : Instr) (o : Nat) (p : Nat → Prop) : Prop :=
  ∃ t, exec i s = .next (t.settle s.focus m) ∧ p ((full t).readLE o 64) ∧
    ObjectLeft s t fun x => x < o ∨ o + 64 ≤ x

/-- An aligned offset of the own scratchpad (R195). -/
def Sys2Proof.accOffset (s : State) (a : Reg) : Prop :=
  (s.int a).toNat < 0x8000 ∧ (s.int a).toNat % 64 = 0

/-- R195 to R200, R157: LAZ clears an accumulator; LAADD and LASUB add every lane of B exactly, or its
negative, and count it; LAMRG adds another accumulator; LARND and LARNDB round it once, and LAST
delivers its status word. -/
def Obligations.LongAccumulator : Prop :=
  ∀ (s : State) (m : Bool) (d a b : Reg), s.ints [a] → accOffset s a → Alone s .lacc →
    let o := (s.int a).toNat
    let x := (seenScratch s).readLE o 64
    let count := x / 2 ^ 384 % 2 ^ 61;
    (Ready {} s [a] → ObjectWord s m (.laz m a) o fun v => v = 0) ∧
    (Ready {} s [a, b] → x / 2 ^ 448 = 0 → ∀ f, (s.me.read b).tag.fmt = some f →
      (s.me.read b).tag ≠ .f64x2 →
      let g := (s.me.read b).tag
      let l := (List.range g.lanes).map fun i => f.decode (lane (s.me.read b) g.width i)
      let sum : Int := (l.map fixed160).sum
      let any (p : Machine.Num → Bool) : Bool := decide (∃ n ∈ l, p n = true)
      let plus := any fun n => n == .inf false
      let minus := any fun n => n == .inf true;
      Reads s (.laadd m a b) (ObjectWord s m (.laadd m a b) o fun v =>
        AccIs v ((x % 2 ^ 384 : Nat) + sum) (count + g.lanes) (x.testBit 445 || minus)
          (x.testBit 446 || plus) (x.testBit 447 || any Machine.Num.isNan)) ∧
      Reads s (.lasub m a b) (ObjectWord s m (.lasub m a b) o fun v => AccIs v ((x % 2 ^ 384 : Nat) - sum)
        (count + g.lanes) (x.testBit 445 || plus) (x.testBit 446 || minus)
        (x.testBit 447 || any Machine.Num.isNan))) ∧
    (Ready {} s [a, b] → s.ints [b] → accOffset s b → x / 2 ^ 448 = 0 →
      let y := (seenScratch s).readLE (s.int b).toNat 64
      y / 2 ^ 448 = 0 → Reads s (.lamrg m a b) (ObjectWord s m (.lamrg m a b) o fun v =>
        AccIs v ((x % 2 ^ 384 : Nat) + (y % 2 ^ 384 : Nat)) (count + y / 2 ^ 384 % 2 ^ 61)
          (x.testBit 445 || y.testBit 445) (x.testBit 446 || y.testBit 446)
          (x.testBit 447 || y.testBit 447))) ∧
    (Ready { rnd := true } s [a, d] → x / 2 ^ 448 = 0 →
      let value : Int := ((x % 2 ^ 384 : Nat) : Int) - if x.testBit 383 then 2 ^ 384 else 0
      ∀ e ∈ [(Instr.larnd m d a, fp32, Tag.f32x4), (.larndb m d a, bf16, .bf16x8)],
        let r : Lane :=
          if x.testBit 447 || (x.testBit 446 && x.testBit 445) then ⟨e.2.1.qnan, 0⟩
          else if x.testBit 446 then ⟨e.2.1.inf false, 0⟩
          else if x.testBit 445 then ⟨e.2.1.inf true, 0⟩
          else e.2.1.roundDy s.bump.mode false false false ⟨value, -160⟩
        Reads s e.1 (∃ t, exec e.1 s = .next (t.settle s.focus m) ∧
          Holds s t d ⟨BitVec.ofNat 128 r.bits, e.2.2⟩ ∧ Retired s t (s.me.pc + 4) ∧
          FlagFrame s t r.fl)) ∧
    (Ready {} s [a, d] → x / 2 ^ 448 = 0 → Reads s (.last m d a)
      (∃ t, exec (.last m d a) s = .next (t.settle s.focus m) ∧
        Holds s t d (.int (BitVec.ofNat 64 (x / 2 ^ 384))) ∧ Retired s t (s.me.pc + 4) ∧
        SlotFrame s t))

/-- The terms of a gain: whether one is infinite, the exact sum of the finite ones times 2^160, and
whether an element is NaN (R222). -/
def Sys2Proof.gainOf (l : List (Machine.Num × Machine.Num)) : Bool × Int × Bool :=
  let rise := l.filter fun p => !p.1.isNan && !p.2.isNan && p.1.lt p.2
  let infinite (n : Machine.Num) : Bool := n == .inf false || n == .inf true
  (rise.any fun p => infinite p.1 || infinite p.2,
   ((rise.filter fun p => !infinite p.1 && !infinite p.2).map fun p =>
     fixed160 p.2 - fixed160 p.1).sum,
   l.any fun p => p.1.isNan || p.2.isNan)

/-- A gain delivered in FP32, rounded in RNE (R223). -/
def Sys2Proof.gainLane (g : Bool × Int × Bool) : Lane :=
  let r := if g.1 then ⟨fp32.inf false, 0⟩ else fp32.roundDy .rne false false false ⟨g.2.1, -160⟩
  ⟨r.bits, r.fl ||| if g.2.2 then flNV else 0⟩

/-- The value of an element by FMT (R220). -/
def Sys2Proof.elemNum (fmt x : Nat) : Machine.Num :=
  if fmt = 0 then fp32.decode x else if fmt = 1 then bf16.decode x else .fin false x 0

/-- R220, R222, R223, R227 to R230: the Survey words on a well-formed object at `o`, of `n` elements in
format `fmt`, whose best values are `best`, and candidates that lie in the scratchpad. SVINIT fills
the best values and clears COMMITS; the probes deliver gains; SVPRBX adds one to an accumulator, which it reads and writes when it has its effect (R225);
SVCMT commits and counts. That a NaN element sets NV beside an infinite gain is DEDUCED, log 51. -/
def Sys2Proof.Claims.SurveyWords : Prop :=
  ∀ (s : State) (m : Bool) (d a b : Reg) (v : Survey), s.ints [a] → Alone s .survey →
    let o := (s.int a).toNat
    surveyAt s.myCore.scratch o = .ok v → o % 32 = 0 → o + 32 + v.n * v.esz ≤ 0x8000 →
    let sp := seenScratch s
    let esz := if v.fmt = 0 then 4 else 2
    let at' (q i : Nat) : Nat := sp.readLE (q + i * esz) esz
    let c := (s.int b).toNat
    let fits (k : Nat) : Prop := s.ints [b] ∧ c % 16 = 0 ∧ c < 0x8000 ∧
      c + k * v.stride + v.n * esz ≤ 0x8000
    let pairs (k : Nat) : List (Machine.Num × Machine.Num) := (List.range v.n).map fun i =>
      (elemNum v.fmt (at' (o + 32) i), elemNum v.fmt (at' (c + k * v.stride) i))
    let outside (x : Nat) : Prop := x < o + 8 ∨ (o + 16 ≤ x ∧ x < o + 32) ∨ o + 32 + v.n * esz ≤ x;
    (Ready {} s [a, b] → ∀ fill, v.fill b (s.me.read b) = .ok fill →
      ∃ t, exec (.svinit m a b) s = .next (t.settle s.focus m) ∧
        (∀ i, i < v.n → (full t).readLE (o + 32 + i * esz) esz = fill) ∧
        (full t).readLE (o + 8) 8 = 0 ∧ ObjectLeft s t outside) ∧
    (Ready {} s [a, b, d] → fits 0 →
      let r := gainLane (gainOf (pairs 0))
      Reads s (.svprb m d a b) (∃ t, exec (.svprb m d a b) s = .next (t.settle s.focus m) ∧
        Holds s t d ⟨BitVec.ofNat 128 r.bits, .f32x4⟩ ∧ Retired s t (s.me.pc + 4) ∧
        FlagFrame s t r.fl)) ∧
    (Ready {} s [a, b, d] → fits 0 → fits 3 →
      let l := (List.range 4).map fun k => gainLane (gainOf (pairs k))
      Reads s (.svprb4 m d a b) (∃ t, exec (.svprb4 m d a b) s = .next (t.settle s.focus m) ∧
        Holds s t d (.ofLanes .f32x4 32 (lanesBits l)) ∧ Retired s t (s.me.pc + 4) ∧
        FlagFrame s t (lanesFlags l))) ∧
    (Ready {} s [a, b, d] → fits 0 → s.ints [d] → accOffset s d → Alone s .lacc →
      let q := (s.int d).toNat
      let x := s.myCore.scratch.readLE q 64
      let g := gainOf (pairs 0)
      x / 2 ^ 448 = 0 → Reads s (.svprbx m d a b) (ObjectWord s m (.svprbx m d a b) q fun y =>
        AccIs y ((x % 2 ^ 384 : Nat) + if g.1 then 0 else g.2.1) (x / 2 ^ 384 % 2 ^ 61 + 1)
          (x.testBit 445) (x.testBit 446 || g.1) (x.testBit 447))) ∧
    (Ready {} s [a, b] → fits 0 →
      let new (i : Nat) : Nat :=
        let p := (elemNum v.fmt (at' (o + 32) i), elemNum v.fmt (at' c i))
        if p.2.isNan then at' (o + 32) i
        else if p.1.isNan || p.1.lt p.2 then at' c i else at' (o + 32) i
      Reads s (.svcmt m a b) (∃ t, exec (.svcmt m a b) s = .next (t.settle s.focus m) ∧
        (∀ i, i < v.n → (full t).readLE (o + 32 + i * esz) esz = new i) ∧
        (full t).readLE (o + 8) 8 = (v.commits + 1) % 2 ^ 64 ∧ ObjectLeft s t outside))

/-- R231: SVPICK and SVPICKH deliver the id and the gain of the lane with the greatest gain, the lowest
id or the highest among equal gains; NaN lanes count only where all are NaN, and the gain is then
the canonical NaN. -/
def Sys2Proof.Claims.Picks : Prop :=
  ∀ (s : State) (m : Bool) (d a b : Reg), Ready {} s [a, b, d] → d ≠ 62#6 → d ≠ 63#6 →
    (s.me.read a).tag = .f32x4 ∨ (s.me.read a).tag = .raw →
    (s.me.read b).tag = .i32x4 ∨ (s.me.read b).tag = .raw →
    let gain i := lane (s.me.read a) 32 i
    let num i := fp32.decode (gain i)
    let id i := readInt .i32x4 (lane (s.me.read b) 32 i)
    ∀ e ∈ [(Instr.svpick m d a b, false), (.svpickh m d a b, true)],
      ∃ t w bits, exec e.1 s = .next (t.settle s.focus m) ∧ w < 4 ∧
        Holds s t d (.int (BitVec.ofInt 64 (id w))) ∧ Retired s t (s.me.pc + 4) ∧
        t.me.l1 = s.me.next1 (s.me.l1.later ⟨⟨BitVec.ofNat 128 bits, .f32x4⟩, s.me.pos + 2, s.me.pos⟩) ∧
        t.me.l0 = s.me.next0 s.me.l0 ∧
        ((∃ i < 4, (num i).isNan = false) → bits = gain w ∧ (num w).isNan = false ∧
          ∀ i < 4, (num i).isNan = false → (num w).lt (num i) = false ∧
            ((num i).lt (num w) = false → if e.2 then id i ≤ id w else id w ≤ id i)) ∧
        ((∀ i < 4, (num i).isNan = true) → bits = fp32.qnan ∧
          ∀ i < 4, if e.2 then id i ≤ id w else id w ≤ id i) ∧
        FlagFrame s t (if [0, 1, 2, 3].any (fun i => (num i).snan) then flNV else 0)

/-- R220 to R231: the words of SURVEY. -/
def Obligations.Surveys : Prop := Claims.SurveyWords ∧ Claims.Picks

/-! ## Operand memory and the matrix unit (R201 to R219) -/

/-- The issuing slot holds unit `u` (R203). -/
def Sys2Proof.holdsUnit (s : State) (u : Nat) : Prop :=
  (s.munit u).state ≠ .free ∧ (s.munit u).owner = BitVec.ofNat 2 s.focus

/-- Unit `u` is an operand slot of the issuing slot and settled: OWNED or READY (R203). -/
def Sys2Proof.settled (s : State) (u : Nat) : Prop :=
  holdsUnit s u ∧ ((s.munit u).state = .owned ∨ (s.munit u).state = .ready)

/-- The word has left unit `u` as `x`, no register has changed, and nothing else has changed since
state `v`. -/
structure Sys2Proof.UnitLeft (s v t : State) (u : Nat) (x : MUnit) : Prop where
  unit : t.munit u = x
  others : ∀ k, k ≠ u → t.munit k = v.munit k
  file : FileKept s t
  last : LastKept s t
  retired : Retired s t (s.me.pc + 4)
  frame : SlotFrame (v.setUnit u x) t

/-- Element `i` of row `r` of a unit (R202). -/
def Sys2Proof.elem (x : MUnit) (r i : Nat) : Nat :=
  (vget x.rows 0 r).toNat / 2 ^ (x.tag.width * i) % 2 ^ x.tag.width

/-- R203, R207 to R209, R214, R217: MCLAIM takes a free unit, zeroed, with scales 1.0 in an operand
slot; MREL frees a held one; MZERO zeroes a held one; MSTATE delivers a unit's snapshot. A claim of
a unit that is held, and a release of one that is not the slot's, trap SLOTSTATE with the unit's
number in TRAPINFO. -/
def Sys2Proof.Claims.UnitWords : Prop :=
  ∀ (s : State) (m : Bool) (d a : Reg) (k : BitVec 1) (f : BitVec 5) (g : Tag),
    let u := d.toNat
    let x := s.munit u
    u < 8 → Ready {} s [] → Tag.ofCode f = some g →
    (x.state = .free → ∃ t y, exec (.mclaim m d k f) s = .next (t.settle s.focus m) ∧ UnitLeft s s t u y ∧
      y.state = .owned ∧ y.owner = BitVec.ofNat 2 s.focus ∧ y.tag = g ∧ y.scaled = (k == 1#1) ∧
      y.poison = none ∧ (∀ r i, elem y r i = 0) ∧
      (u < 4 → ∀ r, r < 16 → vget y.scales 0 r = 0x7F7F7F7F7F7F7F7F)) ∧
    (x.state ≠ .free → s.canTrap → ∃ t, exec (.mclaim m d k f) s = .next t ∧
      Trapped s.bump t .slotState s.me.groupStart 0 (BitVec.ofNat 64 u) false) ∧
    (holdsUnit s u → u < 4 → x.state ≠ .loading →
      ∃ t, exec (.mrel m d) s = .next (t.settle s.focus m) ∧
        UnitLeft s (s.accrue s.focus (x.pend.foldl (· ||| ·) 0)) t u .reset) ∧
    (holdsUnit s u → u < 4 → ∃ t, exec (.mrel m d) s = .next (t.settle s.focus m) ∧
      t.munit u = .reset ∧ FileKept s t ∧ Retired s t (s.me.pc + 4)) ∧
    (holdsUnit s u → 4 ≤ u → ∃ t, exec (.mrel m d) s = .next (t.settle s.focus m) ∧
      UnitLeft s (s.settleTile u) t u .reset ∧ u ∉ t.myCore.mmas) ∧
    (¬ holdsUnit s u → s.canTrap → ∃ t, exec (.mrel m d) s = .next t ∧
      Trapped s.bump t .slotState s.me.groupStart 0 (BitVec.ofNat 64 u) false) ∧
    (4 ≤ u → holdsUnit s u → x.pend = [] → ∃ t y, exec (.mzero m d) s = .next (t.settle s.focus m) ∧
      UnitLeft s s t u y ∧ y = { x with rows := y.rows } ∧ ∀ r i, elem y r i = 0) ∧
    (u < 4 → settled s u → ∃ t y, exec (.mzero m d) s = .next (t.settle s.focus m) ∧ UnitLeft s s t u y ∧
      y.state = .ready ∧ y.poison = none ∧ y.tag = x.tag ∧ (∀ r i, elem y r i = 0) ∧
      ∀ r, r < 16 → vget y.scales 0 r = 0x7F7F7F7F7F7F7F7F) ∧
    (s.me.pending d = false → a.toNat < 8 →
      let z := s.munit a.toNat
      ∃ t w, exec (.mstate m d a) s = .next (t.settle s.focus m) ∧ Holds s t d (.int w) ∧
        Retired s t (s.me.pc + 4) ∧ SlotFrame s t ∧
        w = z.snapshot.setWidth 64 ∧ w.toNat % 4 = z.state.code.toNat)

/-- The word has made unit `u`, `x` before, LOADING with the pieces `ps`, of which some may have been
performed (which, is DESIGN CHOICE, log 1); `v` is the state after the translations. -/
structure Sys2Proof.LoadBegun (s v t : State) (u : Nat) (x : MUnit) (kind : LoadKind) (per : Nat)
    (ps : List (List Piece)) : Prop where
  unit : ∃ l q, t.munit u = { x with state := .loading, poison := q, load := some l, pend := [] } ∧
    l.kind = kind ∧ l.pos = s.me.pos ∧ l.per = per ∧
    l.pieces.map (fun p => { p with got := none }) = ps.flatten.map (Piece.unit s.me.asid)
  others : ∀ k, k ≠ u → t.munit k = v.munit k
  file : FileKept s t
  last : LastKept s t
  retired : Retired s t (s.me.pc + 4)
  scratch : ∀ k a, (t.core k).scratch.read a = (v.core k).scratch.read a
  idle : Idle v → (∀ a, t.mem.read a = v.mem.read a) ∧ ∀ c, c ≠ s.focus → t.slot c = v.slot c

/-- R206, R210, R212: MLOAD and MLOADT begin a load of sixteen rows of 256 bytes, or of a memory row for
each element; MDEC of 1,024 bytes of indices and 16 of scales. -/
def Sys2Proof.Claims.UnitLoads : Prop :=
  ∀ (s v : State) (m : Bool) (d a b : Reg) (ps : List (List Piece)), s.ints [a] → s.ints [b] →
    let u := d.toNat
    let x := s.munit u
    let va := s.int a
    let st := s.int b
    let w := x.tag.width
    u < 4 → Ready {} s [a, b] → settled s u →
    (va.toNat % 16 = 0 → st.toNat % 16 = 0 →
      allPieces s.bump .load (rowsAt va st 16 256) = .ok (v, ps) →
      ∃ t, exec (.mload m d a b) s = .next (t.settle s.focus m) ∧ LoadBegun s v t u x .rows 16 ps) ∧
    (va.toNat % 16 = 0 → st.toNat % 16 = 0 → x.tag ≠ .e2m1x32 →
      allPieces s.bump .load (rowsAt va st (2048 / w) (2 * w)) = .ok (v, ps) →
      ∃ t, exec (.mloadt m d a b) s = .next (t.settle s.focus m) ∧
        LoadBegun s v t u x .columns (w / 8) ps) ∧
    (x.tag = .e4m3x16 → x.scaled = true → va.toNat % 64 = 0 → st.toNat % 16 = 0 →
      allPieces s.bump .load [(va, 1024), (st, 16)] = .ok (v, ps) →
      ∃ t, exec (.mdec m d a b) s = .next (t.settle s.focus m) ∧
        LoadBegun s v t u x (.indices s.myCore.pattern true) 4 ps)

/-- What a piece of a unit's load reads: what it has read, or what the scratchpad holds. -/
def Sys2Proof.pieceNow (s : State) (p : UnitPiece) : Nat :=
  p.got.getD ((s.core (p.core.getD 0)).scratch.readLE p.pa p.n)

/-- Bit `i` of row `r` of the load, its pieces one after another. -/
def Sys2Proof.loadedBit (s : State) (l : UnitLoad) (r i : Nat) : Bool :=
  match l.pieces[l.per * r + i / 128]? with
  | some p => (pieceNow s p).testBit (i % 128)
  | none => false

/-- R203, R206, R210, R212, R155: a load whose pieces lie in scratchpads or have been performed completes:
the slot is READY, and holds the rows; or element i of row r from element r of the i-th memory row; or the
elements that the pattern table gives for the indices, and the scales. A piece of memory is performed by a
read of its slot; a fault marks the unit and is pending in the slot. -/
def Sys2Proof.Claims.UnitLoadEnds : Prop :=
  (∀ (s : State) (core u : Nat) (l : UnitLoad), u < 8 →
    let x := vget (s.core core).units .reset u
    x.state = .loading → x.load = some l → (∀ p ∈ l.pieces, p.n = 16 ∧ ∀ g, p.got = some g → g < 2 ^ 128) →
    (∀ p ∈ l.pieces, p.core.isSome = true ∨ p.got.isSome = true) →
    ∃ t y, exec (.slotLoadComplete core u) s = .next t ∧ vget (t.core core).units .reset u = y ∧
      y.state = .ready ∧ y.load = none ∧ y.pend = [] ∧ y.tag = x.tag ∧ y.poison = x.poison ∧
      (∀ a, t.mem.read a = s.mem.read a) ∧
      (∀ k a, (t.core k).scratch.read a = (s.core k).scratch.read a) ∧
      (l.kind = .rows → l.per = 16 → y.scales = x.scales ∧
        ∀ r i, r < 16 → i < 2048 → (vget y.rows 0 r).getLsbD i = loadedBit s l r i) ∧
      (l.kind = .columns → x.tag ≠ .e2m1x32 → l.per = x.tag.width / 8 →
        l.pieces.length = l.per * x.tag.perRow → y.scales = x.scales ∧
        let w := x.tag.width
        ∀ r i j, r < 16 → i < x.tag.perRow → j < w →
          (elem y r i).testBit j = loadedBit s l i (w * r + j)) ∧
      ∀ tab sc, l.kind = .indices tab sc → l.per = 4 → x.tag = .e4m3x16 →
        (∀ r k w, r < 16 → k < 32 → w < 8 → ∀ ix < 65536,
          (∀ j, j < 16 → ix.testBit j = loadedBit s l r (16 * k + j)) →
          let e := patternAt tab (ix / 256)
          elem y r (8 * k + w) = [0x30, 0x3C, 0x42, 0x46].getD (e / 4 ^ w % 4) 0
            + 128 * (ix / 2 ^ w % 2)) ∧
        (sc = false → y.scales = x.scales) ∧
        (sc = true → ∀ r k j, r < 16 → k < 8 → j < 8 →
          (vget y.scales 0 r).getLsbD (8 * k + j) = loadedBit s l 16 (8 * r + j))) ∧
  ∀ (s : State) (c u k : Nat) (l : UnitLoad) (p : UnitPiece), u < 8 →
    let x := vget (s.core (coreOf c)).units .reset u
    let r := s.readGlobal c p.pa p.cached p.n
    let t := s.readPiece c u k
    let y := vget (t.core (coreOf c)).units .reset u
    x.load = some l → l.pieces[k]? = some p → p.got = none → p.core = none →
    (∀ v, r.2 = .ok v → y.poison = x.poison ∧
      (y.load.bind fun l => l.pieces[k]?) = some { p with got := some v }) ∧
    (∀ e, r.2 = .error e → y.poison = some (x.poison.getD e.code) ∧
      (t.slot c).err = (r.1.slot c).err.record e p.va 0 l.pos)

/-- What a piece of a word's access holds, with nothing on its way: `got` are the pieces that the word has
read before. -/
def Sys2Proof.readBefore (s v : State) (l : List Piece) (r : Nat) : Nat :=
  let got := (s.me.seen.getD []).map (·.2.2)
  if r < got.length then got.getD r 0
  else match l[r]? with
    | some p => held v p.tg p.n
    | none => 0

/-- The pieces can be read as they stand in scratchpads and memory. -/
def Sys2Proof.Readable (v : State) (l : List Piece) : Prop :=
  Idle v ∧ Coherent v ∧ ∀ p ∈ l, ∀ pa leaf, p.tg = .phys pa leaf → Plain v pa p.n

/-- The word has read some pieces and holds issue. -/
def Sys2Proof.HoldsOn (s : State) (i : Instr) : Prop :=
  ∃ t l, exec i s = .next t ∧ t.me.seen = some l ∧ t.me.pc = s.me.pc ∧ t.me.pos = s.me.pos ∧
    FileKept s t ∧ LastSame s t ∧ ∀ k a, (t.core k).scratch.read a = (s.core k).scratch.read a

/-- R206, R211, R213, R300: MLOADSC brings the scales of sixteen rows, of an E2M1 slot every other byte, and
traps FORMAT with TRAPINFO = 11 where a pair of them differs; MTBL replaces the pattern table or, from z,
restores the default one. Both read memory or scratchpad in ascending order, and may hold issue between. -/
def Sys2Proof.Claims.ScalesAndTables : Prop :=
  ∀ (s v : State) (m : Bool) (d a b : Reg) (ps : List (List Piece)), s.ints [a] →
    let u := d.toNat
    let x := s.munit u
    let va := s.int a
    let st := s.int b
    let n : Nat := if x.tag = .e2m1x32 then 16 else 8
    let value (r : Nat) : Nat := readBefore s v ps.flatten r
    let done (i : Instr) (effect : Prop) : Prop :=
      (s.me.seen ≠ none → effect) ∧ (s.me.seen = none → effect ∨ HoldsOn s i);
    (Ready {} s [a, b] → s.ints [b] → u < 4 → holdsUnit s u → x.scaled = true → va.toNat % n = 0 →
      st.toNat % n = 0 → allPieces s.bump .load (rowsAt va st 16 n) = .ok (v, ps) →
      Readable v ps.flatten → (s.me.seen.getD []).length ≤ 16 →
      let byte (r k : Nat) : Nat := if (s.me.seen.getD []).length ≤ r ∧ x.tag = .e2m1x32
        then value r / 256 ^ (2 * k) % 256 else value r / 256 ^ k % 256
      let pairs : Prop := ∀ r k, (s.me.seen.getD []).length ≤ r → r < 16 → k < 8 →
        value r / 256 ^ (2 * k) % 256 = value r / 256 ^ (2 * k + 1) % 256
      (x.tag ≠ .e2m1x32 ∨ pairs → done (.mloadsc m d a b)
        (∃ t, exec (.mloadsc m d a b) s = .next (t.settle s.focus m) ∧ FileKept s t ∧ LastKept s t ∧
          Retired s t (s.me.pc + 4) ∧ (t.munit u).rows = x.rows ∧ (t.munit u).state = x.state ∧
          (∀ r k, r < 16 → k < 8 → (vget (t.munit u).scales 0 r).toNat / 256 ^ k % 256 = byte r k) ∧
          (∀ k, k ≠ u → t.munit k = v.munit k) ∧ ∀ k, t.mem.read k = v.mem.read k)) ∧
      (x.tag = .e2m1x32 → ¬ pairs → s.canTrap → s.me.seen ≠ none →
        ∃ t, exec (.mloadsc m d a b) s = .next t ∧ t.me.trapCause = Cause.format.code ∧
          t.me.trapInfo = 11 ∧ t.me.inTrap = true ∧ (t.munit u).scales = x.scales)) ∧
    (Ready {} s [a] → a ≠ 0#6 → va.toNat % 64 = 0 →
      allPieces s.bump .load [(va, 512)] = .ok (v, ps) → Readable v ps.flatten →
      (s.me.seen.getD []).length ≤ 32 → done (.mtbl m a) (∃ t, exec (.mtbl m a) s = .next (t.settle s.focus m) ∧ FileKept s t ∧
        Retired s t (s.me.pc + 4) ∧ (∀ p, p < 256 →
          patternAt t.myCore.pattern p = value (p / 8) / 2 ^ (16 * (p % 8)) % 2 ^ 16) ∧
        ∀ k, t.mem.read k = v.mem.read k)) ∧
    (Ready {} s [a] → ∃ t, exec (.mtbl m 0#6) s = .next (t.settle s.focus m) ∧ FileKept s t ∧
      Retired s t (s.me.pc + 4) ∧ t.myCore.pattern = none ∧ ∀ k, t.mem.read k = s.mem.read k)

/-- R154, R156: the default pattern table holds 256 patterns, listed by ascending squared norm and
then by ascending value, each once; no pattern left out would come before one of them; and every
core holds it after bring-up. -/
def Sys2Proof.Claims.DefaultPatterns : Prop :=
  let norm (p : Nat) : Nat := ((List.range 8).map fun i => (2 * (p / 4 ^ i % 4) + 1) ^ 2).sum
  defaultPatterns.length = 256 ∧
  defaultPatterns.Pairwise (fun p q => norm p < norm q ∨ (norm p = norm q ∧ p < q)) ∧
  (∀ p < 65536, p ∉ defaultPatterns → ∀ q ∈ defaultPatterns,
    norm q < norm p ∨ (norm q = norm p ∧ q < p)) ∧
  ∀ k p, p < 256 → patternAt (State.reset.core k).pattern p = defaultPatterns.getD p 0

/-- R201 to R217, R154 to R156: operand memory. -/
def Obligations.OperandMemory : Prop :=
  Claims.UnitWords ∧ Claims.UnitLoads ∧ Claims.UnitLoadEnds ∧ Claims.ScalesAndTables ∧
    Claims.DefaultPatterns

/-- The unit as the issuing slot's tile (R203). -/
def Sys2Proof.tileReady (s : State) (u : Nat) : Prop := holdsUnit s u ∧ (s.munit u).pend = []

/-- An element of an operand slot as a value (R145, R202): a float; an integer, in units of 2^-6 in a slot with
scales. -/
def Sys2Proof.elemVal (x : MUnit) (v : Nat) : Val :=
  match x.tag.fmt with
  | some f => valOf f false v
  | none => .num (decide (readInt .i8x16 v < 0))
      ((readInt .i8x16 v : ℚ) * if x.scaled then (2 : ℚ) ^ (-6 : ℤ) else 1)

/-- The scale code of sub-block `kb` of row `r`: one for 32 elements, so that in an E2M1 slot, whose rows hold
sixteen sub-blocks, one covers two; 1.0 without scales (R160, R202). -/
def Sys2Proof.scaleOf (x : MUnit) (r kb : Nat) : Nat :=
  if x.scaled then
    (vget x.scales 0 r).toNat / 256 ^ (if x.tag = .e2m1x32 then kb / 2 else kb) % 256
  else 127

/-- The exact sum of a sub-block (R160): a NaN where a term is one or is invalid, and where two infinities
disagree; else an infinity, or the number, a zero being negative where every term is. -/
def Sys2Proof.blockSum (l : List Val) : Val :=
  if l.any Val.isBad || l.any Val.isNan || (l.any (Val.isInf true) && l.any (Val.isInf false)) then .nan false
  else if l.any (Val.isInf true) then .inf true
  else if l.any (Val.isInf false) then .inf false
  else
    let x := (l.map Val.number).sum
    .num (if x = 0 then l.all Val.neg else decide (x < 0)) x

/-- A sub-block whose exact sum is invalid or reads a signalling NaN (R149, R219). -/
def Sys2Proof.blockBad (l : List Val) : Bool :=
  l.any Val.isBad || l.any Val.snan || (l.any (Val.isInf true) && l.any (Val.isInf false))

/-- R160, R219: an element of a float product, from `old`: the sub-blocks are taken in ascending order, and
each adds its exact sum under its two scales, rounded once to FP32 in RNE with nothing flushed; a scale 0xFF
gives NaN. NV, OF and NX accrue. -/
def Sys2Proof.FloatProduct (x y : MUnit) (i j old : Nat) (r : Lane) : Prop :=
  ∃ acc : Nat → Nat, ∃ fl : Nat → Flags5, acc 0 = old ∧
    (∀ kb, kb < x.tag.perRow / 32 →
      let ps := (List.range 32).map fun k =>
        (elemVal x (elem x i (32 * kb + k))).times (elemVal y (elem y j (32 * kb + k)))
      let ea := scaleOf x i kb
      let eb := scaleOf y j kb
      let t : Val := if ea = 0xFF ∨ eb = 0xFF then .nan false
        else (blockSum ps).scaled ((ea : ℤ) + eb - 254)
      ∃ q : Lane, SumOf fp32 ⟨.rne, false, false⟩ [valOf fp32 false (acc kb), t] q ∧
        acc (kb + 1) = q.bits ∧
        fl kb = ((if blockBad ps then flNV else 0) ||| q.fl) &&& (flNV ||| flOF ||| flNX)) ∧
    r.bits = acc (x.tag.perRow / 32) ∧
    r.fl = ((List.range (x.tag.perRow / 32)).map fl).foldl (· ||| ·) 0

/-- R160, R218, R219: a product of two READY slots of one integer kind adds the exact sums of
products to the tile modulo 2^32, and one of a float kind adds sub-block by sub-block, each addition
rounded once; MMAZ starts from zero. The unit takes one product in 256 die cycles, and until then the word
holds issue (R114, R205). A pair
that does not multiply traps FORMAT with TRAPINFO = 12, and an operand slot that is not READY traps SLOTSTATE
with its number, the first one before the second. -/
def Sys2Proof.Claims.Products : Prop :=
  ∀ (s : State) (m : Bool) (c x y : Reg), c.toNat < 4 → x.toNat < 4 → y.toNat < 4 → Ready {} s [] →
    let u := 4 + c.toNat
    let t := s.munit u
    let a := s.munit x.toNat
    let b := s.munit y.toNat
    holdsUnit s u → holdsUnit s x.toNat → holdsUnit s y.toNat →
    (a.state = .ready → b.state = .ready → a.poison = none → b.poison = none →
      (∀ int, pairKind a b = some int → ∀ zero : Bool,
        let g : Tag := if int then .i32x4 else .f32x4;
        zero = true ∨ t.tag = g →
        let old (r i : Nat) : Nat :=
          if zero then 0 else (vget t.rows 0 r).toNat / 2 ^ (32 * i) % 2 ^ 32
        let i : Instr := if zero then .mmaz m c x y else .mma m c x y;
        (s.myDie.dcyc < s.myCore.matUntil →
          exec i s = .next (s.bump.modMe fun x => { x with slow := true })) ∧
        (s.myCore.matUntil ≤ s.myDie.dcyc → ∃ w z, ∃ new : Nat → Nat → Lane,
          exec i s = .next (w.settle s.focus m) ∧ w.myCore.matUntil = s.myDie.dcyc + 256 ∧
          (∀ r i, r < 16 → i < 16 →
            (int = true → new r i = wrap .i32x4 (readInt .i32x4 (old r i) + ((List.range 256).map fun k =>
              readInt .i8x16 (elem a r k) * readInt .i8x16 (elem b i k)).sum)) ∧
            (int = false → FloatProduct a b r i (old r i) (new r i))) ∧
          UnitLeft s (s.modMyCore fun k =>
            { k with mmas := k.mmas ++ [u], matUntil := w.myCore.matUntil }) w u z ∧ z.tag = g ∧
          (∀ r i, r < 16 → i < 16 → elem z r i = (new r i).bits % 2 ^ 32) ∧
          z.pend = t.pend ++ [lanesFlags ((List.range 16).flatMap fun r =>
            (List.range 16).map fun i => new r i)])) ∧
      (∀ int, pairKind a b = some int → t.tag ≠ (if int then .i32x4 else .f32x4) → s.canTrap →
        ∃ w, exec (.mma m c x y) s = .next w ∧ Trapped s.bump w .format s.me.groupStart 0 13 false) ∧
      (pairKind a b = none → s.canTrap → ∀ i ∈ [Instr.mma m c x y, .mmaz m c x y],
        ∃ w, exec i s = .next w ∧ Trapped s.bump w .format s.me.groupStart 0 12 false)) ∧
    (a.state ≠ .ready → s.canTrap → ∀ i ∈ [Instr.mma m c x y, .mmaz m c x y],
      ∃ w, exec i s = .next w ∧
        Trapped s.bump w .slotState s.me.groupStart 0 (BitVec.ofNat 64 x.toNat) false) ∧
    (a.state = .ready → b.state ≠ .ready → s.canTrap → ∀ i ∈ [Instr.mma m c x y, .mmaz m c x y],
      ∃ w, exec i s = .next w ∧
        Trapped s.bump w .slotState s.me.groupStart 0 (BitVec.ofNat 64 y.toNat) false)

/-- R215, R216, R178, R179, R181: MSTORE converts a tile, each element rounded once, and stores its rows, here
into the own scratchpad, `st` bytes apart; MSTOREB converts a tile into sixteen columns of an operand slot of
its kind. That MSTORE copies the bits of a tile stored in its own format is the model's (DESIGN CHOICE, log
74). -/
def Sys2Proof.Claims.TileStores : Prop :=
  ∀ (s : State) (m : Bool) (d a b : Reg) (dst : Tag),
    (Ready { rnd := true, sat := true, ftz := true, fmt := true } s [a, b] → s.ints [a, b] →
      4 ≤ d.toNat → d.toNat < 8 → tileReady s d.toNat → s.me.late = [] →
      let x := s.munit d.toNat
      let f := modFmt (modOf s.me.hints)
      let va := (s.int a).toNat
      let st := (s.int b).toNat
      let n := 2 * dst.width
      (f = 0 ∧ dst = x.tag) ∨ (f ≠ 0 ∧ Tag.ofCode f = some dst) →
      dst ∈ tileFormats x.tag → va % 16 = 0 → st % 16 = 0 → n ≤ st → va + 15 * st + n ≤ 0x8000 →
      let e (r i : Nat) : Nat := (vget x.rows 0 r).toNat / 2 ^ (32 * i) % 2 ^ 32
      ∃ (t : State) (new : Nat → Nat → Lane), exec (.mstore m d a b) s = .next (t.settle s.focus m) ∧
        (∀ r i, r < 16 → i < 16 → (x.tag = dst → new r i = ⟨e r i, 0⟩) ∧
          (x.tag ≠ dst → Converts s.bump.ctx x.tag dst none (e r i) (new r i))) ∧
        (∀ r, r < 16 → (full t).readLE (va + r * st) n
          = packLanes dst.width (lanesBits ((List.range 16).map (new r)))) ∧
        (∀ f : Flags5, f = lanesFlags ((List.range 16).flatMap fun r => (List.range 16).map (new r)) →
          t.me.fpflags ||| dueFlags t.me.outs = s.me.fpflags ||| dueFlags s.me.outs ||| f) ∧
        ObjectLeft s t fun k => ∀ r, r < 16 → k < va + r * st ∨ va + r * st + n ≤ k) ∧
    (Ready { rnd := true, sat := true, ftz := true } s [b] → s.ints [b] → d.toNat < 4 →
      4 ≤ a.toNat → a.toNat < 8 → tileReady s a.toNat → settled s d.toNat →
      let x := s.munit d.toNat
      let q := s.munit a.toNat
      let c := (s.int b).toNat
      x.poison = none → c % 16 = 0 → c < x.tag.perRow →
      ((q.tag = .i32x4 ∧ x.tag = .i8x16) ∨ (q.tag = .f32x4 ∧
        x.tag ∈ [Tag.bf16x8, .e4m3x16, .e5m2x16, .e2m1x32])) →
      ∃ t y, ∃ new : Nat → Nat → Lane, exec (.mstoreb m d a b) s = .next (t.settle s.focus m) ∧
        UnitLeft s s t d.toNat y ∧
        (∀ r i, r < 16 → i < 16 → Converts s.bump.ctx q.tag x.tag none
          ((vget q.rows 0 r).toNat / 2 ^ (32 * i) % 2 ^ 32) (new r i)) ∧
        y.pend = [lanesFlags ((List.range 16).flatMap fun r => (List.range 16).map (new r))] ∧
        y = { x with state := .loading, rows := y.rows, pend := y.pend } ∧
        ∀ r i, r < 16 → i < x.tag.perRow → elem y r i =
          if c ≤ i ∧ i < c + 16 then (new r (i - c)).bits % 2 ^ x.tag.width else elem x r i)

/-- R160, R215, R216, R218, R219: the matrix unit's products and what leaves a tile. -/
def Obligations.MatrixProducts : Prop := Claims.Products ∧ Claims.TileStores

/-! ## Engines (R253 to R262, R331, R332, R350) -/

/-- A register operand that may be z for none (R259). -/
def Sys2Proof.orNone (s : State) (r : Reg) : Option NameOr :=
  if r = 0#6 then none else some (nameOr s r)

/-- The descriptor of a command that issue accepts: no reserved bit, a scope that exists, and the
flags, lengths and boundaries that the command takes (R255, R259). -/
structure Sys2Proof.GoodDescriptor (code : BitVec 7) (w : Nat → Word) : Prop where
  head : (w 0).extractLsb' 56 8 = 0#1 ++ code
  reserved : (w 0).extractLsb' 48 2 = 0#2
  scope : ((w 0).extractLsb' 52 4).toNat ≤ 10
  flags : flagsBad code ((w 0).extractLsb' 32 16) = false
  words : wordsBad code w = false
  ops : code = 7 → opsBad (w 6) = false
  length : lengthBad code ((w 0).extractLsb' 0 32).toNat w = false
  aligned : firstMisaligned code (2 ^ ((w 0).extractLsb' 32 3).toNat)
    ((w 0).extractLsb' 0 32).toNat w = none

/-- R253, R254, R256, R259, R398: an ENG word reads its descriptor and joins the core's queue when
there is room; the command keeps the descriptor, the cell, the name or address of AUX, and the
address space, mode and rounding of the slot; the slot goes on. -/
def Sys2Proof.Claims.CommandIssue : Prop :=
  ∀ e ∈ ([(.copy, 0), (.copym, 1), (.put, 2), (.putsig, 3), (.get, 4), (.gather, 5), (.scatter, 6),
      (.chain, 7), (.agput, 8), (.agget, 9), (.collsub, 10)] :
      List ((Bool → Reg → Reg → Reg → Instr) × BitVec 7)), ∀ (s u : State) (m : Bool)
    (d j x : Reg) (join : JoinAt) (names : List Quad), Ready { eff := true } s [d, j, x] → s.ints [d] →
    let o := (s.int d).toNat
    let w (i : Nat) : Word := BitVec.ofNat 64 (s.myCore.scratch.readLE (o + 8 * i) 8)
    o < 0x8000 → o % 64 = 0 → GoodDescriptor e.2 w →
    (j ≠ 0#6 → nameOrInt s j) → (x ≠ 0#6 → nameOrInt s x) →
    (e.2 = 1 → x = 0#6) → (e.2 = 3 → x ≠ 0#6 ∧ (s.me.read x).tag = .name) →
    joinOperand (s.atIssue { eff := true }) (orNone s j) = .ok (u, join, names) →
    u.focus = s.focus → u.myCore.queue.length < 16 →
    ∃ t c, exec (e.1 m d j x) s = .next (t.settle s.focus m) ∧
      (t.core (coreOf s.focus)).queue = u.myCore.queue ++ [c] ∧
      c.code = e.2 ∧ (∀ i, i < 8 → c.word i = w i) ∧ c.join = join ∧ c.names = names ∧
      c.slot = s.focus ∧ c.pos = s.me.pos ∧ c.rel = (if (w 0).getLsbD 50 then u.relBits else 0) ∧
      c.asid = s.me.asid ∧ c.root = s.me.root ∧ c.super = s.me.super ∧ c.ftz = s.me.ftz ∧
      c.rnd = s.me.rnd ∧ c.piece = 0 ∧ c.started = false ∧ c.stopped = false ∧
      (∀ q, orNone s x = some (.name q) → c.auxName = some q) ∧
      (∀ q, orNone s x = some (.word q) → c.aux = some q) ∧ FileKept s t ∧ LastKept s t ∧
      Retired s t (s.me.pc + 4) ∧ ∀ a, t.mem.read a = u.mem.read a

/-- A command that has started, has met nothing that stops it, makes no release, and has neither cell nor
signal. -/
structure Sys2Proof.PlainCmd (c : Cmd) : Prop where
  started : c.started = true
  going : c.stopped = false ∧ c.paused = none ∧ c.errs = 0 ∧ c.rel = 0 ∧ c.isRel = false
  noJoin : c.join = .none
  noAux : c.aux = none ∧ c.auxName = none ∧ c.auxAway = false
  first : c.piece = 0 ∧ c.wrote = []

/-- R255, R256, R261: a COPY between two ranges of its core's scratchpad that do not overlap moves its bytes
in ascending order, sixteen at a time: a step of it moves all of them, and the command leaves the queue, or
the first `p` pieces (how many, is DESIGN CHOICE, log 1); no other byte changes. -/
def Sys2Proof.Claims.CopyMoves : Prop :=
  ∀ (s : State) (k q : Nat) (c : Cmd), (s.core k).queue[q]? = some c → PlainCmd c → c.code = 0 →
    let n := c.len
    let src := (c.word 1).toNat
    let dst := (c.word 2).toNat
    n % 16 = 0 → src + n ≤ 0x8000 → dst + n ≤ 0x8000 → src < 0x8000 → dst < 0x8000 →
    src + n ≤ dst ∨ dst + n ≤ src →
    ∃ t p, exec (.engineCommandComplete k q) s = .next t ∧ 16 * p ≤ n ∧
      (16 * p = n → (t.core k).queue = (s.core k).queue.eraseIdx q) ∧
      (16 * p < n → (t.core k).queue = (s.core k).queue.set q { c with prepared := true, piece := p }) ∧
      (∀ i, i < 16 * p → (t.core k).scratch.read (dst + i) = (s.core k).scratch.read (src + i)) ∧
      (∀ x, x < dst ∨ dst + 16 * p ≤ x → (t.core k).scratch.read x = (s.core k).scratch.read x) ∧
      (∀ a, t.mem.read a = s.mem.read a) ∧ ∀ x, t.slot x = s.slot x

/-- R253 to R262: the engine takes commands, and COPY moves bytes. -/
def Obligations.EngineCommands : Prop := Claims.CommandIssue ∧ Claims.CopyMoves

/-! ## Barriers (R263 to R267) -/

/-- A number at offset `o` of a core's scratchpad. -/
def Sys2Proof.at' (s : State) (core o n : Nat) : Nat := (s.core core).scratch.readLE o n

/-- A signal of amount `n` has been applied at a barrier, with answer `r` (R264, R267): 1 for a
barrier that is not armed, which counts a stray signal and changes nothing; else ARRIVED grows,
saturating, and a barrier that reaches its threshold fires and answers 2. Its record, with STATUS zero, goes
to the core's mailbox, or waits out the stagger, of the BARSTEP that governs in this die cycle (R136, R266). -/
structure Sys2Proof.Signalled (v t : State) (core off n r : Nat) (env : Envelope) : Prop where
  stray : at' v core (off + 48) 1 ≠ 0xA5 → r = 1 ∧
    (t.core core).barStray = satSucc32 (v.core core).barStray ∧
    ∀ x, (t.core core).scratch.read x = (v.core core).scratch.read x
  armed : at' v core (off + 48) 1 = 0xA5 →
    let sum := min (at' v core (off + 40) 8 + n) (2 ^ 64 - 1)
    let fires := at' v core (off + 32) 8 ≤ sum
    at' t core (off + 40) 8 = sum ∧ r = (if fires then 2 else 0) ∧
    at' t core (off + 48) 1 = (if fires then 0x5A else 0xA5) ∧
    ∀ x, x < off + 40 ∨ off + 48 < x → (t.core core).scratch.read x = (v.core core).scratch.read x
  mem : r ≠ 2 ∨ at' v core (off + 49) 1 / 2 % 2 = 1 → ∀ a, t.mem.read a = v.mem.read a
  record : r = 2 →
    let body := recWithStatus (BitVec.ofNat 256 (at' v core off 32)) 0
    let (cl, q) := mailboxOf core
    (at' v core (off + 49) 1 / 2 % 2 = 1 → (t.cluster cl).pushes = (v.cluster cl).pushes ++
      [⟨core, (v.die (coreDie core)).dcyc.toNat
        + (governs (v.cluster cl).barWas (v.die (coreDie core)).dcyc (v.cluster cl).barStep).toNat
          * (core % 64), body, env⟩]) ∧
    (at' v core (off + 49) 1 / 2 % 2 = 0 → ∀ z, v.push cl q body env = .ok z →
      Accepted v t cl q body env)

/-- R263, R264, R267, R398: BARINIT arms a barrier in the own scratchpad; BARSIG and BARSIGN signal one
there, or one that a name leads to, and deliver the answer; BARQ delivers STATE and ARRIVED. -/
def Obligations.BarrierWords : Prop :=
  ∀ (s u : State) (m : Bool) (d a b : Reg) (core off : Nat),
    let k := coreOf s.focus
    let o := (s.int a).toNat
    let e : Takes := { eff := true }
    let own := s.ints [a] ∧ o < 0x8000 ∧ o % 64 = 0
    let named := (s.me.read a).tag = .name
    let n := (s.me.read a).val
    let word (t : State) (c off : Nat) : Word :=
      BitVec.ofNat 64 (at' t c (off + 48) 1 * 2 ^ 56 + at' t c (off + 40) 8 % 2 ^ 56)
    (Ready e s [a, b] → own → s.ints [b] → s.noError → Idle s → s.int b ≠ 0 →
      at' s k o 8 % 4 = 0 → at' s k o 8 / 2 ^ 54 % 64 = 0 →
      at' s k (o + 48) 8 < 2 ^ 10 → at' s k (o + 56) 8 = 0 →
      ∃ t, exec (.barinit m a b) s = .next (t.settle s.focus m) ∧ at' t k (o + 32) 8 = (s.int b).toNat ∧
        at' t k (o + 40) 8 = 0 ∧ at' t k (o + 48) 1 = 0xA5 ∧ FileKept s t ∧ LastKept s t ∧
        Retired s t (s.me.pc + 4) ∧ (∀ x, t.mem.read x = s.mem.read x) ∧
        ∀ x, x < o + 32 ∨ o + 48 < x → (t.core k).scratch.read x = (s.core k).scratch.read x) ∧
    (Ready e s [a, b, d] → own → s.ints [b] →
      ∃ t r, exec (.barsig m d a b) s = .next (t.settle s.focus m) ∧
        Signalled s t k o (s.int b).toNat r (s.relEnv s.focus) ∧
        Holds s t d (.int (BitVec.ofNat 64 r)) ∧ Retired s t (s.me.pc + 4)) ∧
    (Ready e s [a, b, d] → named → s.ints [b] →
      barrierAt (s.atIssue e) n = .ok (u, .own core off) → u.focus = s.focus → u.noError → Idle u →
      ∃ t r, exec (.barsign m d a b) s = .next (t.settle s.focus m) ∧
        Signalled u t core off (s.int b).toNat r (u.relEnv s.focus) ∧
        Holds s t d (.int (BitVec.ofNat 64 r)) ∧ Retired s t (s.me.pc + 4)) ∧
    (Ready e s [a, d] → own → ∃ t, exec (.barq m d a) s = .next (t.settle s.focus m) ∧
      Holds s t d (.int (word s k o)) ∧ Retired s t (s.me.pc + 4) ∧
      (∀ x, t.mem.read x = s.mem.read x) ∧
      ∀ c x, (t.core c).scratch.read x = (s.core c).scratch.read x) ∧
    (Ready e s [a, d] → named → barrierAt (s.atIssue e) n = .ok (u, .own core off) →
      u.focus = s.focus → ∃ t, exec (.barq m d a) s = .next (t.settle s.focus m) ∧
        Holds s t d (.int (word u core off)) ∧ Retired s t (s.me.pc + 4) ∧ ∀ x, t.mem.read x = u.mem.read x)

/-! ## Blocks (R352 to R356) -/

/-- A control word of R352: element type, INIT, scaled and the count. -/
def Sys2Proof.ctlWord (g : Tag) (scaled init : Bool) (n : Nat) : Word :=
  BitVec.ofNat 64 (g.code.toNat + (if scaled then 2 ^ 8 else 0) + (if init then 2 ^ 9 else 0)
    + n * 2 ^ 16)

/-- The value of element `i` of an incoming block at `a` (R152, R353): under a scale where the block
has scales, which stand after its elements. -/
def Sys2Proof.blockValue (sp : Mem) (g : Tag) (f : Fmt) (scaled : Bool) (n a i : Nat) : Machine.Num :=
  let bytes := (n * g.width + 7) / 8
  let x := f.decode (sp.readLE a bytes / 2 ^ (g.width * i) % 2 ^ g.width)
  let e := (sp.read (a + bytes + i / 32)).toNat
  if !scaled then x else if e = 0xFF then .nan false else x.scale ((e : Int) - 127)

/-- R352 to R355: on operands in the own scratchpad, BADDQ adds a block to an F32 array in RNE, or
stores it with INIT; BLACC adds it to an array of accumulators, which with INIT it clears unread (that their
reserved bits are then not looked at is DEDUCED, log 14); BQUANT rounds an F32 array into a
format, saturating, or into groups of 32 elements under a scale of their own. -/
def Obligations.BlockWords : Prop :=
  ∀ (s : State) (m : Bool) (d a b : Reg) (g : Tag) (f : Fmt) (scaled init : Bool) (n : Nat),
    Ready {} s [a, b, d] → s.ints [a, b, d] → g.fmt = some f →
    s.int b = ctlWord g scaled init n → Alone s .lacc → 1 ≤ n → n ≤ 4096 → (scaled = true → n % 32 = 0) →
    let vd := (s.int d).toNat
    let va := (s.int a).toNat
    let sp := seenScratch s
    let bytes := (n * g.width + 7) / 8
    let all := bytes + if scaled then n / 32 else 0
    let v (i : Nat) : Machine.Num := blockValue sp g f scaled n va i
    let ins : List Tag := if scaled then [.e4m3x16, .e5m2x16, .e2m1x32]
      else [.f32x4, .bf16x8, .f16x8, .e4m3x16, .e5m2x16, .e2m1x32]
    let outs : List Tag := if scaled then [.e4m3x16, .e5m2x16]
      else [.f32x4, .bf16x8, .f16x8, .e4m3x16, .e5m2x16]
    (g ∈ ins → vd % 16 = 0 → va % 16 = 0 → vd < 0x8000 → va < 0x8000 → vd + 4 * n ≤ 0x8000 →
      va + all ≤ 0x8000 →
      let new (i : Nat) : Lane :=
        if init then fp32.fromNum rneCtx (v i)
        else
          let x := fp32.decode (sp.readLE (vd + 4 * i) 4)
          (fp32.nanOf [x, v i]).getD (fp32.addNum rneCtx x (v i))
      Reads s (.baddq m d a b) (∃ t, exec (.baddq m d a b) s = .next (t.settle s.focus m) ∧
        ObjectLeft s t (fun x => x < vd ∨ vd + 4 * n ≤ x) ∧
        ∀ i, i < n → (full t).readLE (vd + 4 * i) 4 = (new i).bits % 2 ^ 32)) ∧
    (g ∈ ins → vd % 64 = 0 → va % 16 = 0 → vd < 0x8000 → va < 0x8000 → n ≤ 256 →
      vd + 64 * n ≤ 0x8000 → va + all ≤ 0x8000 →
      let old (i : Nat) : Nat := if init then 0 else sp.readLE (vd + 64 * i) 64;
      (∀ i, i < n → old i / 2 ^ 448 = 0) →
      Reads s (.blacc m d a b) (∃ t, exec (.blacc m d a b) s = .next (t.settle s.focus m) ∧
        ObjectLeft s t (fun x => x < vd ∨ vd + 64 * n ≤ x) ∧
        ∀ i, i < n → AccIs ((full t).readLE (vd + 64 * i) 64)
          ((old i % 2 ^ 384 : Nat) + fixed160 (v i)) (old i / 2 ^ 384 % 2 ^ 61 + 1)
          ((old i).testBit 445 || v i == .inf true) ((old i).testBit 446 || v i == .inf false)
          ((old i).testBit 447 || (v i).isNan))) ∧
    (g ∈ outs → init = false → vd % 16 = 0 → va % 16 = 0 → vd < 0x8000 → va < 0x8000 →
      va + 4 * n ≤ 0x8000 → vd + all ≤ 0x8000 →
      let x (i : Nat) : Nat := sp.readLE (va + 4 * i) 4
      let group (q : Nat) : List Lane × Nat := quantGroup f (if g = .e4m3x16 then 8 else 15)
        ((List.range 32).map fun i => fp32.decode (x (32 * q + i)))
      Reads s (.bquant m d a b) (∃ t, exec (.bquant m d a b) s = .next (t.settle s.focus m) ∧
        ObjectLeft s t (fun x => x < vd ∨ vd + all ≤ x) ∧
        (scaled = false → ∀ i, i < n →
          (full t).readLE vd bytes / 2 ^ (g.width * i) % 2 ^ g.width
            = if g = .f32x4 then x i
              else (f.fromNum rneSat (fp32.decode (x i))).bits % 2 ^ g.width) ∧
        (scaled = true → ∀ q, q < n / 32 →
          ((full t).read (vd + bytes + q)).toNat = (group q).2 % 256 ∧
          ∀ i, i < 32 → (full t).readLE vd bytes / 2 ^ (g.width * (32 * q + i)) % 2 ^ g.width
            = (((group q).1.map (·.bits)).getD i 0) % 2 ^ g.width)))

/-! ## Steps that no word makes

What another unit, an agent outside, or time brings. Each of these steps comes about where its
condition holds; the statements say what it leaves. -/

/-- Step `i` comes about at `s` and leaves a state with `p`. -/
def Sys2Proof.Happens (s : State) (i : Instr) (p : State → Prop) : Prop :=
  ∃ t, exec i s = .next t ∧ p t

/-- Every byte of memory is as before. -/
def Sys2Proof.MemKept (s t : State) : Prop := ∀ a, t.mem.read a = s.mem.read a

/-- Every slot but `c` is as before. -/
def Sys2Proof.OthersKept (s t : State) (c : Nat) : Prop := ∀ k, k ≠ c → t.slot k = s.slot k

/-- Slot `c` has taken a user trap (R367). -/
def Sys2Proof.TookTrap (s t : State) (c : Nat) (k : Cause) (addr : Word) : Prop :=
  (t.slot c).trapCause = k.code ∧ (t.slot c).trapAddr = addr ∧ (t.slot c).inTrap = true ∧
  (t.slot c).pc = wordAddr (s.slot c).trapVec ∧ (t.slot c).wait = none

/-- Slot `c` can take a user trap. -/
def Sys2Proof.handles (s : State) (c : Nat) : Prop :=
  (s.slot c).inTrap = false ∧ (s.slot c).trapVec ≠ 0

/-- Slot `c` has no result, no object, no store and no unit under way. -/
structure Sys2Proof.QuietSlot (s : State) (c : Nat) : Prop where
  outs : (s.slot c).outs = []
  late : (s.slot c).late = []
  stores : (s.slot c).stores = []
  units : ∀ u, u < 8 → (vget (s.core (coreOf c)).units .reset u).loads c = false
  tiles : (s.core (coreOf c)).mmas = []

/-- What the bytes `bs` at `pa` and after it hold. -/
def Sys2Proof.Bytes (t : State) (pa : Nat) (bs : List Byte) : Prop :=
  ∀ i, (h : i < bs.length) → t.mem.read (pa + i) = bs[i]

/-- Of the faults of slot `c`'s relaxed accesses the oldest in issue order is the one pending (R240, R395):
a fault with `cause` at `addr`, of an access issued at `pos`, has been found. -/
def Sys2Proof.ErrPends (s t : State) (c : Nat) (cause : Cause) (addr : Word) (pos : Nat) : Prop :=
  let e := (s.slot c).err
  let f := (t.slot c).err
  f.valid = true ∧
  (e.valid = false ∨ pos < e.pos → f.cause = cause.code ∧ f.addr = addr ∧ f.pos = pos) ∧
  (e.valid = true → e.pos ≤ pos → f.cause = e.cause ∧ f.addr = e.addr ∧ f.pos = e.pos) ∧
  (e.valid = true → e.count.toNat < 65535 → f.count.toNat = e.count.toNat + 1)

/-- Nothing of the state but the slots, the packets on their way and the links' buffers, as far as a
program reads it, has changed. -/
def Sys2Proof.DataKept (s t : State) : Prop :=
  MemKept s t ∧ ∀ k x, (t.core k).scratch.read x = (s.core k).scratch.read x

/-- R24, R138, R286: a variable result, of a word that no record of its own is being sent for, is written with
its flags; a load of memory is performed then, and its value, or zero where the home finds a fault, reaches its
register. -/
def Sys2Proof.Claims.ResultsArrive : Prop :=
  (∀ (s : State) (c k : Nat) (o : Out), (s.slot c).outs[k]? = some o → o.ready = none →
    (∀ e ∈ (s.slot c).sending, e.pos ≠ o.issued) → o.load = none → Happens s (.resultWriteback c k) fun t =>
      (t.slot c).outs = (s.slot c).outs.eraseIdx k ∧
      (t.slot c).fpflags = (s.slot c).fpflags ||| o.flags.getD 0 ∧
      (t.slot c).file = (s.slot c).file ∧ OthersKept s t c ∧ DataKept s t) ∧
  ∀ (s : State) (c d : Nat) (o : Out) (q : Machine.Load), (s.slot c).outs = [o] → o.ready = none →
    (∀ e ∈ (s.slot c).sending, e.pos ≠ o.issued) → o.load = some q → o.dst = some d → d < 93 →
    (∀ u v, s.bump.readGlobal c q.pa q.cached q.n = (u, .ok v) →
      Happens s (.resultWriteback c 0) fun t => (t.slot c).outs = [] ∧
        vget (t.slot c).file .zero d = q.fit.value v) ∧
    ∀ u e, s.bump.readGlobal c q.pa q.cached q.n = (u, .error e) →
      Happens s (.resultWriteback c 0) fun t => (t.slot c).outs = [] ∧
        vget (t.slot c).file .zero d = .zero ∧ ErrPends u t c e q.va o.issued

/-- R243: the home of a store in its own package acknowledges it once it has performed it. -/
def Sys2Proof.Claims.HomesAcknowledge : Prop :=
  ∀ (s : State) (c i : Nat) (k : AckClass) (p : Packet),
    let hit (p : Packet) : Prop := p.slot = c ∧ s.ackClass c p.loc = k ∧ p.stage = .applied ∧
      s.remote p.loc = false
    s.fabric[i]? = some p → hit p → (∀ q ∈ s.fabric.take i, ¬ hit q) → p.orphan = false →
    Happens s (.homeAcknowledgement c k) fun t => t.fabric = s.fabric.eraseIdx i ∧
      (t.slot c).acks = (s.slot c).acks.set k ((s.slot c).acks.get k - 1) ∧ OthersKept s t c ∧
      DataKept s t

/-- R240, R301, R339, R395: a home that finds a fault on a store writes nothing, and on a load delivers
zero; the fault becomes pending in the slot. That a store which fills its words may find MEMERR is open in R316.
`k` is the place of the store among those on their way, or `j`
that of the load among the slot's results. -/
def Sys2Proof.Claims.HomeFaults : Prop :=
  ∀ (s : State) (c : Nat) (e : Cause) (va : Word) (pa : Nat), e ∈ [Cause.memErr, .prot, .fabric,
      .capability] →
    let store (p : Packet) : Prop := p.slot = c ∧ p.orphan = false ∧ p.va = va ∧ p.loc = pa ∧
      p.stage ≠ .applied
    (∀ k p, s.fabric[k]? = some p → store p → (∀ q ∈ s.fabric.take k, ¬ store q) →
      s.mayApply k p = true → p.stage = .sent ∨ s.remote pa = false →
      (s.remote pa = true ∧ e ≠ .memErr) ∨ e = .memErr →
      Happens s (.relaxedHomeFault c e.code va pa) fun t => ErrPends s t c e va p.pos ∧
        t.fabric = s.fabric.set k { p with stage := .applied } ∧ DataKept s t ∧
        OthersKept s t c) ∧
    ∀ j o q d, s.homeStands pa = false → (∀ p ∈ s.fabric, ¬ store p) → (s.slot c).outs[j]? = some o → o.load = some q →
      q.va = va → q.pa = pa → o.dst = some d → d < 93 →
      (∀ o' ∈ (s.slot c).outs.take j, ∀ q', o'.load = some q' → q'.va ≠ va ∨ q'.pa ≠ pa) →
      e = .memErr ∨ (s.remote pa = true ∧ e ≠ .capability) →
      Happens s (.relaxedHomeFault c e.code va pa) fun t => ErrPends s t c e va o.issued ∧
        vget (t.slot c).file .zero d = .zero ∧ DataKept s t ∧ OthersKept s t c

/-- R24, R138, R240, R243, R286, R301, R339, R395: what comes back to a slot. -/
def Sys2Proof.Claims.Arrivals : Prop :=
  Claims.ResultsArrive ∧ Claims.HomesAcknowledge ∧ Claims.HomeFaults

/-- R242, R324, R339: a parked access that its home has not accepted yet arrives there: one whose condition
holds goes on, and another is placed in the retry list, or refused where that is full. -/
def Sys2Proof.Claims.AccessArrives : Prop :=
  ∀ (s : State) (c : Nat) (w : Wait), (s.slot c).wait = some w → w.accepted = false →
    (∀ op quad data, w.op = .fe op quad data →
      ∀ i ∈ [Instr.feHomeAccess c, .retryListResend c], Happens s i fun t =>
        (s.feReady op (feWords w.loc quad) = true → (t.slot c).wait = none) ∧
        (s.feReady op (feWords w.loc quad) = false → ∃ v, (t.slot c).wait = some v ∧
          v.loc = w.loc ∧ (v.accepted = true ↔
            (s.die (s.homeOf w.loc)).retry.length < 4096) ∧ MemKept s t)) ∧
    ∀ need g, w.op = .aged need g → Happens s (.retryListResend c) fun t =>
      (need ≤ s.ageOf w.loc → (t.slot c).wait = none) ∧
      (s.ageOf w.loc < need → (s.regOf w.loc).state ≠ .registered → handles s c →
        TookTrap s t c .ageStop w.addr) ∧
      (s.ageOf w.loc < need → (s.regOf w.loc).state = .registered → ∃ v,
        (t.slot c).wait = some v ∧ v.loc = w.loc ∧ (v.accepted = true ↔
          (s.die (s.homeOf w.loc)).retry.length < 4096) ∧ MemKept s t)

/-- R242, R324, R339: a wait that passes its limit is withdrawn with a trap, FABRIC where another package
leaves the withdrawal unanswered; a hold notice stops FABLIMIT and starts the probes; a probe that is
not answered, or a wait of which nothing is heard within FABLIMIT, ends with FABRIC. -/
def Sys2Proof.Claims.WaitsEnd : Prop :=
  ∀ (s : State) (c : Nat) (w : Wait), (s.slot c).wait = some w → QuietSlot s c →
    let due := s.fabLimit w.loc ≤ (s.sidereal - w.probeAt).toNat
    let ends (i : Instr) (k : Cause) : Prop := Happens s i fun t => MemKept s t ∧
      (TookTrap s t c k w.addr ∨ (s.remote w.loc = true ∧ TookTrap s t c .fabric w.addr))
    let late (limit : BitVec 32) : Prop := limit ≠ 0 ∧ limit.toNat < s.nominal c - w.since
    (handles s c →
      (∀ op quad data, w.op = .fe op quad data → late (s.slot c).feWaitMax →
        ends (.feWaitTimeout c) .feTimeout) ∧
      (∀ need g, w.op = .aged need g → late (s.slot c).agWaitMax →
        ends (.agedWaitTimeout c) .ageTimeout) ∧
      (s.remote w.loc = true → w.noticed = true → w.unheard = true → due →
        ends (.fabricProbe c) .fabric) ∧
      (s.remote w.loc = true → w.noticed = false → due →
        ends (.fablimitExpiry (s.fabric.length + c)) .fabric)) ∧
    (s.remote w.loc = true → w.accepted = true → w.noticed = false →
      Happens s (.holdNotice c) fun t => OthersKept s t c ∧ DataKept s t ∧
        (t.slot c).wait = some { w with noticed := true, probeAt := s.sidereal }) ∧
    (s.remote w.loc = true → w.noticed = true → w.unheard = false → due →
      Happens s (.fabricProbe c) fun t => OthersKept s t c ∧ DataKept s t ∧
        ∃ b, (t.slot c).wait = some { w with probeAt := s.sidereal, unheard := b })

/-- R239, R359: a walk for an access of a running slot fills the TLB; one that finds no leaf or a refusing
one leaves a load's or a store's fault to the word that makes the access. -/
def Sys2Proof.Claims.Walks : Prop :=
  ∀ (s : State) (c : Nat) (va : Word) (acc : Sys2Proof.Access),
    (s.slot c).phase.run? = some .running → noCode va = false → s.aligned c = false →
    acc = .fetch → va = (s.slot c).pc →
    let x := s.slot c
    let walk := s.bump.walkFill (coreOf c) x.asid x.root x.super va.toNat (accessKind acc);
    (∀ u pa leaf, walk = .ok u pa leaf → exec (.pageWalk c va acc) s = .next u) ∧
    (walk = .page → QuietSlot s c → Happens s (.pageWalk c va acc) fun t =>
      (t.slot c).phase = x.phase.withRun .faulted ∧ (t.slot c).trapCause = Cause.page.code ∧
      (t.slot c).trapAddr = va ∧ MemKept s t) ∧
    ∀ n, walk = .prot n → handles s c → Happens s (.pageWalk c va acc) fun t =>
      TookTrap s t c .prot va ∧ (t.slot c).trapInfo = BitVec.ofNat 64 n

/-- R239, R359: the same of a load or a store. -/
def Sys2Proof.Claims.DataWalks : Prop :=
  ∀ (s : State) (c : Nat) (va : Word) (acc : Sys2Proof.Access),
    (s.slot c).phase.run? = some .running → noCode va = false → s.aligned c = false →
    acc ≠ .fetch →
    let x := s.slot c
    let walk := s.bump.walkFill (coreOf c) x.asid x.root x.super va.toNat (accessKind acc);
    (∀ u pa leaf, walk = .ok u pa leaf → exec (.pageWalk c va acc) s = .next u) ∧
    (walk = .page ∨ (∃ n, walk = .prot n) → exec (.pageWalk c va acc) s = .next s.bump)

/-- R108, R109: the fetch port delivers the line that it serves next, one in a die cycle: the line stands
first in the buffer of its core, the rotate pointer moves past the core, and no slot has changed. -/
def Sys2Proof.Claims.LinesDelivered : Prop :=
  ∀ (s : State) (core line c : Nat), s.fetchFor core line = some c →
    noCode (BitVec.ofNat 64 (64 * line)) = false →
    let cl := coreCluster core
    (s.cluster cl).fetchAt ≠ some (s.die (dieOf c)).dcyc →
    Happens s (.fetchLineDelivery core line) fun t => (∀ k, t.slot k = s.slot k) ∧
      ∀ u pa leaf, s.bump.fetchXlate c (64 * line) = .ok u pa leaf →
        (∃ l, (t.core core).buffer.head? = some l ∧ l.holds (s.slot c).asid (64 * line) = true) ∧
        (t.cluster cl).fetchRot = (core + 1) % 16 ∧
        (t.cluster cl).fetchAt = some (s.die (dieOf c)).dcyc

/-- R116: the slots whose fetch group has come are released together, in a later die cycle than that in which
the last of them came; a wait that has begun ends alone after its count of die cycles. -/
def Sys2Proof.Claims.AlignsEnd : Prop :=
  (∀ (s : State) (cl : Nat), s.released cl ≠ [] →
    (s.cluster cl).alignAt ≠ (s.die (cl / 512)).dcyc → Happens s (.alignRelease cl) fun t =>
    (∀ c ∈ s.released cl, (t.slot c).align = none ∧ (t.slot c).pc = (s.slot c).pc) ∧
    (∀ c, c ∉ s.released cl → t.slot c = s.slot c) ∧ DataKept s t) ∧
  ∀ (s : State) (c n : Nat), (s.slot c).align = some n → n < (s.die (dieOf c)).dcyc.toNat →
    s.aligned c = true → (s.cluster (clusterOf c)).alignAt ≠ (s.die (dieOf c)).dcyc → Happens s (.alignTimeout c) fun t => t.slot c = { s.slot c with align := none } ∧
      OthersKept s t c ∧ DataKept s t

/-- R108, R109, R111, R116, R239, R359: what is fetched for a slot, and its waits at an ALIGN. -/
def Sys2Proof.Claims.Fetches : Prop :=
  Claims.Walks ∧ Claims.DataWalks ∧ Claims.LinesDelivered ∧ Claims.AlignsEnd

/-- A number in the area of a slot's saved context (R376). -/
def Sys2Proof.saved (t : State) (c off n : Nat) : Nat := t.mem.readLE (t.ctxBase c + off) n

/-- R375, R376: the end of a drain window saves the slot, which is HELD with its context: the area takes
the place where the slot goes on, which is the group's first word for one that waited, its record, and why
it stood; the memory outside the area is as before. -/
def Sys2Proof.Claims.WindowSaves : Prop :=
  ∀ (s : State) (c : Nat), s.windowOver c = true → QuietSlot s c → s.fabric = [] →
    let x := s.slot c
    Happens s (.preemptWindowExpiry c) fun t =>
      (t.slot c).phase = .held true ∧ (t.slot c).outs = [] ∧ (t.slot c).drainAt = none ∧
      (t.slot c).wait = none ∧ OthersKept s t c ∧
      saved t c 0x650 8 = (if x.wait.isSome ∨ s.aligned c = true then x.groupStart else x.pc).toNat ∧
      saved t c 0x738 32 = x.record.toNat ∧
      saved t c 0x710 8 = (if x.wait.isSome then 3 else match x.phase.run? with
        | some .faulted => 2
        | some .stopped => 4
        | _ => 1) ∧
      ∀ a, a < t.ctxBase c ∨ t.ctxBase c + 0x6000 ≤ a → t.mem.read a = s.mem.read a

/-- R106, R107, R375, R376, R396, R397, R419: the end of a drain window; a held error record is sent again,
and joins the service error queue of its die when that accepts it; a passed heartbeat fences and contains
its core, and an error in a core's own state contains it: no slot of it is active. That the error queue has index 20
is DESIGN CHOICE, log 9, and what containment leaves of the slots DEDUCED, log 32. -/
def Sys2Proof.Claims.SlotEnds : Prop :=
  Claims.WindowSaves ∧
  (∀ (s : State) (c : Nat) (r : BitVec 512), (s.slot c).heldErr = some r →
    let q (s : State) : Queue := (s.cluster (serviceCluster (dieOf c))).queue 20
    Happens s (.errorRecordResend c) fun t =>
      ((s.bump.sendErr (dieOf c) (.slot r)).2 = true → (t.slot c).heldErr = none ∧
        OthersKept s t c ∧ ∃ e : QRec, e.err = some (.slot r) ∧
          (q t).pool ++ (q t).ext = (q s).pool ++ (q s).ext ++ [e]) ∧
      ((s.bump.sendErr (dieOf c) (.slot r)).2 = false → (∀ k, t.slot k = s.slot k) ∧
        (t.die (dieOf c)).errqRefused = (s.die (dieOf c)).errqRefused + 1)) ∧
  (∀ (s : State) (c : Nat), s.heartPassed c = true → Happens s (.heartbeatFence c) fun t =>
    (t.core (coreOf c)).fenced = true ∧ (t.core (coreOf c)).contained = true ∧
    ∀ k ∈ slotsOf (coreOf c), ∀ r, (t.slot k).phase ≠ .active r) ∧
  (∀ (s : State) (core : Nat), (s.core core).contained = false →
    Happens s (.coreStateError core) fun t => (t.core core).contained = true ∧
      ∀ k ∈ slotsOf core, ∀ r, (t.slot k).phase ≠ .active r)

/-- R24, R106, R107, R108, R109, R111, R116, R138, R239, R240, R242, R243, R286, R301, R324, R339, R359,
R375, R376, R395 to R397, R419: what comes to a slot from outside it. -/
def Obligations.SlotEvents : Prop :=
  Claims.Arrivals ∧ Claims.AccessArrives ∧ Claims.WaitsEnd ∧ Claims.Fetches ∧ Claims.SlotEnds

/-- Command `k` of a core's engine. -/
def Sys2Proof.cmdAt (s : State) (core k : Nat) : Option Cmd := (s.core core).queue[k]?

/-- R205, R219: the oldest product that a core's unit has accepted writes its tile, and its flags accrue to
the slot that holds the unit. -/
def Sys2Proof.Claims.TileWrites : Prop :=
  ∀ (s : State) (core u : Nat) (l : List Nat), u < 8 → (s.core core).mmas = u :: l →
    let x := vget (s.core core).units .reset u
    Happens s (.mmaTileWrite core u) fun t => DataKept s t ∧ (t.core core).mmas = l ∧
      vget (t.core core).units .reset u = { x with pend := x.pend.tail } ∧
      (t.slot (ownerSlot core x)).fpflags = (s.slot (ownerSlot core x)).fpflags ||| x.pend.headD 0 ∧
      OthersKept s t (ownerSlot core x)

/-- R15, R253, R258, R260, R261: the engine takes the oldest command it has not begun. A name that is gone,
an address of the wrong kind or of a core that does not exist stops it with its STATUS bit. `aux` and `obj`
are what the names of the command lead to. That the addresses are not looked at where a name has failed is DESIGN
CHOICE, log 16. -/
def Sys2Proof.Claims.CommandsStart : Prop :=
  ∀ (s v w : State) (core k : Nat) (c : Cmd) (aux obj : Found), cmdAt s core k = some c →
    (s.core core).queue.findIdx (fun c => !c.started) = k → c.started = false →
    s.bump.findAux core c = (v, aux) → v.findObj core c = (w, obj) → aux ≠ .moving →
    obj ≠ .moving → cmdAt w core k = some c →
    Happens s (.engineCommandStart core) fun t => ∃ d, cmdAt t core k = some d ∧
      d.started = true ∧ d.words = c.words ∧ d.code = c.code ∧
      (∀ b, b ≠ 0 → (aux = .stop b ∨ obj = .stop b) → d.stopped = true ∧ ∀ i, b.getLsbD i = true →
        d.errs.getLsbD i = true) ∧
      (aux.bits ||| obj.bits ≠ 0 → d.errs = aux.bits ||| obj.bits) ∧
      (aux.bits = 0 → obj.bits = 0 → c.nowhere = true → d.stopped = true ∧ d.errs = 2)

/-- R58, R258: a command whose page the service has mapped goes on; one whose page it declines stops with
STATUS bit 1, or, where its join cell is on the page and its transfer is over, ends without a decrement, since
there is no cell to decrement (DEDUCED, log 47). -/
def Sys2Proof.Claims.PagesResume : Prop :=
  ∀ (s : State) (core k : Nat) (c : Cmd) (va : Word), cmdAt s core k = some c →
    c.paused = some va → ∀ mapped, Happens s (.enginePageResume core k mapped) fun t =>
      DataKept s t ∧ (∀ x, t.slot x = s.slot x) ∧
      (mapped = true → cmdAt t core k = some { c with paused := none }) ∧
      (mapped = false → c.over = true → c.moved = true → c.join = .va va →
        cmdAt t core k = some { c with paused := none, join := .none }) ∧
      (mapped = false → ¬ (c.over = true ∧ c.moved = true ∧ c.join = .va va) →
        cmdAt t core k = some { c with paused := none, stopped := true, errs := c.errs ||| 2 })

/-- A command under way that nothing holds. -/
structure Sys2Proof.Going (c : Cmd) : Prop where
  started : c.started = true
  stopped : c.stopped = false
  paused : c.paused = none

/-- R236, R259, R261, R342: a receiver of a multicast whose bytes have landed is signalled and done; the
signal of a PUTSIG leaves after its data, as a release at reach: the cluster's buffer is empty by then. -/
def Sys2Proof.Claims.EngineSignals : Prop :=
  ∀ (s : State) (core k : Nat) (c : Cmd), cmdAt s core k = some c → Going c → c.isRel = false →
    c.rel = 0 → c.wrote = [] → c.total ≤ c.piece →
    (∀ r, c.code = 1 → r < 16 → c.receivers.getLsbD r = true → (c.word 3).toNat + 64 ≤ 0x8000 →
      s.coreClosed (coreCluster core * 16 + r) = false →
      let g := coreCluster core * 16 + r
      let off := (c.word 3).toNat
      let amount := if at' s g (off + 49) 1 % 2 = 1 then 1 else c.bytes % 2 ^ 64
      Happens s (.copymReceiverLanded core k r) fun t => ∃ n,
        Signalled s.bump t g off amount n { c.env with sent := s.sidereal.setWidth 40 } ∧
        cmdAt t core k = some { c with
          receivers := c.receivers &&& ~~~BitVec.ofNat 16 (2 ^ r)
          errs := c.errs ||| (if n = 1 then 0x10 else 0) }) ∧
    (c.code = 3 → c.signalled = false → c.errs = 0 → Happens s (.putsigSignal core k) fun t =>
      (∃ d, cmdAt t core k = some d ∧ d.signalled = true) ∧
      ∀ p ∈ t.fabric, p.unacked (coreCluster core) = false)

/-- R300, R331: a block of an AGPUT, one of those left, is read, some or all of it, and lands when all of it has
been; or its command stops or waits for a page. Where the core holds the registration of the block's page (R320)
and the block is in the region, it takes the bytes and the command's age when that is the greater; else nothing is
written, and STATUS bit 5 tells of the age. `u` is the state after the block's address has been translated. -/
def Sys2Proof.Claims.BlocksLand : Prop :=
  ∀ (s u : State) (core k : Nat) (c : Cmd), cmdAt s core k = some c → Going c → c.code = 8 →
    c.piece < c.total → c.left ≠ [] →
    (c.got.length < 16 → Happens s (.agputBlockApply core k) fun t => ∃ d, cmdAt t core k = some d ∧
      ((d.piece = c.piece ∧ d.left = c.left ∧ c.got <+: d.got) ∨
        (d.piece = c.piece + 1 ∧ d.got = [] ∧ ∃ b, d.left = c.left.erase b) ∨ d.stopped = true ∨
        d.paused.isSome = true)) ∧
    ∀ pa leaf, c.got.length = 16 → c.isRel = false → c.rel = 0 →
      s.bump.engAt core c .any (c.word 2) (256 * c.block) 256 .agedStore = .ok (u, .here (.phys pa leaf)) →
      cmdAt u core k = some c → u.homeStands pa = false → u.remote pa = false → localOf pa < 2 ^ 40 →
      (u.die (u.homeOf pa)).retry = [] → u.inRegion c (c.word 2 + BitVec.ofNat 64 (256 * c.block)) = true →
      (u.regOf pa).state = .registered → (u.regOf pa).writer = core →
      let age := (c.word 5).setWidth 32
      Happens s (.agputBlockApply core k) fun t => ∃ d, cmdAt t core k = some d ∧
        d.piece = c.piece + 1 ∧ d.left = c.left.erase c.block ∧
        (u.ageOf pa < age → d.errs = c.errs ∧ t.ageOf pa = age ∧
          t.mem.readLE pa 256 = gotValue c.got % 2 ^ 2048 ∧
          ∀ a, a < pa ∨ pa + 256 ≤ a → t.mem.read a = u.mem.read a) ∧
        (age ≤ u.ageOf pa → d.errs = c.errs ||| bitAge ∧ MemKept u t)

/-- R350: a gateway core whose die runs accepts a block of a COLLSUB that has been read: its bytes land in a free
landing slot, and a record of the queue's handler is pushed onto the core's mailbox. `z` is what the push does. -/
def Sys2Proof.Claims.CollectivesAccept : Prop :=
  ∀ (s z : State) (core k : Nat) (c : Cmd) (l : Word) (cl q : Nat) (x : QueueSettings)
    (off : Nat), cmdAt s core k = some c → Going c → c.code = 10 → c.signalled = false →
    c.obj = some l → c.total ≤ c.piece → s.collQueue l = some (cl, q, x) → s.stands (cl / 512) = false →
    let u := s.bump
    let data := gotValue c.got
    let rank := (c.word 4).extractLsb' 32 16
    let i := (c.word 4).extractLsb' 0 32
    let g := cl * 16 + i.toNat % 16
    u.collSlot cl q x rank i = some off →
    (u.modCore g fun y => { y with scratch := y.scratch.writeLE off c.len data }).push cl
      (4 + i.toNat % 16) (collRecord x off rank c.len i)
      { c.env with kind := 0, sent := u.sidereal.setWidth 40 } = .ok z →
    Happens s (.collsubAccept core k) fun t =>
      cmdAt t core k = some { c with signalled := true } ∧
      (t.core g).scratch.readLE off c.len = data % 2 ^ (8 * c.len) ∧
      ∀ j, (t.cluster cl).queue j = (z.cluster cl).queue j

/-- R15, R58, R205, R219, R236, R253, R256, R258 to R261, R331, R342, R350: a product writes its tile; the
engine takes its next command; a command whose page came goes on, or stops with PROT; a receiver of a
multicast is done when every byte has landed; the signal of a PUTSIG leaves after its data; a block of an
AGPUT lands, or its command stops; a gateway core accepts a collective block. -/
def Obligations.UnitEvents : Prop :=
  Claims.TileWrites ∧ Claims.CommandsStart ∧ Claims.PagesResume ∧ Claims.EngineSignals ∧
  Claims.BlocksLand ∧ Claims.CollectivesAccept

/-- The registers of an activation at its start (R55): fp, ag and mt from the record, sp in the slot's
stack, every other register zero, the window at 0, no handler, no flags, no error and nothing
outstanding, the mode the cluster gives; the pc holds no bits 1:0 (R22). That the trap description registers are
zero and the wait limits those of reset is DEDUCED, log 11. -/
def Sys2Proof.Started (x : Slot) (c : Nat) (r : QRec) (e : AsidEntry) (super : Bool) : Prop :=
  x.phase = .active .running ∧ x.pc = recEntry r.body &&& ~~~3 ∧ x.super = super ∧ x.inTrap = false ∧
  x.wbase = 0 ∧ x.fpflags = 0 ∧ x.trapVec = 0 ∧ x.ftz = e.ftz ∧ x.rnd = e.rnd ∧ x.root = e.root ∧
  x.asid = r.env.asid ∧ x.record = r.body ∧ x.outs = [] ∧ x.hints = .empty ∧
  x.entry 36 = .int (recFrame r.body) ∧ x.entry 35 = .int (recArg r.body) ∧
  x.entry 34 = .int (recMeta r.body) ∧
  x.entry 37 = .int (BitVec.ofNat 64 (0x7400 + 0x400 * (c % 4))) ∧
  (∀ i, i ∉ [34, 35, 36, 37] → x.entry i = .zero) ∧
  x.trapPc = 0 ∧ x.trapCause = 0 ∧ x.trapAddr = 0 ∧ x.trapInfo = 0 ∧ x.feWaitMax = 0x01000000 ∧
  x.agWaitMax = 0x01000000 ∧ x.err.valid = false ∧ x.acks = ⟨0, 0, 0, 0⟩ ∧ x.stores = [] ∧
  x.wait = none ∧ x.heart = 0

/-- The writes that a sender elsewhere has on their way here, and whose place is known, have landed. -/
def Sys2Proof.Landed (t : State) (o : Sender) : Prop :=
  ∀ r ∈ t.incoming, r.origin = o → r.name = none → ∀ b, r.op ≠ .write b

/-- R53, R55, R57, R92, R99, R100: the dispatcher starts activations, at most four in a die cycle, each with the
registers of R55; to start from a record that another cluster has sent is an acquire, by which the cluster's read
cache loses every line but what is on its way to memory. A slot whose record its address space refuses stays idle,
and is no candidate for the rest of the die cycle. The trap description registers and wait limits at the start are
DEDUCED, log 11. -/
def Sys2Proof.Claims.Dispatches : Prop :=
  (∀ (s : State) (cl : Nat),
    let now := (s.die (cl / 512)).dcyc
    let past := (s.cluster cl).granted now
    let g := s.bump.grants (s.order cl) (4 - past)
    g.2.1 ≠ 0 → s.governed (cl / 512) = true →
    Happens s (.dispatchGrant cl) fun t => MemKept g.1 t ∧ (∀ c, t.slot c = g.1.slot c) ∧
      (t.cluster cl).grantAt = some (now, past + g.2.1) ∧ past + g.2.1 ≤ 4) ∧
  ∀ (s : State) (c : Nat) (r : QRec) (service : Bool),
    let t := s.grant c r service
    (∀ e, s.asidEntry r.env.asid = some e →
      Started (t.slot c) c r e (service || isServiceCore (coreOf c)) ∧ OthersKept s t c ∧ MemKept s t ∧
      (r.env.kind ≠ 0 ∨ clusterOf r.env.scoord.toNat ≠ clusterOf c →
        (t.cluster (clusterOf c)).cache = (s.cluster (clusterOf c)).cache.filter fun e =>
          s.byteHeld (clusterOf c) e.1)) ∧
    (s.asidEntry r.env.asid = none → (t.slot c).phase = (s.slot c).phase ∧ t.candidate c = false)

/-- R53, R57, R60, R65, R98, R107, R264, R266, R342: records, decrements and signals arrive from elsewhere,
after the bytes that their sender sent before them; a record that waited out its stagger is pushed. A COUNT minus an
amount outside the signed numbers wraps (DESIGN CHOICE, log 62). -/
def Sys2Proof.Claims.Messages : Prop :=
  (∀ (s z : State) (cl q : Nat) (r : BitVec 256) (o : Sender) (sent : BitVec 40),
    o.pkg ≠ s.image.pkg ∨ o.otherPod = true →
    (s.bump.landWrites o).push cl q (recWithStatus r 0) (envOf o 1 sent) = .ok z →
    Happens s (.recordAccept cl q r o sent) fun t => Landed t o ∧
      Accepted (s.bump.landWrites o) t cl q (recWithStatus r 0) (envOf o 1 sent)) ∧
  (∀ (s : State) (k off : Nat) (amount : Word) (o : Sender), off % 64 = 0 →
    locCore (mkCoreAddr s.image.pkg k off) = some ⟨s.image.pkg, k, off⟩ →
    (s.core k).fenced = false → (s.core k).contained = false →
    let v := s.bump.landWrites o
    (cellStatus v k off).getLsbD 15 = false → 0 < (cellCount v k off - amount).toInt →
    Happens s (.joinDecrement (mkCoreAddr s.image.pkg k off) amount 0 o) fun t => Landed t o ∧
      cellCount t k off = cellCount v k off - amount ∧ cellStatus t k off = cellStatus v k off ∧
      MemKept v t ∧ ∀ c, t.slot c = s.slot c) ∧
  (∀ (s : State) (l amount : Word) (o : Sender) (a : CoreAddr), locCore l = some a →
    a.pkg = s.image.pkg → s.closed l = false →
    Happens s (.barrierSignal l amount o) fun t => Landed t o ∧
      ∃ r, Signalled (s.bump.landWrites o) t a.core a.off amount.toNat r
        (envOf o 2 (s.sidereal.setWidth 40))) ∧
  (∀ (s z : State) (cl k : Nat) (p : Push), (s.cluster cl).pushes[k]? = some p →
    p.at_ ≤ (s.die (cl / 512)).dcyc.toNat →
    let v := s.bump.modCluster cl fun c => { c with pushes := c.pushes.eraseIdx k }
    let (mc, mq) := mailboxOf p.core
    v.push mc mq p.body p.env = .ok z → Happens s (.barrierStaggeredPush cl k) fun t =>
      (t.cluster cl).pushes = (s.cluster cl).pushes.eraseIdx k ∧ Accepted v t mc mq p.body p.env)

/-- R93, R95, R99, R349: the service attaches a stage or a service queue, empty and with its settings, at a free
index from 20 on, and detaches one: its descriptor is written back, and its records go. -/
def Sys2Proof.Claims.QueuesChange : Prop :=
  (∀ (s : State) (cl q : Nat) (x : QueueSettings), 20 ≤ q → q < 256 → x.kind ∈ [2, 3] → settingsFit x cl = true →
    ((s.cluster cl).queue q).attached = false → Happens s (.queueAttach cl q x) fun t =>
      let y := (t.cluster cl).queue q
      y.attached = true ∧ y.kind = .ofCode x.kind ∧ y.cls = x.cls ∧ y.cores = x.cores ∧
      y.pool = [] ∧ y.ext = [] ∧ y.win = x.win ∧ y.desc = x.desc ∧ y.extCap = x.extCap ∧
      y.extBase = x.extBase ∧ y.coll = (if x.collective then some x else none) ∧
      (∀ j, j ≠ q → (t.cluster cl).queue j = (s.cluster cl).queue j) ∧ DataKept s t) ∧
  (∀ (s : State) (cl q : Nat), 20 ≤ q → ((s.cluster cl).queue q).attached = true →
    Happens s (.queueDetach cl q) fun t => ((t.cluster cl).queue q).attached = false ∧
      ((t.cluster cl).queue q).pool = [] ∧ ((t.cluster cl).queue q).ext = [] ∧
      let l := s.descOf cl q ((s.cluster cl).queue q)
      (l ≠ 0 → locCore l = none → localOf l.toNat < 2 ^ 40 →
        t.mem.readLE l.toNat 64 = (s.bump.queueDesc cl q).toNat))

/-- R71, R78, R81, R82, R87: an access that another package makes through a name of this one finds its place
here, or is answered where the name is gone; sectors drop a name, whose retirement or move then
completes. -/
def Sys2Proof.Claims.NamesChange : Prop :=
  (∀ (s : State) (n : Quad) (b : Byte), nameOrigin n = s.origin →
    (∀ p e, s.entryAt n = some (p, e) → e.state ≠ .moving) →
    Happens s (.remoteNameResolution n b) fun t =>
      let alters (r : Incoming) : Prop := r.op = .retire ∨ ∃ d, r.op = .move d
      t.forged = s.forged + (if s.forgedName n then 1 else 0) ∧
      ((∀ r ∈ s.incoming, ¬ alters r) → t.almanac = s.almanac ∧ DataKept s t) ∧
      ∀ k r, s.unresolved n b = some k → s.incoming[k]? = some r →
        (s.forgedName n = true ∨ s.entryAt n = none → (∀ x e d, r.op ≠ .release x e d) →
          t.incoming = s.incoming.eraseIdx k) ∧
        ∀ p e, s.forgedName n = false → s.entryAt n = some (p, e) → e.state = .live → nameClass n = b →
          ¬ alters r →
          t.incoming = s.incoming.set k { r with name := none, via := some n, loc := e.loc }) ∧
  (∀ (s : State) (n : Quad) (p : Nat) (e : Entry), s.entryAt n = some (p, e) →
    (∀ q, e.state ≠ .live → q ∈ e.awaiting → s.inFlight n (some q) = false →
      Happens s (.nameInvalidation n q) fun t => t.almanac.find p = some
          { e with awaiting := e.awaiting.filter (· ≠ q)
                   presence := e.presence &&& ~~~BitVec.ofNat 224 (2 ^ q) } ∧
        ∀ x ∈ t.cacheOf q, x.1 ≠ n) ∧
    (e.state = .retiring → e.awaiting = [] → s.inFlight n none = false →
      Happens s (.nameRetireComplete n) fun t =>
        (∀ f, t.almanac.find p = some f → f.name = 0) ∧
        ∀ q, q ≠ p → t.almanac.find q = s.almanac.find q) ∧
    (e.state = .moving → e.awaiting = [] → s.inFlight n none = false →
      Happens s (.nameMoveComplete n) fun t => (∃ y, t.almanac.find p = some y ∧
        y.state = .live ∧ y.loc = e.newLoc ∧ y.name = e.name) ∧
        (locCore e.newLoc = none → localOf e.newLoc.toNat < 2 ^ 40 →
          t.mem.readLE e.newLoc.toNat 64 = s.bump.readLoc e.loc 64 % 2 ^ 512)))

/-- R53, R55, R57, R60, R65, R71, R78, R81, R82, R87, R92, R93, R95, R98 to R100, R107, R264, R266, R342,
R349: the dispatcher starts activations; records, decrements and signals arrive; queues are attached and
detached; sectors drop a name, whose retirement or move then completes. -/
def Obligations.RecordEvents : Prop :=
  Claims.Dispatches ∧ Claims.Messages ∧ Claims.QueuesChange ∧ Claims.NamesChange

/-- R334, R336, R337, R343, R344: a store to another package is handed to the gateway after the earlier ones
to its line: it is numbered in its flow, with the number of the flow's write to the line before it, and over
a port of its own die its packet is kept, encrypted under the key and counter of the link. -/
def Sys2Proof.Claims.StoresLeave : Prop :=
  ∀ (s : State) (k : Nat) (p : Packet), s.fabric[k]? = some p → p.stage = .entered →
    s.remote p.loc = true → s.maySend k p = true → s.reachAlias p.loc = false →
    let d := dieOf p.slot
    let f := s.flow d (pkgOf p.loc)
    d < 8 → Happens s (.fabricPacketApply k) fun t => ∃ l n, l / 4 = d ∧
      t.fabric = s.fabric.set k { p with
        stage := .sent, sent := s.sidereal, link := some (l, n), seq := f.seq
        prev := (f.lines.find? fun e => e.1 == lineOf p.loc).map (·.2) } ∧
      n = (t.link l).counter ∧
      ((s.link l).underKey ≤ 2 ^ 32 → (t.link l).underKey ≤ 2 ^ 32) ∧
      sealPacket (s.image.linkIds.getD l 0) (t.link l) (s.bump.flits p.bytes) ∈ (t.link l).replay ∧
      ((∃ i, i < 4 ∧ (s.link (4 * d + i)).up = true ∧ (s.link (4 * d + i)).portUp = true) →
        (s.link l).up = true ∧ (s.link l).portUp = true) ∧
      DataKept s t ∧ ∀ c, t.slot c = s.slot c

/-- R236, R240, R337, R340: a home performs a store after the earlier ones to its line: the bytes are
written, or where it finds a fault none is, and the fault becomes pending. None is performed while the home's die
stands (R387), or under a key that is live no more (R345). A store comes into the
write-through buffer of its cluster, and a write of another package reaches its home, in the same order. -/
def Sys2Proof.Claims.StoresApply : Prop :=
  (∀ (s : State) (k : Nat) (p : Packet), s.fabric[k]? = some p → s.mayApply k p = true →
    p.stage = .sent ∨ s.remote p.loc = false → localOf p.loc < 2 ^ 40 →
    Happens s (.fabricPacketApply k) fun t =>
      t.fabric = s.fabric.set k { p with stage := .applied } ∧
      (s.bump.writeFault p.loc p.bytes.length = none → Bytes t p.loc p.bytes ∧
        (∀ a, a < p.loc ∨ p.loc + p.bytes.length ≤ a → t.mem.read a = s.mem.read a) ∧
        ∀ c, t.slot c = s.slot c) ∧
      ∀ e, s.bump.writeFault p.loc p.bytes.length = some e → DataKept s t ∧
        (p.orphan = false → ErrPends s t p.slot e p.va p.pos)) ∧
  (∀ (s : State) (j c i : Nat) (p : Packet), s.issued[j]? = some (c, i) →
    (s.slot c).stores[i]? = some p → (∀ q ∈ (s.slot c).stores.take i, q.sameLine p = false) →
    Happens s (.fabricPacketApply (s.fabric.length + j)) fun t =>
      t.fabric = s.fabric ++ [p] ∧ (t.slot c).stores = (s.slot c).stores.eraseIdx i ∧
      (p.buffered = true → ∀ x, (h : x < p.bytes.length) →
        (t.cluster (clusterOf p.slot)).cache.find (p.loc + x) = some p.bytes[x]) ∧
      DataKept s t ∧ OthersKept s t c) ∧
  ∀ (s : State) (j : Nat) (r : Incoming) (bytes : List Byte), s.incoming[j]? = some r →
    r.name = none → r.op = .write bytes → locCore r.loc = none → localOf r.loc.toNat < 2 ^ 40 →
    s.homeStands r.loc.toNat = false → (∀ q ∈ s.incoming.take j, q.orders r = false) →
    Happens s (.fabricPacketApply (s.fabric.length + s.issued.length + j)) fun t =>
      t.incoming = s.incoming.eraseIdx j ∧ Bytes t r.loc.toNat bytes ∧
      (∀ a, a < r.loc.toNat ∨ r.loc.toNat + bytes.length ≤ a → t.mem.read a = s.mem.read a) ∧
      ∀ c, t.slot c = s.slot c

/-- R243, R339: the acknowledgement of a store that another package has applied reaches its slot within FABLIMIT; a store
given up at FABLIMIT leaves FABRIC pending, and may be on its way still. -/
def Sys2Proof.Claims.StoresAnswered : Prop :=
  ∀ (s : State) (k : Nat) (p : Packet), s.fabric[k]? = some p → p.orphan = false →
    s.remote p.loc = true →
    let y := s.ackClass p.slot p.loc
    let fewer (t : State) : Prop :=
      (t.slot p.slot).acks = (s.slot p.slot).acks.set y ((s.slot p.slot).acks.get y - 1)
    (p.stage = .applied → (s.sidereal - p.sent).toNat < s.fabLimit p.loc →
      Happens s (.fabricAck k) fun t => t.fabric = s.fabric.eraseIdx k ∧
      fewer t ∧ OthersKept s t p.slot ∧ DataKept s t) ∧
    (p.stage ≠ .entered → s.fabLimit p.loc ≤ (s.sidereal - p.sent).toNat →
      Happens s (.fablimitExpiry k) fun t => fewer t ∧ ErrPends s t p.slot .fabric p.va p.pos ∧
        (t.fabric = s.fabric.eraseIdx k ∨
          t.fabric = s.fabric.set k { p with orphan := true, link := none }) ∧
        OthersKept s t p.slot ∧ DataKept s t)

/-- R336, R343 to R345: a packet that fails authentication, which one is open, or a flit that fails its CRC, is sent
again; the tag failures of a packet are counted, and the fourth in a row takes the link direction down; a port
fails; the keys of a link rotate step by step. -/
def Sys2Proof.Claims.LinksChange : Prop :=
  ∀ (s : State) (l : Nat), l < 64 →
    let x := s.link l
    let other := if x.ki then 0 else 1
    let counted (n : Nat) (e : Sealed) : Sealed := if e.counter = n then { e with fails := e.fails + 1 } else e
    (x.up = true → l < 32 → Happens s (.linkTagFailure l) fun t => DataKept s t ∧
      ((∀ e ∈ x.replay, e.fails < 3) → (t.link l).up = true ∧ ((t.link l).replay = x.replay ∨
        ∃ e ∈ x.replay, (t.link l).replay = x.replay.map (counted e.counter))) ∧
      ((∀ e ∈ x.replay, 3 ≤ e.fails) → x.replay ≠ [] → (t.link l).replay = x.replay ∨
        (t.link l).up = false)) ∧
    (x.portUp = true → l < 32 → Happens s (.linkPortFailure l) fun t => (t.link l).portUp = false ∧
      DataKept s t) ∧
    (x.up = false → (Happens s (.laneSparingComplete l false) fun t => t.link l = x) ∧
      Happens s (.laneSparingComplete l true) fun t =>
        (s.repairLog.length < 1024 → (t.link l).up = true ∧ (t.link l).keys = x.keys ∧ ∃ e,
          t.repairLog = s.repairLog ++ [e]) ∧
        (1024 ≤ s.repairLog.length → t.link l = x ∧ t.repairLog = s.repairLog ∧
          t.service.length = s.service.length + 1)) ∧
    (x.rotation = .none → ∀ key, Happens s (.linkKeyInstall l key) fun t =>
      (t.link l).rotation = .loaded ∧ (t.link l).ki = x.ki ∧
      vget (t.link l).keys none other = some key ∧
      vget (t.link l).keys none (1 - other) = vget x.keys none (1 - other)) ∧
    (x.rotation = .loaded → Happens s (.keyIndexFlip l) fun t =>
      t.link l = { x with ki := !x.ki, rotation := .flipped, underKey := 0 }) ∧
    (x.rotation = .flipped → (∀ e ∈ x.replay, e.ki = x.ki) →
      Happens s (.linkRetireFlit l) fun t => (t.link l).rotation = .none ∧
        (t.link l).ki = x.ki ∧ vget (t.link l).keys none other = none)

/-- R236, R240, R243, R334, R336, R337, R339, R340, R343 to R345, R411: a store leaves for its home, is performed
after the earlier ones to the line, acknowledged, or given up at FABLIMIT with FABRIC pending; links fail,
and their keys rotate. -/
def Obligations.LinkEvents : Prop :=
  Claims.StoresLeave ∧ Claims.StoresApply ∧ Claims.StoresAnswered ∧ Claims.LinksChange

/-- Nothing of the running machine is left: the package's memory, slots, cores, clusters and names are as after
reset; the memory of other packages is as it was. -/
def Sys2Proof.Lost (s t : State) : Prop :=
  (∀ a, t.mem.read a = if t.remote a = true then s.mem.read a else State.reset.mem.read a) ∧ t.slots = State.reset.slots ∧ t.cores = State.reset.cores ∧
  t.clusters = State.reset.clusters ∧ t.almanac = State.reset.almanac ∧ t.fabric = [] ∧
  t.launches = []

/-- A relock of die `d` to `mhz` has been asked for: the cycle in progress has been finished, and the clock
stands for 1,500 ns within 20 (R386). -/
structure Sys2Proof.Relocks (s t : State) (d : Nat) (mhz : BitVec 16) : Prop where
  begun : ∃ r, (t.die d).relock = some r ∧ r.old = (s.die d).mhz ∧ r.new = mhz ∧ r.asked = s.sidereal ∧
    1480 ≤ r.len ∧ r.len ≤ 1520 ∧ r.past = 0 ∧ ((s.die d).frac = 0 → r.left = r.len * 12252240)
  cycles : (t.die d).dcyc = (s.die d).dcyc + (if (s.die d).frac = 0 then 0 else 1) ∧ (t.die d).frac = 0
  mem : MemKept s t

/-- R106, R383 to R389: timing messages and their loss; a relock ends, once its time is over, with the die at its
new frequency, one step more counted and recorded in STEPLOG, and NCYC and the heartbeats of its running slots
moved on by the nominal cycles of the relock. The earliest scheduled step of a die comes due: it begins a relock,
or takes its place, by the time it came, among the steps that wait, and the first of those begins one when the die
has run a cycle since its last. The slew after a timing message is DESIGN CHOICE, log 55. -/
def Sys2Proof.Claims.TimeEvents : Prop :=
  (∀ (s : State) (w : Word), s.image.master = false → Happens s (.timingMessage w) fun t =>
    t.lastTiming = s.sidereal ∧ t.timeLost = false ∧ t.sidereal = s.sidereal ∧
    t.slew = ((w.toNat : Int) - s.sidereal.toNat) * 12252240) ∧
  (∀ s : State, s.image.master = false → s.timeLost = false →
    100000000 ≤ (s.sidereal - s.lastTiming).toNat → Happens s .timeMasterLoss fun t =>
      t.timeLost = true ∧ MemKept s t) ∧
  (∀ (s : State) (d : Nat) (r : Relock), (s.die d).relock = some r →
    r.left = 0 → Happens s (.relockEnd d) fun t =>
      let x := s.die d
      let n := (12 * r.len + 5) / 10
      (t.die d).relock = none ∧ (t.die d).mhz = r.new ∧ MemKept s t ∧
      (t.die d).dcyc = x.dcyc + BitVec.ofNat 64 (r.past * r.new.toNat / (1000 * 12252240)) ∧
      (t.die d).stepCount = x.stepCount + 1 ∧
      (∀ e, vget (t.die d).steps e (t.die d).newest.toNat
        = ⟨r.since, x.dcyc, x.ncyc, 0#16 ++ BitVec.ofNat 16 r.len ++ r.new ++ r.old⟩) ∧
      (t.die d).ncyc0 = x.ncyc + BitVec.ofNat 64 (n * 65536) ∧
      (r.past = 0 → ∀ c, dieOf c = d → (s.slot c).phase.run? = some .running →
        (t.slot c).heart.toNat = min ((s.slot c).heart.toNat + n) (2 ^ 32 - 1))) ∧
  (∀ (s : State) (d : Nat) (e : Nat × Word × BitVec 16), earliest d s.schedule = some e → e.2.1 ≤ s.sidereal →
    let x := s.die d
    Happens s (.scheduledFreqStep d) fun t => t.schedule = s.schedule.erase e ∧
      (x.stepWaits = false → x.mhz ≠ e.2.2 → Relocks s t d e.2.2) ∧
      (x.stepWaits = false → x.mhz = e.2.2 → t.die d = x) ∧
      (x.stepWaits = true → t.die d = { x with waitingSteps := insertStep ⟨none, e.2.2, e.2.1⟩ x.waitingSteps })) ∧
  (∀ (s : State) (d : Nat) (w : FreqWait) (l : List FreqWait),
    (∀ e, earliest d s.schedule = some e → s.sidereal < e.2.1) → (s.die d).waitingSteps = w :: l →
    (s.die d).relock = none → (s.die d).justUp = false → s.wants w = true → (s.die d).mhz ≠ w.mhz →
    Happens s (.scheduledFreqStep d) fun t => (t.die d).waitingSteps = l ∧ Relocks s t d w.mhz)

/-- The steps that bring the package up, with what RST_REQ has to be for each (R415, R416). -/
def Sys2Proof.startSteps : List (Instr × Bool) := [(.resetRequest, false), (.i3cStart, true)]

/-- The Eyepiece accepts a copy of the image (R409, R410 step 1). -/
def Sys2Proof.verified (c : ImageCopy) : Prop :=
  c.signed = true ∧ c.image.stepping = 0xB1 ∧ (c.image.repairMap.map (·.2)).Nodup

/-- Copy A, or where it fails copy B, which the flag tells. -/
def Sys2Proof.Boots (s : State) (b : Bool) (i : Image) : Prop :=
  (b = false ∧ verified s.copyA ∧ i = s.copyA.image) ∨
  (b = true ∧ ¬ verified s.copyA ∧ verified s.copyB ∧ i = s.copyB.image)

/-- The slot of the epoch record that counts: the valid one, the newer where both are (R410 step 2). The slot is B
where the flag is set. -/
def Sys2Proof.Counts (s : State) (b : Bool) : Prop :=
  let x := s.epochSlot b
  let y := s.epochSlot (!b)
  x.valid = true ∧ (y.valid = true → if b = true then y.seq < x.seq else y.seq ≤ x.seq)

/-- R410, R415 to R417: bring-up begins with nothing of the running machine left, and starts the service from copy
A or B of the image under the next epoch, which it writes to the older slot of the record; or it stops with its
code. Without a valid slot it stops as for the last epoch, and a step that fails later leaves the record as it was
(DESIGN CHOICE, log 67). Power and reset end a run, STANDBY while RST_REQ is low (DEDUCED, log 20); STOP pre-empts the
slots and then ends it. That memory reads as zero then, and that the service draws the first names, is DESIGN
CHOICE, logs 4 and 19. -/
def Sys2Proof.Claims.PowerEvents : Prop :=
  ∀ s : State,
    (s.power = .run →
      (∀ c ∈ s.slots.map (·.1), (s.slot c).phase = .idle ∨ ∃ b, (s.slot c).phase = .held b) →
      Happens s .i3cStop fun t => t.power = .standby ∧ t.rstAck = s.rstAck ∧ Lost s t) ∧
    (s.power = .off → Happens s .powerOn fun t => t.power = .standby ∧ Lost s t) ∧
    (s.power ≠ .off → Happens s .powerLoss (fun t => t.power = .off ∧ Lost s t) ∧
      (s.rstReq = true → Happens s .resetAsserted fun t => t.power = .standby ∧
        t.rstReq = false ∧ t.rstAck = false ∧ Lost s t)) ∧
    (s.power = .standby → ∀ i ∈ startSteps, s.rstReq = i.2 → Happens s i.1 fun t => Lost s t ∧
      t.rstAck = true ∧
      let stops (code : Byte) : Prop := t.power = .standby ∧ t.bootstat = code ∧ t.epochA = s.epochA ∧
        t.epochB = s.epochB
      (¬ verified s.copyA → ¬ verified s.copyB → stops 1) ∧
      ∀ b image, Boots s b image →
        (s.epochA.valid = false → s.epochB.valid = false → stops 2) ∧
        ∀ q, Counts s q → let x := s.epochSlot q
          (x.epoch = 0xFFFFFF → stops 2) ∧
          (x.epoch ≠ 0xFFFFFF → s.trains = false → stops 3) ∧
          (x.epoch ≠ 0xFFFFFF → s.trains = true →
            t.power = .run ∧ t.bootstat = 0x80 ∧ t.image = image ∧ t.useB = b ∧ t.epoch = x.epoch + 1 ∧
            t.epochSlot q = x ∧ (t.epochSlot (!q)).valid = true ∧ (t.epochSlot (!q)).seq = x.seq + 1 ∧
            (t.epochSlot (!q)).epoch = x.epoch + 1 ∧
            t.serial = ((x.epoch + 1) ++ 0#64) + BitVec.ofNat 88 bornCount))

/-- R375, R416: while some slot runs, STOP pre-empts the slots. -/
def Sys2Proof.Claims.StopPreempts : Prop :=
  ∀ (s : State) (c : Nat) (r : Run), s.power = .run → s.stopping = false → s.slots = [(c, s.slot c)] →
    (s.slot c).phase = .active r → s.image.preWin ≠ 0 → Happens s .i3cStop fun t =>
      t.stopping = true ∧ t.power = .run ∧ (t.slot c).phase = .draining r ∧
      (t.slot c).drainAt = some (s.nominal c + s.image.preWin) ∧ MemKept s t

/-- R10, R14, R400, R401, R411: a lasting fault of a core or a cluster is met: the cluster's slots are pre-empted,
and once they are held it moves to a spare of its die, with its cores back in use, and an entry in the repair log;
one of HBM or of a link's lane is met by sparing. Where the log is full, or no spare is left, nothing is repaired,
and the service is told. That the two go together is DEDUCED, and what an entry holds DESIGN CHOICE (log 42). -/
def Sys2Proof.Claims.Repairs : Prop :=
  ∀ (s : State) (unit k : Nat), s.power = .run → (unit, k) ∈ s.lasting →
    let cl := unitCluster unit k
    let told (t : State) : Prop := t.repairLog = s.repairLog ∧ t.physMap = s.physMap ∧
      t.lasting = s.lasting ∧ t.service.length = s.service.length + 1 ∧ ∀ k, t.core k = s.core k
    let logged (t : State) : Prop := (unit, k) ∉ t.lasting ∧ ∃ e, t.repairLog = s.repairLog ++ [e]
    (2 ≤ unit → unit ≤ 3 → Happens s (.inServiceRepair (unit, k)) fun t =>
      (1024 ≤ s.repairLog.length → told t) ∧ (s.repairLog.length < 1024 → logged t)) ∧
    (unit ≤ 1 → cl < 4096 → clusterNum cl < 448 → Happens s (.inServiceRepair (unit, k)) fun t =>
      let idle : Prop := ∀ c, clusterOf c = cl → (s.slot c).phase = .idle
      (1024 ≤ s.repairLog.length → told t) ∧
      (s.repairLog.length < 1024 → s.freeSpare (cl / 512) = none → told t) ∧
      ∀ p, s.repairLog.length < 1024 → s.freeSpare (cl / 512) = some p →
        (idle → logged t ∧ t.physCluster cl = p ∧ s.physCluster cl ∈ t.worn ∧
          ∀ i, i < 16 → (t.core (16 * cl + i)).fenced = false ∧ (t.core (16 * cl + i)).contained = false) ∧
        ∀ c r, clusterOf c = cl → (s.slot c).phase = .active r → s.image.preWin ≠ 0 →
          (t.slot c).phase = .draining r ∧ t.physMap = s.physMap ∧ t.repairLog = s.repairLog)

/-- R417: the update of the service image: written to the copy that is not in use, verified there, started beside
the old one, while requests are answered 5, and in its place. -/
def Sys2Proof.Claims.ImageUpdates : Prop :=
  ∀ (s : State) (n : Nat), s.power = .run → Happens s (.serviceImageUpdate n) fun t =>
    let spare (s : State) : ImageCopy := if s.useB = true then s.copyA else s.copyB
    (s.update = .none → t.update = .written n ∧ (spare t).image = { s.image with release := n } ∧
      t.image = s.image ∧ (s.useB = true → t.copyB = s.copyB) ∧ (s.useB = false → t.copyA = s.copyA)) ∧
    ∀ r, (s.update = .written r → (verified (spare s) → t.update = .verified r) ∧
        (¬ verified (spare s) → t.update = .none ∧ t.image = s.image)) ∧
      (s.update = .verified r → t.update = .handing r ∧ t.ready = false) ∧
      (s.update = .handing r → t.update = .none ∧ t.image = { s.image with release := r } ∧ t.useB = !s.useB)

/-- R10, R14, R388, R402, R406 to R408, R411: the repair log, wear and debug sessions, whose end leaves stops as
they are (DEDUCED, log 40); a power cap, for which one step of each die is scheduled (DESIGN CHOICE, log 41). -/
def Sys2Proof.Claims.ModuleEvents : Prop :=
  ∀ s : State,
    (∀ d src days, d < 8 → 1 ≤ src.toNat → src.toNat ≤ 3 →
      Happens s (.eolpredUpdate d src days) fun t => (t.die d).eolSource = src.setWidth 8 ∧
        (t.die d).eolDays = days ∧ MemKept s t) ∧
    (∀ n, s.power ≠ .off → Happens s (.debugSessionConnect n) fun t => t.session = true ∧
      MemKept s t) ∧
    (s.session = true → Happens s .debugSessionEnd (fun t => t.session = false ∧ MemKept s t) ∧
      (∀ k, Happens s (.debugBreakClaim k) fun t => (t.core k).claimed = true ∧ MemKept s t) ∧
      (∀ k, Happens s (.debugStop k) fun t => (t.core k).stopped = true ∧
        (isServiceCore k = false → MemKept s t)) ∧
      (∀ k, Happens s (.debugResume (k, none)) fun t => (t.core k).stopped = false ∧ MemKept s t ∧
        ∀ c, (c ∈ slotsOf k → (s.slot c).haltNext = true → (t.slot c).atBreak = false ∧
          (t.slot c).pc = (s.slot c).pc) ∧ (c ∉ slotsOf k ∨ (s.slot c).haltNext = false → t.slot c = s.slot c)) ∧
      ∀ k i, i < 4 → Happens s (.debugResume (k, some i)) fun t => MemKept s t ∧ OthersKept s t (4 * k + i) ∧
        ((s.slot (4 * k + i)).atBreak = true → (t.slot (4 * k + i)).atBreak = false ∧
          (t.slot (4 * k + i)).pc = (s.slot (4 * k + i)).pc)) ∧
    (s.eyepiece = 0 → Happens s .eyepieceFailover fun t => t.session = false ∧ t.eyepiece = 4 ∧
      ∀ k, t.core k = s.core k) ∧
    (s.power = .run → ∀ l, Happens s (.repairLogAppend l) fun t =>
      (s.repairLog.length < 1024 → t.repairLog = s.repairLog ++ [l] ∧ t.service = s.service) ∧
      (1024 ≤ s.repairLog.length → t.repairLog = s.repairLog ∧
        t.service.length = s.service.length + 1)) ∧
    (∀ w, s.power ≠ .off → 1000 ≤ w → w ≤ 5200 → Happens s (.pcap w) fun t =>
      t.pcap = BitVec.ofNat 16 w ∧ MemKept s t ∧
      (s.power = .run → t.schedule.length = s.schedule.length + 8))

/-- R10, R14, R106, R383 to R389, R400 to R402, R406 to R408, R410, R411, R415 to R417: time, power and the
module. -/
def Obligations.ModuleAndTimeEvents : Prop :=
  Claims.TimeEvents ∧ Claims.PowerEvents ∧ Claims.StopPreempts ∧ Claims.Repairs ∧ Claims.ImageUpdates ∧
  Claims.ModuleEvents

/-- The last answer that the service has sent (R413). -/
def Sys2Proof.Answered (s t : State) (tag : BitVec 32) (code : BitVec 8) (v : Word) (data : List Byte) : Prop :=
  t.answers = s.answers ++ [⟨tag, code, v, data⟩]

/-- The header of a request of a kind, with a TAG and an address space, before a payload (R413). That its other bits
are zero is DESIGN CHOICE, log 73. -/
def Sys2Proof.header (kind : Byte) (tag : BitVec 32) (asid : BitVec 16) (b : List Byte) : BitVec 256 :=
  0#112 ++ asid ++ BitVec.ofNat 64 b.length ++ tag ++ 0#16 ++ 1#8 ++ kind

/-- The `i`-th word of a payload, little-endian. -/
def Sys2Proof.payload (b : List Byte) (i : Nat) : Word := BitVec.ofNat 64 (bytesNat ((b.drop (8 * i)).take 8))

/-- R413: what a request of a kind is answered before its payload is looked at: 5 while the service is not ready,
1 where its header is malformed or its payload has not the length of its kind, 3 for a space that the service does
not know. That they are looked at in this order is DESIGN CHOICE, log 73. -/
def Sys2Proof.Claims.RequestsRefused : Prop :=
  ∀ (s : State) (tag : BitVec 32) (asid : BitVec 16) (x y : List Byte) (h : BitVec 256), s.power = .run →
    (x ++ y).length < 2 ^ 64 →
    let b := x ++ y
    let refused (i : Instr) (tag : BitVec 32) (code : BitVec 8) : Prop :=
      Happens s i fun t => Answered s t tag code 0 [] ∧ MemKept s t
    let n := (payload b 1).toNat
    let desc : LaunchDesc := launchDesc (BitVec.ofNat 512 (bytesNat b))
    let kinds (h : Byte → BitVec 256) : List (Instr × Prop) :=
      [(.writeRequest (h 1) x y, 8 ≤ b.length), (.readRequest (h 2) x y, b.length = 16 ∧ 1 ≤ n ∧ n ≤ 65536),
       (.launchRequest ⟨h 3, b⟩, b.length = 64 ∧ desc.asid = asid), (.waitRequest (h 4) b, b.length = 4)]
    (s.ready = false → ∀ i ∈ kinds fun k => header k tag asid b, refused i.1 tag 5) ∧
    (s.ready = true → h.extractLsb' 0 8 = 0 ∨ 4 < (h.extractLsb' 0 8).toNat →
      ∀ i ∈ kinds fun _ => h, refused i.1 (h.extractLsb' 32 32) 1) ∧
    (s.ready = true → ∀ i ∈ kinds fun k => header k tag asid b,
      (¬ i.2 → refused i.1 tag 1) ∧ (i.2 → s.spaces.find asid.toNat = none → refused i.1 tag 3))

/-- R413: READ and WRITE act on mapped ranges; WAIT answers with a launch's value, or waits. -/
def Sys2Proof.Claims.Requests : Prop :=
  ∀ (s : State) (tag : BitVec 32) (asid : BitVec 16) (x y : List Byte) (root : BitVec 40), s.power = .run →
    s.ready = true → (x ++ y).length < 2 ^ 64 → s.spaces.find asid.toNat = some root →
    let b := x ++ y
    let h (k : Byte) := header k tag asid b
    let va := payload b 0
    let n := (payload b 1).toNat
    let id := BitVec.ofNat 32 (bytesNat b)
    (8 ≤ b.length →
      (∀ l, s.bump.range root true va (b.length - 8) = some l → Happens s (.writeRequest (h 1) x y) fun t =>
        Answered s t tag 0 0 [] ∧ t.mem = (s.bump.putParts l (b.drop 8)).mem) ∧
      (s.bump.range root true va (b.length - 8) = none → Happens s (.writeRequest (h 1) x y) fun t =>
        Answered s t tag 6 0 [] ∧ MemKept s t)) ∧
    (b.length = 16 → 1 ≤ n → n ≤ 65536 →
      (∀ z, s.bump.svcRead root va n = some z → Happens s (.readRequest (h 2) x y) fun t =>
        Answered s t tag 0 0 z ∧ MemKept s t) ∧
      (s.bump.svcRead root va n = none → Happens s (.readRequest (h 2) x y) fun t =>
        Answered s t tag 6 0 [] ∧ MemKept s t)) ∧
    (b.length = 4 →
      (s.launches.reverse.find? (fun l => l.asid == asid && l.id == id) = none →
        Happens s (.waitRequest (h 4) b) fun t => Answered s t tag 7 0 []) ∧
      ∀ l v, s.launches.reverse.find? (fun l => l.asid == asid && l.id == id) = some l →
        (l.ended = some v → Happens s (.waitRequest (h 4) b) fun t => Answered s t tag 0 v []) ∧
        (l.ended = none → Happens s (.waitRequest (h 4) b) fun t =>
          t.waits = s.waits ++ [⟨asid, id, tag⟩] ∧ t.answers = s.answers))

/-- R18, R91, R213, R420: the service pushes a launch's records one by one; a refused one stays. A launch of
which nothing is left ends: its waits are answered with the value 0, its stages and default tables come back.
That a refused record is tried again at any time is DEDUCED, log 43. -/
def Sys2Proof.Claims.LaunchesGoOn : Prop :=
  ∀ (s : State) (k : Nat) (l : Launch), s.launches[k]? = some l →
    (∀ cl r rest, l.todo = (cl, r) :: rest → Happens s (.launchPushRetry k) fun t =>
      (∀ z, s.bump.push cl (recPri r) r (s.launchEnv l) = .ok z →
        Accepted s.bump t cl (recPri r) r (s.launchEnv l) ∧ ∃ m, t.launches[k]? = some m ∧
          m.todo = rest ∧ (rest = [] → m.answered = true)) ∧
      ∀ e, s.bump.push cl (recPri r) r (s.launchEnv l) = .error e →
        t.launches = s.launches ∧ MemKept s t ∧ t.answers = s.answers) ∧
    (l.ended = none → s.launchLives l = false → Happens s (.launchEnd k) fun t =>
      (∃ m, t.launches[k]? = some m ∧ m.ended = some 0) ∧
      let mine (w : WaitReq) : Bool := w.asid == l.asid && w.launch == l.id
      t.waits = s.waits.filter (fun w => !mine w) ∧
      t.answers = s.answers ++ (s.waits.filter mine).map (fun w => ⟨w.tag, 0, 0, []⟩) ∧
      (∀ x ∈ l.used, (t.core x).pattern = none) ∧
      (s.launches = [l] → ∀ e ∈ l.stages, (t.core e.1).stage = 0))

/-- The records that a LAUNCH names, as the service reads them. -/
def Sys2Proof.asRecords (l : List Nat) : List (BitVec 256) := l.map (BitVec.ofNat 256)

/-- What a LAUNCH points to, once the objects of its address space stand in memory, which gives `u`: everything is
mapped, and there is neither an argument block nor a pipeline map (R90, R91). -/
structure Sys2Proof.LaunchAt (s u : State) (d : LaunchDesc) (root : BitVec 40) (objs : List Object)
    (recs : List Nat) (mask : Nat) : Prop where
  linked : s.bump.linkedObjects d.asid = some objs
  fit : d.ok = true ∧ ∀ o ∈ objs, s.bump.objectFits root o = true
  loaded : s.bump.loadObjects root d.asid objs = some u
  records : u.svcTable root d.recs 32 d.nrec = some recs
  placed : u.svcNat root d.mask 448 = some mask
  noBlock : d.argLen = 0 ∧ d.pmap = 0

/-- R90 to R92, R115, R270, R272, R413: a launch the service accepts stands among its launches, with its
clusters; every core they hold has FETCHGRP zero and, before the first push, the scratchpad image of an
object. One with a malformed descriptor or record, no cluster, a rounding code that does not exist or other defaults
than a running launch of its address space, or with an object that a relocation does not fit, is refused with code 2;
one for which a frame is wanting with code 4; and nothing changes. One that would change the rounding state under a
running activation waits. The objects of a launch are those of its address space, and one whose pages are mapped
otherwise is refused (DESIGN CHOICE, log 68). -/
def Sys2Proof.Claims.Launches : Prop :=
  ∀ (s : State) (tag : BitVec 32) (b : List Byte) (root : BitVec 40),
    let d := launchDesc (BitVec.ofNat 512 (bytesNat b))
    let i : Instr := .launchRequest ⟨header 3 tag d.asid b, b⟩
    let refused (code : BitVec 8) : Prop := Happens s i fun t => Answered s t tag code 0 [] ∧ MemKept s t ∧
      t.launches = s.launches ∧ ∀ k, t.core k = s.core k
    s.power = .run → s.ready = true → s.spaces.find d.asid.toNat = some root → b.length = 64 →
    (s.bump.linkedObjects d.asid = none → refused 2) ∧
    (∀ objs, s.bump.linkedObjects d.asid = some objs →
      (d.ok = false → refused 2) ∧ ((∃ o ∈ objs, s.bump.objectFits root o = false) → refused 2) ∧
      (d.ok = true → (∀ o ∈ objs, s.bump.objectFits root o = true) →
        s.bump.loadObjects root d.asid objs = none → refused 4)) ∧
    ∀ u objs recs mask, LaunchAt s u d root objs recs mask →
      let cls := maskClusters mask
      let fits := 1 ≤ d.rnd.toNat ∧ d.rnd.toNat ≤ 5 ∧ cls ≠ [] ∧
        (∀ r ∈ recs, r % 4 = 0 ∧ r / 2 ^ 54 % 64 = 0) ∧
        ∀ l ∈ s.launches, l.asid = d.asid → l.ended = none → l.rnd = d.rnd ∧ l.ftz = d.ftz
      (¬ fits → refused 2) ∧
      (fits → s.bump.roundingWaits d = true → exec i s = .refused .notEnabled) ∧
      (fits → s.bump.roundingWaits d = false → Happens s i fun t =>
        (∃ l, t.launches = s.launches ++ [l] ∧ l.id = d.id ∧
          l.asid = d.asid ∧ l.clusters = cls ∧ l.queues = [] ∧ l.ended = none ∧
          (l.todo.length = recs.length ∨ l.todo.length + 1 = recs.length)) ∧
        ∀ k, coreCluster k ∈ cls → (t.core k).fetchGrp = 0 ∧
          ∀ o, objs = [o] → o.scratch.length ≤ 0x8000 → Bytes { t with mem := (t.core k).scratch } 0 o.scratch)

/-- R92: the ASID table entry that a launch writes gives its activations the table root and the rounding
state of its descriptor. -/
def Sys2Proof.Claims.AsidWritten : Prop :=
  ∀ (s : State) (d : LaunchDesc) (root : BitVec 40), 1 ≤ d.rnd.toNat → d.rnd.toNat ≤ 5 →
    s.image.asidTab.toNat + 16 * d.asid.toNat < 2 ^ 40 →
    (s.putAsid d root).asidEntry d.asid = some ⟨root, d.rnd, d.ftz⟩

/-- The little-endian number of `n` bytes of a section at an offset. -/
def Sys2Proof.wordIn' (b : List Byte) (at_ n : Nat) : Nat := bytesNat ((b.drop at_).take n)

/-- In the `n` bytes at an offset of a section, `k` bits from bit `lo` on have become `x`; every other bit
of the section is as before. -/
structure Sys2Proof.Patched (b c : List Byte) (at_ n lo k x : Nat) : Prop where
  field : wordIn' c at_ n / 2 ^ lo % 2 ^ k = x % 2 ^ k
  low : wordIn' c at_ n % 2 ^ lo = wordIn' b at_ n % 2 ^ lo
  high : wordIn' c at_ n / 2 ^ (lo + k) = wordIn' b at_ n / 2 ^ (lo + k)
  size : c.length = b.length
  rest : ∀ i, i < at_ ∨ at_ + n ≤ i → c.getD i 0 = b.getD i 0

/-- R272: a relocation puts S + A into its place, or splits it over two HIMM words and the field of the main
word after them; a value that does not fit, or is no multiple of the access size, refuses the object, as
does a place outside the section. -/
def Sys2Proof.Claims.Relocations : Prop :=
  ∀ (o : Object) (r : Reloc),
    let b := o.bytes r.place
    let v := o.base r.symbol + BitVec.ofNat 64 r.offset + r.addend
    let pc := o.base r.place + BitVec.ofNat 64 (r.at_ + 8)
    let splits (lo n x : Nat) : Prop := r.at_ + 12 ≤ b.length → ∃ p b1 b2, o.reloc r = some p ∧
      Patched b b1 r.at_ 4 0 22 (x / 2 ^ (n + 22)) ∧ Patched b1 b2 (r.at_ + 4) 4 0 22 (x / 2 ^ n) ∧
      Patched b2 (p.bytes r.place) (r.at_ + 8) 4 lo n x
    let scaled (n k lo w : Nat) : Prop :=
      if n ≠ 0 ∧ v.toInt % n = 0 ∧ -2 ^ (k - 1) ≤ v.toInt / n ∧ v.toInt / n < 2 ^ (k - 1) then
        splits lo w (BitVec.ofInt k (v.toInt / n)).toNat
      else o.reloc r = none
    (r.kind = .abs64 → r.at_ + 8 ≤ b.length → ∃ p, o.reloc r = some p ∧
      Patched b (p.bytes r.place) r.at_ 8 0 64 v.toNat) ∧
    (r.kind = .ent54 → r.at_ + 8 ≤ b.length → (v.toNat % 4 ≠ 0 → o.reloc r = none) ∧
      (v.toNat % 4 = 0 → ∃ p, o.reloc r = some p ∧
        Patched b (p.bytes r.place) r.at_ 8 0 54 v.toNat)) ∧
    (r.kind = .imm57 → splits 0 13 v.toNat) ∧ (r.kind = .imm63 → splits 0 19 v.toNat) ∧
    (r.kind = .pc63 → splits 0 19 ((v - pc).sshiftRight 2).toNat) ∧
    (r.kind = .off52 → scaled 16 52 0 8) ∧
    (∀ n, r.kind = .off54 n → scaled n 54 3 10) ∧ (∀ n, r.kind = .off50 n → scaled n 50 7 6) ∧
    (b.length < r.at_ + 4 → o.reloc r = none)

/-- The call at the head of the queue, whose block lies in a scratchpad of an open core, names no cell and
leaves its reserved fields zero (R144). -/
structure Sys2Proof.PlainCall (s : State) (c : Scall) (k off : Nat) (no : Nat) : Prop where
  head : s.scalls = [c]
  block : c.block = mkCoreAddr s.image.pkg k off
  place : locCore c.block = some ⟨s.image.pkg, k, off⟩ ∧ off + 64 ≤ 0x8000
  isOpen : (s.core k).fenced = false ∧ (s.core k).contained = false
  number : (s.core k).scratch.readLE off 2 = no
  zero : (s.core k).scratch.readLE (off + 2) 6 = 0 ∧ (s.core k).scratch.readLE (off + 24) 8 = 0
  noJoin : (s.core k).scratch.readLE (off + 32) 16 = 0

/-- R18, R93, R144, R364, R414, R420: the service answers a call: RESULT, then STATUS with DONE and the code
in its low bits. ECHO returns ARG0; MAP maps and UNMAP unmaps a range, once no access through it waits at a
home; DONE ends the caller's launch; QNAME writes a queue's name. -/
def Sys2Proof.Claims.Calls : Prop :=
  ∀ (s : State) (c : Scall) (k off no : Nat), PlainCall s c k off no →
    let arg (i : Nat) : Word := BitVec.ofNat 64 ((s.core k).scratch.readLE (off + 8 + 8 * i) 8)
    let taken : State := { s.bump with scalls := [] }
    let done (t : State) (code : Nat) : Prop := t.scalls = [] ∧
      (t.core k).scratch.readLE (off + 56) 8 = 2 ^ 63 + code
    let result (t : State) : Nat := (t.core k).scratch.readLE (off + 48) 8;
    (no = 1 → Happens s .svcEcho fun t => done t 0 ∧ result t = (arg 0).toNat ∧ MemKept s t) ∧
    (no = 0 ∨ 5 < no → Happens s .svcEcho fun t => done t 1 ∧ MemKept s t) ∧
    (no = 2 → (arg 1).extractLsb' 52 12 = 0#12 →
      pteMalformed 3 (((arg 1).extractLsb' 40 12).setWidth 64) = false →
      ∀ a n u, callRange (arg 0) (arg 1) = some (a, n) →
        taken.mapPages c.root ((arg 1).extractLsb' 40 12) a n = some u →
        Happens s .svcMap fun t => done t 0 ∧ MemKept u t) ∧
    (no = 3 → ∀ a n, callRange (arg 0) (arg 1) = some (a, n) →
      let waits := s.waitsThrough (s.unmapStruck c a n)
      (waits = true → exec .svcUnmap s = .refused .notEnabled) ∧
      ∀ u, waits = false →
        (taken.settleThrough (taken.unmapStruck c a n)).unmapPages c.root a n = some u →
        Happens s .svcUnmap fun t => done t 0 ∧ MemKept u t) ∧
    (no = 4 → ∀ i l, taken.launchAt c.of_ c.launch = i → s.launches[i]? = some l →
      Happens s .svcDone fun t => done t 0 ∧
        (∃ m, t.launches[i]? = some m ∧ m.ended = some (arg 0)) ∧
        ∀ x ∈ l.used, (t.core x).pattern = none) ∧
    (no = 5 → ∀ a l n, coreAddr (arg 0 &&& 0xFFFFFF0FFFFFFFFF) = some a → a.pkg = s.image.pkg →
      a.off < 20 → (clusterNum (coreCluster a.core) = 452 → a.off < 8) → taken.qnameAt c (arg 1) = some l →
      taken.queueName (coreCluster a.core) a.off = some n → locCore l = none →
      localOf l.toNat < 2 ^ 40 → Happens s .svcQname fun t => done t 0 ∧ result t = 0 ∧
        t.mem.readLE l.toNat 16 = n.toNat)

/-- R18, R90 to R93, R115, R144, R213, R270, R272, R364, R413, R414, R420: the resident service: requests,
launches, the image loader and calls. -/
def Obligations.ServiceEvents : Prop :=
  Claims.RequestsRefused ∧ Claims.Requests ∧ Claims.LaunchesGoOn ∧ Claims.Launches ∧ Claims.AsidWritten ∧
  Claims.Relocations ∧ Claims.Calls

/-! ## The whole machine (R22, R44 to R48, R108 to R112, R131, R369, R410) -/

/-- R22, R37, R44 to R47: decoding the word of a well-formed instruction gives it back, every operand
at every value (for NMCAS, the ACAS2 it is another name of); and a word that decodes to an
instruction is that instruction's word, bit for bit. -/
def Obligations.DecodeAndEncodeAgree : Prop :=
  (∀ (i : Instr) (w : BitVec 32), encode i = some w → i.check = none →
    decodeWord w = .ok i.canon) ∧
  ∀ (i : Instr) (w : BitVec 32), decodeWord w = .ok i → encode i = some w ∧ i.check = none

/-- Some of the words that the encoding sections give as examples, of eleven families. -/
def Obligations.DecodeWords : Prop :=
  decodeWord 0x0220A300#32 = .ok (.add false 4 5 6) ∧
  decodeWord 0x83409C82#32 = .ok (.mul true 40 4 57) ∧
  decodeWord 0x0438FFFF#32 = .ok (.addi false 7 7 0x1FFF) ∧
  decodeWord 0x2021FFFD#32 = .ok (.bnez false 4 0xFFFD) ∧
  decodeWord 0x3041201E#32 = .ok (.ldd false 8 9 3) ∧
  decodeWord 0x56212334#32 = .ok (.acas false 4 9 6 1 1 4) ∧
  decodeWord 0x5E008280#32 = .ok (.spawn false 4 5) ∧
  decodeWord 0x63453500#32 = .ok (.vfma false 40 41 42) ∧
  decodeWord 0x6E084180#32 = .ok (.mma false 1 2 3) ∧
  decodeWord 0x7220A000#32 = .ok (.copy false 4 5 0) ∧
  decodeWord 0x7E4091A2#32 = .ok (.himm 0x91A2)

/-- What a step makes of the turn of slot `c`: a word that needs a die whose clock stands holds issue (R387); where
one has issued, the core's slot pointer moves past the slot (R112); and time passes (DESIGN CHOICE, log 8). -/
noncomputable def Sys2Proof.turnOf (s : State) (c : Nat) :
    Host.Outcome State Fault Refusal → Host.Outcome State Fault Refusal
  | .next t => timed (.next (if s.offLimits t = true then s.bump.stop .hold
      else if s.hasIssued t c then t.tookTurn c else t))
  | o => timed o

/-- R108 to R112, R131, R225, R387, R393, R394, R407: when it is the turn of slot `c`, what its last word was still
writing is written, the word at its pc is taken from a line in its core's buffer, and the step runs the instruction
that the word decodes to; a word that decodes to nothing takes ILLEGAL, a malformed hint enters its group. A fault
of the fetch is taken instead of the word; a pc that no word is fetched from takes PROT; a slot that a debug stop
has come to halts instead. Where the Collimator finds the result of a word that retires wrong, its second execution
stands, and its results are written before the slot goes on; where that is wrong too, the core is contained. When
it finds one wrong is open (DESIGN CHOICE, log 49). -/
def Obligations.StepRunsDecoded : Prop :=
  ∀ (s : State) (c : Nat), s.turn = .slot c →
    let s0 := { s with focus := c }
    let b := s0.finishLate c
    let pc := (s.slot c).pc
    let runs (o : Host.Outcome State Fault Refusal) : Prop := step s = turnOf s0 c o
    let go : Prop := (s.slot c).halts = false
    (¬ go → runs (.next (s0.bump.haltSlot c))) ∧
    (go → noCode pc = true → runs (.next (b.bump.stop (.at_ .prot pc 0)))) ∧
    (go → ∀ e, fetchWord b = .error e → runs (.next (b.bump.stop e))) ∧
    ∀ (t : State) (pa : Nat) (leaf : Word) (l : Line) (w : BitVec 32), go → noCode pc = false →
      b.bump.fetchXlate c pc.toNat = .ok t pa leaf → t.focus = c → t.nextLine c = some l →
      l.word pc.toNat = some w → (t.slot c).pc = pc →
      let u := t.readLine (coreOf c) l
      (u.myCore.upsets = [] → (∀ i, decodeWord w = .ok i → runs (exec i u)) ∧
        ∀ e, decodeWord w = .error e →
          runs (if e = .hintMalformed then hintMalformed u
            else .next (u.bump.stop (.plain .illegal)))) ∧
      ∀ i v, decodeWord w = .ok i → u.me.isHint w = false → exec i u = .next v → u.me.pos ≠ v.me.pos →
        v.focus = c →
        (∀ q, u.myCore.upsets = true :: false :: q → ∃ x, runs (.next x) ∧
          (x.slot c).pc = (v.slot c).pc ∧ ∀ o ∈ (x.slot c).outs, o.issued = u.me.pos → o.ready.isSome = true) ∧
        ∀ q, u.myCore.upsets = true :: true :: q → ∃ x, runs (.next x) ∧
          (x.core (coreOf c)).contained = true ∧ ∀ k ∈ slotsOf (coreOf c), ∀ r, (x.slot k).phase ≠ .active r

/-- The model's own invariant (DESIGN CHOICE, log 4): a step keeps memory and every scratchpad in their canonical
form, so that two memories that read alike are equal. -/
def Obligations.MemoryStaysCanonical : Prop :=
  ∀ s t : State, s.canonical → step s = .next t → t.canonical

/-- R369, R367, R378: no word but ERET changes the mode of the slot that issues it, and ERET only
leaves supervisor mode: nothing a user's word does, a trap included, enters it. -/
def Obligations.OnlyEretChangesMode : Prop :=
  ∀ (i : Instr) (w : BitVec 32) (s t : State), encode i = some w → exec i s = .next t →
    ((∀ m, i ≠ .eret m) → (t.slot s.focus).super = s.me.super) ∧
    (s.me.super = false → (t.slot s.focus).super = false)

/-- R53, R55, R95, R360, R370, R410: after bring-up the package runs, BOOTSTAT reads 0x80, every slot is
idle with no error record, every core has free units, empty TLBs, an empty buffer and an empty engine queue,
every cluster has empty queues and caches nothing, no call or request waits, nothing is on its way, and names
carry the epoch, the first of them drawn for the service's own queues (DESIGN CHOICE, log 19).
Memory reads as zero and is canonical, which is the model's choice (DESIGN CHOICE, log 4). Nothing issues until
a record starts an activation: the step is idle, and leaves every slot as it is. That no slot runs at reset is
log 2, and that one that has run nothing is in user mode log 3, both DESIGN CHOICE. -/
def Obligations.ResetState : Prop :=
  let s := State.reset
  s.canonical ∧ (∀ a, s.mem.read a = 0) ∧ s.power = .run ∧ s.bootstat = 0x80 ∧
  s.serial = (s.epoch ++ 0#64) + BitVec.ofNat 88 bornCount ∧ s.almanac = [] ∧ s.scalls = [] ∧
  s.launches = [] ∧ s.fabric = [] ∧ s.incoming = [] ∧ s.poison = [] ∧ s.forged = 0 ∧
  (∀ c, (s.slot c).phase = .idle ∧ (s.slot c).heldErr = none ∧ (s.slot c).super = false) ∧
  (∀ k, (s.core k).dtlb = [] ∧ (s.core k).itlb = [] ∧ (s.core k).queue = [] ∧
    (s.core k).buffer = [] ∧ (s.core k).mmas = [] ∧ (s.core k).fetchGrp = 0 ∧
    (s.core k).stage = 0 ∧ (∀ u, u < 8 → (vget (s.core k).units .reset u).state = .free) ∧
    (s.core k).pattern = none) ∧
  (∀ k q, (s.cluster k).tlb = [] ∧ (s.cluster k).lines = [] ∧ (s.cluster k).cache = [] ∧
    ((s.cluster k).queue q).pool = [] ∧ ((s.cluster k).queue q).ext = []) ∧
  s.turn = .idle ∧ ∃ t, step s = .next t ∧ ∀ c, t.slot c = s.slot c
end

