-- ==== Sys2Proof/Laws/Store.lean ====
section
/-! SUPPORT. Association lists and byte memory: a read after a write, and that every operation on
memory keeps its canonical form. -/

namespace Sys2Proof.Machine

/-! ## Association lists -/

@[simp] theorem AMap.find_nil {α : Type} (k : Nat) : AMap.find ([] : AMap α) k = none := rfl

theorem AMap.find_set_self {α : Type} (m : AMap α) (k : Nat) (v : α) :
    (m.set k v).find k = some v := by
  induction m with
  | nil => simp [AMap.set, AMap.find]
  | cons e m ih =>
    obtain ⟨k', v'⟩ := e
    unfold AMap.set
    split
    · simp [AMap.find]
    · split
      · simp [AMap.find]
      · simp [AMap.find, *]

theorem AMap.find_set_ne {α : Type} (m : AMap α) (k j : Nat) (v : α) (h : j ≠ k) :
    (m.set k v).find j = m.find j := by
  induction m with
  | nil => simp [AMap.set, AMap.find, Ne.symm h]
  | cons e m ih =>
    obtain ⟨k', v'⟩ := e
    unfold AMap.set
    split
    · next hk => subst hk; simp [AMap.find, Ne.symm h]
    · split
      · simp [AMap.find, Ne.symm h]
      · simp [AMap.find, ih]

@[simp] theorem AMap.get_set_self {α : Type} (m : AMap α) (d : α) (k : Nat) (v : α) :
    (m.set k v).get d k = v := by simp [AMap.get, AMap.find_set_self]

theorem AMap.get_set_ne {α : Type} (m : AMap α) (d : α) (k j : Nat) (v : α) (h : j ≠ k) :
    (m.set k v).get d j = m.get d j := by simp [AMap.get, AMap.find_set_ne m k j v h]

theorem AMap.get_set {α : Type} (m : AMap α) (d : α) (k j : Nat) (v : α) :
    (m.set k v).get d j = if j = k then v else m.get d j := by
  by_cases h : j = k
  · subst h; simp
  · simp [h, AMap.get_set_ne]

theorem AMap.find_erase {α : Type} (m : AMap α) (k j : Nat) :
    (m.erase k).find j = if j = k then none else m.find j := by
  induction m with
  | nil => simp [AMap.erase, AMap.find]
  | cons e m ih =>
    obtain ⟨k', v'⟩ := e
    simp only [AMap.erase] at ih ⊢
    by_cases h : k' = k
    · subst h
      simp only [ne_eq, not_true_eq_false, decide_false, Bool.false_eq_true, not_false_eq_true,
        List.filter_cons_of_neg, ih]
      by_cases hj : j = k'
      · simp [hj]
      · simp [hj, AMap.find, Ne.symm hj]
    · rw [List.filter_cons_of_pos (by simpa using h)]
      simp only [AMap.find, ih]
      by_cases hj : k' = j
      · subst hj; simp [h]
      · simp [hj]

/-- The numbers of a list rise. -/
def AMap.rising {α : Type} (m : AMap α) : Prop := m.Pairwise fun x y => x.1 < y.1

theorem AMap.mem_set {α : Type} (m : AMap α) (k : Nat) (v : α) (e : Nat × α) (h : e ∈ m.set k v) :
    e = (k, v) ∨ e ∈ m := by
  induction m with
  | nil => simpa [AMap.set] using h
  | cons e' m ih =>
    obtain ⟨k', v'⟩ := e'
    unfold AMap.set at h
    split at h
    · rcases List.mem_cons.mp h with h | h
      · exact .inl h
      · exact .inr (List.mem_cons_of_mem _ h)
    · split at h
      · rcases List.mem_cons.mp h with h | h
        · exact .inl h
        · exact .inr h
      · rcases List.mem_cons.mp h with h | h
        · exact .inr (h ▸ List.mem_cons_self)
        · rcases ih h with h | h
          · exact .inl h
          · exact .inr (List.mem_cons_of_mem _ h)

theorem AMap.rising_set {α : Type} (m : AMap α) (k : Nat) (v : α) (h : m.rising) :
    (m.set k v).rising := by
  induction m with
  | nil => simp [AMap.set, AMap.rising]
  | cons e m ih =>
    obtain ⟨k', v'⟩ := e
    obtain ⟨h1, h2⟩ := List.pairwise_cons.mp h
    unfold AMap.set
    split
    · next hk => subst hk; exact List.pairwise_cons.mpr ⟨h1, h2⟩
    · split
      · next hlt =>
        refine List.pairwise_cons.mpr ⟨fun e he => ?_, h⟩
        rcases List.mem_cons.mp he with he | he
        · subst he; exact hlt
        · exact Nat.lt_trans hlt (h1 e he)
      · next hne hlt =>
        refine List.pairwise_cons.mpr ⟨fun e he => ?_, ih h2⟩
        rcases AMap.mem_set m k v e he with he | he
        · subst he; exact Nat.lt_of_le_of_ne (Nat.le_of_not_lt hlt) hne
        · exact h1 e he

/-! ## Memory -/

@[simp] theorem Mem.wf_nil : Mem.wf [] := by simp [Mem.wf]

theorem Mem.wf_write (m : Mem) (a : Nat) (b : Byte) (h : m.wf) : (m.write a b).wf := by
  obtain ⟨h1, h2⟩ := h
  unfold Mem.write
  split
  · exact ⟨List.Pairwise.filter _ h1, fun e he => h2 e (List.mem_filter.mp he).1⟩
  · next hb =>
    refine ⟨AMap.rising_set m a b h1, fun e he => ?_⟩
    rcases AMap.mem_set m a b e he with he | he
    · subst he; exact hb
    · exact h2 e he

theorem Mem.wf_writeLE (m : Mem) (a n v : Nat) (h : m.wf) : (m.writeLE a n v).wf := by
  induction n generalizing m a v with
  | zero => exact h
  | succ n ih => exact ih _ _ _ (Mem.wf_write m a _ h)

theorem Mem.wf_writeBytes (m : Mem) (a : Nat) (bs : List Byte) (h : m.wf) :
    (m.writeBytes a bs).wf := by
  induction bs generalizing m a with
  | nil => exact h
  | cons b bs ih => exact ih _ _ (Mem.wf_write m a _ h)

theorem Mem.wf_filter (m : Mem) (p : Host.Cell → Bool) (h : m.wf) : Mem.wf (m.filter p) :=
  ⟨List.Pairwise.filter _ h.1, fun e he => h.2 e (List.mem_filter.mp he).1⟩

/-- Reading a byte after writing one. -/
theorem Mem.read_write (m : Mem) (a c : Nat) (b : Byte) :
    (m.write a b).read c = if c = a then b else m.read c := by
  unfold Mem.write
  split
  · next hb =>
    subst hb
    unfold Mem.read AMap.get
    rw [AMap.find_erase]
    by_cases h : c = a <;> simp [h]
  · exact AMap.get_set m Mem.unlisted a c b

/-- A wide write leaves every byte outside it alone. -/
theorem Mem.read_writeLE_out (m : Mem) (a n v c : Nat) (h : c < a ∨ a + n ≤ c) :
    (m.writeLE a n v).read c = m.read c := by
  induction n generalizing m a v with
  | zero => rfl
  | succ n ih =>
    rw [Mem.writeLE, ih _ _ _ (by omega), Mem.read_write, if_neg (by omega)]

/-- Each byte of a wide write holds its part of the value (R2). -/
theorem Mem.read_writeLE_in (m : Mem) (a n v i : Nat) (h : i < n) :
    (m.writeLE a n v).read (a + i) = BitVec.ofNat 8 (v / 256 ^ i) := by
  induction n generalizing m a v i with
  | zero => omega
  | succ n ih =>
    rw [Mem.writeLE]
    cases i with
    | zero =>
      rw [Nat.add_zero, Mem.read_writeLE_out _ _ _ _ _ (by omega), Mem.read_write]
      simp
    | succ i =>
      have : a + (i + 1) = a + 1 + i := by omega
      rw [this, ih _ _ _ _ (by omega), Nat.div_div_eq_div_mul, Nat.pow_succ, Nat.mul_comm]

/-- A wide read after the same wide write gives the value back (R2). -/
theorem Mem.readLE_writeLE (m : Mem) (a n v : Nat) :
    (m.writeLE a n v).readLE a n = v % 256 ^ n := by
  induction n generalizing m a v with
  | zero => simp [Mem.readLE, Nat.mod_one]
  | succ n ih =>
    rw [Mem.readLE, Mem.writeLE, ih, Mem.read_writeLE_out _ _ _ _ _ (by omega), Mem.read_write]
    simp only [if_true, BitVec.toNat_ofNat]
    rw [show 256 ^ (n + 1) = 256 * 256 ^ n from by rw [Nat.pow_succ, Nat.mul_comm], Nat.mod_mul]

theorem Mem.read_writeBytes_out (m : Mem) (a c : Nat) (bs : List Byte)
    (h : c < a ∨ a + bs.length ≤ c) : (m.writeBytes a bs).read c = m.read c := by
  induction bs generalizing m a with
  | nil => rfl
  | cons b bs ih =>
    simp only [List.length_cons] at h
    rw [Mem.writeBytes, ih _ _ (by omega), Mem.read_write, if_neg (by omega)]

end Sys2Proof.Machine
end

