-- ==== Sys2Proof/Laws/State.lean ====
section
/-! SUPPORT. The parts of the state after each update: one lemma per field per update, and the parts
of a slot, core, cluster or die found after one is set. -/

namespace Sys2Proof.Machine

/-! ## Fields of the state -/

section
variable (s : State) (c : Nat) (x : Slot)
@[simp] theorem State.setSlot_slots : (s.setSlot c x).slots = s.slots.set c x := rfl
@[simp] theorem State.setSlot_cores : (s.setSlot c x).cores = s.cores := rfl
@[simp] theorem State.setSlot_clusters : (s.setSlot c x).clusters = s.clusters := rfl
@[simp] theorem State.setSlot_dies : (s.setSlot c x).dies = s.dies := rfl
@[simp] theorem State.setSlot_mem : (s.setSlot c x).mem = s.mem := rfl
@[simp] theorem State.setSlot_full : (s.setSlot c x).full = s.full := rfl
@[simp] theorem State.setSlot_ages : (s.setSlot c x).ages = s.ages := rfl
@[simp] theorem State.setSlot_poison : (s.setSlot c x).poison = s.poison := rfl
@[simp] theorem State.setSlot_bad : (s.setSlot c x).bad = s.bad := rfl
@[simp] theorem State.setSlot_regs : (s.setSlot c x).regs = s.regs := rfl
@[simp] theorem State.setSlot_almanac : (s.setSlot c x).almanac = s.almanac := rfl
@[simp] theorem State.setSlot_caches : (s.setSlot c x).caches = s.caches := rfl
@[simp] theorem State.setSlot_serial : (s.setSlot c x).serial = s.serial := rfl
@[simp] theorem State.setSlot_forged : (s.setSlot c x).forged = s.forged := rfl
@[simp] theorem State.setSlot_epoch : (s.setSlot c x).epoch = s.epoch := rfl
@[simp] theorem State.setSlot_image : (s.setSlot c x).image = s.image := rfl
@[simp] theorem State.setSlot_copyA : (s.setSlot c x).copyA = s.copyA := rfl
@[simp] theorem State.setSlot_copyB : (s.setSlot c x).copyB = s.copyB := rfl
@[simp] theorem State.setSlot_useB : (s.setSlot c x).useB = s.useB := rfl
@[simp] theorem State.setSlot_trains : (s.setSlot c x).trains = s.trains := rfl
@[simp] theorem State.setSlot_update : (s.setSlot c x).update = s.update := rfl
@[simp] theorem State.setSlot_epochA : (s.setSlot c x).epochA = s.epochA := rfl
@[simp] theorem State.setSlot_epochB : (s.setSlot c x).epochB = s.epochB := rfl
@[simp] theorem State.setSlot_sidereal : (s.setSlot c x).sidereal = s.sidereal := rfl
@[simp] theorem State.setSlot_frac : (s.setSlot c x).frac = s.frac := rfl
@[simp] theorem State.setSlot_slew : (s.setSlot c x).slew = s.slew := rfl
@[simp] theorem State.setSlot_service : (s.setSlot c x).service = s.service := rfl
@[simp] theorem State.setSlot_scalls : (s.setSlot c x).scalls = s.scalls := rfl
@[simp] theorem State.setSlot_launches : (s.setSlot c x).launches = s.launches := rfl
@[simp] theorem State.setSlot_objects : (s.setSlot c x).objects = s.objects := rfl
@[simp] theorem State.setSlot_answers : (s.setSlot c x).answers = s.answers := rfl
@[simp] theorem State.setSlot_waits : (s.setSlot c x).waits = s.waits := rfl
@[simp] theorem State.setSlot_reports : (s.setSlot c x).reports = s.reports := rfl
@[simp] theorem State.setSlot_scallCap : (s.setSlot c x).scallCap = s.scallCap := rfl
@[simp] theorem State.setSlot_schedule : (s.setSlot c x).schedule = s.schedule := rfl
@[simp] theorem State.setSlot_spaces : (s.setSlot c x).spaces = s.spaces := rfl
@[simp] theorem State.setSlot_frames : (s.setSlot c x).frames = s.frames := rfl
@[simp] theorem State.setSlot_argNext : (s.setSlot c x).argNext = s.argNext := rfl
@[simp] theorem State.setSlot_lastTiming : (s.setSlot c x).lastTiming = s.lastTiming := rfl
@[simp] theorem State.setSlot_timeLost : (s.setSlot c x).timeLost = s.timeLost := rfl
@[simp] theorem State.setSlot_links : (s.setSlot c x).links = s.links := rfl
@[simp] theorem State.setSlot_fabric : (s.setSlot c x).fabric = s.fabric := rfl
@[simp] theorem State.setSlot_flows : (s.setSlot c x).flows = s.flows := rfl
@[simp] theorem State.setSlot_incoming : (s.setSlot c x).incoming = s.incoming := rfl
@[simp] theorem State.setSlot_session : (s.setSlot c x).session = s.session := rfl
@[simp] theorem State.setSlot_eyepiece : (s.setSlot c x).eyepiece = s.eyepiece := rfl
@[simp] theorem State.setSlot_power : (s.setSlot c x).power = s.power := rfl
@[simp] theorem State.setSlot_stopping : (s.setSlot c x).stopping = s.stopping := rfl
@[simp] theorem State.setSlot_serviceOn : (s.setSlot c x).serviceOn = s.serviceOn := rfl
@[simp] theorem State.setSlot_temps : (s.setSlot c x).temps = s.temps := rfl
@[simp] theorem State.setSlot_bootstat : (s.setSlot c x).bootstat = s.bootstat := rfl
@[simp] theorem State.setSlot_rstReq : (s.setSlot c x).rstReq = s.rstReq := rfl
@[simp] theorem State.setSlot_rstAck : (s.setSlot c x).rstAck = s.rstAck := rfl
@[simp] theorem State.setSlot_pcap : (s.setSlot c x).pcap = s.pcap := rfl
@[simp] theorem State.setSlot_repairLog : (s.setSlot c x).repairLog = s.repairLog := rfl
@[simp] theorem State.setSlot_physMap : (s.setSlot c x).physMap = s.physMap := rfl
@[simp] theorem State.setSlot_worn : (s.setSlot c x).worn = s.worn := rfl
@[simp] theorem State.setSlot_lasting : (s.setSlot c x).lasting = s.lasting := rfl
@[simp] theorem State.setSlot_focus : (s.setSlot c x).focus = s.focus := rfl
@[simp] theorem State.setSlot_free : (s.setSlot c x).free = s.free := rfl
@[simp] theorem State.setSlot_inbox : (s.setSlot c x).inbox = s.inbox := rfl
end

section
variable (s : State) (k : Nat) (x : Core)
@[simp] theorem State.setCore_slots : (s.setCore k x).slots = s.slots := rfl
@[simp] theorem State.setCore_cores : (s.setCore k x).cores = s.cores.set k x := rfl
@[simp] theorem State.setCore_clusters : (s.setCore k x).clusters = s.clusters := rfl
@[simp] theorem State.setCore_dies : (s.setCore k x).dies = s.dies := rfl
@[simp] theorem State.setCore_mem : (s.setCore k x).mem = s.mem := rfl
@[simp] theorem State.setCore_full : (s.setCore k x).full = s.full := rfl
@[simp] theorem State.setCore_ages : (s.setCore k x).ages = s.ages := rfl
@[simp] theorem State.setCore_poison : (s.setCore k x).poison = s.poison := rfl
@[simp] theorem State.setCore_bad : (s.setCore k x).bad = s.bad := rfl
@[simp] theorem State.setCore_regs : (s.setCore k x).regs = s.regs := rfl
@[simp] theorem State.setCore_almanac : (s.setCore k x).almanac = s.almanac := rfl
@[simp] theorem State.setCore_caches : (s.setCore k x).caches = s.caches := rfl
@[simp] theorem State.setCore_serial : (s.setCore k x).serial = s.serial := rfl
@[simp] theorem State.setCore_forged : (s.setCore k x).forged = s.forged := rfl
@[simp] theorem State.setCore_epoch : (s.setCore k x).epoch = s.epoch := rfl
@[simp] theorem State.setCore_image : (s.setCore k x).image = s.image := rfl
@[simp] theorem State.setCore_copyA : (s.setCore k x).copyA = s.copyA := rfl
@[simp] theorem State.setCore_copyB : (s.setCore k x).copyB = s.copyB := rfl
@[simp] theorem State.setCore_useB : (s.setCore k x).useB = s.useB := rfl
@[simp] theorem State.setCore_trains : (s.setCore k x).trains = s.trains := rfl
@[simp] theorem State.setCore_update : (s.setCore k x).update = s.update := rfl
@[simp] theorem State.setCore_epochA : (s.setCore k x).epochA = s.epochA := rfl
@[simp] theorem State.setCore_epochB : (s.setCore k x).epochB = s.epochB := rfl
@[simp] theorem State.setCore_sidereal : (s.setCore k x).sidereal = s.sidereal := rfl
@[simp] theorem State.setCore_frac : (s.setCore k x).frac = s.frac := rfl
@[simp] theorem State.setCore_slew : (s.setCore k x).slew = s.slew := rfl
@[simp] theorem State.setCore_service : (s.setCore k x).service = s.service := rfl
@[simp] theorem State.setCore_scalls : (s.setCore k x).scalls = s.scalls := rfl
@[simp] theorem State.setCore_launches : (s.setCore k x).launches = s.launches := rfl
@[simp] theorem State.setCore_objects : (s.setCore k x).objects = s.objects := rfl
@[simp] theorem State.setCore_answers : (s.setCore k x).answers = s.answers := rfl
@[simp] theorem State.setCore_waits : (s.setCore k x).waits = s.waits := rfl
@[simp] theorem State.setCore_reports : (s.setCore k x).reports = s.reports := rfl
@[simp] theorem State.setCore_scallCap : (s.setCore k x).scallCap = s.scallCap := rfl
@[simp] theorem State.setCore_schedule : (s.setCore k x).schedule = s.schedule := rfl
@[simp] theorem State.setCore_spaces : (s.setCore k x).spaces = s.spaces := rfl
@[simp] theorem State.setCore_frames : (s.setCore k x).frames = s.frames := rfl
@[simp] theorem State.setCore_argNext : (s.setCore k x).argNext = s.argNext := rfl
@[simp] theorem State.setCore_lastTiming : (s.setCore k x).lastTiming = s.lastTiming := rfl
@[simp] theorem State.setCore_timeLost : (s.setCore k x).timeLost = s.timeLost := rfl
@[simp] theorem State.setCore_links : (s.setCore k x).links = s.links := rfl
@[simp] theorem State.setCore_fabric : (s.setCore k x).fabric = s.fabric := rfl
@[simp] theorem State.setCore_flows : (s.setCore k x).flows = s.flows := rfl
@[simp] theorem State.setCore_incoming : (s.setCore k x).incoming = s.incoming := rfl
@[simp] theorem State.setCore_session : (s.setCore k x).session = s.session := rfl
@[simp] theorem State.setCore_eyepiece : (s.setCore k x).eyepiece = s.eyepiece := rfl
@[simp] theorem State.setCore_power : (s.setCore k x).power = s.power := rfl
@[simp] theorem State.setCore_stopping : (s.setCore k x).stopping = s.stopping := rfl
@[simp] theorem State.setCore_serviceOn : (s.setCore k x).serviceOn = s.serviceOn := rfl
@[simp] theorem State.setCore_temps : (s.setCore k x).temps = s.temps := rfl
@[simp] theorem State.setCore_bootstat : (s.setCore k x).bootstat = s.bootstat := rfl
@[simp] theorem State.setCore_rstReq : (s.setCore k x).rstReq = s.rstReq := rfl
@[simp] theorem State.setCore_rstAck : (s.setCore k x).rstAck = s.rstAck := rfl
@[simp] theorem State.setCore_pcap : (s.setCore k x).pcap = s.pcap := rfl
@[simp] theorem State.setCore_repairLog : (s.setCore k x).repairLog = s.repairLog := rfl
@[simp] theorem State.setCore_physMap : (s.setCore k x).physMap = s.physMap := rfl
@[simp] theorem State.setCore_worn : (s.setCore k x).worn = s.worn := rfl
@[simp] theorem State.setCore_lasting : (s.setCore k x).lasting = s.lasting := rfl
@[simp] theorem State.setCore_focus : (s.setCore k x).focus = s.focus := rfl
@[simp] theorem State.setCore_free : (s.setCore k x).free = s.free := rfl
@[simp] theorem State.setCore_inbox : (s.setCore k x).inbox = s.inbox := rfl
end

section
variable (s : State) (k : Nat) (x : Cluster)
@[simp] theorem State.setCluster_slots : (s.setCluster k x).slots = s.slots := rfl
@[simp] theorem State.setCluster_cores : (s.setCluster k x).cores = s.cores := rfl
@[simp] theorem State.setCluster_clusters : (s.setCluster k x).clusters = s.clusters.set k x := rfl
@[simp] theorem State.setCluster_dies : (s.setCluster k x).dies = s.dies := rfl
@[simp] theorem State.setCluster_mem : (s.setCluster k x).mem = s.mem := rfl
@[simp] theorem State.setCluster_full : (s.setCluster k x).full = s.full := rfl
@[simp] theorem State.setCluster_ages : (s.setCluster k x).ages = s.ages := rfl
@[simp] theorem State.setCluster_poison : (s.setCluster k x).poison = s.poison := rfl
@[simp] theorem State.setCluster_bad : (s.setCluster k x).bad = s.bad := rfl
@[simp] theorem State.setCluster_regs : (s.setCluster k x).regs = s.regs := rfl
@[simp] theorem State.setCluster_almanac : (s.setCluster k x).almanac = s.almanac := rfl
@[simp] theorem State.setCluster_caches : (s.setCluster k x).caches = s.caches := rfl
@[simp] theorem State.setCluster_serial : (s.setCluster k x).serial = s.serial := rfl
@[simp] theorem State.setCluster_forged : (s.setCluster k x).forged = s.forged := rfl
@[simp] theorem State.setCluster_epoch : (s.setCluster k x).epoch = s.epoch := rfl
@[simp] theorem State.setCluster_image : (s.setCluster k x).image = s.image := rfl
@[simp] theorem State.setCluster_copyA : (s.setCluster k x).copyA = s.copyA := rfl
@[simp] theorem State.setCluster_copyB : (s.setCluster k x).copyB = s.copyB := rfl
@[simp] theorem State.setCluster_useB : (s.setCluster k x).useB = s.useB := rfl
@[simp] theorem State.setCluster_trains : (s.setCluster k x).trains = s.trains := rfl
@[simp] theorem State.setCluster_update : (s.setCluster k x).update = s.update := rfl
@[simp] theorem State.setCluster_epochA : (s.setCluster k x).epochA = s.epochA := rfl
@[simp] theorem State.setCluster_epochB : (s.setCluster k x).epochB = s.epochB := rfl
@[simp] theorem State.setCluster_sidereal : (s.setCluster k x).sidereal = s.sidereal := rfl
@[simp] theorem State.setCluster_frac : (s.setCluster k x).frac = s.frac := rfl
@[simp] theorem State.setCluster_slew : (s.setCluster k x).slew = s.slew := rfl
@[simp] theorem State.setCluster_service : (s.setCluster k x).service = s.service := rfl
@[simp] theorem State.setCluster_scalls : (s.setCluster k x).scalls = s.scalls := rfl
@[simp] theorem State.setCluster_launches : (s.setCluster k x).launches = s.launches := rfl
@[simp] theorem State.setCluster_objects : (s.setCluster k x).objects = s.objects := rfl
@[simp] theorem State.setCluster_answers : (s.setCluster k x).answers = s.answers := rfl
@[simp] theorem State.setCluster_waits : (s.setCluster k x).waits = s.waits := rfl
@[simp] theorem State.setCluster_reports : (s.setCluster k x).reports = s.reports := rfl
@[simp] theorem State.setCluster_scallCap : (s.setCluster k x).scallCap = s.scallCap := rfl
@[simp] theorem State.setCluster_schedule : (s.setCluster k x).schedule = s.schedule := rfl
@[simp] theorem State.setCluster_spaces : (s.setCluster k x).spaces = s.spaces := rfl
@[simp] theorem State.setCluster_frames : (s.setCluster k x).frames = s.frames := rfl
@[simp] theorem State.setCluster_argNext : (s.setCluster k x).argNext = s.argNext := rfl
@[simp] theorem State.setCluster_lastTiming : (s.setCluster k x).lastTiming = s.lastTiming := rfl
@[simp] theorem State.setCluster_timeLost : (s.setCluster k x).timeLost = s.timeLost := rfl
@[simp] theorem State.setCluster_links : (s.setCluster k x).links = s.links := rfl
@[simp] theorem State.setCluster_fabric : (s.setCluster k x).fabric = s.fabric := rfl
@[simp] theorem State.setCluster_flows : (s.setCluster k x).flows = s.flows := rfl
@[simp] theorem State.setCluster_incoming : (s.setCluster k x).incoming = s.incoming := rfl
@[simp] theorem State.setCluster_session : (s.setCluster k x).session = s.session := rfl
@[simp] theorem State.setCluster_eyepiece : (s.setCluster k x).eyepiece = s.eyepiece := rfl
@[simp] theorem State.setCluster_power : (s.setCluster k x).power = s.power := rfl
@[simp] theorem State.setCluster_stopping : (s.setCluster k x).stopping = s.stopping := rfl
@[simp] theorem State.setCluster_serviceOn : (s.setCluster k x).serviceOn = s.serviceOn := rfl
@[simp] theorem State.setCluster_temps : (s.setCluster k x).temps = s.temps := rfl
@[simp] theorem State.setCluster_bootstat : (s.setCluster k x).bootstat = s.bootstat := rfl
@[simp] theorem State.setCluster_rstReq : (s.setCluster k x).rstReq = s.rstReq := rfl
@[simp] theorem State.setCluster_rstAck : (s.setCluster k x).rstAck = s.rstAck := rfl
@[simp] theorem State.setCluster_pcap : (s.setCluster k x).pcap = s.pcap := rfl
@[simp] theorem State.setCluster_repairLog : (s.setCluster k x).repairLog = s.repairLog := rfl
@[simp] theorem State.setCluster_physMap : (s.setCluster k x).physMap = s.physMap := rfl
@[simp] theorem State.setCluster_worn : (s.setCluster k x).worn = s.worn := rfl
@[simp] theorem State.setCluster_lasting : (s.setCluster k x).lasting = s.lasting := rfl
@[simp] theorem State.setCluster_focus : (s.setCluster k x).focus = s.focus := rfl
@[simp] theorem State.setCluster_free : (s.setCluster k x).free = s.free := rfl
@[simp] theorem State.setCluster_inbox : (s.setCluster k x).inbox = s.inbox := rfl
end

section
variable (s : State) (d : Nat) (x : Die)
@[simp] theorem State.setDie_slots : (s.setDie d x).slots = s.slots := rfl
@[simp] theorem State.setDie_cores : (s.setDie d x).cores = s.cores := rfl
@[simp] theorem State.setDie_clusters : (s.setDie d x).clusters = s.clusters := rfl
@[simp] theorem State.setDie_dies : (s.setDie d x).dies = s.dies.set d x := rfl
@[simp] theorem State.setDie_mem : (s.setDie d x).mem = s.mem := rfl
@[simp] theorem State.setDie_full : (s.setDie d x).full = s.full := rfl
@[simp] theorem State.setDie_ages : (s.setDie d x).ages = s.ages := rfl
@[simp] theorem State.setDie_poison : (s.setDie d x).poison = s.poison := rfl
@[simp] theorem State.setDie_bad : (s.setDie d x).bad = s.bad := rfl
@[simp] theorem State.setDie_regs : (s.setDie d x).regs = s.regs := rfl
@[simp] theorem State.setDie_almanac : (s.setDie d x).almanac = s.almanac := rfl
@[simp] theorem State.setDie_caches : (s.setDie d x).caches = s.caches := rfl
@[simp] theorem State.setDie_serial : (s.setDie d x).serial = s.serial := rfl
@[simp] theorem State.setDie_forged : (s.setDie d x).forged = s.forged := rfl
@[simp] theorem State.setDie_epoch : (s.setDie d x).epoch = s.epoch := rfl
@[simp] theorem State.setDie_image : (s.setDie d x).image = s.image := rfl
@[simp] theorem State.setDie_copyA : (s.setDie d x).copyA = s.copyA := rfl
@[simp] theorem State.setDie_copyB : (s.setDie d x).copyB = s.copyB := rfl
@[simp] theorem State.setDie_useB : (s.setDie d x).useB = s.useB := rfl
@[simp] theorem State.setDie_trains : (s.setDie d x).trains = s.trains := rfl
@[simp] theorem State.setDie_update : (s.setDie d x).update = s.update := rfl
@[simp] theorem State.setDie_epochA : (s.setDie d x).epochA = s.epochA := rfl
@[simp] theorem State.setDie_epochB : (s.setDie d x).epochB = s.epochB := rfl
@[simp] theorem State.setDie_sidereal : (s.setDie d x).sidereal = s.sidereal := rfl
@[simp] theorem State.setDie_frac : (s.setDie d x).frac = s.frac := rfl
@[simp] theorem State.setDie_slew : (s.setDie d x).slew = s.slew := rfl
@[simp] theorem State.setDie_service : (s.setDie d x).service = s.service := rfl
@[simp] theorem State.setDie_scalls : (s.setDie d x).scalls = s.scalls := rfl
@[simp] theorem State.setDie_launches : (s.setDie d x).launches = s.launches := rfl
@[simp] theorem State.setDie_objects : (s.setDie d x).objects = s.objects := rfl
@[simp] theorem State.setDie_answers : (s.setDie d x).answers = s.answers := rfl
@[simp] theorem State.setDie_waits : (s.setDie d x).waits = s.waits := rfl
@[simp] theorem State.setDie_reports : (s.setDie d x).reports = s.reports := rfl
@[simp] theorem State.setDie_scallCap : (s.setDie d x).scallCap = s.scallCap := rfl
@[simp] theorem State.setDie_schedule : (s.setDie d x).schedule = s.schedule := rfl
@[simp] theorem State.setDie_spaces : (s.setDie d x).spaces = s.spaces := rfl
@[simp] theorem State.setDie_frames : (s.setDie d x).frames = s.frames := rfl
@[simp] theorem State.setDie_argNext : (s.setDie d x).argNext = s.argNext := rfl
@[simp] theorem State.setDie_lastTiming : (s.setDie d x).lastTiming = s.lastTiming := rfl
@[simp] theorem State.setDie_timeLost : (s.setDie d x).timeLost = s.timeLost := rfl
@[simp] theorem State.setDie_links : (s.setDie d x).links = s.links := rfl
@[simp] theorem State.setDie_fabric : (s.setDie d x).fabric = s.fabric := rfl
@[simp] theorem State.setDie_flows : (s.setDie d x).flows = s.flows := rfl
@[simp] theorem State.setDie_incoming : (s.setDie d x).incoming = s.incoming := rfl
@[simp] theorem State.setDie_session : (s.setDie d x).session = s.session := rfl
@[simp] theorem State.setDie_eyepiece : (s.setDie d x).eyepiece = s.eyepiece := rfl
@[simp] theorem State.setDie_power : (s.setDie d x).power = s.power := rfl
@[simp] theorem State.setDie_stopping : (s.setDie d x).stopping = s.stopping := rfl
@[simp] theorem State.setDie_serviceOn : (s.setDie d x).serviceOn = s.serviceOn := rfl
@[simp] theorem State.setDie_temps : (s.setDie d x).temps = s.temps := rfl
@[simp] theorem State.setDie_bootstat : (s.setDie d x).bootstat = s.bootstat := rfl
@[simp] theorem State.setDie_rstReq : (s.setDie d x).rstReq = s.rstReq := rfl
@[simp] theorem State.setDie_rstAck : (s.setDie d x).rstAck = s.rstAck := rfl
@[simp] theorem State.setDie_pcap : (s.setDie d x).pcap = s.pcap := rfl
@[simp] theorem State.setDie_repairLog : (s.setDie d x).repairLog = s.repairLog := rfl
@[simp] theorem State.setDie_physMap : (s.setDie d x).physMap = s.physMap := rfl
@[simp] theorem State.setDie_worn : (s.setDie d x).worn = s.worn := rfl
@[simp] theorem State.setDie_lasting : (s.setDie d x).lasting = s.lasting := rfl
@[simp] theorem State.setDie_focus : (s.setDie d x).focus = s.focus := rfl
@[simp] theorem State.setDie_free : (s.setDie d x).free = s.free := rfl
@[simp] theorem State.setDie_inbox : (s.setDie d x).inbox = s.inbox := rfl
end

section
variable (s : State)
@[simp] theorem State.bump_slots : (s.bump).slots = s.slots := rfl
@[simp] theorem State.bump_cores : (s.bump).cores = s.cores := rfl
@[simp] theorem State.bump_clusters : (s.bump).clusters = s.clusters := rfl
@[simp] theorem State.bump_dies : (s.bump).dies = s.dies := rfl
@[simp] theorem State.bump_mem : (s.bump).mem = s.mem := rfl
@[simp] theorem State.bump_full : (s.bump).full = s.full := rfl
@[simp] theorem State.bump_ages : (s.bump).ages = s.ages := rfl
@[simp] theorem State.bump_poison : (s.bump).poison = s.poison := rfl
@[simp] theorem State.bump_bad : (s.bump).bad = s.bad := rfl
@[simp] theorem State.bump_regs : (s.bump).regs = s.regs := rfl
@[simp] theorem State.bump_almanac : (s.bump).almanac = s.almanac := rfl
@[simp] theorem State.bump_caches : (s.bump).caches = s.caches := rfl
@[simp] theorem State.bump_serial : (s.bump).serial = s.serial := rfl
@[simp] theorem State.bump_forged : (s.bump).forged = s.forged := rfl
@[simp] theorem State.bump_epoch : (s.bump).epoch = s.epoch := rfl
@[simp] theorem State.bump_image : (s.bump).image = s.image := rfl
@[simp] theorem State.bump_copyA : (s.bump).copyA = s.copyA := rfl
@[simp] theorem State.bump_copyB : (s.bump).copyB = s.copyB := rfl
@[simp] theorem State.bump_useB : (s.bump).useB = s.useB := rfl
@[simp] theorem State.bump_trains : (s.bump).trains = s.trains := rfl
@[simp] theorem State.bump_update : (s.bump).update = s.update := rfl
@[simp] theorem State.bump_epochA : (s.bump).epochA = s.epochA := rfl
@[simp] theorem State.bump_epochB : (s.bump).epochB = s.epochB := rfl
@[simp] theorem State.bump_sidereal : (s.bump).sidereal = s.sidereal := rfl
@[simp] theorem State.bump_frac : (s.bump).frac = s.frac := rfl
@[simp] theorem State.bump_slew : (s.bump).slew = s.slew := rfl
@[simp] theorem State.bump_service : (s.bump).service = s.service := rfl
@[simp] theorem State.bump_scalls : (s.bump).scalls = s.scalls := rfl
@[simp] theorem State.bump_launches : (s.bump).launches = s.launches := rfl
@[simp] theorem State.bump_objects : (s.bump).objects = s.objects := rfl
@[simp] theorem State.bump_answers : (s.bump).answers = s.answers := rfl
@[simp] theorem State.bump_waits : (s.bump).waits = s.waits := rfl
@[simp] theorem State.bump_reports : (s.bump).reports = s.reports := rfl
@[simp] theorem State.bump_scallCap : (s.bump).scallCap = s.scallCap := rfl
@[simp] theorem State.bump_schedule : (s.bump).schedule = s.schedule := rfl
@[simp] theorem State.bump_spaces : (s.bump).spaces = s.spaces := rfl
@[simp] theorem State.bump_frames : (s.bump).frames = s.frames := rfl
@[simp] theorem State.bump_argNext : (s.bump).argNext = s.argNext := rfl
@[simp] theorem State.bump_lastTiming : (s.bump).lastTiming = s.lastTiming := rfl
@[simp] theorem State.bump_timeLost : (s.bump).timeLost = s.timeLost := rfl
@[simp] theorem State.bump_links : (s.bump).links = s.links := rfl
@[simp] theorem State.bump_fabric : (s.bump).fabric = s.fabric := rfl
@[simp] theorem State.bump_flows : (s.bump).flows = s.flows := rfl
@[simp] theorem State.bump_incoming : (s.bump).incoming = s.incoming := rfl
@[simp] theorem State.bump_session : (s.bump).session = s.session := rfl
@[simp] theorem State.bump_eyepiece : (s.bump).eyepiece = s.eyepiece := rfl
@[simp] theorem State.bump_power : (s.bump).power = s.power := rfl
@[simp] theorem State.bump_stopping : (s.bump).stopping = s.stopping := rfl
@[simp] theorem State.bump_serviceOn : (s.bump).serviceOn = s.serviceOn := rfl
@[simp] theorem State.bump_temps : (s.bump).temps = s.temps := rfl
@[simp] theorem State.bump_bootstat : (s.bump).bootstat = s.bootstat := rfl
@[simp] theorem State.bump_rstReq : (s.bump).rstReq = s.rstReq := rfl
@[simp] theorem State.bump_rstAck : (s.bump).rstAck = s.rstAck := rfl
@[simp] theorem State.bump_pcap : (s.bump).pcap = s.pcap := rfl
@[simp] theorem State.bump_repairLog : (s.bump).repairLog = s.repairLog := rfl
@[simp] theorem State.bump_physMap : (s.bump).physMap = s.physMap := rfl
@[simp] theorem State.bump_worn : (s.bump).worn = s.worn := rfl
@[simp] theorem State.bump_lasting : (s.bump).lasting = s.lasting := rfl
@[simp] theorem State.bump_focus : (s.bump).focus = s.focus := rfl
@[simp] theorem State.bump_free : (s.bump).free = s.free + 1 := rfl
@[simp] theorem State.bump_inbox : (s.bump).inbox = s.inbox := rfl
end

/-! ## Changes are settings -/

@[simp] theorem State.modSlot_eq (s : State) (c : Nat) (f : Slot → Slot) :
    s.modSlot c f = s.setSlot c (f (s.slot c)) := rfl
@[simp] theorem State.modMe_eq (s : State) (f : Slot → Slot) :
    s.modMe f = s.setSlot s.focus (f s.me) := rfl
@[simp] theorem State.setMe_eq (s : State) (x : Slot) : s.setMe x = s.setSlot s.focus x := rfl
theorem State.me_eq (s : State) : s.me = s.slot s.focus := rfl
@[simp] theorem State.modCore_eq (s : State) (k : Nat) (f : Core → Core) :
    s.modCore k f = s.setCore k (f (s.core k)) := rfl
@[simp] theorem State.modMyCore_eq (s : State) (f : Core → Core) :
    s.modMyCore f = s.setCore (coreOf s.focus) (f (s.core (coreOf s.focus))) := rfl
theorem State.myCore_eq (s : State) : s.myCore = s.core (coreOf s.focus) := rfl
@[simp] theorem State.modCluster_eq (s : State) (k : Nat) (f : Cluster → Cluster) :
    s.modCluster k f = s.setCluster k (f (s.cluster k)) := rfl
@[simp] theorem State.modMyCluster_eq (s : State) (f : Cluster → Cluster) :
    s.modMyCluster f = s.setCluster (clusterOf s.focus) (f (s.cluster (clusterOf s.focus))) := rfl
theorem State.myCluster_eq (s : State) : s.myCluster = s.cluster (clusterOf s.focus) := rfl
@[simp] theorem State.modDie_eq (s : State) (d : Nat) (f : Die → Die) :
    s.modDie d f = s.setDie d (f (s.die d)) := rfl
theorem State.myDie_eq (s : State) : s.myDie = s.die (dieOf s.focus) := rfl

/-! ## Parts found after a setting -/

section
variable (s : State) (c k d : Nat) (x : Slot) (y : Core) (z : Cluster) (w : Die)

theorem State.slot_setSlot (j : Nat) :
    (s.setSlot c x).slot j = if j = c then x else s.slot j := AMap.get_set ..
@[simp] theorem State.slot_setSlot_self : (s.setSlot c x).slot c = x := AMap.get_set_self ..
theorem State.slot_setSlot_ne (j : Nat) (h : j ≠ c) : (s.setSlot c x).slot j = s.slot j :=
  AMap.get_set_ne _ _ _ _ _ h
@[simp] theorem State.slot_setCore (j : Nat) : (s.setCore k y).slot j = s.slot j := rfl
@[simp] theorem State.slot_setCluster (j : Nat) : (s.setCluster k z).slot j = s.slot j := rfl
@[simp] theorem State.slot_setDie (j : Nat) : (s.setDie d w).slot j = s.slot j := rfl
@[simp] theorem State.slot_bump (j : Nat) : s.bump.slot j = s.slot j := rfl

@[simp] theorem State.me_setSlot :
    (s.setSlot c x).me = if s.focus = c then x else s.me := AMap.get_set ..
@[simp] theorem State.me_setCore : (s.setCore k y).me = s.me := rfl
@[simp] theorem State.me_setCluster : (s.setCluster k z).me = s.me := rfl
@[simp] theorem State.me_setDie : (s.setDie d w).me = s.me := rfl
@[simp] theorem State.me_bump : s.bump.me = s.me := rfl

theorem State.core_setCore (j : Nat) :
    (s.setCore k y).core j = if j = k then y else s.core j := AMap.get_set ..
@[simp] theorem State.core_setCore_self : (s.setCore k y).core k = y := AMap.get_set_self ..
theorem State.core_setCore_ne (j : Nat) (h : j ≠ k) : (s.setCore k y).core j = s.core j :=
  AMap.get_set_ne _ _ _ _ _ h
@[simp] theorem State.core_setSlot (j : Nat) : (s.setSlot c x).core j = s.core j := rfl
@[simp] theorem State.core_setCluster (j : Nat) : (s.setCluster k z).core j = s.core j := rfl
@[simp] theorem State.core_setDie (j : Nat) : (s.setDie d w).core j = s.core j := rfl
@[simp] theorem State.core_bump (j : Nat) : s.bump.core j = s.core j := rfl

theorem State.cluster_setCluster (j : Nat) :
    (s.setCluster k z).cluster j = if j = k then z else s.cluster j := AMap.get_set ..
@[simp] theorem State.cluster_setCluster_self : (s.setCluster k z).cluster k = z :=
  AMap.get_set_self ..
theorem State.cluster_setCluster_ne (j : Nat) (h : j ≠ k) :
    (s.setCluster k z).cluster j = s.cluster j := AMap.get_set_ne _ _ _ _ _ h
@[simp] theorem State.cluster_setSlot (j : Nat) : (s.setSlot c x).cluster j = s.cluster j := rfl
@[simp] theorem State.cluster_setCore (j : Nat) : (s.setCore k y).cluster j = s.cluster j := rfl
@[simp] theorem State.cluster_setDie (j : Nat) : (s.setDie d w).cluster j = s.cluster j := rfl
@[simp] theorem State.cluster_bump (j : Nat) : s.bump.cluster j = s.cluster j := rfl

theorem State.die_setDie (j : Nat) :
    (s.setDie d w).die j = if j = d then w else s.die j := AMap.get_set ..
@[simp] theorem State.die_setDie_self : (s.setDie d w).die d = w := AMap.get_set_self ..
@[simp] theorem State.die_setSlot (j : Nat) : (s.setSlot c x).die j = s.die j := rfl
@[simp] theorem State.die_setCore (j : Nat) : (s.setCore k y).die j = s.die j := rfl
@[simp] theorem State.die_setCluster (j : Nat) : (s.setCluster k z).die j = s.die j := rfl
@[simp] theorem State.die_bump (j : Nat) : s.bump.die j = s.die j := rfl
end



end Sys2Proof.Machine
end

