-- ==== Sys2Proof/Laws/Canonical.lean ====
section
/-! SUPPORT. Every operation that writes memory or a scratchpad keeps its canonical form, and reset
has it. -/

namespace Sys2Proof.Machine

/-! ## What bears on the form -/

/-- From `s` to `t` the canonical form is kept. -/
def Canon (s t : State) : Prop := s.canonical → t.canonical

theorem Canon.refl (s : State) : Canon s s := id
theorem Canon.trans {s t u : State} (a : Canon s t) (b : Canon t u) : Canon s u := fun h => b (a h)

/-- A change outside memory and the cores. -/
theorem Canon.outer {s t : State} (hm : t.mem = s.mem) (hc : t.cores = s.cores) : Canon s t := by
  refine fun h => ⟨hm ▸ h.1, fun k => ?_⟩
  have : t.core k = s.core k := by simp [State.core, hc]
  exact this ▸ h.2 k

/-- A further change outside memory and the cores. -/
theorem Canon.upd {s t u : State} (h : Canon s t) (hm : u.mem = t.mem) (hc : u.cores = t.cores) :
    Canon s u := h.trans (.outer hm hc)

theorem Canon.foldl {α : Type} {f : State → α → State} (h : ∀ s a, Canon s (f s a)) (l : List α)
    (s : State) : Canon s (l.foldl f s) := by
  induction l generalizing s with
  | nil => exact .refl s
  | cons a l ih => exact (h s a).trans (ih _)

theorem Canon.mem (s : State) (m : Mem) (hm : s.mem.wf → m.wf) : Canon s { s with mem := m } :=
  fun h => ⟨hm h.1, h.2⟩

theorem Canon.modCore (s : State) (k : Nat) (f : Core → Core)
    (hf : ∀ x : Core, x.scratch.wf → (f x).scratch.wf) : Canon s (s.modCore k f) := by
  refine fun h => ⟨h.1, fun j => ?_⟩
  rw [State.modCore_eq, State.core_setCore]
  split
  · exact hf _ (h.2 k)
  · exact h.2 j

theorem Canon.modSlot (s : State) (c : Nat) (f : Slot → Slot) : Canon s (s.modSlot c f) := .outer rfl rfl
theorem Canon.modCluster (s : State) (k : Nat) (f : Cluster → Cluster) : Canon s (s.modCluster k f) :=
  .outer rfl rfl
theorem Canon.bump (s : State) : Canon s s.bump := .outer rfl rfl

theorem reset_canonical : State.reset.canonical :=
  ⟨Mem.wf_nil, fun _ => Mem.wf_nil⟩

/-! ## Memory as such -/

theorem Mem.wf_writeMany (n : Nat) (l : List Nat) : ∀ (m : Mem) (a : Nat), m.wf →
    (m.writeMany a n l).wf := by
  induction l with
  | nil => exact fun _ _ h => h
  | cons v l ih => exact fun m a h => ih _ _ (Mem.wf_writeLE _ _ _ _ h)

theorem Mem.wf_writeUnit (m : Mem) (a u : Nat) (x : MUnit) (h : m.wf) : (m.writeUnit a u x).wf := by
  unfold Mem.writeUnit
  split
  · exact Mem.wf_writeMany _ _ _ _ (Mem.wf_writeMany _ _ _ _ h)
  · exact Mem.wf_writeMany _ _ _ _ h

theorem Mem.wf_mapPage (m : Mem) (table va : Nat) (h : m.wf) : (m.mapPage table va).wf :=
  Mem.wf_writeLE _ _ _ _ (Mem.wf_writeLE _ _ _ _ (Mem.wf_writeLE _ _ _ _ h))

theorem Mem.wf_foldl {α : Type} (f : Mem → α → Mem) (hf : ∀ m x, m.wf → (f m x).wf) (l : List α) :
    ∀ m : Mem, m.wf → (l.foldl f m).wf := by
  induction l with
  | nil => exact fun _ h => h
  | cons x l ih => exact fun m h => ih _ (hf m x h)

theorem Mem.wf_writePieces (l : List (Nat × Nat × Nat)) (m : Mem) (h : m.wf) : (m.writePieces l).wf :=
  Mem.wf_foldl _ (fun _ _ => Mem.wf_writeLE _ _ _ _) l m h

/-! ## Errors and the fabric -/

theorem Canon.hbmError (s : State) (pa : Nat) : Canon s (s.hbmError pa) := by
  unfold State.hbmError
  dsimp only
  split
  · exact .outer rfl rfl
  · split <;> exact .outer rfl rfl

theorem Canon.meet (s : State) (pa n : Nat) : Canon s (s.meet pa n) :=
  .foldl (fun s w => .hbmError s (8 * w)) _ s

theorem Canon.found (s : State) (c : Cause) (pa n : Nat) : Canon s (s.found c pa n) := by
  unfold State.found
  split
  · exact .refl s
  · split
    · exact .meet s pa n
    · exact .hbmError s pa

theorem Canon.recordErr (s : State) (c : Nat) (e : Cause) (a i : Word) (pos : Nat) :
    Canon s (s.recordErr c e a i pos) := .modSlot s c _

theorem Canon.markRel (s : State) (p : Packet) (c : Cause) : Canon s (s.markRel p c) :=
  .modCore _ _ _ fun _ h => h

theorem Canon.transmit (s : State) (d pkg : Nat) (b : List Byte) : Canon s (s.transmit d pkg b).1 :=
  .outer rfl rfl

theorem Canon.badFlits (s : State) (l : Nat) : Canon s (s.badFlits l) := by
  unfold State.badFlits
  dsimp only
  split <;> exact .outer rfl rfl

theorem Canon.respray (s : State) (l : Nat) : Canon s (s.respray l) :=
  (show Canon s (s.setLink l { s.link l with replay := [] }) from .outer rfl rfl).trans
    (.foldl (fun s e => by
      split
      · exact (Canon.transmit s (linkDie l) (pkgOf e.1.loc) e.1.bytes).upd rfl rfl
      · exact .refl s) _ _)

theorem Canon.failTag (s : State) (l n : Nat) : Canon s (s.failTag l n) := by
  have h (x : Link) : Canon s ((s.setLink l x).badFlits l) :=
    (show Canon s (s.setLink l x) from .outer rfl rfl).trans (.badFlits _ l)
  unfold State.failTag
  dsimp only
  split
  · exact (h _).trans (.respray _ l)
  · exact h _

theorem Canon.failTags (s : State) (l n k : Nat) : Canon s (s.failTags l n k) := by
  induction k generalizing s with
  | zero => exact .refl s
  | succ k ih => exact (Canon.failTag s l n).trans (ih _)

theorem Canon.cross (s : State) (d pkg : Nat) (b : List Byte) : Canon s (s.cross d pkg b) := by
  unfold State.cross
  dsimp only
  have h := (Canon.transmit s d pkg b).trans (.failTags (s.transmit d pkg b).1 (s.transmit d pkg b).2.1
    (s.transmit d pkg b).2.2 (Config.choice (s.transmit d pkg b).1.free 0x730 % 5))
  split
  · exact h.trans (.transmit _ _ _ _)
  · exact h

theorem Canon.exchange (s : State) (d pa : Nat) (b : List Byte) : Canon s (s.exchange d pa b) := by
  unfold State.exchange
  split
  · exact .cross s d _ b
  · exact .refl s

/-! ## Caches and stores -/

theorem Canon.keepCache (s : State) (cl : Nat) (f : Nat → Bool) : Canon s (s.keepCache cl f) :=
  .outer rfl rfl

theorem Canon.makeRoom (s : State) (cl line : Nat) : Canon s (s.makeRoom cl line) := by
  unfold State.makeRoom
  dsimp only
  split
  · exact .refl s
  · split
    · exact .keepCache s cl _
    · exact .refl s

theorem Canon.fillLine (s : State) (cl line : Nat) : Canon s (s.fillLine cl line) :=
  (Canon.makeRoom s cl line).upd rfl rfl

theorem Canon.setStores (s : State) (c : Nat) (l : List Packet) : Canon s (s.setStores c l) :=
  .modSlot s c _

theorem Canon.enter (s : State) (p : Packet) : Canon s (s.enter p) := by
  unfold State.enter
  dsimp only
  split
  · exact (Canon.makeRoom s _ _).upd rfl rfl
  · exact .outer rfl rfl

theorem Canon.enterStores (s : State) (c : Nat) (hit : Packet → Bool) : Canon s (s.enterStores c hit) :=
  (Canon.setStores s c _).trans (.foldl Canon.enter _ _)

theorem Canon.setFlow (s : State) (d pkg : Nat) (f : Flow) : Canon s (s.setFlow d pkg f) := .outer rfl rfl

theorem Canon.sendPacket (s : State) (p : Packet) : Canon s (s.sendPacket p).1 := by
  unfold State.sendPacket
  dsimp only
  split
  · exact .refl s
  · exact (Canon.setFlow s _ _ _).trans (.transmit _ _ _ _)

theorem Canon.setLink (s : State) (l : Nat) (x : Link) : Canon s (s.setLink l x) := .outer rfl rfl

theorem Canon.installWritten (s : State) (pa n : Nat) : Canon s (s.installWritten pa n) := by
  unfold State.installWritten
  extract_lets o l
  split
  · exact .refl s
  · exact .setLink s l _

theorem Canon.pokePhys (s : State) (pa n v : Nat) : Canon s (s.pokePhys pa n v) := by
  have h : Canon s { s with mem := s.mem.writeLE pa n v } := .mem s _ (Mem.wf_writeLE _ _ _ _)
  unfold State.pokePhys
  split
  · exact h
  · split
    · exact h.trans (.installWritten _ pa n)
    · exact .refl s

theorem Canon.homeWrite (s : State) (pa n v : Nat) : Canon s (s.homeWrite pa n v) :=
  (show Canon s (s.unpoison pa n) from .outer rfl rfl).trans (.pokePhys _ _ _ _)

theorem Canon.perform (s : State) (p : Packet) (e : Option Cause) : Canon s (s.perform p e) := by
  cases e with
  | none => exact .homeWrite s _ _ _
  | some c =>
    have h : Canon s ((s.found c p.loc p.bytes.length).markRel p c) :=
      (Canon.found s c p.loc p.bytes.length).trans (.markRel _ _ _)
    unfold State.perform
    dsimp only
    split
    · exact h
    · exact h.trans (.recordErr _ _ _ _ _ _)

theorem Canon.finishStore (s : State) (p : Packet) : Canon s (s.finishStore p).1 := by
  unfold State.finishStore
  split
  · exact .refl s
  · dsimp only
    split
    · exact (Canon.sendPacket s p).trans (.perform _ _ _)
    · split
      · exact .perform s p _
      · exact (Canon.transmit s _ _ _).trans (.perform _ _ _)

theorem Canon.ackPacket (s : State) (p : Packet) : Canon s (s.ackPacket p) := by
  unfold State.ackPacket
  split
  · exact .refl s
  · exact .modSlot s _ _

theorem Canon.finishFrom (s : State) (hit : Packet → Bool) (done l : List Packet) :
    Canon s (s.finishFrom hit done l).1 := by
  induction l generalizing s done with
  | nil => exact .refl s
  | cons p ps ih =>
    unfold State.finishFrom
    dsimp only
    split
    · exact ((Canon.foldl Canon.ackPacket _ s).trans (.finishStore _ p)).trans (ih _ _)
    · exact ih s _

theorem Canon.finishStores (s : State) (hit : Packet → Bool) : Canon s (s.finishStores hit) :=
  (Canon.finishFrom s hit [] s.fabric).upd rfl rfl

theorem Canon.ackStores (s : State) (hit : Packet → Bool) : Canon s (s.ackStores hit) :=
  (show Canon s { s with fabric := s.fabric.filter fun p => !(hit p && p.stage == .applied) } from
    .outer rfl rfl).trans (.foldl Canon.ackPacket _ _)

theorem Canon.flushLine (s : State) (c pa : Nat) : Canon s (s.flushLine c pa) :=
  (Canon.enterStores s c _).trans (.finishStores _ _)

/-! ## Loads -/

theorem Canon.readGlobal (s : State) (c pa : Nat) (cached : Bool) (n : Nat) :
    Canon s (s.readGlobal c pa cached n).1 := by
  unfold State.readGlobal
  dsimp only
  have h1 := Canon.enterStores s c fun p => lineOf p.loc == lineOf pa
  set t := s.enterStores c fun p => lineOf p.loc == lineOf pa
  have h2 : Canon s (if (t.fabric.any fun p => p.slot == c && !p.buffered && lineOf p.loc == lineOf pa)
      = true then t.flushLine c pa else t) := by
    split
    · exact h1.trans (.flushLine t c pa)
    · exact h1
  set u := if (t.fabric.any fun p => p.slot == c && !p.buffered && lineOf p.loc == lineOf pa)
    = true then t.flushLine c pa else t
  split
  · have h3 := (h2.trans (.flushLine u c pa)).trans (.exchange _ (dieOf c) pa [])
    split
    · exact h3.trans (.found _ _ _ _)
    · exact h3.upd rfl rfl
  · split
    · exact h2
    · have h3 : Canon s (if (u.lineHeld (clusterOf c) (lineOf pa) || Config.flag u.free (pa + 2 ^ 55)) = true then u
          else u.dropLine (clusterOf c) (lineOf pa)) := by
        split
        · exact h2
        · exact h2.trans (.keepCache _ _ _)
      have h4 := h3.trans (.exchange _ (dieOf c) pa [])
      split
      · exact h4.trans (.found _ _ _ _)
      · exact h4.trans (.fillLine _ _ _)

theorem Canon.performLoad (s : State) (c i : Nat) : Canon s (s.performLoad c i) := by
  unfold State.performLoad
  split
  · exact .refl s
  · next o q _ =>
    have h := Canon.readGlobal s c q.pa q.cached q.n
    split
    · next t v e =>
      rw [e] at h
      exact (h.trans (.modSlot t c _)).trans (.bump _)
    · next t v e =>
      rw [e] at h
      exact ((h.trans (.recordErr t _ _ _ _ _)).trans
        (.modSlot _ c _)).trans (.bump _)

theorem Canon.performLoads (s : State) (c : Nat) (hit : Load → Bool) (idx : List Nat) :
    Canon s (s.performLoads c hit idx) :=
  .foldl (fun s i => by
    split
    · exact .performLoad s c i
    · exact .refl s) _ s

theorem Canon.readPiece (s : State) (c u k : Nat) : Canon s (s.readPiece c u k) := by
  unfold State.readPiece
  dsimp only
  split
  · exact .refl s
  · next l p _ =>
    split
    · exact .refl s
    · split
      · exact .modCore _ _ _ fun _ h => h
      · have h := Canon.readGlobal s c p.pa p.cached p.n
        split
        · next t v e =>
          rw [e] at h
          refine (h.trans (.modCore t (coreOf c) _ ?_)).trans (.bump _)
          exact fun _ h => h
        · next t v e =>
          rw [e] at h
          refine ((h.trans (.recordErr t c v p.va 0 l.pos)).trans (.modCore _ (coreOf c) _ ?_)).trans (.bump _)
          exact fun _ h => h

theorem Canon.readUnit (s : State) (c u : Nat) (hit : Nat → UnitPiece → Bool) :
    Canon s (s.readUnit c u hit) := by
  unfold State.readUnit
  dsimp only
  split
  · split
    · exact .foldl (fun s e => by
        split
        · exact .readPiece s c u _
        · exact .refl s) _ s
    · exact .refl s
  · exact .refl s

theorem Canon.readPieces (s : State) (c : Nat) (hit : UnitPiece → Bool) : Canon s (s.readPieces c hit) :=
  .foldl (fun s u => .readUnit s c u _) _ s

theorem Canon.allLoads (s : State) (c : Nat) : Canon s (s.allLoads c) :=
  (Canon.performLoads s c _ _).trans (.readPieces _ _ _)

/-! ## Units and results -/

theorem Canon.writeLate (s : State) (c : Nat) : Canon s (s.writeLate c) := by
  unfold State.writeLate
  split
  · exact .refl s
  · exact (Canon.modCore s _ _ fun _ h => Mem.wf_writePieces _ _ h).trans (.modSlot _ _ _)

theorem Canon.finishLate (s : State) (c : Nat) : Canon s (s.finishLate c) :=
  (Canon.readPieces s c _).trans (.writeLate _ _)

theorem Canon.accrue (s : State) (c : Nat) (f : BitVec 5) : Canon s (s.accrue c f) := by
  unfold State.accrue
  split
  · exact .refl s
  · exact (Canon.modCluster s _ _).trans (.modSlot _ _ _)

theorem Canon.writeTiles (s : State) (core n : Nat) : Canon s (s.writeTiles core n) := by
  induction n generalizing s with
  | zero => exact .refl s
  | succ n ih =>
    refine Canon.trans ?_ (ih _)
    unfold State.writeTile
    split
    · exact .refl s
    · exact (Canon.accrue s _ _).trans (.modCore _ _ _ fun _ h => h)

theorem Canon.settleUnits (s : State) (c : Nat) (hit : MUnit → Bool) : Canon s (s.settleUnits c hit) :=
  .foldl (fun s u => by
    dsimp only
    split
    · exact (Canon.accrue s _ _).trans (.modCore _ _ _ fun _ h => h)
    · exact .refl s) _ s

/-- Waiting for every outstanding result (R26, R27). -/
theorem Canon.drain (s : State) (c : Nat) : Canon s (s.drain c) :=
  ((((((Canon.allLoads s c).trans (.finishLate _ _)).trans (.writeTiles _ _ _)).trans
    (.settleUnits _ _ _)).trans (.accrue _ _ _))).trans (.modSlot _ _ _)

/-! ## Accesses at their homes -/

theorem Canon.storeHome (s : State) (t : Target) (n v : Nat) : Canon s (s.storeHome t n v) := by
  unfold State.storeHome
  cases t with
  | scratch k off => exact .modCore _ _ _ fun _ h => Mem.wf_writeLE _ _ _ _ h
  | phys pa leaf => exact .homeWrite _ _ _ _

theorem Canon.writeLoc (s : State) (l : Word) (n v : Nat) : Canon s (s.writeLoc l n v) := by
  unfold State.writeLoc
  split
  · split
    · exact .modCore _ _ _ fun _ h => Mem.wf_writeLE _ _ _ _ h
    · exact .refl s
  · exact .homeWrite _ _ _ _

theorem Canon.earlierLoads (s : State) (c pa n : Nat) : Canon s (s.earlierLoads c pa n) :=
  (Canon.performLoads s _ _ _).trans (.readPieces _ _ _)

theorem Canon.countAck (s u : State) (k : AckClass) (e : countAck s k = .ok u) : Canon s u := by
  unfold Machine.countAck at e
  dsimp only at e
  split at e
  · cases e
  · cases e; exact .modSlot _ _ _

theorem Canon.storeGlobal (s u : State) (pa : Nat) (leaf va : Word) (n v : Nat)
    (e : storeGlobal s pa leaf va n v = .ok u) : Canon s u := by
  unfold Machine.storeGlobal at e
  have h := Canon.earlierLoads s s.focus pa n
  generalize s.earlierLoads s.focus pa n = w at e h
  dsimp only at e
  split at e
  · cases e
  · cases hw : Machine.countAck w (s.ackClass s.focus pa) with
    | error x => rw [hw] at e; cases e
    | ok x =>
      rw [hw] at e
      cases e
      exact (h.trans (.countAck _ _ _ hw)).trans (.modSlot _ _ _)

theorem Canon.storeRelaxed (s u : State) (t : Target) (va : Word) (n v : Nat)
    (e : storeRelaxed s t va n v = .ok u) : Canon s u := by
  cases t with
  | scratch k off => cases e; exact .modCore _ _ _ fun _ h => Mem.wf_writeLE _ _ _ _ h
  | phys pa leaf => exact .storeGlobal _ _ _ _ _ _ _ e

theorem Canon.drainBuffer (s : State) (cl : Nat) : Canon s (s.drainBuffer cl) :=
  (Canon.finishStores s _).trans (.ackStores _ _)

theorem Canon.waitAcks (s : State) (c : Nat) (f : AckClass → Bool) : Canon s (s.waitAcks c f) :=
  (((Canon.enterStores s c _).trans (.finishStores _ _)).trans (.ackStores _ _)).trans (.modSlot _ _ _)

/-- A choice between a kept change and none. -/
theorem Canon.ite {s t : State} {p : Prop} [Decidable p] (f : State) (a : Canon s t) (b : Canon t f) :
    Canon s (if p then f else t) := by
  split
  · exact a.trans b
  · exact a

theorem Canon.releaseBy (s : State) (c : Nat) (scope : BitVec 4) : Canon s (s.releaseBy c scope) :=
  ((((Canon.allLoads s c).ite _ (.enterStores _ _ _)).ite _ (.finishStores _ _)).ite _ (.drainBuffer _ _)).trans
    (.waitAcks _ c _)

/-! ## Translation -/

theorem Canon.setAD (s : State) (a : Nat) (e : Word) (w : Bool) : Canon s (s.setAD a e w).1 := by
  unfold State.setAD
  generalize e ||| (if w then 0x60 else 0x20 : Word) = n
  dsimp only
  split
  · exact .refl s
  · exact .mem s _ (Mem.wf_writeLE _ _ _ _)

theorem Canon.fill (s : State) (core : Nat) (f : Bool) (t : TlbEntry) : Canon s (s.fill core f t) := by
  have hk : Canon s (s.modCore core fun k =>
      if f then { k with itlb := t :: k.itlb.filter fun u => !(u.base == t.base && u.large == t.large && u.asid == t.asid) }
      else { k with dtlb := t :: k.dtlb.filter fun u => !(u.base == t.base && u.large == t.large && u.asid == t.asid) }) :=
    .modCore _ _ _ fun _ hs => by split <;> exact hs
  exact hk.upd rfl rfl

theorem Canon.walkFill (s t : State) (core : Nat) (asid : BitVec 16) (root : BitVec 40)
    (super : Bool) (va : Nat) (k : AccKind) (pa : Nat) (leaf : Word)
    (e : s.walkFill core asid root super va k = .ok t pa leaf) : Canon s t := by
  unfold State.walkFill at e
  split at e
  · cases e
  · cases e
  · cases e
  · split at e
    · cases e
    · cases e; exact (Canon.setAD _ _ _ _).trans (.fill _ _ _ _)

theorem Canon.translate (s t : State) (core : Nat) (asid : BitVec 16) (root : BitVec 40)
    (super : Bool) (va : Nat) (k : AccKind) (pa : Nat) (leaf : Word)
    (e : s.translate core asid root super va k = .ok t pa leaf) : Canon s t := by
  unfold State.translate at e
  dsimp only at e
  split at e
  · exact .walkFill _ _ _ _ _ _ _ _ _ _ e
  · split at e
    · cases e; exact .refl s
    · exact .walkFill _ _ _ _ _ _ _ _ _ _ e

/-! ## The service and its loader -/

theorem Canon.putParts (l : List (Nat × Nat)) : ∀ (s : State) (b : List Byte), Canon s (s.putParts l b) := by
  induction l with
  | nil => exact fun s _ => .refl s
  | cons p l ih =>
    exact fun s b => ((Canon.outer (s := s) (t := s.unpoison p.1 p.2) rfl rfl).trans
      (.mem _ _ (Mem.wf_writeBytes _ _ _))).trans (ih _ _)

theorem Canon.takeFrame (s t : State) (a : Nat) (e : s.takeFrame = some (t, a)) : Canon s t := by
  unfold State.takeFrame at e
  split at e
  · cases e
  · cases e; exact fun h => ⟨Mem.wf_filter _ _ h.1, h.2⟩

theorem Canon.tableAt (s t : State) (a b : Nat) (e : s.tableAt a = some (t, b)) : Canon s t := by
  unfold State.tableAt at e
  dsimp only at e
  split at e
  · split at e
    · cases e
    · cases e; exact .refl s
  · cases hf : s.takeFrame with
    | none => rw [hf] at e; cases e
    | some p =>
      rw [hf] at e; cases e
      exact (Canon.takeFrame s p.1 p.2 hf).trans (.mem _ _ (Mem.wf_writeLE _ _ _ _))

theorem Canon.mapPage (s t : State) (root : BitVec 40) (va : Nat) (bits : BitVec 12) (f : Nat)
    (e : s.mapPage root va bits = some (t, f)) : Canon s t := by
  unfold State.mapPage at e
  simp only [bind, Option.bind_eq_some_iff] at e
  obtain ⟨⟨u, a⟩, h1, ⟨v, b⟩, h2, e⟩ := e
  have hv := (Canon.tableAt _ _ _ _ h1).trans (.tableAt _ _ _ _ h2)
  dsimp only at e
  split at e
  · cases e
  · obtain ⟨⟨w, c⟩, h3, e⟩ := Option.bind_eq_some_iff.mp e
    cases e
    exact (hv.trans (.takeFrame _ _ _ h3)).trans (.mem _ _ (Mem.wf_writeLE _ _ _ _))

theorem Canon.mapPages (root : BitVec 40) (bits : BitVec 12) (n : Nat) : ∀ (s t : State) (va : Nat),
    s.mapPages root bits va n = some t → Canon s t := by
  induction n with
  | zero => intro s t va e; cases e; exact .refl s
  | succ n ih =>
    intro s t va e
    obtain ⟨⟨u, f⟩, h1, e⟩ := Option.bind_eq_some_iff.mp e
    exact (Canon.mapPage _ _ _ _ _ _ h1).trans (ih _ _ _ e)

theorem Canon.unmapPages (root : BitVec 40) (n : Nat) : ∀ (s t : State) (va : Nat),
    s.unmapPages root va n = some t → Canon s t := by
  induction n with
  | zero => intro s t va e; cases e; exact .refl s
  | succ n ih =>
    intro s t va e
    unfold State.unmapPages at e
    split at e
    · next a w large hw =>
      split at e
      · cases e
      · refine Canon.trans ?_ (ih _ _ _ e)
        have := Canon.mem s (s.mem.writeLE a 8 0) (Mem.wf_writeLE _ _ _ _)
        split
        · exact this
        · exact this.upd rfl rfl
    · exact ih _ _ _ e

theorem Canon.putAsid (s : State) (d : LaunchDesc) (root : BitVec 40) : Canon s (s.putAsid d root) :=
  .homeWrite _ _ _ _

theorem Canon.putArgs (s t : State) (root : BitVec 40) (b : List Byte) (w : Option Word)
    (e : s.putArgs root b = some (t, w)) : Canon s t := by
  unfold State.putArgs at e
  split at e
  · cases e; exact .refl s
  · obtain ⟨⟨u, f⟩, h1, e⟩ := Option.bind_eq_some_iff.mp e
    cases e
    exact ((Canon.mapPage _ _ _ _ _ _ h1).trans
      (.mem u (u.mem.writeBytes f b) (Mem.wf_writeBytes _ _ _))).upd rfl rfl

theorem Canon.mapMissing (root : BitVec 40) (bits : BitVec 12) (n : Nat) : ∀ (s t : State) (va : Nat),
    s.mapMissing root bits va n = some t → Canon s t := by
  induction n with
  | zero => intro s t va e; cases e; exact .refl s
  | succ n ih =>
    intro s t va e
    unfold State.mapMissing at e
    split at e
    · exact ih _ _ _ e
    · obtain ⟨⟨u, f⟩, h1, e⟩ := Option.bind_eq_some_iff.mp e
      exact (Canon.mapPage _ _ _ _ _ _ h1).trans (ih _ _ _ e)

theorem Canon.loadSection (s t : State) (root : BitVec 40) (bits : BitVec 12) (va : Word) (b : List Byte)
    (e : s.loadSection root bits va b = some t) : Canon s t := by
  unfold State.loadSection at e
  obtain ⟨u, h1, rfl⟩ := Option.map_eq_some_iff.mp e
  exact (Canon.mapMissing _ _ _ _ _ _ h1).trans (.putParts _ _ _)

theorem Canon.mapAsked (root : BitVec 40) (l : List (Word × BitVec 12)) : ∀ s t : State,
    s.mapAsked root l = some t → Canon s t := by
  induction l with
  | nil => intro s t e; cases e; exact .refl s
  | cons p l ih =>
    intro s t e
    obtain ⟨u, h1, e⟩ := Option.bind_eq_some_iff.mp e
    exact (Canon.mapMissing _ _ _ _ _ _ h1).trans (ih _ _ e)

theorem Canon.loadObject (s t : State) (root : BitVec 40) (o : Object)
    (e : s.loadObject root o = some t) : Canon s t := by
  unfold State.loadObject at e
  split at e
  · cases e; exact .refl s
  · obtain ⟨u, h1, e⟩ := Option.bind_eq_some_iff.mp e
    obtain ⟨v, h2, e⟩ := Option.bind_eq_some_iff.mp e
    obtain ⟨w, h3, e⟩ := Option.bind_eq_some_iff.mp e
    cases e
    exact (((Canon.loadSection _ _ _ _ _ _ h1).trans (.loadSection _ _ _ _ _ _ h2)).trans
      (.mapAsked _ _ _ _ h3)).upd rfl rfl

theorem Canon.loadScratch (s : State) (cl : List Nat) (o : Object) : Canon s (s.loadScratch cl o) := by
  unfold State.loadScratch
  split
  · exact .refl s
  · exact .foldl (fun s k => .modCore s k _ fun _ h => Mem.wf_writeBytes _ _ _ h) _ s

/-! ## Records, contexts, and the host's word -/

theorem Canon.pushRec (s t : State) (cl q : Nat) (r : QRec) (e : s.pushRec cl q r = .ok t) :
    Canon s t := by
  unfold State.pushRec at e
  split at e
  · cases e; exact .outer rfl rfl
  · cases e
    refine Canon.trans (t := s.setCluster cl _) ?_ (.homeWrite _ _ _ _)
    exact .outer rfl rfl
  · cases e

theorem Canon.writeContext (s : State) (c reason : Nat) : Canon s (s.writeContext c reason) := by
  refine .mem s _ fun h => Mem.wf_foldl _ (fun m e hm => ?_) _ _ ?_
  · dsimp only
    split
    · exact Mem.wf_writeUnit _ _ _ _ hm
    · exact hm
  · refine Mem.wf_writeLE _ _ _ _ (Mem.wf_writeLE _ _ _ _ (Mem.wf_writeLE _ _ _ _ ?_))
    refine Mem.wf_writeMany _ _ _ _ (Mem.wf_writeLE _ _ _ _ (Mem.wf_writeMany _ _ _ _ ?_))
    refine Mem.wf_writeMany _ _ _ _ (Mem.wf_writeLE _ _ _ _ (Mem.wf_writeLE _ _ _ _ ?_))
    exact Mem.wf_writeMany _ _ _ _ (Mem.wf_writeMany _ _ _ _ h)

theorem Canon.placeWord (s : State) (w : Nat) : Canon s (s.placeWord w) := by
  have hk := Canon.modCore s (coreOf s.focus)
    (fun k => { k with itlb := [], upsets := [], buffer := [placeLine s.me.asid w] }) (fun _ h => h)
  have hm : Canon _ { (s.modCore (coreOf s.focus) fun k =>
      { k with itlb := [], upsets := [], buffer := [placeLine s.me.asid w] }) with
      mem := (s.mem.mapPage placeTable placePc).writeLE (placeTable + 0x30000) 4 w } :=
    hk.trans (.mem _ _ fun h => Mem.wf_writeLE _ _ _ _ (Mem.wf_mapPage _ _ _ h))
  exact hm.upd rfl rfl

end Sys2Proof.Machine
end

