-- ==== Sys2Proof/Laws/Frame.lean ====
section
/-! SUPPORT. What the shared steps of a word leave as it was: accruing flags, going on, writing a
register. -/

namespace Sys2Proof.Machine

/-! ## Frames compose -/

theorem SlotFrame.refl (s : State) : SlotFrame s s :=
  ⟨fun _ => rfl, fun _ _ => rfl, fun _ _ => rfl, rfl, fun _ => rfl, fun _ => rfl, rfl,
    fun _ => ⟨rfl, fun _ => rfl⟩⟩

/-- Nothing outside the slots, cores and clusters changed, so the slot whose turn it is has not. -/
theorem focus_of_outside {s t : State} (h : t.outside = s.outside) : t.focus = s.focus := by
  have := congrArg State.focus h; exact this

theorem mem_of_outside {s t : State} (h : t.outside = s.outside) : t.mem = s.mem := by
  have := congrArg State.mem h; exact this

theorem wbase_of_special {x y : Slot} (h : y.special = x.special) : y.wbase = x.wbase := by
  have := congrArg Slot.wbase h; exact this

/-! ## Flags -/

theorem dueFlags_eq_zero (l : List Out) (h : ∀ o ∈ l, o.flags.getD 0 = 0) : dueFlags l = 0 := by
  unfold dueFlags
  suffices ∀ f : BitVec 5, l.foldl (fun f o => f ||| o.flags.getD 0) f = f from this 0
  induction l with
  | nil => intro f; rfl
  | cons o l ih =>
    intro f
    rw [List.foldl_cons, h o List.mem_cons_self]
    simpa using ih (fun o ho => h o (List.mem_cons_of_mem _ ho)) f

/-- Accruing flags changes the flags of the slot and of its cluster only. -/
theorem accrue_frame (s : State) (f : BitVec 5) :
    (s.accrue s.focus f).outside = s.outside ∧ (∀ c, c ≠ s.focus →
      (s.accrue s.focus f).slot c = s.slot c) ∧
    (s.accrue s.focus f).slot s.focus =
      { s.slot s.focus with fpflags := (s.slot s.focus).fpflags ||| f } ∧
    (∀ k, (s.accrue s.focus f).core k = s.core k) ∧
    (∀ k, ((s.accrue s.focus f).cluster k).outside = (s.cluster k).outside) ∧
    (f = 0 → s.accrue s.focus f = s) := by
  unfold State.accrue
  split
  · next h =>
    subst h
    exact ⟨rfl, fun _ _ => rfl, by simp, fun _ => rfl, fun _ => rfl, fun _ => rfl⟩
  · next h =>
    refine ⟨by simp [State.outside], fun c hc => ?_, by simp, fun k => by simp, fun k => ?_,
      fun h' => absurd h' h⟩
    · simp [State.slot_setSlot_ne _ _ _ _ hc]
    · simp only [State.modSlot_eq, State.modCluster_eq, State.cluster_setSlot]
      rw [State.cluster_setCluster]
      split
      · next hk => subst hk; rfl
      · rfl

/-! ## Slots -/

/-- What a register of the file reads depends on the file and WBASE only. -/
theorem Slot.read_file {x y : Slot} {r : Reg} {i : Nat} (hr : regRef x.wbase r = .file i)
    (hw : y.wbase = x.wbase) (hf : y.file = x.file) : y.read r = x.read r := by
  simp [Slot.read, hw, hr, hf]

/-! ## Going on -/

/-- A word that retires goes on, and waits at a switch marker (R26). -/
theorem retireTo_eq (s : State) (m : Bool) (target : Word) :
    s.retireTo m target = (s.goOn s.focus target).settle s.focus m := rfl

/-- A word that goes on (R24, R118, R128): its own slot stands at the target, and nothing else changes but
flags that earlier words bring. -/
theorem goOn_frame (s : State) (target : Word) :
    SlotFrame s (s.goOn s.focus target) ∧ Retired s (s.goOn s.focus target) target ∧
    (s.goOn s.focus target).me.file = s.me.file ∧ LastKept s (s.goOn s.focus target) := by
  set f := dueFlags ((s.slot s.focus).outs.filter fun o => !o.pending ((s.slot s.focus).pos + 1))
    with hf
  obtain ⟨h1, h2, h3, h4, h5, h6⟩ := accrue_frame s f
  set u := s.goOn s.focus target with hu
  have hu' : u = (s.accrue s.focus f).modSlot s.focus fun x =>
    { x.reach (x.pos + 1) with pc := target, hints := .empty, slow := false, seen := none } := rfl
  have hfocus : u.focus = s.focus := by rw [hu']; simpa using focus_of_outside h1
  have hout : u.outside = s.outside := by rw [hu']; simpa [State.outside] using h1
  have hoth : ∀ c, c ≠ s.focus → u.slot c = s.slot c := fun c hc => by
    rw [hu']; simp [State.slot_setSlot_ne _ _ _ _ hc, h2 c hc]
  have hme : u.slot s.focus = { (s.slot s.focus).reach ((s.slot s.focus).pos + 1) with
      fpflags := (s.slot s.focus).fpflags ||| f, pc := target,
      hints := .empty, slow := false, seen := none } := by
    rw [hu']; simp [h3, Slot.reach]
  have hcore : ∀ k, u.core k = s.core k := fun k => by rw [hu']; simp [h4]
  have hclus : ∀ k, (u.cluster k).outside = (s.cluster k).outside := fun k => by
    rw [hu']; simpa using h5 k
  have hf0 : s.flagless → f = 0 := fun h => dueFlags_eq_zero _ fun o ho =>
    h o (List.mem_filter.mp ho).1
  have hcl0 : s.flagless → ∀ k, u.cluster k = s.cluster k := fun h k => by
    rw [hu']; simp [h6 (hf0 h)]
  have hmem := mem_of_outside hout
  have hme' : u.me = _ := (congrArg u.slot hfocus).trans hme
  refine ⟨⟨fun a => by rw [hmem], fun k a => by rw [hcore], hoth, ?_, hcore,
    hclus, hout, fun h => ⟨?_, fun k => by rw [hcl0 h]⟩⟩, ⟨hfocus, ?_, ?_, ?_⟩, ?_, ?_, ?_⟩
  · rw [hme']; rfl
  · rw [hme', hf0 h]; simp [State.me_eq]
  all_goals rw [hme']
  all_goals rfl

end Sys2Proof.Machine
end

