-- ==== Sys2Proof/Laws/Issue.lean ====
section
/-! SUPPORT. A word that passes its checks has its own effect, and what a register result leaves. -/

namespace Sys2Proof.Machine

/-! ## The state at issue -/

section
variable (s : State) (h : Takes)

theorem atIssue_me : ∃ e, (s.atIssue h).me = { s.me with eff := e } := by
  unfold State.atIssue
  split
  · exact ⟨true, by simp⟩
  · exact ⟨s.me.eff, rfl⟩

@[simp] theorem atIssue_focus : (s.atIssue h).focus = s.focus := by
  unfold State.atIssue; split <;> rfl
@[simp] theorem atIssue_mem : (s.atIssue h).mem = s.mem := by
  unfold State.atIssue; split <;> rfl
@[simp] theorem atIssue_core (k : Nat) : (s.atIssue h).core k = s.core k := by
  unfold State.atIssue; split <;> rfl
@[simp] theorem atIssue_cluster (k : Nat) : (s.atIssue h).cluster k = s.cluster k := by
  unfold State.atIssue; split <;> rfl
@[simp] theorem atIssue_die (k : Nat) : (s.atIssue h).die k = s.die k := by
  unfold State.atIssue; split <;> rfl
@[simp] theorem atIssue_outside : (s.atIssue h).outside = s.outside := by
  unfold State.atIssue; split <;> rfl
theorem atIssue_slot (c : Nat) (hc : c ≠ s.focus) : (s.atIssue h).slot c = s.slot c := by
  unfold State.atIssue; split
  · simp [State.slot_setSlot_ne _ _ _ _ hc]
  · rfl

@[simp] theorem atIssue_read (r : Reg) : (s.atIssue h).me.read r = s.me.read r := by
  obtain ⟨e, he⟩ := atIssue_me s h; rw [he]; rfl
@[simp] theorem atIssue_pending (r : Reg) : (s.atIssue h).me.pending r = s.me.pending r := by
  obtain ⟨e, he⟩ := atIssue_me s h; rw [he]; rfl
@[simp] theorem atIssue_pc : (s.atIssue h).me.pc = s.me.pc := by
  obtain ⟨e, he⟩ := atIssue_me s h; rw [he]
@[simp] theorem atIssue_pos : (s.atIssue h).me.pos = s.me.pos := by
  obtain ⟨e, he⟩ := atIssue_me s h; rw [he]
@[simp] theorem atIssue_hints : (s.atIssue h).me.hints = s.me.hints := by
  obtain ⟨e, he⟩ := atIssue_me s h; rw [he]
@[simp] theorem atIssue_wbase : (s.atIssue h).me.wbase = s.me.wbase := by
  obtain ⟨e, he⟩ := atIssue_me s h; rw [he]
@[simp] theorem atIssue_file : (s.atIssue h).me.file = s.me.file := by
  obtain ⟨e, he⟩ := atIssue_me s h; rw [he]
@[simp] theorem atIssue_l0 : (s.atIssue h).me.l0 = s.me.l0 := by
  obtain ⟨e, he⟩ := atIssue_me s h; rw [he]
@[simp] theorem atIssue_l1 : (s.atIssue h).me.l1 = s.me.l1 := by
  obtain ⟨e, he⟩ := atIssue_me s h; rw [he]
@[simp] theorem atIssue_outs : (s.atIssue h).me.outs = s.me.outs := by
  obtain ⟨e, he⟩ := atIssue_me s h; rw [he]
@[simp] theorem atIssue_err : (s.atIssue h).me.err = s.me.err := by
  obtain ⟨e, he⟩ := atIssue_me s h; rw [he]
@[simp] theorem atIssue_inTrap : (s.atIssue h).me.inTrap = s.me.inTrap := by
  obtain ⟨e, he⟩ := atIssue_me s h; rw [he]
@[simp] theorem atIssue_next0 (l : Last) : (s.atIssue h).me.next0 l = s.me.next0 l := by
  obtain ⟨e, he⟩ := atIssue_me s h; rw [he]; rfl
@[simp] theorem atIssue_next1 (l : Last) : (s.atIssue h).me.next1 l = s.me.next1 l := by
  obtain ⟨e, he⟩ := atIssue_me s h; rw [he]; rfl
@[simp] theorem atIssue_special : (s.atIssue h).me.special = s.me.special := by
  obtain ⟨e, he⟩ := atIssue_me s h; rw [he]; rfl
@[simp] theorem atIssue_fpflags : (s.atIssue h).me.fpflags = s.me.fpflags := by
  obtain ⟨e, he⟩ := atIssue_me s h; rw [he]

theorem atIssue_flagless (hq : s.flagless) : (s.atIssue h).flagless := by
  unfold State.flagless at *; simpa using hq

theorem atIssue_frame : SlotFrame s (s.atIssue h) :=
  ⟨by simp, by simp, fun c hc => atIssue_slot s h c hc, atIssue_special s h, by simp, by simp,
    atIssue_outside s h, by simp⟩
end

theorem SlotFrame.trans {s u t : State} (a : SlotFrame s u) (b : SlotFrame u t)
    (q : s.flagless → u.flagless) : SlotFrame s t := by
  have hf := focus_of_outside a.outside
  exact ⟨fun x => (b.mem x).trans (a.mem x), fun k x => (b.scratch k x).trans (a.scratch k x),
    fun c hc => (b.others c (hf ▸ hc)).trans (a.others c hc), b.special.trans a.special,
    fun k => (b.cores k).trans (a.cores k), fun k => (b.clusters k).trans (a.clusters k),
    b.outside.trans a.outside, fun h => ⟨(b.flags (q h)).1.trans (a.flags h).1,
      fun k => ((b.flags (q h)).2 k).trans ((a.flags h).2 k)⟩⟩

/-! ## The checks -/

/-- A word whose checks pass has the effect of its body. -/
theorem issue_ready {h : Takes} {s : State} {rs : List Reg} (r : Ready h s rs)
    (body : State → Except Stop State) :
    issue h s body = match body (s.atIssue h) with
      | .ok t => .next t
      | .error e => .next (s.bump.stop e) := by
  have h1 : h.group s.bump.me.hints = true := r.hints
  have h2 : (h.super && !s.bump.me.super) = false := by
    cases hs : h.super with
    | false => rfl
    | true => simpa using r.mode hs
  unfold issue
  simp only [h1, h2, Bool.not_true, Bool.false_eq_true, if_false]
  rfl

theorem touch_clear {s : State} {rs : List Reg} (h : ∀ r ∈ rs, s.me.pending r = false) :
    touch s rs = .ok () := by
  unfold touch
  rw [if_neg]
  simpa using h

theorem touch_ready {h : Takes} {s : State} {rs : List Reg} (r : Ready h s rs) :
    touch (s.atIssue h) rs = .ok () :=
  touch_clear fun x hx => by rw [atIssue_pending]; exact r.clear x hx

theorem srcInt_ints {h : Takes} {s : State} {rs : List Reg} (hi : s.ints rs) {r : Reg}
    (hr : r ∈ rs) : srcInt (s.atIssue h) r = .ok (s.int r) := by
  unfold srcInt
  simp only [atIssue_read]
  rw [if_pos (hi r hr)]
  rfl

theorem strong_ok {s : State} (h : s.noError) : strong s = .ok () := by
  have h' : s.me.err.valid = false := h
  simp [strong, h']

/-- A word that is refused because a register it names is pending traps HAZARD (R25). -/
theorem touch_hazard {s : State} {rs : List Reg} {r : Reg} (hr : r ∈ rs)
    (h : s.me.pending r = true) : touch s rs = .error (.plain .hazard) := by
  unfold touch
  rw [if_pos]
  exact List.any_eq_true.mpr ⟨r, hr, h⟩

/-! ## Register results -/

theorem regRef_l1 {w : BitVec 6} {d : Reg} (h : regRef w d = .l1) : d = 63#6 := by
  unfold regRef at h
  have := d.isLt
  dsimp only at h
  split_ifs at h
  apply BitVec.eq_of_toNat_eq
  simp
  omega

theorem regRef_l0 {w : BitVec 6} {d : Reg} (h : regRef w d = .l0) : d = 62#6 := by
  unfold regRef at h
  dsimp only at h
  split_ifs at h with h1 h2 h3 h4 h5
  apply BitVec.eq_of_toNat_eq
  simpa using h5

theorem regRef_lt {w : BitVec 6} {d : Reg} {i : Nat} (h : regRef w d = .file i) : i < 93 := by
  unfold regRef at h
  dsimp only at h
  split_ifs at h <;> cases h <;> omega

theorem vget_vset_self {α : Type} {n : Nat} (v : Vector α n) (d x : α) (i : Nat) (h : i < n) :
    vget (vset v i x) d i = x := by simp [vget, vset, h]

theorem vget_vset_ne {α : Type} {n : Nat} (v : Vector α n) (d x : α) (i j : Nat) (h : j ≠ i) :
    vget (vset v i x) d j = vget v d j := by
  unfold vget vset
  split
  · split
    · simp [Vector.getElem_set_ne _ _ (Ne.symm h)]
    · rfl
  · rfl

/-- What a register result leaves at issue: the file holds it at the destination, and no other part
of the slot but the last-result registers and the pending results changes (R24, R29, R30). -/
theorem put_rest (x : Slot) (d : Reg) (v : RV) (a b : Option RV) (lat : Lat) :
    (x.put d v a b lat).special = x.special ∧ (x.put d v a b lat).pc = x.pc ∧
    (x.put d v a b lat).pos = x.pos ∧ (x.put d v a b lat).hints = x.hints ∧
    (x.put d v a b lat).fpflags = x.fpflags ∧ (x.put d v a b lat).wbase = x.wbase ∧
    (x.put d v a b lat).file = (match regRef x.wbase d with
      | .file i => vset x.file i v
      | _ => x.file) ∧
    ((∀ o ∈ x.outs, o.flags.getD 0 = 0) →
      ∀ o ∈ (x.put d v a b lat).outs, o.flags.getD 0 = 0) := by
  unfold Slot.put
  cases hr : regRef x.wbase d <;> cases lat <;>
    exact ⟨rfl, rfl, rfl, rfl, rfl, rfl, rfl, fun h o ho => by
      rcases List.mem_cons.mp ho with ho | ho
      · subst ho; rfl
      · exact h o ho⟩

@[simp] theorem put_next0 (x : Slot) (d : Reg) (v : RV) (a b : Option RV) (lat : Lat) (l : Last) :
    (x.put d v a b lat).next0 l = x.next0 l := by
  unfold Slot.put
  cases regRef x.wbase d <;> cases lat <;> rfl

@[simp] theorem put_next1 (x : Slot) (d : Reg) (v : RV) (a b : Option RV) (lat : Lat) (l : Last) :
    (x.put d v a b lat).next1 l = x.next1 l := by
  unfold Slot.put
  cases regRef x.wbase d <;> cases lat <;> rfl

/-- A slot that changes in its registers and pending results only. -/
theorem setMe_frame (s : State) (y : Slot) (h : y.special = s.me.special)
    (hf : y.fpflags = s.me.fpflags) : SlotFrame s (s.setMe y) :=
  ⟨fun _ => rfl, fun _ _ => rfl, fun c hc => by simp [State.slot_setSlot_ne _ _ _ _ hc],
    by simpa using h, fun _ => rfl, fun _ => rfl, rfl, fun _ => ⟨by simpa using hf, fun _ => rfl⟩⟩

theorem setMe_flagless (s : State) (y : Slot) (h : s.flagless)
    (ho : (∀ o ∈ s.me.outs, o.flags.getD 0 = 0) → ∀ o ∈ y.outs, o.flags.getD 0 = 0) :
    (s.setMe y).flagless :=
  by unfold State.flagless at *; simpa using ho h

/-- The file after a result has been put there. -/
theorem holds_of_file {s t : State} {d : Reg} {v : RV}
    (hf : t.me.file = (match regRef s.me.wbase d with
      | .file i => vset s.me.file i v
      | _ => s.me.file)) : Holds s t d v := by
  refine ⟨fun i hi => ?_, rfl, fun i hd => ?_⟩
  · rw [Slot.entry, hf, hi]
    exact vget_vset_self _ _ _ _ (regRef_lt hi)
  · simp only [Slot.entry, hf]
    cases hdr : regRef s.me.wbase d with
    | file j => exact vget_vset_ne _ _ _ _ _ fun e => hd (e ▸ hdr)
    | _ => rfl

/-- The result of a word that writes one register and goes on: the frame, the retirement, the
destination. `a` and `b` are what it brings to l0 and l1. -/
theorem put_goOn (h : Takes) (s : State) (d : Reg) (v : RV) (a b : Option RV)
    (lat : Lat) (target : Word) :
    let t := ((s.atIssue h).modMe fun x => x.put d v a b lat).goOn s.focus target
    SlotFrame s t ∧ Retired s t target ∧ Holds s t d v := by
  intro t
  set u := (s.atIssue h).modMe fun x => x.put d v a b lat with hu
  have hus : u = (s.atIssue h).setMe ((s.atIssue h).me.put d v a b lat) := rfl
  obtain ⟨p1, p2, p3, p4, p5, p6, p7, p8⟩ := put_rest (s.atIssue h).me d v a b lat
  have ume : u.me = (s.atIssue h).me.put d v a b lat := by rw [hus]; simp
  have uf : u.focus = s.focus := by rw [hus]; simp
  obtain ⟨r1, r2, r3, r4⟩ := goOn_frame u target
  rw [uf] at r1 r2 r3 r4
  have f1 : SlotFrame (s.atIssue h) u := by rw [hus]; exact setMe_frame _ _ p1 p5
  have fl : s.flagless → u.flagless := fun q => by
    rw [hus]; exact setMe_flagless _ _ (atIssue_flagless s h q) p8
  have f2 : SlotFrame s u := (atIssue_frame s h).trans f1 (atIssue_flagless s h)
  refine ⟨f2.trans r1 fl, ⟨r2.focus.trans uf, r2.pc, ?_, r2.hints⟩, holds_of_file ?_⟩
  · rw [r2.pos, ume, p3, atIssue_pos]
  · rw [show t.me.file = u.me.file from r3, ume, p7, atIssue_wbase, atIssue_file]

end Sys2Proof.Machine
end

