-- ==== Sys2Proof/Laws/Kept.lean ====
section
/-! SUPPORT. What the wait for outstanding results, and the performing of loads and stores at their homes,
leave of every slot: all but the registers that results reach, the flags, the errors and the counts of
acknowledgements. -/

namespace Sys2Proof.Machine

/-- The turn and every slot's `ctl` are as before. -/
structure Kept (s t : State) : Prop where
  focus : t.focus = s.focus
  slots : ∀ c, (t.slot c).ctl = (s.slot c).ctl

theorem Kept.refl (s : State) : Kept s s := ⟨rfl, fun _ => rfl⟩

theorem Kept.trans {s t u : State} (a : Kept s t) (b : Kept t u) : Kept s u :=
  ⟨b.focus.trans a.focus, fun c => (b.slots c).trans (a.slots c)⟩

theorem Kept.foldl {α : Type} {f : State → α → State} (h : ∀ s a, Kept s (f s a)) (l : List α)
    (s : State) : Kept s (l.foldl f s) := by
  induction l generalizing s with
  | nil => exact .refl s
  | cons a l ih => exact (h s a).trans (ih _)

/-- A further change outside the slots. -/
theorem Kept.upd {s t u : State} (h : Kept s t) (hs : u.slots = t.slots) (hf : u.focus = t.focus) :
    Kept s u :=
  ⟨hf.trans h.focus, fun c => by rw [← h.slots]; simp only [State.slot, hs]⟩

/-- A change outside the slots. -/
theorem Kept.outer {s t : State} (h : t.slots = s.slots) (hf : t.focus = s.focus) : Kept s t :=
  ⟨hf, fun c => by simp only [State.slot, h]⟩

theorem Kept.modSlot (s : State) (c : Nat) (f : Slot → Slot) (h : ∀ x, (f x).ctl = x.ctl) :
    Kept s (s.modSlot c f) := by
  refine ⟨rfl, fun d => ?_⟩
  simp only [State.modSlot_eq, State.slot_setSlot]
  split
  · next e => subst e; exact h _
  · rfl

theorem Kept.modCore (s : State) (k : Nat) (f : Core → Core) : Kept s (s.modCore k f) := .outer rfl rfl
theorem Kept.modCluster (s : State) (k : Nat) (f : Cluster → Cluster) : Kept s (s.modCluster k f) :=
  .outer rfl rfl
theorem Kept.bump (s : State) : Kept s s.bump := .outer rfl rfl

/-! ## Errors and the fabric -/

theorem Kept.hbmError (s : State) (pa : Nat) : Kept s (s.hbmError pa) := by
  unfold State.hbmError
  dsimp only
  split
  · exact .outer rfl rfl
  · split <;> exact .outer rfl rfl

theorem Kept.meet (s : State) (pa n : Nat) : Kept s (s.meet pa n) :=
  .foldl (fun s w => .hbmError s (8 * w)) _ s

theorem Kept.found (s : State) (c : Cause) (pa n : Nat) : Kept s (s.found c pa n) := by
  unfold State.found
  split
  · exact .refl s
  · split
    · exact .meet s pa n
    · exact .hbmError s pa

theorem Kept.recordErr (s : State) (c : Nat) (e : Cause) (a i : Word) (pos : Nat) :
    Kept s (s.recordErr c e a i pos) := .modSlot s c _ fun _ => rfl

theorem Kept.markRel (s : State) (p : Packet) (c : Cause) : Kept s (s.markRel p c) := .outer rfl rfl

theorem Kept.transmit (s : State) (d pkg : Nat) (b : List Byte) : Kept s (s.transmit d pkg b).1 :=
  .outer rfl rfl

theorem Kept.badFlits (s : State) (l : Nat) : Kept s (s.badFlits l) := by
  unfold State.badFlits
  dsimp only
  split <;> exact .outer rfl rfl

theorem Kept.respray (s : State) (l : Nat) : Kept s (s.respray l) :=
  (show Kept s (s.setLink l { s.link l with replay := [] }) from .outer rfl rfl).trans
    (.foldl (fun s e => by
      split
      · exact (Kept.transmit s (linkDie l) (pkgOf e.1.loc) e.1.bytes).upd rfl rfl
      · exact .refl s) _ _)

theorem Kept.failTag (s : State) (l n : Nat) : Kept s (s.failTag l n) := by
  have h (x : Link) : Kept s ((s.setLink l x).badFlits l) :=
    (show Kept s (s.setLink l x) from .outer rfl rfl).trans (.badFlits _ l)
  unfold State.failTag
  dsimp only
  split
  · exact (h _).trans (.respray _ l)
  · exact h _

theorem Kept.failTags (s : State) (l n k : Nat) : Kept s (s.failTags l n k) := by
  induction k generalizing s with
  | zero => exact .refl s
  | succ k ih => exact (Kept.failTag s l n).trans (ih _)

theorem Kept.cross (s : State) (d pkg : Nat) (b : List Byte) : Kept s (s.cross d pkg b) := by
  unfold State.cross
  dsimp only
  have h := (Kept.transmit s d pkg b).trans (.failTags (s.transmit d pkg b).1 (s.transmit d pkg b).2.1
    (s.transmit d pkg b).2.2 (Config.choice (s.transmit d pkg b).1.free 0x730 % 5))
  split
  · exact h.trans (.transmit _ _ _ _)
  · exact h

theorem Kept.exchange (s : State) (d pa : Nat) (b : List Byte) : Kept s (s.exchange d pa b) := by
  unfold State.exchange
  split
  · exact .cross s d _ b
  · exact .refl s

/-! ## Caches and stores -/

theorem Kept.keepCache (s : State) (cl : Nat) (f : Nat → Bool) : Kept s (s.keepCache cl f) :=
  .outer rfl rfl

theorem Kept.makeRoom (s : State) (cl line : Nat) : Kept s (s.makeRoom cl line) := by
  unfold State.makeRoom
  dsimp only
  split
  · exact .refl s
  · split
    · exact .keepCache s cl _
    · exact .refl s

theorem Kept.fillLine (s : State) (cl line : Nat) : Kept s (s.fillLine cl line) :=
  (Kept.makeRoom s cl line).upd rfl rfl

theorem Kept.setStores (s : State) (c : Nat) (l : List Packet) : Kept s (s.setStores c l) :=
  .modSlot s c _ fun _ => rfl

theorem Kept.enter (s : State) (p : Packet) : Kept s (s.enter p) := by
  unfold State.enter
  dsimp only
  split
  · exact (Kept.makeRoom s _ _).upd rfl rfl
  · exact .outer rfl rfl

theorem Kept.enterStores (s : State) (c : Nat) (hit : Packet → Bool) : Kept s (s.enterStores c hit) :=
  (Kept.setStores s c _).trans (.foldl Kept.enter _ _)

theorem Kept.setFlow (s : State) (d pkg : Nat) (f : Flow) : Kept s (s.setFlow d pkg f) := .outer rfl rfl

theorem Kept.sendPacket (s : State) (p : Packet) : Kept s (s.sendPacket p).1 := by
  unfold State.sendPacket
  dsimp only
  split
  · exact .refl s
  · exact (Kept.setFlow s _ _ _).trans (.transmit _ _ _ _)

theorem Kept.setLink (s : State) (l : Nat) (x : Link) : Kept s (s.setLink l x) := .outer rfl rfl

theorem Kept.installWritten (s : State) (pa n : Nat) : Kept s (s.installWritten pa n) := by
  unfold State.installWritten
  extract_lets o l
  split
  · exact .refl s
  · exact .setLink s l _

theorem Kept.pokePhys (s : State) (pa n v : Nat) : Kept s (s.pokePhys pa n v) := by
  have h : Kept s { s with mem := s.mem.writeLE pa n v } := .outer rfl rfl
  unfold State.pokePhys
  split
  · exact h
  · split
    · exact h.trans (.installWritten _ pa n)
    · exact .refl s

theorem Kept.homeWrite (s : State) (pa n v : Nat) : Kept s (s.homeWrite pa n v) :=
  (show Kept s (s.unpoison pa n) from .outer rfl rfl).trans (.pokePhys _ _ _ _)

theorem Kept.perform (s : State) (p : Packet) (e : Option Cause) : Kept s (s.perform p e) := by
  cases e with
  | none => exact .homeWrite s _ _ _
  | some c =>
    have h : Kept s ((s.found c p.loc p.bytes.length).markRel p c) :=
      (Kept.found s c p.loc p.bytes.length).trans (.markRel _ _ _)
    unfold State.perform
    dsimp only
    split
    · exact h
    · exact h.trans (.recordErr _ _ _ _ _ _)

theorem Kept.finishStore (s : State) (p : Packet) : Kept s (s.finishStore p).1 := by
  unfold State.finishStore
  split
  · exact .refl s
  · dsimp only
    split
    · exact (Kept.sendPacket s p).trans (.perform _ _ _)
    · split
      · exact .perform s p _
      · exact (Kept.transmit s _ _ _).trans (.perform _ _ _)

theorem Kept.ackPacket (s : State) (p : Packet) : Kept s (s.ackPacket p) := by
  unfold State.ackPacket
  split
  · exact .refl s
  · exact .modSlot s _ _ fun _ => rfl

theorem Kept.finishFrom (s : State) (hit : Packet → Bool) (done l : List Packet) :
    Kept s (s.finishFrom hit done l).1 := by
  induction l generalizing s done with
  | nil => exact .refl s
  | cons p ps ih =>
    unfold State.finishFrom
    dsimp only
    split
    · exact ((Kept.foldl Kept.ackPacket _ s).trans (.finishStore _ p)).trans (ih _ _)
    · exact ih s _

theorem Kept.finishStores (s : State) (hit : Packet → Bool) : Kept s (s.finishStores hit) :=
  (Kept.finishFrom s hit [] s.fabric).upd rfl rfl

theorem Kept.ackStores (s : State) (hit : Packet → Bool) : Kept s (s.ackStores hit) :=
  (show Kept s { s with fabric := s.fabric.filter fun p => !(hit p && p.stage == .applied) } from
    .outer rfl rfl).trans (.foldl Kept.ackPacket _ _)

theorem Kept.flushLine (s : State) (c pa : Nat) : Kept s (s.flushLine c pa) :=
  (Kept.enterStores s c _).trans (.finishStores _ _)

/-! ## Loads -/

theorem Kept.readGlobal (s : State) (c pa : Nat) (cached : Bool) (n : Nat) :
    Kept s (s.readGlobal c pa cached n).1 := by
  unfold State.readGlobal
  dsimp only
  have h1 := Kept.enterStores s c fun p => lineOf p.loc == lineOf pa
  set t := s.enterStores c fun p => lineOf p.loc == lineOf pa
  have h2 : Kept s (if (t.fabric.any fun p => p.slot == c && !p.buffered && lineOf p.loc == lineOf pa)
      = true then t.flushLine c pa else t) := by
    split
    · exact h1.trans (.flushLine t c pa)
    · exact h1
  set u := if (t.fabric.any fun p => p.slot == c && !p.buffered && lineOf p.loc == lineOf pa)
    = true then t.flushLine c pa else t
  split
  · have h3 := (h2.trans (.flushLine u c pa)).trans (.exchange _ (dieOf c) pa [])
    split
    · exact h3.trans (.found _ _ _ _)
    · exact h3.upd rfl rfl
  · split
    · exact h2
    · have h3 : Kept s (if (u.lineHeld (clusterOf c) (lineOf pa) || Config.flag u.free (pa + 2 ^ 55)) = true then u
          else u.dropLine (clusterOf c) (lineOf pa)) := by
        split
        · exact h2
        · exact h2.trans (.keepCache _ _ _)
      have h4 := h3.trans (.exchange _ (dieOf c) pa [])
      split
      · exact h4.trans (.found _ _ _ _)
      · exact h4.trans (.fillLine _ _ _)

theorem Slot.ctl_landLoad (x : Slot) (i : Nat) (v : RV) : (x.landLoad i v).ctl = x.ctl := by
  unfold Slot.landLoad
  split <;> rfl

theorem Kept.performLoad (s : State) (c i : Nat) : Kept s (s.performLoad c i) := by
  unfold State.performLoad
  split
  · exact .refl s
  · next o q _ =>
    have h := Kept.readGlobal s c q.pa q.cached q.n
    split
    · next t v e =>
      rw [e] at h
      exact (h.trans (.modSlot t c _ fun x => Slot.ctl_landLoad x i _)).trans (.bump _)
    · next t v e =>
      rw [e] at h
      exact ((h.trans (.recordErr t _ _ _ _ _)).trans
        (.modSlot _ c _ fun x => Slot.ctl_landLoad x i _)).trans (.bump _)

theorem Kept.performLoads (s : State) (c : Nat) (hit : Load → Bool) (idx : List Nat) :
    Kept s (s.performLoads c hit idx) :=
  .foldl (fun s i => by
    split
    · exact .performLoad s c i
    · exact .refl s) _ s

theorem Kept.readPiece (s : State) (c u k : Nat) : Kept s (s.readPiece c u k) := by
  unfold State.readPiece
  dsimp only
  split
  · exact .refl s
  · next l p _ =>
    split
    · exact .refl s
    · split
      · exact .modCore _ _ _
      · have h := Kept.readGlobal s c p.pa p.cached p.n
        split
        · next t v e =>
          rw [e] at h
          exact (h.trans (.modCore _ _ _)).trans (.bump _)
        · next t v e =>
          rw [e] at h
          exact ((h.trans (.recordErr t _ _ _ _ _)).trans (.modCore _ _ _)).trans (.bump _)

theorem Kept.readUnit (s : State) (c u : Nat) (hit : Nat → UnitPiece → Bool) :
    Kept s (s.readUnit c u hit) := by
  unfold State.readUnit
  dsimp only
  split
  · split
    · exact .foldl (fun s e => by
        split
        · exact .readPiece s c u _
        · exact .refl s) _ s
    · exact .refl s
  · exact .refl s

theorem Kept.readPieces (s : State) (c : Nat) (hit : UnitPiece → Bool) : Kept s (s.readPieces c hit) :=
  .foldl (fun s u => .readUnit s c u _) _ s

theorem Kept.allLoads (s : State) (c : Nat) : Kept s (s.allLoads c) :=
  (Kept.performLoads s c _ _).trans (.readPieces _ _ _)

/-! ## Units and results -/

theorem Kept.writeLate (s : State) (c : Nat) : Kept s (s.writeLate c) := by
  unfold State.writeLate
  split
  · exact .refl s
  · exact (Kept.modCore s _ _).trans (.modSlot _ _ _ fun _ => rfl)

theorem Kept.finishLate (s : State) (c : Nat) : Kept s (s.finishLate c) :=
  (Kept.readPieces s c _).trans (.writeLate _ _)

theorem Kept.accrue (s : State) (c : Nat) (f : BitVec 5) : Kept s (s.accrue c f) := by
  unfold State.accrue
  split
  · exact .refl s
  · exact (Kept.modCluster s _ _).trans (.modSlot _ _ _ fun _ => rfl)

theorem Kept.writeTiles (s : State) (core n : Nat) : Kept s (s.writeTiles core n) := by
  induction n generalizing s with
  | zero => exact .refl s
  | succ n ih =>
    refine Kept.trans ?_ (ih _)
    unfold State.writeTile
    split
    · exact .refl s
    · exact (Kept.accrue s _ _).upd rfl rfl

theorem Kept.settleUnits (s : State) (c : Nat) (hit : MUnit → Bool) : Kept s (s.settleUnits c hit) :=
  .foldl (fun s u => by
    dsimp only
    split
    · exact (Kept.accrue s _ _).upd rfl rfl
    · exact .refl s) _ s

theorem Slot.ctl_arriveAll (x : Slot) (l : List Out) : (x.arriveAll l).ctl = x.ctl := by
  induction l generalizing x with
  | nil => rfl
  | cons o l ih => rw [Slot.arriveAll, ih]; split <;> rfl

theorem Slot.ctl_drain (x : Slot) : x.drain.ctl = x.ctl :=
  Slot.ctl_arriveAll { x with l0 := x.l0.writtenBy x.pos, l1 := x.l1.writtenBy x.pos } x.outs

/-- Waiting for every outstanding result (R26, R27). -/
theorem Kept.drain (s : State) (c : Nat) : Kept s (s.drain c) :=
  ((((((Kept.allLoads s c).trans (.finishLate _ _)).trans (.writeTiles _ _ _)).trans
    (.settleUnits _ _ _)).trans (.accrue _ _ _))).trans (.modSlot _ _ _ Slot.ctl_drain)

/-- What is left of the slot that waits: nothing outstanding. -/
theorem drain_outs (s : State) (c : Nat) : ((s.drain c).slot c).outs = [] := by
  unfold State.drain
  simp [Slot.drain]

end Sys2Proof.Machine
end

