-- ==== Sys2Proof/Laws/Scalar.lean ====
section
/-! SUPPORT. What the shared words of the integer pipe, the branches and the control registers do
when their checks pass. -/

namespace Sys2Proof.Machine

/-- A word that writes one register through a pipe and goes on. -/
def State.result (s : State) (h : Takes) (d : Reg) (v : RV) (p : Pipe) (lat : Lat)
    (target : Word) : State := ((s.atIssue h).wr d v p lat).goOn s.focus target

theorem result_holds (h : Takes) (s : State) (d : Reg) (v : RV) (p : Pipe) (lat : Lat)
    (target : Word) :
    SlotFrame s (s.result h d v p lat target) ∧ Retired s (s.result h d v p lat target) target ∧
    Holds s (s.result h d v p lat target) d v := by
  cases p <;> exact put_goOn h s d v _ _ lat target

theorem wr_focus (s : State) (h : Takes) (d : Reg) (v : RV) (p : Pipe) (lat : Lat) :
    ((s.atIssue h).wr d v p lat).focus = s.focus := by simp [State.wr]

theorem result_l0 (h : Takes) (s : State) (d : Reg) (v : RV) (n : Nat) (target : Word) :
    EntersL0 s (s.result h d v .l0 (.fixed n) target) d v n := by
  obtain ⟨-, -, -, e0, e1⟩ := goOn_frame ((s.atIssue h).wr d v .l0 (.fixed n)) target
  rw [wr_focus] at e0 e1
  have hme : ((s.atIssue h).wr d v .l0 (.fixed n)).me =
      (s.atIssue h).me.put d v (some v) none (.fixed n) := by simp [State.wr, Slot.write]
  constructor
  · rw [show (s.result h d v .l0 (.fixed n) target).me.l0 = _ from e0, hme, put_next0, atIssue_next0]
    unfold Slot.put
    cases regRef (s.atIssue h).me.wbase d <;> simp
  · intro hd
    rw [show (s.result h d v .l0 (.fixed n) target).me.l1 = _ from e1, hme, put_next1, atIssue_next1]
    have : regRef (s.atIssue h).me.wbase d ≠ .l1 := fun e => hd (regRef_l1 e)
    unfold Slot.put
    cases hr : regRef (s.atIssue h).me.wbase d <;> simp_all

theorem result_l1 (h : Takes) (s : State) (d : Reg) (v : RV) (n : Nat) (target : Word) :
    EntersL1 s (s.result h d v .l1 (.fixed n) target) d v n := by
  obtain ⟨-, -, -, e0, e1⟩ := goOn_frame ((s.atIssue h).wr d v .l1 (.fixed n)) target
  rw [wr_focus] at e0 e1
  have hme : ((s.atIssue h).wr d v .l1 (.fixed n)).me =
      (s.atIssue h).me.put d v none (some v) (.fixed n) := by simp [State.wr, Slot.write]
  constructor
  · rw [show (s.result h d v .l1 (.fixed n) target).me.l1 = _ from e1, hme, put_next1, atIssue_next1]
    unfold Slot.put
    cases regRef (s.atIssue h).me.wbase d <;> simp
  · intro hd
    rw [show (s.result h d v .l1 (.fixed n) target).me.l0 = _ from e0, hme, put_next0, atIssue_next0]
    have : regRef (s.atIssue h).me.wbase d ≠ .l0 := fun e => hd (regRef_l0 e)
    unfold Slot.put
    cases hr : regRef (s.atIssue h).me.wbase d <;> simp_all

theorem retire_result (s : State) (h : Takes) (m : Bool) (d : Reg) (v : RV) (p : Pipe) (lat : Lat) :
    ((s.atIssue h).wr d v p lat).retire m
      = (s.result h d v p lat (s.me.pc + 4)).settle s.focus m := by
  have : ((s.atIssue h).wr d v p lat).me.pc = s.me.pc := by
    simp only [State.wr, State.modMe_eq, State.me_setSlot, if_true]
    cases p <;> exact ((put_rest _ _ _ _ _ _).2.1).trans (atIssue_pc s h)
  unfold State.retire State.result
  rw [retireTo_eq, this, wr_focus]

/-! ## The shared words -/

theorem intOp2_next {s : State} {m : Bool} {d a b : Reg} {lat : Lat} {f : Word → Word → Word}
    (r : Ready {} s [a, b, d]) (hi : s.ints [a, b]) :
    intOp2 m d a b lat f s
      = .next ((s.result {} d (.int (f (s.int a) (s.int b))) .l0 lat (s.me.pc + 4)).settle s.focus m) := by
  unfold intOp2
  rw [issue_ready r]
  simp [touch_ready r, srcInt_ints hi, Bind.bind, Except.bind, retire_result]

theorem intOp1_next {s : State} {m : Bool} {d a : Reg} {f : Word → Word}
    (r : Ready {} s [a, d]) (hi : s.ints [a]) :
    intOp1 m d a f s
      = .next ((s.result {} d (.int (f (s.int a))) .l0 (.fixed 1) (s.me.pc + 4)).settle s.focus m) := by
  unfold intOp1
  rw [issue_ready r]
  simp [touch_ready r, srcInt_ints hi, Bind.bind, Except.bind, retire_result]

theorem intImm_next {s : State} {m : Bool} {d a : Reg} {n : Nat} {i : BitVec n} {k : Bool}
    {f : Word → Word → Word} (r : Ready { imm := k } s [a, d]) (hi : s.ints [a]) :
    intImm k m d a i f s
      = .next ((s.result { imm := k } d (.int (f (s.int a) (immOf s.me.hints i))) .l0 (.fixed 1)
          (s.me.pc + 4)).settle s.focus m) := by
  unfold intImm
  rw [issue_ready r]
  simp [touch_ready r, srcInt_ints hi, Bind.bind, Except.bind, retire_result]

theorem intOp3_next {s : State} {m : Bool} {d a b : Reg} {f : Word → Word → Word → Word}
    (r : Ready {} s [a, b, d]) (hi : s.ints [a, b, d]) :
    intOp3 m d a b f s
      = .next ((s.result {} d (.int (f (s.int d) (s.int a) (s.int b))) .l0 (.fixed 1)
          (s.me.pc + 4)).settle s.focus m) := by
  unfold intOp3
  rw [issue_ready r]
  simp [touch_ready r, srcInt_ints hi, Bind.bind, Except.bind, retire_result]

theorem brc_next {s : State} {m : Bool} {a : Reg} {i : BitVec 16} {p : Word → Bool}
    (r : Ready {} s [a]) (hi : s.ints [a]) :
    brc m a i p s = .next (((s.atIssue {}).goOn s.focus
      (if p (s.int a) then branchTo s.me.pc i else s.me.pc + 4)).settle s.focus m) := by
  unfold brc
  rw [issue_ready r]
  simp [touch_ready r, srcInt_ints hi, Bind.bind, Except.bind, retireTo_eq]

theorem bcmp_next {s : State} {m : Bool} {a b : Reg} {i : BitVec 10} {p : Word → Word → Bool}
    (r : Ready {} s [a, b]) (hi : s.ints [a, b]) :
    bcmp m a b i p s = .next (((s.atIssue {}).goOn s.focus
      (if p (s.int a) (s.int b) then branchTo s.me.pc i else s.me.pc + 4)).settle s.focus m) := by
  unfold bcmp
  rw [issue_ready r]
  simp [touch_ready r, srcInt_ints hi, Bind.bind, Except.bind, retireTo_eq]

/-- A word that only moves the slot on. -/
theorem jump_frame (h : Takes) (s : State) (target : Word) :
    SlotFrame s ((s.atIssue h).goOn s.focus target) ∧
    Retired s ((s.atIssue h).goOn s.focus target) target ∧
    FileKept s ((s.atIssue h).goOn s.focus target) ∧
    LastKept s ((s.atIssue h).goOn s.focus target) := by
  obtain ⟨r1, r2, r3, r4⟩ := goOn_frame (s.atIssue h) target
  rw [atIssue_focus] at r1 r2 r3 r4
  have f := (atIssue_frame s h).trans r1 (atIssue_flagless s h)
  refine ⟨f, ⟨r2.focus.trans (atIssue_focus s h), r2.pc, ?_, r2.hints⟩, fun i => ?_, ?_, ?_⟩
  · rw [r2.pos, atIssue_pos]
  · rw [Slot.entry, r3, atIssue_file]; rfl
  · exact r4.1.trans (by rw [atIssue_l0, atIssue_next0])
  · exact r4.2.trans (by rw [atIssue_l1, atIssue_next1])

end Sys2Proof.Machine
end

