-- ==== Sys2Proof/Laws/Trap.lean ====
section
/-! SUPPORT. What taking a user trap does (R27, R367), and what a word leaves that changes a special
register of its slot. -/

namespace Sys2Proof.Machine

/-- A field of a slot that results do not change. -/
theorem drain_keeps {α : Type} (f : Slot → α) (hf : ∀ x : Slot, f x.ctl = f x) (s : State) (c d : Nat) :
    f ((s.drain c).slot d) = f (s.slot d) := by
  rw [← hf, (Kept.drain s c).slots, hf]

/-- A user trap taken by a slot with a handler that does not run yet (R367). -/
theorem takeTrap_trapped {s : State} (h : s.canTrap) (c : Cause) (addr info : Word) (pend : Bool) :
    Trapped s (s.takeTrap s.focus c addr info pend) c s.me.groupStart addr info pend := by
  have dfocus : (s.drain s.focus).focus = s.focus := (Kept.drain s s.focus).focus
  have k {α : Type} (f : Slot → α) (hf : ∀ x : Slot, f x.ctl = f x) :
      f ((s.drain s.focus).slot s.focus) = f s.me := drain_keeps f hf s s.focus s.focus
  have hgs := k Slot.groupStart fun _ => rfl
  have hin := (k Slot.inTrap fun _ => rfl).trans h.1
  have htv := k Slot.trapVec fun _ => rfl
  have hsu := k Slot.super fun _ => rfl
  have hou := drain_outs s s.focus
  unfold State.takeTrap
  simp only [hin, Bool.false_eq_true, if_false, htv, if_neg h.2]
  refine ⟨?_, ?_, ?_, ?_, ?_, ?_, ?_, ?_, ?_, ?_, fun i => ?_, fun a => ?_, fun j a => ?_,
    fun j hj => ?_⟩
  all_goals try simp [dfocus, hgs, hou, hsu]
  · simp [Slot.entry, State.me_eq, dfocus]
  · rw [State.slot_setSlot_ne _ _ _ _ hj, State.slot_setSlot_ne _ _ _ _ hj]

/-- The trap a word takes at issue. -/
theorem stop_trapped {s : State} (h : s.canTrap) (c : Cause) (addr info : Word) (pend : Bool) :
    Trapped s.bump (s.bump.stop (.trap c addr info pend)) c s.me.groupStart addr info pend :=
  takeTrap_trapped (s := s.bump) h c addr info pend

/-- A word that changes special registers of its slot at issue, as `f` says, leaves the rest. -/
theorem modMe_atIssue_frame (s : State) (h : Takes) (f : Slot → Slot)
    (hf : ∀ e, (f { s.me with eff := e }).special = (f s.me).special)
    (hp : ∀ e, (f { s.me with eff := e }).fpflags = (f s.me).fpflags) :
    SlotFrame (s.modMe f) ((s.atIssue h).modMe f) := by
  have he := (atIssue_me s h).choose_spec
  set e := (atIssue_me s h).choose
  refine ⟨fun a => by simp, fun k a => by simp, fun c hc => ?_, ?_, fun k => by simp,
    fun k => by simp, ?_, fun _ => ⟨?_, fun k => by simp⟩⟩
  · have hc' : c ≠ s.focus := hc
    simp only [State.modMe_eq, atIssue_focus]
    rw [State.slot_setSlot_ne _ _ _ _ hc', State.slot_setSlot_ne _ _ _ _ hc', atIssue_slot _ _ _ hc']
  · simpa [he] using hf e
  · simpa [State.outside] using atIssue_outside s h
  · simpa [he] using hp e

end Sys2Proof.Machine
end

