-- ==== Sys2Proof/Tests/Slice0.lean ====
section
/-! SUPPORT. Tests: well-formedness, decoding, the witnesses of the statements' hypotheses, and
single steps. -/

set_option maxRecDepth 100000
set_option Elab.async false

open Sys2Proof Sys2Proof.Machine

/-! ## Well-formedness: a term that each check refuses (R20, R30, R36, R38, R40, R46, R132, R208) -/

theorem test_refuse_l1_of_integer_word : (Instr.add false 63 4 5).check = some .lastResultDestination := by
  decide +kernel
theorem test_refuse_l0_of_vector_word : (Instr.vadd false 62 4 5).check = some .lastResultDestination := by
  decide +kernel
theorem test_refuse_last_of_load : ∀ d ∈ [62#6, 63#6],
    (Instr.ldd false d 4 0).check = some .lastResultDestination := by decide +kernel
theorem test_refuse_scope : (Instr.fence false 11).check = some .scopeCode := by decide +kernel
theorem test_refuse_ldv_format : (Instr.ldv false 4 5 16 0).check = some .formatCode := by decide +kernel
theorem test_refuse_vcvt_format : ∀ f ∈ [0#5, 16#5],
    (Instr.vcvt false 4 5 6 f 0).check = some .formatCode := by decide +kernel
theorem test_refuse_ldaq_size : (Instr.ldaq false 4 5 0 5 0).check = some .sizeCode := by decide +kernel
theorem test_refuse_ldfe_size : (Instr.ldfeRff false 4 5 2 0).check = some .sizeCode := by decide +kernel
theorem test_refuse_field : (Instr.extr false 4 5 1 63).check = some .fieldLength := by decide +kernel
theorem test_refuse_slot_number : (Instr.mload false 4 5 6).check = some .unitNumber := by decide +kernel
theorem test_refuse_tile_number : (Instr.mstore false 3 5 6).check = some .unitNumber := by decide +kernel
theorem test_refuse_claim : ∀ e ∈ [(0#6, 7#5), (4#6, 4#5)],
    (Instr.mclaim false e.1 0 e.2).check = some .claimFormat := by decide +kernel
theorem test_refuse_loop_count : ∀ a ∈ [0#6, 62#6, 63#6],
    (Instr.loop false a 0).check = some .loopCount := by decide +kernel
theorem test_refuse_read_only : (Instr.wrc false 4 .coord).check = some .registerReadOnly := by decide +kernel
/-- Words that decode to nothing: an unassigned major, function, selector, register and a reserved
field that is not zero. -/
theorem test_refuse_words : ∀ e ∈ [(0x00000000#32, DecodeError.majorUnassigned),
    (0x0220A37F#32, .functionUnassigned), (0x10209000#32, .selectorUnassigned),
    (0x1C201FF8#32, .registerUnlisted), (0x1E002000#32, .reservedNonzero),
    (0x1C008081#32, .registerReadOnly)],
    decodeWord e.1 = .error e.2 := by decide +kernel


/-! ## Decoding (R22, R37, R44 to R47)

The words are those of the spec's tables of worked encodings where it gives one, and otherwise put
together by hand from the fields of the opcode table. -/

theorem test_decode_iop_1 : ∀ e ∈ [(0x0220A300#32, Instr.add false 4 5 6),
    (0x02508281#32, Instr.sub false 0xA 4 5),
    (0x83409C82#32, Instr.mul true 0x28 4 0x39),
    (0x8228C483#32, Instr.mulh true 5 6 9),
    (0x8228C484#32, Instr.mulhu true 5 6 9),
    (0x8228C485#32, Instr.div true 5 6 9),
    (0x0230E406#32, Instr.divu false 6 7 8),
    (0x8228C487#32, Instr.rem true 5 6 9),
    (0x8228C488#32, Instr.remu true 5 6 9),
    (0x8228C489#32, Instr.and true 5 6 9),
    (0x8228C48A#32, Instr.or true 5 6 9),
    (0x8228C48B#32, Instr.xor true 5 6 9),
    (0x8228C48C#32, Instr.andn true 5 6 9),
    (0x8228C48D#32, Instr.orn true 5 6 9),
    (0x8228C48E#32, Instr.shl true 5 6 9),
    (0x8228C48F#32, Instr.shr true 5 6 9),
    (0x8228C490#32, Instr.sar true 5 6 9),
    (0x8228C491#32, Instr.rotl true 5 6 9),
    (0x8228C492#32, Instr.rotr true 5 6 9),
    (0x8228C493#32, Instr.min true 5 6 9)],
    decodeWord e.1 = .ok e.2 := by decide +kernel

theorem test_decode_iop_2 : ∀ e ∈ [(0x8228C494#32, Instr.max true 5 6 9),
    (0x8228C495#32, Instr.minu true 5 6 9),
    (0x8228C496#32, Instr.maxu true 5 6 9),
    (0x8228C497#32, Instr.slt true 5 6 9),
    (0x8228C498#32, Instr.sltu true 5 6 9),
    (0x8228C499#32, Instr.seq true 5 6 9),
    (0x8228C49A#32, Instr.sne true 5 6 9),
    (0x8228C01B#32, Instr.clz true 5 6),
    (0x8228C01C#32, Instr.ctz true 5 6),
    (0x8228C01D#32, Instr.popc true 5 6),
    (0x8228C01E#32, Instr.bswap true 5 6),
    (0x8228C01F#32, Instr.sextb true 5 6),
    (0x8228C020#32, Instr.sexth true 5 6),
    (0x8228C021#32, Instr.sextw true 5 6),
    (0x8228C022#32, Instr.zextw true 5 6),
    (0x8228C023#32, Instr.mov true 5 6),
    (0x8228C4A4#32, Instr.addw true 5 6 9),
    (0x8228C4A5#32, Instr.subw true 5 6 9),
    (0x8228C4A6#32, Instr.mulw true 5 6 9),
    (0x8228C4A7#32, Instr.adds1 true 5 6 9)],
    decodeWord e.1 = .ok e.2 := by decide +kernel

theorem test_decode_iop_3 : ∀ e ∈ [(0x0220A328#32, Instr.adds2 false 4 5 6),
    (0x8228C4A9#32, Instr.adds3 true 5 6 9),
    (0x8228C4AA#32, Instr.absd true 5 6 9)],
    decodeWord e.1 = .ok e.2 := by decide +kernel

theorem test_decode_single_1 : ∀ e ∈ [(0x0438FFFF#32, Instr.addi false 7 7 0x1FFF),
    (0x8628DF35#32, Instr.andi true 5 6 0x1F35),
    (0x8828DF35#32, Instr.ori true 5 6 0x1F35),
    (0x8A28DF35#32, Instr.xori true 5 6 0x1F35),
    (0x8C28DF35#32, Instr.slti true 5 6 0x1F35),
    (0x8E28DF35#32, Instr.sltiu true 5 6 0x1F35),
    (0x1227FFFE#32, Instr.limm false 4 0x7FFFE),
    (0x942CF123#32, Instr.addpc true 5 0x4F123),
    (0xA5ABCDEF#32, Instr.jmp true 0x1ABCDEF),
    (0x26000100#32, Instr.call false 0x100),
    (0x342120B5#32, Instr.ldaq false 4 9 1 3 5),
    (0x36312029#32, Instr.strl false 6 9 0 2 9),
    (0x38212703#32, Instr.ldv false 4 9 7 3),
    (0x3A212900#32, Instr.stv false 4 9 9 0),
    (0x44400000#32, Instr.aadd false 8 0 0 0 0 0),
    (0xC6392534#32, Instr.amin true 7 9 0xA 1 1 4),
    (0xC8392534#32, Instr.amax true 7 9 0xA 1 1 4),
    (0xCA392534#32, Instr.aminu true 7 9 0xA 1 1 4),
    (0xCC392534#32, Instr.amaxu true 7 9 0xA 1 1 4),
    (0xCE392534#32, Instr.aand true 7 9 0xA 1 1 4)],
    decodeWord e.1 = .ok e.2 := by decide +kernel

theorem test_decode_single_2 : ∀ e ∈ [(0xD0392534#32, Instr.aor true 7 9 0xA 1 1 4),
    (0xD2392534#32, Instr.axor true 7 9 0xA 1 1 4),
    (0xD4392534#32, Instr.aswp true 7 9 0xA 1 1 4),
    (0x56212334#32, Instr.acas false 4 9 6 1 1 4),
    (0x58212375#32, Instr.acas2 false 4 9 6 3 5),
    (0x5A212300#32, Instr.afadd false 4 9 6 0 0 0),
    (0x6420A32A#32, Instr.vcvt false 4 5 6 0xA 2)],
    decodeWord e.1 = .ok e.2 := by decide +kernel

theorem test_decode_shifti : ∀ e ∈ [(0x9028C003#32, Instr.shli true 5 6 3),
    (0x1020840C#32, Instr.shri false 4 4 0xC),
    (0x9028C803#32, Instr.sari true 5 6 3),
    (0x9028CC03#32, Instr.rotli true 5 6 3)],
    decodeWord e.1 = .ok e.2 := by decide +kernel

theorem test_decode_extr : ∀ e ∈ [(0x9628C196#32, Instr.extr true 5 6 3 0xB),
    (0x1628C417#32, Instr.extrs false 5 6 8 0xB)],
    decodeWord e.1 = .ok e.2 := by decide +kernel

theorem test_decode_ins : ∀ e ∈ [(0x1828D40E#32, Instr.ins false 5 6 0x28 7)],
    decodeWord e.1 = .ok e.2 := by decide +kernel

theorem test_decode_movc : ∀ e ∈ [(0x9A28C480#32, Instr.moveqz true 5 6 9),
    (0x1A20A301#32, Instr.movnez false 4 5 6),
    (0x9A28C482#32, Instr.movltz true 5 6 9),
    (0x9A28C483#32, Instr.movgez true 5 6 9),
    (0x9A28C484#32, Instr.movgtz true 5 6 9),
    (0x9A28C485#32, Instr.movlez true 5 6 9)],
    decodeWord e.1 = .ok e.2 := by decide +kernel

theorem test_decode_ctrl : ∀ e ∈ [(0x1C200000#32, Instr.rdc false 4 .threadst),
    (0x1C00C041#32, Instr.wrc false 6 .trapvec),
    (0x1C18A00A#32, Instr.setc false 3 5 .fpflags),
    (0x9C28C043#32, Instr.clrc true 5 6 .trapvec),
    (0x9C28C044#32, Instr.swpc true 5 6 .trapvec)],
    decodeWord e.1 = .ok e.2 := by decide +kernel

theorem test_decode_sys : ∀ e ∈ [(0x1E000000#32, Instr.nop false),
    (0x1E000001#32, Instr.hbeat false),
    (0x1E000282#32, Instr.trap false 5),
    (0x1E000003#32, Instr.tret false),
    (0x1E000004#32, Instr.brk false),
    (0x1E000005#32, Instr.efence false),
    (0x1E000006#32, Instr.eret false),
    (0x1E008007#32, Instr.scall false 4),
    (0x1E008008#32, Instr.park false 4),
    (0x1E008009#32, Instr.resume false 4),
    (0x1E00800A#32, Instr.preempt false 4),
    (0x1E00828B#32, Instr.tlbi false 4 5),
    (0x9E00C00C#32, Instr.freq true 6),
    (0x1E00800D#32, Instr.wset false 4),
    (0x1E00800E#32, Instr.kill false 4)],
    decodeWord e.1 = .ok e.2 := by decide +kernel

theorem test_decode_brc : ∀ e ∈ [(0xA0308123#32, Instr.beqz true 6 0x8123),
    (0x2021FFFD#32, Instr.bnez false 4 0xFFFD),
    (0xA0328123#32, Instr.bltz true 6 0x8123),
    (0xA0338123#32, Instr.bgez true 6 0x8123),
    (0xA0348123#32, Instr.bgtz true 6 0x8123),
    (0xA0358123#32, Instr.blez true 6 0x8123)],
    decodeWord e.1 = .ok e.2 := by decide +kernel

theorem test_decode_bcmp : ∀ e ∈ [(0xA23122A5#32, Instr.beq true 6 9 0x2A5),
    (0xA23126A5#32, Instr.bne true 6 9 0x2A5),
    (0x2220A805#32, Instr.blt false 4 5 5),
    (0xA2312EA5#32, Instr.bge true 6 9 0x2A5),
    (0xA23132A5#32, Instr.bltu true 6 9 0x2A5),
    (0xA23136A5#32, Instr.bgeu true 6 9 0x2A5)],
    decodeWord e.1 = .ok e.2 := by decide +kernel

theorem test_decode_jreg : ∀ e ∈ [(0xA800C000#32, Instr.jr true 6),
    (0x2800C001#32, Instr.callr false 6),
    (0x28000002#32, Instr.ret false)],
    decodeWord e.1 = .ok e.2 := by decide +kernel

theorem test_decode_loop : ∀ e ∈ [(0xAA308123#32, Instr.loop true 6 0x8123)],
    decodeWord e.1 = .ok e.2 := by decide +kernel

theorem test_decode_endg : ∀ e ∈ [(0x2C000000#32, Instr.endAct false),
    (0x2C008001#32, Instr.endj false 4),
    (0x2C008282#32, Instr.ends false 4 5)],
    decodeWord e.1 = .ok e.2 := by decide +kernel

theorem test_decode_fence : ∀ e ∈ [(0x2E000004#32, Instr.fence false 4),
    (0x2E000015#32, Instr.fencew false 5),
    (0x2E000023#32, Instr.fencer false 3),
    (0x2E000038#32, Instr.ackwait false 8)],
    decodeWord e.1 = .ok e.2 := by decide +kernel

theorem test_decode_lds : ∀ e ∈ [(0xB0393528#32, Instr.ldb true 7 9 0x2A5),
    (0x3020A019#32, Instr.ldbs false 4 5 3),
    (0xB039352A#32, Instr.ldh true 7 9 0x2A5),
    (0xB039352B#32, Instr.ldhs true 7 9 0x2A5),
    (0xB039352C#32, Instr.ldw true 7 9 0x2A5),
    (0xB039352D#32, Instr.ldws true 7 9 0x2A5),
    (0x3041201E#32, Instr.ldd false 8 9 3),
    (0xB039352F#32, Instr.ldq true 7 9 0x2A5)],
    decodeWord e.1 = .ok e.2 := by decide +kernel

theorem test_decode_sts : ∀ e ∈ [(0xB2393528#32, Instr.stb true 7 9 0x2A5),
    (0xB2393529#32, Instr.sth true 7 9 0x2A5),
    (0xB239352A#32, Instr.stw true 7 9 0x2A5),
    (0xB239352B#32, Instr.std true 7 9 0x2A5),
    (0x32312014#32, Instr.stq false 6 9 2)],
    decodeWord e.1 = .ok e.2 := by decide +kernel

theorem test_decode_ldfe : ∀ e ∈ [(0xBC392184#32, Instr.ldfeRff true 7 9 3 4),
    (0x3C212587#32, Instr.ldfeRfe false 4 9 3 7),
    (0xBC392A04#32, Instr.ldfeRawfe true 7 9 4 4)],
    decodeWord e.1 = .ok e.2 := by decide +kernel

theorem test_decode_stfe : ∀ e ∈ [(0x3E312187#32, Instr.stfeWef false 6 9 3 7),
    (0xBE392584#32, Instr.stfeWaf true 7 9 3 4),
    (0xBE392A04#32, Instr.stfeWae true 7 9 4 4),
    (0x3E012D87#32, Instr.stfeSete false 9 3 7)],
    decodeWord e.1 = .ok e.2 := by decide +kernel

theorem test_decode_ldag : ∀ e ∈ [(0x40212305#32, Instr.ldagWait false 4 9 6 5),
    (0x40212314#32, Instr.ldagTrap false 4 9 6 4),
    (0x40292327#32, Instr.ldagPeek false 5 9 6 7)],
    decodeWord e.1 = .ok e.2 := by decide +kernel

theorem test_decode_agop : ∀ e ∈ [(0x42008000#32, Instr.agreg false 4),
    (0x42008001#32, Instr.agdone false 4),
    (0x42192002#32, Instr.agage false 3 9)],
    decodeWord e.1 = .ok e.2 := by decide +kernel

theorem test_decode_name : ∀ e ∈ [(0x5C20A300#32, Instr.nmint false 4 5 6),
    (0x5C188001#32, Instr.nmres false 3 4),
    (0x5C188002#32, Instr.nmret false 3 4),
    (0x5C188283#32, Instr.nmeq false 3 4 5),
    (0x5C212004#32, Instr.nmld false 4 9),
    (0x5C012205#32, Instr.nmst false 9 4),
    (0x5C188006#32, Instr.nmcls false 3 4),
    (0x5C188007#32, Instr.nmorg false 3 4),
    (0x5C008288#32, Instr.nmmove false 4 5)],
    decodeWord e.1 = .ok e.2 := by decide +kernel

theorem test_decode_qop : ∀ e ∈ [(0x5E008280#32, Instr.spawn false 4 5),
    (0x5E188281#32, Instr.spawnq false 3 4 5),
    (0x5E00C282#32, Instr.send false 6 5),
    (0x5E008003#32, Instr.jdec false 4 0),
    (0x5E008384#32, Instr.jinit false 4 7),
    (0xDE00C485#32, Instr.handover true 6 9),
    (0x5E188286#32, Instr.sendseq false 3 4 5),
    (0x5E188007#32, Instr.qlen false 3 4)],
    decodeWord e.1 = .ok e.2 := by decide +kernel

theorem test_decode_vop_1 : ∀ e ∈ [(0x61C53500#32, Instr.vadd false 0x38 0x29 0x2A),
    (0xE028C481#32, Instr.vsub true 5 6 9),
    (0xE028C482#32, Instr.vmul true 5 6 9),
    (0xE028C483#32, Instr.vdiv true 5 6 9),
    (0xE028C484#32, Instr.vmin true 5 6 9),
    (0xE028C485#32, Instr.vmax true 5 6 9),
    (0xE028C486#32, Instr.vminn true 5 6 9),
    (0xE028C487#32, Instr.vmaxn true 5 6 9),
    (0xE028C008#32, Instr.vabs true 5 6),
    (0xE028C009#32, Instr.vneg true 5 6),
    (0x6020A00A#32, Instr.vsqrt false 4 5),
    (0xE028C00B#32, Instr.vrcp true 5 6),
    (0xE028C00C#32, Instr.vrsq true 5 6),
    (0xE028C00D#32, Instr.vexp2 true 5 6),
    (0xE028C00E#32, Instr.vlog2 true 5 6),
    (0xE028C48F#32, Instr.vand true 5 6 9),
    (0xE028C490#32, Instr.vor true 5 6 9),
    (0xE028C491#32, Instr.vxor true 5 6 9),
    (0xE028C492#32, Instr.vandn true 5 6 9),
    (0xE028C013#32, Instr.vnot true 5 6)],
    decodeWord e.1 = .ok e.2 := by decide +kernel

theorem test_decode_vop_2 : ∀ e ∈ [(0xE028C494#32, Instr.vshl true 5 6 9),
    (0xE028C495#32, Instr.vshr true 5 6 9),
    (0xE028C496#32, Instr.vsar true 5 6 9),
    (0xE028C497#32, Instr.vadds true 5 6 9),
    (0xE028C498#32, Instr.vsubs true 5 6 9),
    (0xE028C499#32, Instr.vavg true 5 6 9),
    (0xE028C49A#32, Instr.vmulh true 5 6 9),
    (0xE028C49B#32, Instr.vceq true 5 6 9),
    (0xE028C49C#32, Instr.vcne true 5 6 9),
    (0xE028C49D#32, Instr.vclt true 5 6 9),
    (0x6020A31E#32, Instr.vcle false 4 5 6),
    (0xE028C49F#32, Instr.vcun true 5 6 9),
    (0x6020A320#32, Instr.vsel false 4 5 6),
    (0xE028C021#32, Instr.vclass true 5 6),
    (0xE028C022#32, Instr.vround true 5 6),
    (0xE028C1A3#32, Instr.vshli true 5 6 3),
    (0xE028C1A4#32, Instr.vshri true 5 6 3),
    (0x6020A1A5#32, Instr.vsari false 4 5 3)],
    decodeWord e.1 = .ok e.2 := by decide +kernel

theorem test_decode_vfma : ∀ e ∈ [(0x63453500#32, Instr.vfma false 0x28 0x29 0x2A),
    (0xE228C481#32, Instr.vfms true 5 6 9),
    (0xE228C482#32, Instr.vmad true 5 6 9),
    (0x6220A303#32, Instr.vdot2 false 4 5 6),
    (0xE228C484#32, Instr.vdot4 true 5 6 9),
    (0xE228C485#32, Instr.vdot4b true 5 6 9),
    (0xE228C486#32, Instr.vdote true 5 6 9)],
    decodeWord e.1 = .ok e.2 := by decide +kernel

theorem test_decode_vperm : ∀ e ∈ [(0x6620A180#32, Instr.vsplat false 4 5 3),
    (0xE628C181#32, Instr.vins true 5 6 3),
    (0xE628C182#32, Instr.vext true 5 6 3),
    (0x67452303#32, Instr.vshuf false 0x28 0x29 6),
    (0xE628C484#32, Instr.vzipl true 5 6 9),
    (0xE628C485#32, Instr.vziph true 5 6 9),
    (0xE628C486#32, Instr.vuzpl true 5 6 9),
    (0xE628C487#32, Instr.vuzph true 5 6 9),
    (0xE628C008#32, Instr.vrev true 5 6),
    (0x6620A309#32, Instr.vcmpr false 4 5 6),
    (0xE628C48A#32, Instr.vexpd true 5 6 9),
    (0x6618C00B#32, Instr.vpopm false 3 6),
    (0x6620A30C#32, Instr.valgn false 4 5 6)],
    decodeWord e.1 = .ok e.2 := by decide +kernel

theorem test_decode_vred : ∀ e ∈ [(0x6820A000#32, Instr.vrsum false 4 5),
    (0xE828C001#32, Instr.vrmin true 5 6),
    (0xE828C002#32, Instr.vrmax true 5 6),
    (0x6820A003#32, Instr.vramax false 4 5),
    (0xE828C004#32, Instr.vrsumw true 5 6),
    (0xE828C005#32, Instr.vrany true 5 6),
    (0xE828C006#32, Instr.vrall true 5 6)],
    decodeWord e.1 = .ok e.2 := by decide +kernel

theorem test_decode_lacc : ∀ e ∈ [(0x6A008000#32, Instr.laz false 4),
    (0x6A008281#32, Instr.laadd false 4 5),
    (0xEA00C482#32, Instr.lasub true 6 9),
    (0xEA308003#32, Instr.larnd true 6 4),
    (0x6A008284#32, Instr.lamrg false 4 5),
    (0xEA28C005#32, Instr.larndb true 5 6),
    (0x6A188006#32, Instr.last false 3 4)],
    decodeWord e.1 = .ok e.2 := by decide +kernel

theorem test_decode_survey : ∀ e ∈ [(0x6C008000#32, Instr.svinit false 4 0),
    (0x6C308281#32, Instr.svprb false 6 4 5),
    (0x6C308282#32, Instr.svprb4 false 6 4 5),
    (0x6C388283#32, Instr.svprbx false 7 4 5),
    (0x6C008284#32, Instr.svcmt false 4 5),
    (0x6C18C405#32, Instr.svpick false 3 6 8),
    (0x6C18C406#32, Instr.svpickh false 3 6 8)],
    decodeWord e.1 = .ok e.2 := by decide +kernel

theorem test_decode_mat : ∀ e ∈ [(0x6E084180#32, Instr.mma false 1 2 3),
    (0xEE182181#32, Instr.mmaz true 3 1 3)],
    decodeWord e.1 = .ok e.2 := by decide +kernel

theorem test_decode_mslot : ∀ e ∈ [(0xF0101500#32, Instr.mclaim true 2 1 0xA),
    (0x70180001#32, Instr.mrel false 3),
    (0xF010C482#32, Instr.mload true 2 6 9),
    (0x70108303#32, Instr.mloadt false 2 4 6),
    (0xF008C484#32, Instr.mloadsc true 1 6 9),
    (0x70088285#32, Instr.mdec false 1 4 5),
    (0x70380006#32, Instr.mzero false 7),
    (0xF028C487#32, Instr.mstore true 5 6 9),
    (0x7010A308#32, Instr.mstoreb false 2 5 6),
    (0x70184009#32, Instr.mstate false 3 2),
    (0x7000800A#32, Instr.mtbl false 4)],
    decodeWord e.1 = .ok e.2 := by decide +kernel

theorem test_decode_eng : ∀ e ∈ [(0x7220A000#32, Instr.copy false 4 5 0),
    (0xF2286181#32, Instr.copym true 5 3 3),
    (0xF2286182#32, Instr.put true 5 3 3),
    (0x7220A303#32, Instr.putsig false 4 5 6),
    (0xF2286184#32, Instr.get true 5 3 3),
    (0x72200005#32, Instr.gather false 4 0 0),
    (0xF2286186#32, Instr.scatter true 5 3 3),
    (0x7220A007#32, Instr.chain false 4 5 0),
    (0x7220A008#32, Instr.agput false 4 5 0),
    (0x7220A009#32, Instr.agget false 4 5 0),
    (0x7220A00A#32, Instr.collsub false 4 5 0)],
    decodeWord e.1 = .ok e.2 := by decide +kernel

theorem test_decode_bar : ∀ e ∈ [(0x74008280#32, Instr.barinit false 4 5),
    (0x74188281#32, Instr.barsig false 3 4 5),
    (0x7418C382#32, Instr.barsign false 3 6 7),
    (0x74188003#32, Instr.barq false 3 4)],
    decodeWord e.1 = .ok e.2 := by decide +kernel

theorem test_decode_tag : ∀ e ∈ [(0x7620A380#32, Instr.cast false 4 5 7),
    (0x7618A001#32, Instr.tagof false 3 5),
    (0x7600A082#32, Instr.tagchk false 5 1)],
    decodeWord e.1 = .ok e.2 := by decide +kernel

theorem test_decode_blk : ∀ e ∈ [(0x7820A300#32, Instr.baddq false 4 5 6),
    (0x78388401#32, Instr.bquant false 7 4 8),
    (0x7848A302#32, Instr.blacc false 9 5 6)],
    decodeWord e.1 = .ok e.2 := by decide +kernel

theorem test_decode_hint : ∀ e ∈ [(0x7E000000#32, Instr.hnop),
    (0x7E4091A2#32, Instr.himm 0x91A2),
    (0x7E900000#32, Instr.hmod 2 0 0 0),
    (0x7EC000C8#32, Instr.hschedAlign 0xC8),
    (0x7EC40000#32, Instr.hschedStream)],
    decodeWord e.1 = .ok e.2 := by decide +kernel

/-! ## Witnesses: states that meet the hypotheses of the statements -/

namespace Sys2Proof.Tests

/-- The value that satisfies `p`, where the check answers. -/
theorem ok_of {ε α : Type} {x : Except ε α} (p : α → Bool)
    (h : (match x with | .ok a => p a | .error _ => false) = true) : ∃ a, x = .ok a ∧ p a = true := by
  cases x with
  | ok a => exact ⟨a, rfl, h⟩
  | error e => cases h

theorem some_of {α : Type} {x : Option α} (p : α → Bool)
    (h : (match x with | some a => p a | none => false) = true) : ∃ a, x = some a ∧ p a = true := by
  cases x with
  | some a => exact ⟨a, rfl, h⟩
  | none => cases h

theorem ready_of {h : Takes} {s : State} {rs : List Reg}
    (e : (h.group s.me.hints && (!h.super || s.me.super) && rs.all fun r => !s.me.pending r) = true) :
    Ready h s rs := by
  simp only [Bool.and_eq_true, Bool.or_eq_true, List.all_eq_true, Bool.not_eq_true'] at e
  refine ⟨e.1.1, fun hs => ?_, e.2⟩
  rcases e.1.2 with h' | h'
  · rw [hs] at h'; cases h'
  · exact h'

theorem ints_of {s : State} {rs : List Reg}
    (e : (rs.all fun r => (s.me.read r).tag == .i64 || (s.me.read r).tag == .raw) = true) :
    s.ints rs := by
  intro r hr
  have := List.all_eq_true.mp e r hr
  simpa using this

/-- Registers by number over a slot that has a handler. -/
def regs (l : List (Nat × RV)) (x : Slot) : Slot :=
  { x with trapVec := 0x8000, file := l.foldl (fun v e => vset v (e.1 - 1) e.2) x.file }

def num (n : Nat) : RV := .int (BitVec.ofNat 64 n)

/-- A running user activation with the page at 0x10000 mapped, with leaf bits `flags`, and the
registers of `l`. -/
def labWith (flags : Nat) (l : List (Nat × RV)) : State :=
  let s := (State.reset.placeWord 0x1E000000).modMe (regs l)
  { s with mem := s.mem.writeLE (placeTable + 0x20008) 8 (placeTable + 0x30000 + flags) }

/-- m4 and m5 hold small integers, m6 a mapped address, m7 a scratchpad offset, m8 a vector, m9 a
name, m10 the most negative integer, m11 minus one. -/
def lab : State := labWith 0x7F [(4, num 7), (5, num 3), (6, num 0x10000), (7, num 0x40),
  (8, ⟨BitVec.ofNat 128 0x3F8000003F8000003F8000003F800000, .f32x4⟩), (9, ⟨5, .name⟩),
  (10, num (2 ^ 63)), (11, num (2 ^ 64 - 1))]

def boss : State := lab.modMe fun x => { x with super := true }

/-- m4 is still to be written by a variable result. -/
def late : State := lab.modMe fun x => x.write 4#6 (num 1) .none .var

/-- A group of one HIMM stands before the word. -/
def prefixed : State := lab.modMe fun x =>
  { x with hints := { x.hints with imm := [0x155555#22], first := some 0xFFFC } }


theorem idle_of {s : State}
    (e : ((s.me.outs.all fun o => o.load.isNone) && s.me.stores.isEmpty
      && (List.range 8).all (fun u => !(vget s.myCore.units .reset u).loads s.focus)
      && s.fabric.all fun p => clusterOf p.slot != clusterOf s.focus) = true) : Idle s := by
  simp only [Bool.and_eq_true, List.all_eq_true, Option.isNone_iff_eq_none, List.isEmpty_iff,
    List.mem_range, Bool.not_eq_true', bne_iff_ne] at e
  exact ⟨e.1.1.1, e.1.1.2, e.1.2, e.2⟩

theorem coherent_of {s : State} (e : s.myCluster.cache.isEmpty = true) : Coherent s := by
  intro a b h
  rw [List.isEmpty_iff.mp e] at h
  cases h

theorem plain_of {s : State} {pa n : Nat}
    (e : (decide (0 < n) && decide (pa % 64 + n ≤ 64) && !s.remote pa && decide (localOf pa < 2 ^ 40)
      && (List.range 64).all fun i => !s.poisoned (pa / 64 * 64 + i) 1) = true) : Plain s pa n := by
  simp only [Bool.and_eq_true, List.all_eq_true, List.mem_range, Bool.not_eq_true',
    decide_eq_true_eq] at e
  exact ⟨e.1.1.1.1, e.1.1.1.2, e.1.1.2, e.1.2, e.2⟩

/-- An access lands in memory, where `p` holds of the state and the target. -/
theorem lands_of {s : State} {va : Word} {n : Nat} {k : AccKind} (p : State → Target → Bool)
    (e : (match s.walkFill (coreOf s.focus) s.me.asid s.me.root s.me.super va.toNat k with
      | .ok u pa leaf => decide (va.toNat % n = 0) && decide (0x8000 ≤ va.toNat)
        && decide (va.toNat < 2 ^ 54)
        && decide (usable (s.myCore.dtlb ++ s.myCluster.tlb) s.me.asid va.toNat k s.me.super = [])
        && (!k.writes || !pteDet leaf || s.holdsDet (coreOf s.focus) s.me.asid va)
        && !s.remote pa && !s.reachAlias pa && decide (localOf pa < 2 ^ 40)
        && !s.homeStands pa && (!k.writes || s.me.acks.get (s.ackClass s.focus pa) != BitVec.allOnes 16)
        && p u (.phys pa leaf)
      | _ => false) = true) : ∃ u tg, Lands s u va n k tg ∧ p u tg = true := by
  cases h : s.walkFill (coreOf s.focus) s.me.asid s.me.root s.me.super va.toNat k with
  | ok u pa leaf =>
    rw [h] at e
    simp only [Bool.and_eq_true, Bool.or_eq_true, Bool.not_eq_true', decide_eq_true_eq, bne_iff_ne] at e
    obtain ⟨⟨⟨⟨⟨⟨⟨⟨⟨⟨e1, e2⟩, e3⟩, e4⟩, e5⟩, e6⟩, e7⟩, e8⟩, e9⟩, e10⟩, e11⟩ := e
    refine ⟨u, .phys pa leaf, ⟨e1, e2, e3, e4, h, fun hw hd => ?_, e6, e7, e8, e9, fun hw => ?_⟩, e11⟩
    · rcases e5 with (h' | h') | h'
      · rw [hw] at h'; cases h'
      · rw [hd] at h'; cases h'
      · exact h'
    · rcases e10 with h' | h'
      · rw [hw] at h'; cases h'
      · exact h'
  | page => rw [h] at e; cases e
  | prot i => rw [h] at e; cases e
  | memErr t i => rw [h] at e; cases e

/-- An access lands in the own scratchpad. -/
theorem lands_pad {s : State} {va : Word} {n : Nat} {k : AccKind} (h : va.toNat % n = 0)
    (h' : va.toNat < 0x8000) : Lands s s va n k (.scratch (coreOf s.focus) va.toNat) :=
  ⟨h, h', rfl, rfl, rfl⟩

/-- The clocks of all dies run. -/
theorem runs_of {s : State} (e : (s.dies.all fun d => d.2.relock.isNone) = true) (a : Nat) :
    s.homeStands a = false := by
  have h (l : AMap Die) (d : Nat) (x : Die) (hx : x.relock = none)
      (e : (l.all fun d => d.2.relock.isNone) = true) : (l.get x d).relock = none := by
    induction l with
    | nil => exact hx
    | cons y l ih =>
      simp only [List.all_cons, Bool.and_eq_true, Option.isNone_iff_eq_none] at e
      simp only [AMap.get, AMap.find] at ih ⊢
      split
      · exact e.1
      · exact ih e.2
  have h' (d : Nat) : s.stands d = false := by
    unfold State.stands State.die; rw [h _ _ _ rfl e]; rfl
  simp [State.homeStands, h']
/-! ### Integer words (R119 to R127) -/

theorem witness_TwoSourceResults : Ready {} lab [4, 5, 6] ∧ lab.ints [4, 5] :=
  ⟨ready_of (by decide +kernel), ints_of (by decide +kernel)⟩
/-- The divider is busy. -/
def dividing : State := lab.modMyCore fun k => { k with divUntil := lab.myDie.dcyc + 9 }

theorem witness_TwoSourceResults_divisions : (Ready {} lab [10, 11, 0] ∧ lab.ints [10, 11]) ∧
    (Ready {} lab [4, 0, 4] ∧ lab.ints [4, 0]) ∧ lab.myCore.divUntil ≤ lab.myDie.dcyc ∧
    (Ready {} dividing [10, 11, 0] ∧ dividing.ints [10, 11] ∧
      dividing.myDie.dcyc < dividing.myCore.divUntil) :=
  ⟨⟨ready_of (by decide +kernel), ints_of (by decide +kernel)⟩,
    ⟨ready_of (by decide +kernel), ints_of (by decide +kernel)⟩, by decide +kernel,
    ready_of (by decide +kernel), ints_of (by decide +kernel), by decide +kernel⟩
theorem witness_OneSourceResults : (Ready {} lab [10, 4] ∧ lab.ints [10]) ∧
    Ready {} lab [9, 4] ∧ (lab.me.read 9).tag = .name :=
  ⟨⟨ready_of (by decide +kernel), ints_of (by decide +kernel)⟩, ready_of (by decide +kernel),
    by decide +kernel⟩
theorem witness_ImmediateResults : (Ready { imm := true } lab [4, 5] ∧ lab.ints [4]) ∧
    Ready { imm := true } prefixed [4, 5] ∧ prefixed.ints [4] ∧ Ready {} lab [4, 5] :=
  ⟨⟨ready_of (by decide +kernel), ints_of (by decide +kernel)⟩, ready_of (by decide +kernel),
    ints_of (by decide +kernel), ready_of (by decide +kernel)⟩
theorem witness_FieldResults_extract : (0#6).toNat + (63#6).toNat < 64 ∧ Ready {} lab [4, 5] ∧
    lab.ints [4] ∧ lab.ints [5] :=
  ⟨by decide, ready_of (by decide +kernel), ints_of (by decide +kernel), ints_of (by decide +kernel)⟩
theorem witness_FieldResults_insert : (late.canTrap ∧ Takes.group {} late.me.hints = true ∧
      late.me.pending 4 = true) ∧
    lab.canTrap ∧ lab.me.pending 4 = false ∧ lab.me.pending 8 = false ∧ (lab.me.read 8).tag = .f32x4 := by
  unfold State.canTrap; decide +kernel
theorem witness_FieldResults_words : (Instr.extr false 5 6 8 11).check = none ∧
    (0x1628C417#32).extractLsb' 25 6 = 0x0B#6 ∧ (0x1628C0FF#32).extractLsb' 25 6 = 0x0B#6 ∧
    (0x1828D40E#32).extractLsb' 25 6 = 0x0C#6 ∧ (0x1828D40F#32).getLsbD 0 = true := by decide +kernel
theorem witness_ConditionalMoves : (Ready {} lab [4, 5, 6] ∧ lab.ints [4, 5, 6]) ∧
    (late.canTrap ∧ Takes.group {} late.me.hints = true ∧ late.me.pending 4 = true) ∧
    lab.canTrap ∧ (lab.me.read 8).tag = .f32x4 ∧ ∀ r ∈ [4#6, 5, 8], lab.me.pending r = false := by
  refine ⟨⟨ready_of (by decide +kernel), ints_of (by decide +kernel)⟩, ?_⟩
  unfold State.canTrap; decide +kernel

/-! ### Checks, control transfer, control registers, traps, hints (R25 to R49, R128 to R143) -/

theorem witness_IssueChecks : (late.canTrap ∧ Takes.group {} late.me.hints = true ∧
      late.me.pending 4 = true) ∧
    (lab.canTrap ∧ Takes.group {} lab.me.hints = true ∧ lab.me.super = false ∧
      (lab.me.read 8).tag = .f32x4 ∧ lab.me.pending 8 = false) ∧
    (prefixed.canTrap ∧ Takes.group {} prefixed.me.hints = false) ∧
    (∀ o ∈ (lab.slot lab.focus).outs, o.load = none) ∧
    ∀ k, k < 8 → (vget (lab.core (coreOf lab.focus)).units .reset k).loads lab.focus = false := by
  unfold State.canTrap; decide +kernel
theorem witness_Branches : (Ready {} lab [4] ∧ lab.ints [4]) ∧ (Ready {} lab [4, 5] ∧ lab.ints [4, 5]) ∧
    (0x2026FFFD#32).extractLsb' 25 6 = 0x10#6 ∧ 6 ≤ ((0x2026FFFD#32).extractLsb' 16 3).toNat ∧
    (0x22209800#32).extractLsb' 25 6 = 0x11#6 ∧ 6 ≤ ((0x22209800#32).extractLsb' 10 3).toNat :=
  ⟨⟨ready_of (by decide +kernel), ints_of (by decide +kernel)⟩,
    ⟨ready_of (by decide +kernel), ints_of (by decide +kernel)⟩, by decide, by decide, by decide,
    by decide⟩

/-- lk and m4 hold a word address; m5 holds none. -/
def linked : State := lab.modMe (regs [(4, num 0x10040), (5, num 0x10002), (39, num 0x10020)])
/-- lk is still to be written. -/
def unlinked : State := linked.modMe fun x => x.write 39#6 (num 1) .none .var

/-- lk holds no instruction's address. -/
def bent : State := linked.modMe fun x => { x with file := vset x.file 38 (num 0x10002) }

theorem witness_Jumps : (Ready {} linked [4, 39] ∧ linked.ints [4] ∧ (linked.int 4).toNat % 4 = 0) ∧
    (Ready {} linked [39] ∧ linked.ints [39] ∧ linked.int 39 ≠ 0 ∧ (linked.int 39).toNat % 4 = 0) ∧
    (Ready {} linked [5, 39] ∧ linked.ints [5] ∧ (linked.int 5).toNat % 4 ≠ 0 ∧ linked.canTrap) ∧
    (unlinked.canTrap ∧ Takes.group {} unlinked.me.hints = true ∧ unlinked.me.pending 39 = true) ∧
    Ready {} bent [39] ∧ bent.ints [39] ∧ (bent.int 39).toNat % 4 ≠ 0 ∧ bent.canTrap := by
  refine ⟨⟨ready_of (by decide +kernel), ints_of (by decide +kernel), by decide +kernel⟩,
    ⟨ready_of (by decide +kernel), ints_of (by decide +kernel), by decide +kernel⟩,
    ⟨ready_of (by decide +kernel), ints_of (by decide +kernel), by decide +kernel, ?_⟩, ?_,
    ready_of (by decide +kernel), ints_of (by decide +kernel), by decide +kernel, ?_⟩
  all_goals (unfold State.canTrap; decide +kernel)
theorem witness_WindowWords : ((4#6) ∉ [0#6, 62#6, 63#6] ∧ Ready {} lab [4] ∧ lab.ints [4] ∧
      lab.me.wbase.toNat < 48) ∧
    ((40#6) ∉ [0#6, 62#6, 63#6] ∧
      (lab.modMe fun x => { x with wbase := 47 }).me.wbase.toNat < 48) ∧
    (0x2A21FFFF#32).extractLsb' 25 6 = 0x15#6 ∧ (0x2A21FFFF#32).extractLsb' 16 3 ≠ 0#3 :=
  ⟨⟨by decide, ready_of (by decide +kernel), ints_of (by decide +kernel), by decide +kernel⟩,
    ⟨by decide, by decide +kernel⟩, by decide, by decide⟩

theorem flagless_of {s : State} (e : (s.me.outs.all fun o => o.flags.getD 0 == 0) = true) :
    s.flagless := by
  simpa only [State.flagless, List.all_eq_true, beq_iff_eq] using e

theorem witness_CtrlWrites : (lab.flagless ∧ lab.ints [4] ∧ Ready { super := false } lab [4, 5]) ∧
    boss.flagless ∧ boss.ints [4] ∧ Ready { super := true } boss [4, 5] :=
  ⟨⟨flagless_of (by decide +kernel), ints_of (by decide +kernel), ready_of (by decide +kernel)⟩,
    flagless_of (by decide +kernel), ints_of (by decide +kernel), ready_of (by decide +kernel)⟩
theorem witness_CtrlSteps_access : (lab.flagless ∧ Ready {} lab [] ∧ (0x10#64).toNat / 16 % 8 ∉ [0, 6, 7]) ∧
    Ready { super := true } boss [] ∧
    (let k := boss.myCluster
     let q := k.queue k.poolSel.toNat
     let sum (x : Queue) : Nat := ((k.queues.set k.poolSel.toNat x).map fun e => e.2.min.toNat).sum
     k.queues.Pairwise (fun x y => x.1 < y.1) ∧ q.cap ≠ 0 ∧ 64#12 ≤ q.cap ∧ sum { q with min := 64 } ≤ 2048 ∧
       q.min ≤ 2048#12 ∧ sum { q with cap := 2048 } ≤ 2048) :=
  ⟨⟨flagless_of (by decide +kernel), ready_of (by decide +kernel), by decide⟩,
    ready_of (by decide +kernel), by decide +kernel⟩
theorem witness_CtrlSteps_threadst : (Ready {} lab [4] ∧ lab.ints [4] ∧
      (lab.int 4).toNat / 16 % 8 ∈ [0, 6, 7] ∧ lab.canTrap) ∧
    (linked.int 5).toNat / 16 % 8 ∈ [0, 6, 7] ∧
    Ready {} (lab.modMe (regs [(4, num 0x10)])) [4] ∧
    ((lab.modMe (regs [(4, num 0x10)])).int 4).toNat / 16 % 8 ∉ [0, 6, 7] := by
  refine ⟨⟨ready_of (by decide +kernel), ints_of (by decide +kernel), by decide +kernel, ?_⟩,
    by decide +kernel, ready_of (by decide +kernel), by decide +kernel⟩
  unfold State.canTrap; decide +kernel
theorem witness_ControlReads : Creg.trapvec ≠ .fpflags ∧
    Ready { super := decide (Creg.trapvec ∈ superRead) } lab [4] ∧
    Ready { super := decide (Creg.asid ∈ superRead) } boss [4] :=
  ⟨by decide, ready_of (by decide +kernel), ready_of (by decide +kernel)⟩
theorem witness_TrapEntry : (Ready {} lab [] ∧ lab.canTrap ∧ lab.myCore.claimed = false) ∧
    (lab.modMyCore fun k => { k with claimed := true }).myCore.claimed = true ∧
    Ready {} (lab.modMyCore fun k => { k with claimed := true }) [] ∧
    ((lab.modMe fun x => { x with trapVec := 0 }).me.trapVec = 0 ∧
      (let q := (lab.cluster (serviceCluster (dieOf lab.focus))).queue errIndex
       q.attached = true ∧ q.kind ≠ .stage ∧ q.sealed_ = false ∧ q.ext = [] ∧
         (lab.cluster (serviceCluster (dieOf lab.focus))).poolRoom (lab.die (dieOf lab.focus)).dcyc errIndex 2 = true)) ∧
    (lab.modMe fun x => { x with inTrap := true }).me.inTrap = true := by
  refine ⟨⟨ready_of (by decide +kernel), ?_, by decide +kernel⟩, by decide +kernel,
    ready_of (by decide +kernel), by decide +kernel, by decide +kernel⟩
  unfold State.canTrap; decide +kernel

/-- A handler runs. -/
def handling : State := boss.modMe fun x => { x with inTrap := true }

theorem witness_TrapReturns : (Ready {} handling [] ∧ handling.me.inTrap = true) ∧
    (lab.me.inTrap = false ∧ lab.me.trapVec ≠ 0) ∧ Ready { super := true } handling [] :=
  ⟨⟨ready_of (by decide +kernel), by decide +kernel⟩, by decide +kernel,
    ready_of (by decide +kernel)⟩
theorem witness_NopHbeatAndHints : Ready {} lab [] ∧ lab.me.groupLength ≤ 16 ∧
    (lab.modMe fun x => { x with hints := { x.hints with first := some 0xFFC4 } }).me.groupLength ≤ 16 :=
  ⟨ready_of (by decide +kernel), by decide +kernel, by decide +kernel⟩

/-! ### Memory (R232 to R252, R318 to R330) -/

theorem witness_AccessChecks : (2 ^ 54 ≤ (0x40000000000000#64).toNat) ∧
    ((0x3FFFFFFFFFFFFC#64).toNat < 2 ^ 54 ∧ (0x3FFFFFFFFFFFFC#64).toNat % 8 ≠ 0) ∧
    ((0x7FF8#64).toNat < 0x8000 ∧ (0x7FF8#64).toNat % 8 = 0) ∧
    lab.canTrap ∧ lab.int 5 = 3 ∧
    (match target lab.bump (lab.int 5 + BitVec.ofInt 64 (combined lab.me.hints 10 0 * 8)) 8 .load false with
      | .error (.trap .misalign a 0 false) => a == 3
      | _ => false) = true := by
  unfold State.canTrap; decide +kernel
theorem witness_AccessChecks_ready :
    Ready { imm := true, stream := true } lab [5, 4] ∧ lab.ints [5] :=
  ⟨ready_of (by decide +kernel), ints_of (by decide +kernel)⟩

/-- A target in memory, one in the scratchpad. -/
def inMem : State × Target → Bool
  | (_, .phys pa _) => pa == 0x2030000
  | _ => false
def inPad : State × Target → Bool
  | (_, .scratch k o) => k == 0 && o == 0x40
  | _ => false

theorem witness_Loads : Ready { imm := true, stream := true, fmt := true } lab [6, 4] ∧ lab.ints [6] ∧
    (∃ a, target lab.bump (lab.int 6 + BitVec.ofInt 64 (combined lab.me.hints 10 0 * 8)) 8 .load false
      = .ok a ∧ inMem a = true) ∧
    (∃ a, target lab.bump (lab.int 7 + BitVec.ofInt 64 (combined lab.me.hints 10 0 * 8)) 8 .load false
      = .ok a ∧ inPad a = true) ∧
    fmtTag lab = .raw ∧ Tag.ofCode 7 = some .f32x4 :=
  ⟨ready_of (by decide +kernel), ints_of (by decide +kernel), ok_of _ (by decide +kernel),
    ok_of _ (by decide +kernel), by decide +kernel, by decide +kernel⟩

/-- A load of the mapped page, which no line of the cache may hold, into m4 is outstanding. -/
def loading : State := lab.modMe fun x => x.await 4 ⟨0x10000, 0x2030000, false, 8, .zext, x.asid⟩ .none
/-- The first word of the page is poisoned. -/
def rotten (s : State) : State := { s with poison := [0x2030000 / 8] }

theorem witness_Loads_performed : (match loading.me.outs[0]? with
      | some o => o.load.isSome && o.dst == some 3
      | none => false) = true ∧
    (∃ v, (loading.readGlobal 0 0x2030000 false 8).2 = .ok v ∧ decide (v < 256 ^ 8) = true) ∧
    (match ((rotten loading).readGlobal 0 0x2030000 false 8).2 with
      | .error e => e == .memErr
      | .ok _ => false) = true :=
  ⟨by decide +kernel, ok_of _ (by decide +kernel), by decide +kernel⟩
theorem witness_Loads_home : Idle lab ∧ Coherent lab ∧ Plain lab 0x2030000 8 :=
  ⟨idle_of (by decide +kernel), coherent_of (by decide +kernel), plain_of (by decide +kernel)⟩

theorem witness_Stores : Ready { imm := true } lab [6, 4] ∧ lab.ints [6] ∧
    (∃ a, target lab.bump (lab.int 7 + BitVec.ofInt 64 (0 * 8)) 8 .store false = .ok a ∧ inPad a = true) ∧
    (∃ a, target lab.bump (lab.int 6 + BitVec.ofInt 64 (0 * 8)) 8 .store false = .ok a ∧
      (inMem a && decide (a.1.buffered 0 < (a.1.cluster 0).bufCap)
        && (a.1.earlierLoads 0 0x2030000 8).me.acks.get (a.1.ackClass 0 0x2030000)
          != BitVec.allOnes 16) = true) ∧
    ((lab.me.read 8).tag.code = 7) :=
  ⟨ready_of (by decide +kernel), ints_of (by decide +kernel), ok_of _ (by decide +kernel),
    ok_of _ (by decide +kernel), by decide +kernel⟩
/-- The write-through buffer can hold no store. -/
def clogged : State := lab.modCluster 0 fun k => { k with bufCap := 0 }

theorem witness_Stores_full : Ready { imm := true } clogged [6, 4] ∧ clogged.ints [6] ∧
    (∃ a, target clogged.bump (clogged.int 6 + BitVec.ofInt 64 (0 * 8)) 8 .store false = .ok a ∧
      (inMem a && decide ((a.1.cluster 0).bufCap ≤ a.1.buffered 0)) = true) ∧
    localOf 0x2030000 < 2 ^ 40 :=
  ⟨ready_of (by decide +kernel), ints_of (by decide +kernel), ok_of _ (by decide +kernel), by decide⟩

/-- No word of the range is poisoned. -/
def pure_ (n : Nat) (u : State) : Target → Bool
  | .scratch .. => true
  | .phys pa leaf => pa == 0x2030000 && !u.poisoned pa n && leafCached leaf

theorem witness_AcquireAndRelease : Ready { imm := true, stream := true } lab [6, 4] ∧
    lab.ints [6] ∧ lab.noError ∧ Idle lab ∧ (4#3).toNat ≤ 4 ∧ scopeWide 5 = true ∧
    (∃ u tg, Lands lab.bump u (lab.int 6 + BitVec.ofInt 64 (combined lab.me.hints 6 0 * 16)) 16 .load tg ∧
      pure_ 16 u tg = true) ∧
    (∃ u tg, Lands lab.bump u (lab.int 6 + BitVec.ofInt 64 (combined lab.me.hints 6 0 * 16)) 16 .store tg ∧
      pure_ 16 u tg = true) ∧
    Lands lab.bump lab.bump (lab.int 7) 16 .load (.scratch 0 0x40) := by
  refine ⟨ready_of (by decide +kernel), ints_of (by decide +kernel), by unfold State.noError; decide +kernel,
    idle_of (by decide +kernel), by decide, by decide, lands_of (pure_ 16) (by decide +kernel),
    lands_of (pure_ 16) (by decide +kernel), ?_⟩
  exact lands_pad (by decide +kernel) (by decide +kernel)
theorem witness_AcquireAndRelease_waits : (∃ t, release lab 5 = .ok t ∧ (fun _ : State => true) t = true) ∧
    (1 ≤ (5#4).toNat ∧ (5#4).toNat ≤ 9) ∧ scopeWide 5 = true ∧ scopeCovers 5 .die = true :=
  ⟨ok_of _ (by decide +kernel), by decide, by decide, by decide⟩
theorem witness_AcquireAndRelease_scopes : (1#4).toNat ≤ (2#4).toNat ∧ party 1 0 3 = true ∧
    synchronise 1 2 0 3 = true ∧ lab.partyPkg 6 0 0 = true := by decide +kernel

theorem witness_Atomics : Ready { eff := true } lab [6, 4, 5] ∧ lab.ints [6] ∧ lab.ints [4, 5] ∧
    lab.noError ∧ Idle lab ∧
    (∃ u tg, Lands (lab.atIssue { eff := true }) u (lab.int 6) 8 .atomic tg ∧ pure_ 8 u tg = true) ∧
    (∃ u tg, Lands (lab.atIssue { eff := true }) u (lab.int 6) 4 .atomic tg ∧
      (pure_ 4 u tg && match tg with
        | .phys _ leaf => !pteDet leaf
        | _ => false) = true) ∧
    Lands (lab.atIssue { eff := true }) (lab.atIssue { eff := true }) (lab.int 7) 16 .atomic
      (.scratch 0 0x40) ∧
    (lab.me.read 8).tag = .f32x4 ∧
    ((lab.me.read 9).tag = .name ∧ (lab.me.read 4).tag ≠ .name ∧ Ready { eff := true } lab [6, 9, 4] ∧
      lab.canTrap) ∧
    ((lab.me.read 4).tag = .name ↔ (lab.me.read 5).tag = .name) := by
  refine ⟨ready_of (by decide +kernel), ints_of (by decide +kernel), ints_of (by decide +kernel),
    by unfold State.noError; decide +kernel, idle_of (by decide +kernel),
    lands_of (pure_ 8) (by decide +kernel), lands_of _ (by decide +kernel), ?_, by decide +kernel,
    ⟨by decide +kernel, by decide +kernel, ready_of (by decide +kernel), ?_⟩, by decide +kernel⟩
  · exact lands_pad (by decide +kernel) (by decide +kernel)
  · unfold State.canTrap; decide +kernel

/-- An error is pending. -/
def erred : State := lab.recordErr 0 .memErr 0x10000 0 0

theorem witness_Fences : (Ready {} lab [] ∧ lab.noError ∧ Idle lab) ∧
    Ready {} erred [] ∧ Idle erred ∧ erred.me.err.valid = true ∧ erred.canTrap := by
  refine ⟨⟨ready_of (by decide +kernel), by unfold State.noError; decide +kernel,
    idle_of (by decide +kernel)⟩, ready_of (by decide +kernel), idle_of (by decide +kernel), ?_⟩
  unfold State.canTrap; decide +kernel

/-- The page is an FE page with its first word full; it is an AGED page. -/
def feLab : State := { labWith 0x477 [(4, num 7), (6, num 0x10000)] with full := [0x2030000 / 8] }
def agedLab : State := labWith 0x277 [(4, num 7), (5, num 0x500000004), (6, num 0x10000), (7, num 0)]

/-- The words of the range, none poisoned. -/
def words_ (pa n : Nat) (u : State) : Target → Bool
  | .scratch .. => false
  | .phys q _ => q == pa && !u.poisoned pa n

theorem witness_FullEmptyAccesses : Ready {} feLab [6, 4] ∧ Ready { eff := true } feLab [6, 4, 0] ∧
    feLab.ints [6] ∧ feLab.noError ∧ Idle feLab ∧ (feLab.die (feLab.homeOf 0x2030000)).retry = [] ∧
    feLab.poisoned 0x2030000 16 = false ∧ allFull feLab [0x2030000 / 8] ∧
    allEmpty feLab [0x2030008 / 8] ∧ ¬ allFull feLab [0x2030000 / 8, 0x2030008 / 8] ∧
    ¬ allEmpty feLab [0x2030000 / 8] ∧ feLab.narrowPoison 0x2030000 16 = false := by
  refine ⟨ready_of (by decide +kernel), ready_of (by decide +kernel), ints_of (by decide +kernel),
    by unfold State.noError; decide +kernel, idle_of (by decide +kernel), ?_⟩
  unfold allFull allEmpty
  decide +kernel
theorem witness_FullEmptyAccesses_lands :
    (∃ u tg, Lands (feLab.atIssue {}) u (feLab.int 6) 8 .feLoad tg ∧ words_ 0x2030000 8 u tg = true) ∧
    (∃ u tg, Lands (feLab.atIssue { eff := true }) u (feLab.int 6 + 8) 8 .feStore tg ∧
      words_ 0x2030008 8 u tg = true) ∧
    ∃ u tg, Lands (feLab.atIssue { eff := true }) u (feLab.int 6) 16 .feLoad tg ∧
      words_ 0x2030000 16 u tg = true :=
  ⟨lands_of _ (by decide +kernel), lands_of _ (by decide +kernel), lands_of _ (by decide +kernel)⟩

theorem witness_AgedLoads : Ready { fmt := true } agedLab [6, 5, 4] ∧ agedLab.ints [6, 5, 7] ∧
    agedLab.noError ∧ Idle agedLab ∧ fmtTag agedLab = .raw ∧
    (∃ u tg, Lands agedLab.bump u (agedLab.int 6) 16 .aged tg ∧ words_ 0x2030000 16 u tg = true) ∧
    (agedLab.ages.get 0 (0x2030000 / 256)).toNat = 0 ∧
    (agedLab.regOf 0x2030000).state ≠ .registered ∧ agedLab.poisoned 0x2030000 16 = false ∧
    demandNeed (agedLab.int 7) = 0 ∧ demandNeed (agedLab.int 5) = 1 ∧ agedLab.canTrap := by
  refine ⟨ready_of (by decide +kernel), ints_of (by decide +kernel),
    by unfold State.noError; decide +kernel, idle_of (by decide +kernel), by decide +kernel,
    lands_of _ (by decide +kernel), ?_⟩
  unfold State.canTrap; decide +kernel

/-- The block's page has a writer registered, so that a WAIT below the need parks. -/
def written : State := { agedLab with regs := [(0x203, ⟨.registered, 0, 0, 1⟩)] }

theorem witness_AgedLoads_parks : (∃ u tg, Lands written.bump u (written.int 6) 16 .aged tg ∧
      words_ 0x2030000 16 u tg = true) ∧ (written.regOf 0x2030000).state = .registered :=
  ⟨lands_of _ (by decide +kernel), by decide +kernel⟩

/-- The state with a live name of class `cls` for location `l` in m9. -/
def named (s : State) (cls : Byte) (l : Word) : State :=
  let n := s.mkName cls 7
  { s.modMe (regs [(9, ⟨n, .name⟩)]) with
    almanac := [((s.probes n).headD 0, ⟨n, .live, s.ownerOf 0, l, 0, [], 0, false, false⟩)] }

/-- The state with the 8-byte words `l` in the scratchpad of core 0 from offset `o` on. -/
def padded (s : State) (o : Nat) (l : List Nat) : State :=
  s.modCore 0 fun k => { k with scratch := l.zipIdx.foldl (fun m e => m.writeLE (o + 8 * e.2) 8 e.1) k.scratch }

/-- An AGED region of one page in state `st`, its descriptor in the scratchpad. -/
def region (st : Nat) : State :=
  let me := (mkCoreAddr 0 0 0).toNat
  { named (padded agedLab 0x100 [0x10000, 0x10000, 0, 0, me, st]) clsAged (mkCoreAddr 0 0 0x100) with
    regs := if st = 1 then [(0x203, ⟨.registered, 0, agedLab.me.asid, 1⟩)] else [] }

/-- What the registration words ask of their operand. -/
def regionGood (st : Nat) (s : State) (a : State × Place × Nat × Nat) : Bool :=
  let (u, p, base, size) := a
  decide (u.me = { s.me with eff := true }) && u.focus == s.focus && decide (u.image = s.image)
    && (u.me.outs.all fun o => o.load.isNone) && u.me.stores.isEmpty && u.fabric.isEmpty
    && (List.range 8).all (fun i => !(vget u.myCore.units .reset i).loads u.focus)
    && u.readPlace p 40 8 % 4 == st && u.readPlace p 32 8 == (mkCoreAddr 0 0 0).toNat
    && (st == 1 || match u.regionPages base (size / 65536) with
      | .ok ps => ps.map (·.1) == [0x203] && ps.all (·.2.2)
      | .error _ => false)
    && u.dies.all fun d => d.2.retry.isEmpty

theorem witness_AgedRegistration_words : Ready { eff := true } (region 0) [] ∧ (region 0).noError ∧
    (∃ a, regionOperand ((region 0).atIssue { eff := true }) 9 = .ok a ∧
      regionGood 0 (region 0) a = true) ∧
    (∃ a, regionOperand ((region 1).atIssue { eff := true }) 9 = .ok a ∧
      regionGood 1 (region 1) a = true) ∧
    ((region 1).regs.Pairwise (fun x y => x.1 < y.1) ∧ (region 1).regs.find 0x203 ≠ none) ∧
    ∀ a, (region 1).homeStands a = false := by
  refine ⟨ready_of (by decide +kernel), by unfold State.noError; decide +kernel,
    ok_of _ (by decide +kernel), ok_of _ (by decide +kernel), by decide +kernel, runs_of (by decide +kernel)⟩
theorem witness_AgedRegistration_age : Ready {} agedLab [6, 4] ∧ agedLab.ints [6] ∧ agedLab.noError ∧
    ∃ u tg, Lands agedLab.bump u (agedLab.int 6) 1 .aged tg ∧ words_ 0x2030000 1 u tg = true :=
  ⟨ready_of (by decide +kernel), ints_of (by decide +kernel), by unfold State.noError; decide +kernel,
    lands_of _ (by decide +kernel)⟩
/-! ### Names, records, slots (R51 to R107, R144, R363 to R388) -/

theorem witness_NameFields : (Ready {} lab [9, 9, 4] ∧ (lab.me.read 9).tag = .name) ∧
    (lab.me.read 4).tag ≠ .name ∧ lab.canTrap := by
  refine ⟨⟨ready_of (by decide +kernel), by decide +kernel⟩, by decide +kernel, ?_⟩
  unfold State.canTrap; decide +kernel

/-- A descriptor of a new name: m4 the class, m5 its place. -/
def mint (cls : Nat) : State := lab.modMe (regs [(4, num cls), (5, num 0x10040)])

theorem witness_NmintIssues : Ready { eff := true } (mint 1) [4, 5, 6] ∧ (mint 1).ints [4, 5] ∧
    (mint 1).noError ∧ Idle (mint 1) ∧
    (∃ a, descLoc ((mint 1).atIssue { eff := true }) ((mint 1).int 5) = .ok a ∧
      (fun a : State × Word × Bool => a.2.1 == 0x2030040 && !a.2.2) a = true) ∧
    (let s := mint 1
     let n := s.mkName 1 (s.serial + 1)
     s.serial.setWidth 64 ≠ BitVec.allOnes 64 ∧
       ((s.probes n).find? s.freeAt).isSome = true) ∧
    (∀ c ∈ [0, 8, 0x7F, 0x100], (c = 0 ∨ (8 ≤ c ∧ c ≤ 0x7F) ∨ 0xFF < c) ∧
      ((mint c).int 4).toNat = c) ∧
    ((mint 0x80).int 4).toNat = 0x80 ∧ (mint 0x80).me.super = false :=
  ⟨ready_of (by decide +kernel), ints_of (by decide +kernel), by unfold State.noError; decide +kernel,
    idle_of (by decide +kernel), ok_of _ (by decide +kernel), by decide +kernel, by decide +kernel,
    by decide +kernel, by decide +kernel⟩
theorem witness_NmintIssues_refused : (mint 0xFF).canTrap ∧ ((mint 0xFF).int 4).toNat = 0xFF := by
  unfold State.canTrap; decide +kernel

/-- A live QUEUE name in m9 for a descriptor at 0x2030040, which is attached nowhere. -/
def holder : State := named lab clsQueue 0x2030040

theorem witness_NameMemory_resolve : Ready {} holder [9, 4] ∧ (holder.me.read 9).tag = .name ∧
    (holder.bump.resolve (coreOf holder.focus) (holder.me.read 9).val none).2 = .loc 0x2030040 ∧
    Ready {} lab [9, 4] ∧
    ((lab.modMe (regs [(9, ⟨lab.mkName clsQueue 7, .name⟩)])).bump.resolve 0 (lab.mkName clsQueue 7) none).2
      = .gone :=
  ⟨ready_of (by decide +kernel), by decide +kernel, by decide +kernel, ready_of (by decide +kernel),
    by decide +kernel⟩
theorem witness_NameMemory_access : Ready { eff := true } holder [6, 9] ∧ holder.ints [6] ∧
    Ready {} holder [6, 4] ∧ Idle holder ∧ (holder.me.read 9).tag = .name ∧
    (∃ a, target holder.bump (holder.int 6) 16 .load false = .ok a ∧ inMem a = true) ∧
    (∃ a, target holder.bump (lab.int 7) 16 .load false = .ok a ∧ inPad a = true) ∧
    ∃ a, target (holder.atIssue { eff := true }) (holder.int 6) 16 .store false = .ok a ∧
      (inMem a && decide (a.1.buffered 0 < (a.1.cluster 0).bufCap)
        && holder.me.acks.get (a.1.ackClass 0 0x2030000) != BitVec.allOnes 16) = true :=
  ⟨ready_of (by decide +kernel), ints_of (by decide +kernel), ready_of (by decide +kernel),
    idle_of (by decide +kernel), by decide +kernel, ok_of _ (by decide +kernel),
    ok_of _ (by decide +kernel), ok_of _ (by decide +kernel)⟩

/-- What NMRET and NMMOVE ask of the name in m9. -/
def quietName (s : State) : Bool :=
  let n := (s.me.read 9).val
  (s.me.read 9).tag == .name && s.me.nameOp.isNone && n != 0 && nameOrigin n == s.origin && !s.forgedName n
    && !s.inFlight n none
    && match s.entryAt n with
      | some (p, e) => decide (e.state = .live) && e.presence == 0 && e.owner == s.ownerOf 0
        && decide (p < 2 ^ 40)
      | none => false

/-- The same in supervisor mode, with a new place for the descriptor in m5. -/
def mover : State := holder.modMe fun x => { regs [(5, num 0x10080)] x with super := true }

theorem witness_NameRetireAndMove : Ready { eff := true } holder [9, 4] ∧ quietName holder = true ∧
    Ready { super := true, eff := true } mover [9, 5] ∧ mover.ints [5] ∧ quietName mover = true ∧
    ∃ a, descLoc (mover.atIssue { super := true, eff := true }) (mover.int 5) = .ok a ∧
      (decide (a.1.almanac = mover.almanac) && decide (a.1.image = mover.image)
        && decide (a.1.serial = mover.serial) && decide (a.1.epoch = mover.epoch) && !a.1.inFlight (mover.me.read 9).val none) = true :=
  ⟨ready_of (by decide +kernel), by decide +kernel, ready_of (by decide +kernel),
    ints_of (by decide +kernel), by decide +kernel, ok_of _ (by decide +kernel)⟩

/-- A record stands in the scratchpad; m4 names the ready queue 0, m5 the mailbox of core 0. -/
def sender : State :=
  padded (lab.modMe (regs [(4, num 0), (5, .int (mkCoreAddr 0 0 0)), (6, num 0x80)])) 0x80 [0x12344]

/-- The queue operand of `r` leads to queue `q` of cluster 0, where `p` holds of the push. -/
def reaches (r : Reg) (port : Bool) (q : Nat) (p : Except Nat State → Bool) (s : State)
    (a : State × BitVec 256) : Bool :=
  let (w, t) := a.1.queueOperand (nameOr s r) port (recPri a.2)
  t == .at 0 q && p (w.push 0 q a.2 (w.sendEnv s.focus)) && !w.stands 0 && !w.me.err.valid && w.me.file == s.me.file
    && (w.me.outs.all fun o => o.load.isNone) && w.me.stores.isEmpty && w.fabric.isEmpty
    && (List.range 8).all fun u => !(vget w.myCore.units .reset u).loads w.focus

/-- The queue is full. -/
def crowded : State := sender.modCluster 0 fun k =>
  k.setQueue 0 { k.queue 0 with min := 0, cap := 0 }
/-- A live QUEUE name in m9 for queue 0, a stage queue. -/
def staged : State := (named sender clsQueue 0x2030040).modCluster 0 fun k =>
  k.setQueue 0 { k.queue 0 with kind := .stage, win := 8, desc := 0x2030040 }

/-- The same of a ready queue; with a full stage queue; and with a full mailbox. -/
def lone : State := (named sender clsQueue 0x2030040).modCluster 0 fun k =>
  k.setQueue 0 { k.queue 0 with desc := 0x2030040 }
def tight : State := staged.modCluster 0 fun k => k.setQueue 0 { k.queue 0 with min := 0, cap := 0 }
def stuffed : State := sender.modCluster 0 fun k => k.setQueue 4 { k.queue 4 with min := 0, cap := 0 }
/-- m4 names no queue. -/
def lost : State := sender.modMe (regs [(4, num 0x200), (6, num 0x80)])
def noQueue (r : Reg) (port : Bool) (a : State × BitVec 256) : Bool :=
  let (w, t) := a.1.queueOperand (nameOr lost r) port (recPri a.2)
  t == .none && !w.me.err.valid && w.me.file == lost.me.file && !w.stands 0

def took : Except Nat State → Bool
  | .ok _ => true
  | .error _ => false
def refusedBy : Except Nat State → Bool
  | .ok _ => false
  | .error n => n == 1 || n == 3

theorem witness_Sends : Ready { eff := true } sender [4, 6, 5] ∧ sender.ints [6] ∧
    nameOrInt sender 4 ∧ sender.canTrap ∧
    (∃ a, recordOperand (sender.atIssue { eff := true }) (sender.int 6) = .ok a ∧
      (reaches 4 false 0 took sender a && reaches 5 true 4 took sender a) = true) ∧
    (∃ a, recordOperand (crowded.atIssue { eff := true }) (crowded.int 6) = .ok a ∧
      reaches 4 false 0 refusedBy crowded a = true) ∧
    (∃ a, recordOperand (staged.atIssue { eff := true }) (sender.int 6) = .ok a ∧
      (reaches 9 false 0 took staged (a.1, recWithSeq a.2 0) && reaches 9 false 0 (fun _ => true) staged a)
        = true) ∧
    ((staged.cluster 0).queue 0).kind = .stage ∧ ((staged.cluster 0).queue 0).nextSeq = 0 ∧
    (staged.me.read 9).tag = .name ∧
    (∃ a, recordOperand (crowded.atIssue { eff := true }) (crowded.int 6) = .ok a ∧
      reaches 5 true 4 (fun _ => true) crowded a = true) ∧
    (∃ a, recordOperand (lone.atIssue { eff := true }) (lone.int 6) = .ok a ∧
      reaches 9 false 0 (fun _ => true) lone a = true) ∧
    (lone.me.read 9).tag = .name ∧ ((lone.cluster 0).queue 0).kind ≠ .stage ∧
    (∃ a, recordOperand (lost.atIssue { eff := true }) (lost.int 6) = .ok a ∧
      (noQueue 4 false a && noQueue 4 true a) = true) ∧ nameOrInt lost 4 := by
  refine ⟨ready_of (by decide +kernel), ints_of (by decide +kernel), by unfold nameOrInt; decide +kernel,
    by unfold State.canTrap; decide +kernel, ok_of _ (by decide +kernel), ok_of _ (by decide +kernel),
    ok_of _ (by decide +kernel), by decide +kernel, by decide +kernel, by decide +kernel,
    ok_of _ (by decide +kernel), ok_of _ (by decide +kernel), by decide +kernel, by decide +kernel,
    ok_of _ (by decide +kernel), by unfold nameOrInt; decide +kernel⟩
theorem witness_Sends_refused :
    (∃ a, recordOperand (tight.atIssue { eff := true }) (tight.int 6) = .ok a ∧
      (reaches 9 false 0 refusedBy tight (a.1, recWithSeq a.2 0)
        && reaches 9 false 0 (fun _ => true) tight a) = true) ∧
    ∃ a, recordOperand (stuffed.atIssue { eff := true }) (stuffed.int 6) = .ok a ∧
      reaches 5 true 4 refusedBy stuffed a = true :=
  ⟨ok_of _ (by decide +kernel), ok_of _ (by decide +kernel)⟩
theorem witness_Sends_checks : (3 : BitVec 256).toNat % 4 ≠ 0 ∧
    ((BitVec.ofNat 256 (2 ^ 54)).toNat % 4 = 0 ∧ (BitVec.ofNat 256 (2 ^ 54)).toNat / 2 ^ 54 % 64 ≠ 0) ∧
    (BitVec.ofNat 256 (2 ^ 54 - 4)).toNat % 4 = 0 ∧ (BitVec.ofNat 256 (2 ^ 54 - 4)).toNat / 2 ^ 54 % 64 = 0 := by
  decide +kernel

/-- A join cell at offset 0x40 of the scratchpad, with COUNT 7. -/
def cell : State := padded lab 0x40 [0x12344, 0, 0, 0, 0, 0, 7, 0]

theorem witness_JoinCells_words : Ready { eff := true } cell [7, 5] ∧ cell.ints [7, 5] ∧
    cell.noError ∧ Idle cell ∧
    (coreOf cell.focus < 65536 ∧ (cell.int 7).toNat < 0x8000 ∧ (cell.int 7).toNat % 64 = 0) ∧
    (cell.myCore.fenced = false ∧ cell.myCore.contained = false ∧ cell.stands 0 = false) ∧
    ((cellStatus cell 0 0x40).getLsbD 15 = false ∧ cellCount cell 0 0x40 - cell.int 5 = 4) ∧
    (cell.int 5 ≠ 0 ∧ (cell.core 0).scratch.readLE 0x40 8 % 4 = 0 ∧
      (cell.core 0).scratch.readLE 0x40 8 / 2 ^ 54 % 64 = 0) := by
  refine ⟨ready_of (by decide +kernel), ints_of (by decide +kernel),
    by unfold State.noError; decide +kernel, idle_of (by decide +kernel), ?_⟩
  decide +kernel

/-- The cell's QUEUE is the name of the queue attached at index 0. -/
def armed : State :=
  let s := named lab clsQueue 0x2030040
  let s := padded s 0x40 [0x12344, 0, 0, 0, (s.me.read 9).val.toNat % 2 ^ 64,
    (s.me.read 9).val.toNat / 2 ^ 64, 1, 0]
  s.modCluster 0 fun k => k.setQueue 0 { k.queue 0 with desc := 0x2030040 }

theorem witness_JoinCells_release :
    let l := mkCoreAddr 0 0 0x40
    (BitVec.ofNat 64 (armed.readLoc (l + 56) 8)).getLsbD 15 = false ∧
    BitVec.ofNat 64 (armed.readLoc (l + 48) 8) = 1 ∧ 0 < (1 : Word).toInt ∧
    (let w := (armed.writeLoc (l + 48) 8 0).writeLoc (l + 56) 8
       (BitVec.ofNat 64 (armed.readLoc (l + 56) 8)).toNat
     let p := w.queueOf (match locCore l with | some a => a.core | none => noSector)
       (BitVec.ofNat 128 (w.readLoc (l + 32) 16))
     p.2 = .at 0 0 ∧ took ((p.1.spread l p.2).push 0 0 (recWithStatus (BitVec.ofNat 256 (w.readLoc l 32))
       (BitVec.ofNat 16 (w.readLoc (l + 56) 2))) .zero) = true) := by
  decide +kernel
theorem witness_QlenAndHandover : Ready {} sender [4, 5] ∧ sender.ints [4] ∧ sender.int 4 ≠ 0xFF ∧
    localQueue (clusterOf sender.focus) (sender.int 4) 0 = .at 0 0 ∧ sender.stands 0 = false :=
  ⟨ready_of (by decide +kernel), ints_of (by decide +kernel), by decide +kernel, by decide +kernel, by decide +kernel⟩

/-- A REGION name in m9, which core 0 holds; m5 names core 1. -/
def region' : State :=
  let me := (mkCoreAddr 0 0 0).toNat
  (named (padded lab 0x100 [0x10000, 0x10000, 0, me]) clsRegion (mkCoreAddr 0 0 0x100)).modMe
    (regs [(5, .int (mkCoreAddr 0 1 8))])

theorem witness_QlenAndHandover_handover : Ready { eff := true } region' [9, 5] ∧ region'.ints [5] ∧
    (region'.me.read 9).tag = .name ∧
    (∃ a, useName (region'.atIssue { eff := true }) (region'.me.read 9).val clsRegion = .ok a ∧
      (match a with
       | (u, .at l) => u.regionPlain l && u.readLoc (l + 24) 8 == (mkCoreAddr u.image.pkg 0 0).toNat
           && u.focus == 0 && !u.locStands l && !u.stands 0 && !((u.coreStores 0).core 1).fenced && !((u.coreStores 0).core 1).contained
           && decide (((u.coreStores 0).core 1).det.length < 8)
       | _ => false) = true) ∧
    (coreAddr (region'.int 5)).map (fun g => (g.pkg, g.core)) = some (0, 1) ∧
    (coreAddr (mkCoreAddr 0 0 8)).map (fun g => (g.pkg, g.core)) = some (0, 0) :=
  ⟨ready_of (by decide +kernel), ints_of (by decide +kernel), by decide +kernel,
    ok_of _ (by decide +kernel), by decide +kernel, by decide +kernel⟩
/-! ### Endings, the service's calls, slots (R68, R144, R370 to R388) -/

/-- What END starts from. -/
def ending (s : State) : State := ((s.atIssue {}).drain s.focus).answered s.focus

/-- What the statement on the endings asks of the state after the cell or the push. -/
def goesOn (s v : State) : Bool := v.focus == s.focus && v.me.nameOp.isNone

theorem witness_Ends : (Ready {} lab [39] ∧ lab.ints [39] ∧ lab.int 39 = 0 ∧ lab.noError ∧ Idle lab ∧
      lab.me.nameOp = none ∧ lab.me.sending = []) ∧
    (nameOrInt cell 7 ∧ Ready {} cell [7] ∧ cell.noError ∧ Idle cell ∧
      ∃ v, decrementBy (ending cell) (nameOr cell 7) 1 true = .ok v ∧ goesOn cell v = true) ∧
    nameOrInt sender 4 ∧ Ready {} sender [4, 6] ∧ sender.ints [6] ∧ sender.noError ∧ Idle sender ∧
      ∃ v, sendPlain (ending sender) (nameOr sender 4) (sender.int 6) false false = .ok v ∧
        goesOn sender v.1 = true :=
  ⟨⟨ready_of (by decide +kernel), ints_of (by decide +kernel), by decide +kernel,
      by unfold State.noError; decide +kernel, idle_of (by decide +kernel), by decide +kernel, by decide +kernel⟩,
    ⟨by unfold nameOrInt; decide +kernel, ready_of (by decide +kernel),
      by unfold State.noError; decide +kernel, idle_of (by decide +kernel), ok_of _ (by decide +kernel)⟩,
    by unfold nameOrInt; decide +kernel, ready_of (by decide +kernel), ints_of (by decide +kernel),
    by unfold State.noError; decide +kernel, idle_of (by decide +kernel), ok_of _ (by decide +kernel)⟩

/-- The request queue of the service is full. -/
def busyService : State := { lab with scallCap := 0 }

theorem witness_ScallPosts : Ready { eff := true } lab [6] ∧ lab.ints [6] ∧ lab.noError ∧ Idle lab ∧
    (lab.int 6).toNat % 64 = 0 ∧ busyService.canTrap ∧ Idle busyService ∧
    (∃ a, target (lab.atIssue { eff := true }) (lab.int 6) 64 .load false = .ok a ∧
      decide (a.1.scalls.length < a.1.scallCap) = true) ∧
    ∃ a, target (busyService.atIssue { eff := true }) (busyService.int 6) 64 .load false = .ok a ∧
      decide (a.1.scallCap ≤ a.1.scalls.length) = true :=
  ⟨ready_of (by decide +kernel), ints_of (by decide +kernel), by unfold State.noError; decide +kernel,
    idle_of (by decide +kernel), by decide +kernel, by unfold State.canTrap; decide +kernel,
    idle_of (by decide +kernel), ok_of _ (by decide +kernel), ok_of _ (by decide +kernel)⟩

/-- The selector of slot `c` of core `k` with further bits `f`, in m4 of a supervisor. -/
def select (k c f : Nat) (x : Slot) : State :=
  (boss.modMe (regs [(4, num (2 ^ 63 + k * 2 ^ 36 + 2 ^ c + f))])).modSlot (4 * k + c) fun _ => x

def bad (s : State) : Bool :=
  let v := (s.int 4).toNat
  let own := v / 2 ^ 52 % 2 ^ 10 == s.image.pkg.toNat
  v / 2 ^ 62 != 2 || v / 2 ^ 15 % 2 ^ 21 != 0 || v / 16 % 2 ^ 11 != 0 || v % 16 == 0
    || (own && s.focus / 4 == v / 2 ^ 36 % 2 ^ 16 && v / 2 ^ (s.focus % 4) % 2 == 1)

def idleSlot : Slot := .reset
def runs (r : Run) : Slot := { idleSlot with phase := .active r }
def held : Slot := { idleSlot with phase := .held false }

theorem witness_SlotCommands_selector : Ready { super := true } (select 0 1 0 idleSlot) [4] ∧
    (select 0 1 0 idleSlot).ints [4] ∧ bad (select 0 1 0 idleSlot) = false ∧
    (∀ f ∈ [0x10, 2 ^ 14, 2 ^ 15, 2 ^ 35, 1, 2 ^ 62], bad (select 0 1 f idleSlot) = true) ∧
    bad (select 0 1 (2 ^ 52) idleSlot) = false ∧
      ((select 0 1 (2 ^ 52) idleSlot).int 4).toNat / 2 ^ 52 % 2 ^ 10 ≠ (lab.image.pkg).toNat ∧
    448 ≤ ((select (448 * 16) 1 0 idleSlot).int 4).toNat / 2 ^ 40 % 2 ^ 9 :=
  ⟨ready_of (by decide +kernel), ints_of (by decide +kernel), by decide +kernel, by decide +kernel,
    by decide +kernel, by decide +kernel, by decide +kernel⟩
theorem witness_SlotCommands_selectorTrap : (select 0 1 0 idleSlot).canTrap := by
  unfold State.canTrap; decide +kernel

theorem selects_of {s : State} {v : Nat} {action nowait : Bool}
    (e : (v / 2 ^ 62 == 2 && v / 2 ^ 15 % 2 ^ 21 == 0 && v / 2 ^ 8 % 2 ^ 7 == 0 && v % 16 != 0
      && decide (v / 16 % 8 ≤ if action then 1 else 0) && (nowait || v / 2 ^ 7 % 2 == 0)
      && v / 2 ^ 52 % 2 ^ 10 == s.image.pkg.toNat && decide (v / 2 ^ 40 % 2 ^ 9 < 448)
      && !(selected v).contains s.focus && (selected v).all fun c => (s.slot c).opBy.isNone) = true) :
    Selects s v action nowait := by
  simp only [Bool.and_eq_true, Bool.or_eq_true, List.all_eq_true, Bool.not_eq_true', beq_iff_eq,
    bne_iff_ne, decide_eq_true_eq, Option.isNone_iff_eq_none, List.contains_eq_mem,
    decide_eq_false_iff_not] at e
  exact ⟨e.1.1.1.1.1.1.1.1.1, ⟨e.1.1.1.1.1.1.1.1.2, e.1.1.1.1.1.1.1.2⟩, e.1.1.1.1.1.1.2, e.1.1.1.1.1.2,
    fun h => e.1.1.1.1.2.resolve_left (by simp [h]), e.1.1.1.2, e.1.1.2, e.1.2, e.2⟩

/-- Slot 1 of core 0 selected, with bits `f` and in the state `x`: what the words on slots ask. -/
theorem witness_SlotCommands_words (x : Slot)
    (h : x = idleSlot ∨ x = held ∨ x = runs .running ∨ x = runs .stopped ∨ x = runs .waiting) :
    let s := select 0 1 0 x
    Ready { super := true } s [4] ∧ s.ints [4] ∧ s.me.nameOp ≠ some .slots ∧
      selected (s.int 4).toNat = [1] ∧ Selects s (s.int 4).toNat false false ∧
      Selects s (s.int 4).toNat true false ∧ Selects s (s.int 4).toNat false true := by
  rcases h with rfl | rfl | rfl | rfl | rfl
  all_goals
    exact ⟨ready_of (by decide +kernel), ints_of (by decide +kernel), by decide +kernel,
      by decide +kernel, selects_of (by decide +kernel), selects_of (by decide +kernel),
      selects_of (by decide +kernel)⟩
theorem witness_SlotCommands_phases :
    (((select 0 1 0 (runs .running)).slot 1).phase = .active .running ∧
      ((select 0 1 0 (runs .stopped)).slot 1).phase = .active .stopped ∧
      ((select 0 1 0 (runs .waiting)).slot 1).phase = .active .waiting ∧
      ((select 0 1 0 held).slot 1).phase = .held false ∧ ((select 0 1 0 idleSlot).slot 1).phase = .idle) ∧
    (((select 0 1 0 (runs .stopped)).slot 1).heldErr = none ∧
      ((select 0 1 0 (runs .running)).slot 1).nameOp = none) ∧
    (select 0 1 0 idleSlot).canTrap ∧ 0 < lab.image.preWin ∧
    (let q := (lab.cluster (serviceCluster (dieOf 1))).queue errIndex
     q.attached = true ∧ q.kind ≠ .stage ∧ q.sealed_ = false ∧ q.ext = [] ∧
       (lab.cluster (serviceCluster (dieOf 1))).poolRoom (lab.die (dieOf 1)).dcyc errIndex 2 = true) := by
  unfold State.canTrap; decide +kernel
theorem witness_SlotCommands_noWait :
    let s := select 0 1 0x80 (runs .running)
    Selects s (s.int 4).toNat false true ∧ (s.int 4).toNat / 2 ^ 7 % 2 = 1 ∧ (s.slot 1).nameOp = none ∧
      (s.slot 1).sending = [] :=
  ⟨selects_of (by decide +kernel), by decide +kernel, by decide +kernel, by decide +kernel⟩

/-- m4 any address, m5 every address and every space. -/
def flusher : State := boss.modMe (regs [(5, num 0x30000)])
/-- m4 asks for `f` MHz on die 1. -/
def clocker (f : Nat) : State := boss.modMe (regs [(4, num (2 ^ 16 + f))])

theorem witness_TlbiAndFreq : (Ready { super := true } flusher [4, 5] ∧ flusher.ints [4, 5] ∧
      flusher.noError ∧ Idle flusher ∧ flusher.int 5 = 0x30000 ∧ (∀ e ∈ flusher.slots, e.2.wait = none) ∧
      ∀ e ∈ flusher.cores, ∀ c ∈ e.2.queue, c.await = none) ∧
    (∀ f ∈ [600, 1800], ((clocker f).int 4).toNat % 2 ^ 16 = f ∧ ((clocker f).int 4).toNat < 2 ^ 19) ∧
    Ready { super := true, eff := true } (clocker 600) [4] ∧ (clocker 600).ints [4] ∧
    ((lab.die 1).stepWaits = false ∧ (lab.die 1).mhz.toNat = 1200 ∧ (clocker 600).me.nameOp = none) ∧
    ((clocker 1900).int 4).toNat % 2 ^ 16 = 1900 :=
  ⟨⟨ready_of (by decide +kernel), ints_of (by decide +kernel), by unfold State.noError; decide +kernel,
      idle_of (by decide +kernel), by decide +kernel, by decide +kernel, by decide +kernel⟩,
    by decide +kernel, ready_of (by decide +kernel),
    ints_of (by decide +kernel), by decide +kernel, by decide +kernel⟩
theorem witness_TlbiAndFreq_freqTrap : (clocker 1900).canTrap ∧
    (clocker 1200).me.nameOp = none ∧ ((clocker 1200).int 4).toNat % 2 ^ 16 = 1200 := by
  unfold State.canTrap; decide +kernel
/-- Die 1 relocks, for a step that was asked for before. -/
def relocking (f : Nat) : State :=
  (clocker f).modDie 1 fun d => { d with relock := some ⟨1200, 900, 0, 0, 1500, timeUnit, 0, none⟩ }
/-- The FREQ has begun its step, which is over. -/
def stepped : State := (clocker 600).modMe fun x => { x with nameOp := some .freq }

theorem witness_TlbiAndFreq_waits : Ready { super := true, eff := true } (relocking 600) [4] ∧
    (relocking 600).ints [4] ∧ (relocking 600).me.nameOp ≠ some .freq ∧
    ((relocking 600).die 1).stepWaits = true ∧
    (∀ r, ((relocking 600).die 1).relock = some r → r.yields (relocking 600).focus (relocking 600).sidereal = false) ∧
    Ready { super := true, eff := true } stepped [4] ∧ stepped.ints [4] ∧ stepped.me.nameOp = some .freq ∧
    (stepped.die 1).owesStep stepped.focus = false := by
  refine ⟨ready_of (by decide +kernel), ints_of (by decide +kernel), by decide +kernel, by decide +kernel,
    fun r h => ?_, ready_of (by decide +kernel), ints_of (by decide +kernel), by decide +kernel, by decide +kernel⟩
  have e : ((relocking 600).die 1).relock = some ⟨1200, 900, 0, 0, 1500, timeUnit, 0, none⟩ := by decide +kernel
  rw [e] at h
  cases h
  decide +kernel
/-! ### Vectors and exact sums (R145 to R200, R220 to R231) -/

/-- m4 and m5 carry `g`, m6 carries RAW, m7 `h`. -/
def typed (g h : Tag) : State := lab.modMe (regs [(4, ⟨BitVec.ofNat 128 (2 ^ 127 + 0x38), g⟩),
  (5, ⟨BitVec.ofNat 128 0x7F, g⟩), (6, ⟨BitVec.ofNat 128 0x80, .raw⟩), (7, ⟨1, h⟩)])

def sharesB (s : State) (rs : List Reg) (g : Tag) : Bool :=
  (rs.all fun r => (s.me.read r).tag == g || (s.me.read r).tag == .raw)
    && rs.any fun r => (s.me.read r).tag == g

theorem shares_of {s : State} {rs : List Reg} {g : Tag} (e : sharesB s rs g = true) : Shares s rs g := by
  simp only [sharesB, Bool.and_eq_true, List.all_eq_true, List.any_eq_true, Bool.or_eq_true,
    beq_iff_eq] at e
  exact e

theorem sharesOrRaw_of {s : State} {rs : List Reg} {g : Tag}
    (e : (sharesB s rs g && g != .i64 && g != .name && g != .raw) = true) : SharesOrRaw s rs g := by
  simp only [Bool.and_eq_true, bne_iff_ne] at e
  exact ⟨e.1.1.2, e.1.2, .inl ⟨e.2, shares_of e.1.1.1⟩⟩

theorem each {α : Type} [DecidableEq α] {l : List α} {p : α → Bool} (h : l.all p = true) :
    ∀ x ∈ l, p x = true := List.all_eq_true.mp h

theorem witness_VectorResults : (∀ g ∈ floats ++ ints ++ [.e4m3x16, .e5m2x16],
      Shares (typed g g) [4, 6] g) ∧
    (∀ g ∈ floats ++ ints, SharesOrRaw (typed g g) [4, 5] g) ∧
    (∀ g ∈ floats ++ ints, ((typed g g).me.read 4).tag = g) ∧
    SharesOrRaw lab [0, 0] .raw ∧
    ((lab.me.read 8).tag = .f32x4 ∧ ((typed .i32x4 .i16x8).me.read 4).tag = .i32x4 ∧
      ((typed .i32x4 .i16x8).me.read 7).tag = .i16x8 ∧ (lab.me.read 0).tag = .raw ∧
      (lab.me.read 4).tag = .i64) :=
  ⟨fun g h => shares_of (each (p := fun g => sharesB (typed g g) [4, 6] g) (by decide +kernel) g h),
    fun g h => sharesOrRaw_of (each (p := fun g => sharesB (typed g g) [4, 5] g && g != .i64 && g != .name
      && g != .raw) (by decide +kernel) g h),
    by decide +kernel, ⟨by decide, by decide, .inr ⟨rfl, by decide +kernel⟩⟩, by decide +kernel⟩
theorem witness_VectorResults_ready (g : Tag) (h : g = .f32x4 ∨ g = .i8x16) :
    Ready { rnd := true, sat := true, ftz := true } (typed g g) [4, 6, 5] ∧
      Ready {} (typed g g) [4, 6, 5] := by
  rcases h with rfl | rfl <;> exact ⟨ready_of (by decide +kernel), ready_of (by decide +kernel)⟩
theorem witness_FusedAndDots : (∀ g ∈ floats, Shares (typed g g) [4, 5, 6] g) ∧
    (∀ g ∈ floats, g.fmt.isSome = true) ∧
    (∀ e ∈ [(Tag.bf16x8, Tag.f32x4), (.e4m3x16, .f32x4), (.i8x16, .i32x4), (.b8x16, .i32x4)],
      ((typed e.1 e.2).me.read 4).tag = e.1 ∧ ((typed e.1 e.2).me.read 6).tag = .raw ∧
        ((typed e.1 e.2).me.read 7).tag = e.2) :=
  ⟨fun g h => shares_of (each (p := fun g => sharesB (typed g g) [4, 5, 6] g) (by decide +kernel) g h),
    by decide +kernel, by decide +kernel⟩

/-- VCVT from the register m4 to `dst`, with z or m5 as B. -/
def converts (src dst : Tag) (b : Reg) : Bool :=
  let s := typed src src
  match cvtClass src dst with
  | some k =>
    (match cvtB k src dst b (s.me.read b) with
      | .ok _ => true
      | .error _ => false) && (!k.keeps || (s.me.read 6).tag == .raw) && Tag.ofCode dst.code == some dst
  | none => false

theorem witness_Conversions : converts .f32x4 .i32x4 0 = true ∧ converts .f16x8 .f32x4 0 = true ∧
    converts .f32x4 .f16x8 5 = true ∧ converts .f32x4 .e4m3x16 5 = true ∧
    converts .f64x2 .i64 0 = true ∧ converts .i64 .f64x2 0 = true ∧
    (∀ k ∈ [(Tag.f32x4, Tag.i32x4, CvtClass.same), (.f16x8, .f32x4, .wide), (.f32x4, .f16x8, .half),
      (.f32x4, .e4m3x16, .quarter), (.f64x2, .i64, .toI64), (.i64, .f64x2, .ofI64)],
      cvtClass k.1 k.2.1 = some k.2.2) := by decide +kernel
theorem witness_PermutesAndReductions_permute : (∀ g ∈ [Tag.f64x2, .i8x16, .e2m1x32], SharesOrRaw (typed g g) [4, 5] g) ∧
    (∀ g ∈ [Tag.f64x2, .i8x16, .e2m1x32],
        (BitVec.ofNat 6 (g.lanes - 1)).toNat < g.lanes ∧ g.lanes ≤ (BitVec.ofNat 6 g.lanes).toNat) ∧
    ((lab.me.read 4).tag = .i64 ∧ SharesOrRaw lab [8] .f32x4) ∧
    (((typed .f32x4 .i64).me.read 6).tag ≠ .i64 ∧ ((typed .f32x4 .i64).me.read 6).tag ≠ .name ∧
      ((4#6) ≠ 62#6) ∧ ((typed .f32x4 .i64).me.read 7).tag = .i64) :=
  ⟨fun g h => sharesOrRaw_of (each (p := fun g => sharesB (typed g g) [4, 5] g && g != .i64 && g != .name
      && g != .raw) (by decide +kernel) g h), by decide, ⟨by decide +kernel, sharesOrRaw_of (by decide +kernel)⟩,
    by decide +kernel⟩
theorem witness_PermutesAndReductions_reduce : (∀ g ∈ floats ++ ints, ((typed g g).me.read 4).tag = g) ∧
    Ready { rnd := true, ftz := true } (typed .f16x8 .raw) [4, 6] ∧
    ((typed .f16x8 .raw).me.read 6).tag ≠ .i64 :=
  ⟨by decide +kernel, ready_of (by decide +kernel), by decide +kernel⟩
theorem witness_TagWords : Ready {} lab [8, 4] ∧ (lab.me.read 8).tag ≠ .name ∧
    Tag.ofCode 2 = some .i32x4 ∧ ((lab.me.read 4).val.toNat < 2 ^ 64) ∧
    ((lab.me.read 9).tag = .name ∧ Tag.ofCode 15 = some .name ∧ 2 ^ 64 ≤ (lab.me.read 8).val.toNat) ∧
    (lab.me.read 8).tag.code = 7 ∧ (lab.me.read 8).tag.code ≠ 1 ∧ lab.canTrap :=
  ⟨ready_of (by decide +kernel), by decide +kernel, by decide, by decide +kernel, by decide +kernel,
    by decide +kernel, by decide +kernel, by unfold State.canTrap; decide +kernel⟩
/-- In RNE 7 overflows E2M1, whose largest value is 6: it lies halfway to the next value, and the largest has
an odd mantissa; 1/8 is below its smallest normal value, and so is 2^-20 below that of FP16, which FTZ flushes. -/
theorem witness_RoundingIsNearest_places : Overflows e2m1 .rne 7 ∧ ¬ Overflows e2m1 .rne 6 ∧ ¬ Tiny e2m1 .rne 6 ∧
    Tiny e2m1 .rne (1 / 8) ∧ Tiny fp16 .rtz ((2 : ℝ) ^ (-20 : ℤ)) ∧ fp16.ftz = true := by
  have z : away .rtz (decide ((2 : ℝ) ^ (-20 : ℤ) < 0)) → False := by simp [away]
  refine ⟨.inl ⟨rfl, .inr ⟨?_, by decide⟩⟩, ?_, ?_, .inl ⟨.inl rfl, ?_⟩,
    .inr (.inr ⟨by decide, by decide, z, ?_⟩), rfl⟩ <;>
  norm_num [e2m1, fp16, Overflows, Tiny, away, abs_of_nonneg]
theorem witness_RoundingIsNearest_numbers : (∀ f ∈ [fp64, fp32, fp16, bf16], f.special = .ieee ∧ 2 ^ f.w - 1 < 2 ^ f.w) ∧
    ¬ staysFinite fp32 ⟨.rne, false, false⟩ false ∧ staysFinite e2m1 ⟨.rne, false, false⟩ true ∧
    (⟨3, -1⟩ : Dy).m ≠ 0 ∧ Dy.zero.m = 0 :=
  ⟨by decide, by simp [staysFinite, fp32], .inr (.inl (by decide)), by decide, rfl⟩
/-- A quotient and a root of numbers, of infinities, of zeros and of NaN. -/
theorem witness_RoundingIsNearest_values : valOf fp16 false 0x3C00 = .num false 1 ∧ valOf fp16 false 0xBC00 = .num true (-1) ∧
    valOf fp16 false 0xFC00 = .inf true ∧ valOf fp16 false 0x7C00 = .inf false ∧ valOf fp16 false 0 = .num false 0 ∧
    valOf fp16 false 0x7D00 = .nan true ∧ (1 : ℚ) = (2 : ℚ) ^ (0 : ℤ) ∧ (2 : ℚ) ^ (1 : ℤ) = ((2 : ℤ) : ℚ) := by
  norm_num [valOf, fp16, signed]

/-- The accumulator at 0x40 has NAN set and COUNT 3, the one at 0x80 is zero. -/
def summed : State := padded (lab.modMe (regs [(5, num 0x80)])) 0x40 [5, 0, 0, 0, 0, 0, 2 ^ 63 + 3, 0]

theorem alone_of {s : State} {u : ObjUnit}
    (e : (s.me.late.isEmpty && (List.range 4).all (fun i => (s.slot (4 * coreOf s.focus + i)).late.isEmpty
      && (4 * coreOf s.focus + i == s.focus || !(s.slot (4 * coreOf s.focus + i)).readsObject))) = true) :
    Alone s u := by
  simp only [List.all_eq_true, List.mem_range, Bool.and_eq_true, Bool.or_eq_true, Bool.not_eq_true',
    List.isEmpty_iff, beq_iff_eq] at e
  exact ⟨e.1, fun i h _ => (e.2 i h).1, fun i h k _ => (e.2 i h).2.resolve_left k⟩

/-- The word at the pc has begun to read objects. -/
def begun (s : State) : State := s.modMe fun x => { x with seen := some [] }

theorem witness_LongAccumulator : summed.ints [7] ∧ accOffset summed 7 ∧ Alone summed .lacc ∧
    Alone (begun summed) .lacc ∧ summed.me.seen = none ∧ (begun summed).me.seen ≠ none ∧
    Ready { rnd := true } summed [7, 8, 5] ∧
    Ready {} summed [7, 8, 5] ∧ (seenScratch summed).readLE 0x40 64 / 2 ^ 448 = 0 ∧
    ((summed.me.read 8).tag.fmt ≠ none ∧ (summed.me.read 8).tag ≠ .f64x2) ∧
    summed.ints [5] ∧ accOffset summed 5 ∧ (seenScratch summed).readLE 0x80 64 / 2 ^ 448 = 0 :=
  ⟨ints_of (by decide +kernel), ⟨by decide +kernel, by decide +kernel⟩, alone_of (by decide +kernel),
    alone_of (by decide +kernel), by decide +kernel, by decide +kernel, ready_of (by decide +kernel),
    ready_of (by decide +kernel), by decide +kernel, by decide +kernel, ints_of (by decide +kernel),
    ⟨by decide +kernel, by decide +kernel⟩, by decide +kernel⟩

/-- A Survey object of two FP32 elements at 0x40, candidates 64 bytes apart at 0x100 (m5), an
accumulator at 0x80 (m6). -/
def surveyed : State := padded (lab.modMe (regs [(5, num 0x100), (6, num 0x80)])) 0x40 [2 + 64 * 2 ^ 32, 9, 0, 0, 0]

theorem witness_Surveys_words : Ready {} surveyed [7, 5, 6] ∧ surveyed.ints [7, 5, 6] ∧ Alone surveyed .survey ∧ Alone surveyed .lacc ∧
    surveyed.me.seen = none ∧
    (∃ v, surveyAt surveyed.myCore.scratch 0x40 = .ok v ∧
      (v.n == 2 && v.fmt == 0 && v.stride == 64 && decide (0x40 + 32 + v.n * v.esz ≤ 0x8000)
        && decide (0x100 + 3 * v.stride + v.n * v.esz ≤ 0x8000)
        && (match v.fill 0 (surveyed.me.read 0) with
          | .ok f => f == 0xFF800000
          | .error _ => false)) = true) ∧
    accOffset surveyed 6 ∧ (seenScratch surveyed).readLE 0x80 64 / 2 ^ 448 = 0 :=
  ⟨ready_of (by decide +kernel), ints_of (by decide +kernel), alone_of (by decide +kernel),
    alone_of (by decide +kernel), by decide +kernel, ok_of _ (by decide +kernel), ⟨by decide +kernel, by decide +kernel⟩,
    by decide +kernel⟩
/-- Gains with a number among them; gains that are all NaN. -/
theorem witness_Surveys_picks : Ready {} lab [8, 0, 4] ∧ (4#6) ≠ 62#6 ∧ (4#6) ≠ 63#6 ∧
    (lab.me.read 8).tag = .f32x4 ∧ (lab.me.read 0).tag = .raw ∧
    (∃ i < 4, (fp32.decode (lane (lab.me.read 8) 32 i)).isNan = false) ∧
    ∀ i < 4, (fp32.decode (lane ⟨BitVec.ofNat 128 (2 ^ 128 - 1), .f32x4⟩ 32 i)).isNan = true :=
  ⟨ready_of (by decide +kernel), by decide, by decide, by decide +kernel, by decide +kernel,
    ⟨0, by decide, by decide +kernel⟩, by decide +kernel⟩

/-! ### Operand memory, engines, barriers, blocks (R201 to R219, R253 to R267, R352 to R356) -/

/-- Units of core 0 in states of their own. -/
def withUnits (s : State) (l : List (Nat × UnitState × Tag × Bool)) : State :=
  s.modCore 0 fun k => { k with units := l.foldl (fun v e =>
    vset v e.1 { MUnit.reset with state := e.2.1, tag := e.2.2.1, scaled := e.2.2.2 }) k.units }

/-- Slots 0 and 1 READY with E4M3, slot 2 OWNED with scales, tiles 4 and 5 held, the rest free; the
scratchpad holds sixteen rows at m7, 256 bytes apart (m5). -/
def matrix : State := withUnits (lab.modMe (regs [(5, num 256), (6, num 0x400), (4, num 0x40)]))
  [(0, .ready, .e4m3x16, false), (1, .ready, .e4m3x16, false), (2, .owned, .e4m3x16, true),
   (4, .owned, .f32x4, false), (5, .owned, .i32x4, false)]

theorem held_of {s : State} {u : Nat}
    (e : (decide ((s.munit u).state ≠ .free) && (s.munit u).owner == BitVec.ofNat 2 s.focus) = true) :
    holdsUnit s u := by
  simpa [holdsUnit] using e
theorem settled_of {s : State} {u : Nat}
    (e : (decide ((s.munit u).state = .owned ∨ (s.munit u).state = .ready)
      && (s.munit u).owner == BitVec.ofNat 2 s.focus) = true) : settled s u := by
  simp only [Bool.and_eq_true, decide_eq_true_eq, beq_iff_eq] at e
  refine ⟨⟨?_, e.2⟩, e.1⟩
  rcases e.1 with h | h <;> rw [h] <;> decide

theorem witness_OperandMemory_words : Ready {} matrix [] ∧ ((matrix.munit 3).state = .free ∧ (matrix.munit 7).state = .free) ∧
    (matrix.munit 0).state ≠ .free ∧ holdsUnit matrix 0 ∧ holdsUnit matrix 4 ∧
    (¬ (matrix.munit 3).state ≠ .free) ∧ (matrix.munit 4).pend = [] ∧ settled matrix 2 ∧
    matrix.me.pending 3 = false ∧ (Tag.ofCode 7 = some .f32x4) :=
  ⟨ready_of (by decide +kernel), by decide +kernel, by decide +kernel, held_of (by decide +kernel),
    held_of (by decide +kernel), by decide +kernel, by decide +kernel, settled_of (by decide +kernel),
    by decide +kernel, by decide⟩

/-- The pieces of an access all lie in scratchpads. -/
def inPads (a : State × List (List Piece)) : Bool :=
  a.2.flatten.all fun p => match p.tg with
    | .scratch .. => true
    | .phys .. => false

theorem witness_OperandMemory_loads : matrix.ints [6, 5] ∧ settled matrix 2 ∧ (matrix.munit 2).scaled = true ∧
    (matrix.munit 2).tag = .e4m3x16 ∧ Idle matrix ∧ Ready {} matrix [6, 5] ∧
    ((matrix.int 6).toNat % 64 = 0 ∧ (matrix.int 5).toNat % 16 = 0) ∧
    (∃ a, allPieces matrix.bump .load (rowsAt (matrix.int 6) (matrix.int 5) 16 256) = .ok a ∧ inPads a = true) ∧
    (∃ a, allPieces matrix.bump .load (rowsAt (matrix.int 6) (matrix.int 4) (2048 / 8) (2 * 8)) = .ok a ∧
      inPads a = true) ∧
    ∃ a, allPieces matrix.bump .load [(matrix.int 6, 1024), (matrix.int 5, 16)] = .ok a ∧ inPads a = true :=
  ⟨ints_of (by decide +kernel), settled_of (by decide +kernel), by decide +kernel, by decide +kernel,
    idle_of (by decide +kernel), ready_of (by decide +kernel), by decide +kernel,
    ok_of _ (by decide +kernel), ok_of _ (by decide +kernel), ok_of _ (by decide +kernel)⟩

/-- A load of `n` pieces of `kind` into slot 3, its first piece `p` and the others in the scratchpad. -/
def filling (kind : LoadKind) (per n : Nat) (p : UnitPiece) : State :=
  lab.modCore 0 fun k => { k with units := vset k.units 3 { MUnit.reset with
    state := .loading, tag := .e4m3x16, scaled := true
    load := some ⟨kind, 0, per, p :: (List.range (n - 1)).map fun i => ⟨0, some 0, 16 * i, false, 16, none, 0⟩⟩ } }
def padPiece : UnitPiece := ⟨0, some 0, 0, false, 16, none, 0⟩
def memPiece : UnitPiece := ⟨0x10000, none, 0x2030000, false, 16, none, 0⟩

/-- What the completion of a load asks of slot 3. -/
def endable (s : State) (n : Nat) : Bool :=
  let x := vget (s.core 0).units .reset 3
  decide (x.state = .loading) && x.tag == .e4m3x16 && match x.load with
    | some l => l.pieces.length == n && l.pieces.all fun p => p.n == 16 && p.got.isNone && p.core.isSome
    | none => false

theorem witness_OperandMemory_ends : endable (filling .rows 16 256 padPiece) 256 = true ∧
    endable (filling .columns 1 256 padPiece) 256 = true ∧
    endable (filling (.indices none true) 4 65 padPiece) 65 = true := by decide +kernel
theorem witness_OperandMemory_pieces :
    let s := filling .rows 16 256 memPiece
    ((vget (s.core 0).units .reset 3).load.bind fun l => l.pieces[0]?) = some memPiece ∧
    memPiece.got = none ∧ memPiece.core = none ∧
    (∃ v, (s.readGlobal 0 0x2030000 false 16).2 = .ok v ∧ decide (v < 2 ^ 128) = true) ∧
    (match ((rotten s).readGlobal 0 0x2030000 false 16).2 with
      | .error e => e == .memErr
      | .ok _ => false) = true := by
  refine ⟨by decide +kernel, by decide, by decide, ok_of _ (by decide +kernel), by decide +kernel⟩

/-- Slot 2, an E2M1 slot with scales; its scales at m6 begin with a pair that differs where `v` is no
multiple of 257. -/
def scaling (v : Nat) : State :=
  begun (padded (withUnits matrix [(2, .owned, .e2m1x32, true)]) 0x400 [v])

/-- The pairs of the first row agree in the first place. -/
def paired (s v : State) (ps : List (List Piece)) : Bool :=
  readBefore s v ps.flatten 0 % 256 == readBefore s v ps.flatten 0 / 256 % 256

theorem witness_OperandMemory_scales : Ready {} (scaling 0) [6, 5] ∧ (scaling 0).ints [6, 5] ∧
    holdsUnit (scaling 0) 2 ∧ ((scaling 0).munit 2).scaled = true ∧ ((scaling 0).munit 2).tag = .e2m1x32 ∧
    (scaling 0).me.seen = some [] ∧ (scaling 1).canTrap ∧
    (∃ a, allPieces (scaling 0).bump .load (rowsAt (scaling 0 |>.int 6) (scaling 0 |>.int 5) 16 16) = .ok a ∧
      (inPads a && paired (scaling 0) a.1 a.2) = true) ∧
    (∃ a, allPieces (scaling 1).bump .load (rowsAt (scaling 1 |>.int 6) (scaling 1 |>.int 5) 16 16) = .ok a ∧
      (inPads a && !paired (scaling 1) a.1 a.2) = true) ∧
    (∃ a, allPieces matrix.bump .load (rowsAt (matrix.int 6) (matrix.int 5) 16 8) = .ok a ∧ inPads a = true) ∧
    ∃ a, allPieces matrix.bump .load [(matrix.int 6, 512)] = .ok a ∧ inPads a = true :=
  ⟨ready_of (by decide +kernel), ints_of (by decide +kernel), held_of (by decide +kernel),
    by decide +kernel, by decide +kernel, by decide +kernel, by unfold State.canTrap; decide +kernel,
    ok_of _ (by decide +kernel), ok_of _ (by decide +kernel), ok_of _ (by decide +kernel),
    ok_of _ (by decide +kernel)⟩
theorem witness_OperandMemory_readable : Readable lab [⟨.scratch 0 0x40, 0x40, 16⟩, ⟨.phys 0x2030000 0, 0, 16⟩] := by
  refine ⟨idle_of (by decide +kernel), coherent_of (by decide +kernel), ?_⟩
  intro p hp pa leaf h
  simp only [List.mem_cons, List.not_mem_nil, or_false] at hp
  rcases hp with rfl | rfl
  · cases h
  · cases h; exact plain_of (by decide +kernel)

/-- The unit is taken by an earlier product; tile 4 is of the other kind; slot 1 multiplies with no slot of
FP8, or is not READY. -/
def occupied : State := matrix.modCore 0 fun k => { k with matUntil := 256 }
def mistyped : State := withUnits matrix [(4, .owned, .i32x4, false)]
def mismatched : State := withUnits matrix [(1, .ready, .i8x16, false)]
def unready : State := withUnits matrix [(1, .owned, .e4m3x16, false)]
def integral : State := withUnits matrix [(0, .ready, .i8x16, false), (1, .ready, .i8x16, false)]

/-- MMA of tile 4 with slots 0 and 1, or 0 and 2: all are held, and READY as said. -/
def multiplies (s : State) (u r : Bool) : Bool :=
  ([4, 0, 1, 5].all fun k => decide ((s.munit k).state ≠ .free) && (s.munit k).owner == 0)
    && ((s.munit 0).state == .ready) == u && ((s.munit 1).state == .ready) == r
    && (s.munit 0).poison.isNone && (s.munit 1).poison.isNone && decide (s.me.trapVec ≠ 0)

theorem witness_MatrixProducts_products : Ready {} matrix [] ∧ holdsUnit matrix 4 ∧ holdsUnit matrix 0 ∧ holdsUnit matrix 1 ∧
    (multiplies matrix true true = true ∧ pairKind (matrix.munit 0) (matrix.munit 1) = some false ∧
      (matrix.munit 4).tag = .f32x4 ∧ matrix.myCore.matUntil ≤ matrix.myDie.dcyc) ∧
    (multiplies occupied true true = true ∧ occupied.myDie.dcyc < occupied.myCore.matUntil) ∧
    (multiplies mistyped true true = true ∧ (mistyped.munit 4).tag ≠ .f32x4 ∧
      pairKind (mistyped.munit 0) (mistyped.munit 1) = some false) ∧
    (multiplies mismatched true true = true ∧ pairKind (mismatched.munit 0) (mismatched.munit 1) = none) ∧
    multiplies unready true false = true ∧
    (multiplies integral true true = true ∧ pairKind (integral.munit 0) (integral.munit 1) = some true ∧
      (integral.munit 5).tag = .i32x4) ∧ matrix.canTrap :=
  ⟨ready_of (by decide +kernel), held_of (by decide +kernel), held_of (by decide +kernel),
    held_of (by decide +kernel), by decide +kernel, by decide +kernel, by decide +kernel,
    by decide +kernel, by decide +kernel, by decide +kernel, by unfold State.canTrap; decide +kernel⟩
/-- An HMOD names BF16 before the word. -/
def modified : State := matrix.modMe fun x =>
  { x with hints := { x.hints with mod := [BitVec.ofNat 22 (Tag.bf16x8.code.toNat * 2 ^ 12)], first := some 0xFFFC } }
theorem witness_MatrixProducts_formats :
    Ready { rnd := true, sat := true, ftz := true, fmt := true } modified [7, 5] ∧
    modFmt (modOf modified.me.hints) ≠ 0 ∧ Tag.ofCode (modFmt (modOf modified.me.hints)) = some .bf16x8 :=
  ⟨ready_of (by decide +kernel), by decide +kernel, by decide +kernel⟩
theorem witness_MatrixProducts_stores :
    Ready { rnd := true, sat := true, ftz := true, fmt := true } matrix [7, 5] ∧ matrix.ints [7, 5] ∧
    tileReady matrix 4 ∧ modFmt (modOf matrix.me.hints) = 0 ∧
    (Tag.f32x4 ∈ tileFormats (matrix.munit 4).tag ∧ 2 * Tag.f32x4.width ≤ 256 ∧ (matrix.munit 4).tag = .f32x4) ∧
    (Tag.bf16x8 ∈ tileFormats (matrix.munit 4).tag ∧ Tag.ofCode Tag.bf16x8.code = some .bf16x8 ∧
      (matrix.munit 4).tag ≠ .bf16x8 ∧ Tag.bf16x8.code ≠ 0) ∧
    (matrix.int 7).toNat + 15 * (matrix.int 5).toNat + 64 ≤ 0x8000 ∧
    matrix.me.late = [] ∧ (settled matrix 2 ∧ (matrix.munit 2).poison = none ∧ (matrix.int 4).toNat % 16 = 0 ∧
      (matrix.int 4).toNat < (matrix.munit 2).tag.perRow) ∧ tileReady matrix 5 :=
  ⟨ready_of (by decide +kernel), ints_of (by decide +kernel), ⟨held_of (by decide +kernel), by decide +kernel⟩,
    by decide +kernel, by decide +kernel, by decide +kernel, by decide +kernel, by decide +kernel,
    ⟨settled_of (by decide +kernel), by decide +kernel⟩, held_of (by decide +kernel), by decide +kernel⟩

/-- The descriptor of a command in the scratchpad at m7. -/
def commanding (l : List Nat) : State := padded lab 0x40 l

/-- Issue accepts the descriptor at m7 for the command `code`. -/
def accepted (code : BitVec 7) (s : State) : Bool :=
  let w (i : Nat) : Word := BitVec.ofNat 64 (s.myCore.scratch.readLE (0x40 + 8 * i) 8)
  decide ((w 0).extractLsb' 56 8 = 0#1 ++ code) && (w 0).extractLsb' 48 2 == 0#2
    && decide (((w 0).extractLsb' 52 4).toNat ≤ 10) && !flagsBad code ((w 0).extractLsb' 32 16)
    && !wordsBad code w && (code != 7 || !opsBad (w 6))
    && !lengthBad code ((w 0).extractLsb' 0 32).toNat w
    && (firstMisaligned code (2 ^ ((w 0).extractLsb' 32 3).toNat) ((w 0).extractLsb' 0 32).toNat w).isNone

theorem witness_EngineCommands_issue : ∀ e ∈ [(0#7, [64, 0x100, 0x200]),
    (1, [2 ^ 56 + 2 ^ 32 + 64, 0x100, 0x200, 0x40]), (2, [2 * 2 ^ 56 + 64, 0x100, 0x10000]),
    (3, [3 * 2 ^ 56 + 64, 0x100, 0x10000]), (4, [4 * 2 ^ 56 + 64, 0x10000, 0x200]),
    (5, [5 * 2 ^ 56 + 2 * 2 ^ 32 + 4, 0x10000, 0x200, 0x100]),
    (6, [6 * 2 ^ 56 + 2 * 2 ^ 32 + 4, 0x100, 0x10000, 0x200]),
    (7, [7 * 2 ^ 56 + 7 * 2 ^ 32 + 64, 0x100, 0x200, 0x300, 0, 0, 0x10]),
    (8, [8 * 2 ^ 56 + 256, 0x100, 0x10000, 5, 0, 1]), (9, [9 * 2 ^ 56 + 256, 0x10000, 0x200, 0, 0x300]),
    (10, [10 * 2 ^ 56 + 64, 0x100, 5, 0, 0])], accepted e.1 (commanding e.2) = true := by decide +kernel
theorem witness_EngineCommands_state : Ready { eff := true } (commanding [64]) [7, 0, 0] ∧
    (commanding [64]).ints [7] ∧ (commanding [64]).myCore.queue.length < 16 ∧
    ((commanding [64]).int 7).toNat = 0x40 ∧ (lab.me.read 9).tag = .name ∧
    ∃ a, joinOperand ((commanding [64]).atIssue { eff := true }) (orNone (commanding [64]) 0) = .ok a ∧
      (a.1.focus == 0 && decide (a.1.myCore.queue.length < 16) && decide (a.2.1 = .none)) = true :=
  ⟨ready_of (by decide +kernel), ints_of (by decide +kernel), by decide +kernel, by decide +kernel,
    by decide +kernel, ok_of _ (by decide +kernel)⟩

/-- A command that has started. -/
def going (code : BitVec 7) (w0 w1 w2 : Word) : Cmd where
  code := code
  words := (((Vector.replicate 8 0).set 0 w0).set 1 w1).set 2 w2
  join := .none
  aux := none
  auxName := none
  auxAway := false
  obj := none
  names := []
  slot := 0
  pos := 0
  orphan := false
  id := 0
  asid := 0
  root := lab.me.root
  super := false
  ftz := false
  rnd := 1
  env := .zero
  agWait := 0
  rel := 0
  started := true
  prepared := false
  released := false
  piece := 0
  left := []
  since := 0
  await := none
  wrote := []
  receivers := 3
  signalled := false
  got := []
  block := 0
  errs := 0
  paused := none
  stopped := false
  flags := 0

/-- The engine of core 0 holds a command. -/
def engine (c : Cmd) : State := lab.modCore 0 fun k => { k with queue := [c] }

theorem witness_EngineCommands_copy : ((engine (going 0 64 0x100 0x200)).core 0).queue[0]? = some (going 0 64 0x100 0x200) ∧
    PlainCmd (going 0 64 0x100 0x200) ∧ (going 0 64 0x100 0x200).len = 64 ∧
    ((going 0 64 0x100 0x200).word 1).toNat = 0x100 ∧ ((going 0 64 0x100 0x200).word 2).toNat = 0x200 ∧
    ((going 0 0x4000 0x4000 0).word 1).toNat + (going 0 0x4000 0x4000 0).len = 0x8000 :=
  ⟨by decide +kernel, ⟨rfl, by decide +kernel, rfl, by decide, by decide⟩, by decide +kernel, by decide +kernel,
    by decide +kernel, by decide +kernel⟩

/-- A barrier at 0x40 in the scratchpad, armed with target 7 and 4 arrived, with MODE `mode`; its
BARRIER name in m9. -/
def barrier (mode : Nat) : State :=
  named (padded lab 0x40 [0x12344, 0, 0, 0, 7, 4, mode, 0]) clsBarrier (mkCoreAddr 0 0 0x40)

theorem witness_BarrierWords : Ready { eff := true } (barrier 0xA5) [7, 5, 4] ∧ (barrier 0xA5).ints [7, 5] ∧
    (barrier 0xA5).int 5 ≠ 0 ∧ ((barrier 0xA5).int 7).toNat = 0x40 ∧ (barrier 0xA5).noError ∧ Idle (barrier 0xA5) ∧
    (at' (barrier 0xA5) 0 0x40 8 % 4 = 0 ∧ at' (barrier 0xA5) 0 0x40 8 / 2 ^ 54 % 64 = 0 ∧
      at' (barrier 0xA5) 0 0x70 8 < 2 ^ 10 ∧ at' (barrier 0xA5) 0 0x78 8 = 0) ∧
    at' (barrier 0xA5) 0 0x70 1 = 0xA5 ∧ at' (barrier 0x5A) 0 0x70 1 ≠ 0xA5 ∧
    ((barrier 0xA5).me.read 9).tag = .name ∧ Ready { eff := true } (barrier 0xA5) [9, 5, 4] ∧
    ∃ a, barrierAt ((barrier 0xA5).atIssue { eff := true }) ((barrier 0xA5).me.read 9).val = .ok a ∧
      (a.1.focus == 0 && decide (a.2 = .own 0 0x40) && !a.1.me.err.valid && a.1.me.outs.isEmpty
        && a.1.me.stores.isEmpty && a.1.fabric.isEmpty) = true :=
  ⟨ready_of (by decide +kernel), ints_of (by decide +kernel), by decide +kernel, by decide +kernel,
    by unfold State.noError; decide +kernel, idle_of (by decide +kernel), by decide +kernel, by decide +kernel, by decide +kernel, by decide +kernel,
    ready_of (by decide +kernel), ok_of _ (by decide +kernel)⟩

/-- m5 holds a control word for `n` elements; m6 and m7 two places in the scratchpad. -/
def blocks (g : Tag) (scaled init : Bool) (n : Nat) : State :=
  lab.modMe (regs [(5, .int (ctlWord g scaled init n)), (6, num 0x400), (7, num 0x40)])

theorem witness_BlockWords : Ready {} (blocks .e4m3x16 true false 32) [6, 7, 5] ∧
    Alone (blocks .e4m3x16 true false 32) .lacc ∧ (blocks .e4m3x16 true false 32).me.seen = none ∧
    (blocks .e4m3x16 true false 32).ints [6, 7, 5] ∧ Tag.e4m3x16.fmt.isSome = true ∧
    (blocks .e4m3x16 true false 32).int 5 = ctlWord .e4m3x16 true false 32 ∧
    (0x400 + 64 * 256 ≤ 0x8000 ∧ (4096 - 1) * 4 + 4 + 0x400 ≤ 0x8000) ∧
    (∀ i < 32, (seenScratch (blocks .e4m3x16 true false 32)).readLE (0x400 + 64 * i) 64 / 2 ^ 448 = 0) ∧
    (blocks .f32x4 false true 1).int 5 = ctlWord .f32x4 false true 1 :=
  ⟨ready_of (by decide +kernel), alone_of (by decide +kernel), by decide +kernel, ints_of (by decide +kernel), by decide, by decide +kernel, by decide,
    by decide +kernel, by decide +kernel⟩


/-! ### Steps that no word makes -/

theorem quiet_of {s : State} {c : Nat}
    (e : ((s.slot c).outs.isEmpty && (s.slot c).late.isEmpty && (s.slot c).stores.isEmpty
      && (List.range 8).all (fun u => !(vget (s.core (coreOf c)).units .reset u).loads c)
      && (s.core (coreOf c)).mmas.isEmpty) = true) : QuietSlot s c := by
  simp only [Bool.and_eq_true, List.all_eq_true, List.mem_range, Bool.not_eq_true',
    List.isEmpty_iff] at e
  exact ⟨e.1.1.1.1, e.1.1.1.2, e.1.1.2, e.1.2, e.2⟩

/-- A result of the slot that no load brings. -/
def aResult : Out := ⟨some 4, none, none, 0, none, some 1, none⟩
/-- Slot 0 has it on its way, and an ALIGN wait. -/
def busySlot : State := lab.modMe fun x => { x with outs := [aResult], align := some 0 }

/-- A store of slot 0 to `loc`, at a stage. -/
def packet (loc : Nat) (st : Stage) : Packet :=
  ⟨0, 0, loc, 0x10000, [1, 2], true, st, false, 0, none, 0, none, 0⟩
/-- It is on its way. -/
def storing (loc : Nat) (st : Stage) : State :=
  { lab.modMe fun x => { x with acks := x.acks.set .die 1 } with fabric := [packet loc st] }

theorem witness_SlotEvents_arrivals : ((busySlot.slot 0).outs[0]? = some aResult ∧
      aResult.ready = none ∧ aResult.load = none ∧ (busySlot.slot 0).sending = []) ∧ (loading.slot 0).sending = [] ∧
    (∃ o q, (loading.slot 0).outs = [o] ∧ o.ready = none ∧ o.load = some q ∧ o.dst = some 3) ∧
    (∃ u, loading.bump.readGlobal 0 0x2030000 false 8 = u ∧ (match u.2 with
      | .ok v => decide (v < 2 ^ 64)
      | .error _ => false) = true) ∧
    (∃ u, (rotten loading).bump.readGlobal 0 0x2030000 false 8 = u ∧ (match u.2 with
      | .ok _ => false
      | .error e => e == .memErr) = true) ∧
    ((storing 0x2030000 .applied).fabric[0]? = some (packet 0x2030000 .applied) ∧
      (packet 0x2030000 .applied).slot = 0 ∧ (packet 0x2030000 .applied).stage = .applied ∧
      (storing 0x2030000 .applied).remote 0x2030000 = false ∧ (packet 0x2030000 .applied).orphan = false) :=
  ⟨by decide +kernel, by decide +kernel, ⟨_, _, rfl, rfl, rfl, by decide +kernel⟩, ⟨_, rfl, by decide +kernel⟩,
    ⟨_, rfl, by decide +kernel⟩, by decide +kernel⟩

/-- A load of another package is outstanding. -/
def loadingFar : State := lab.modMe fun x => x.await 4 ⟨0x10000, 2 ^ 52 + 0x40, true, 8, .zext, x.asid⟩ .none

theorem witness_SlotEvents_faults : ((storing 0x2030000 .entered).mayApply 0 (packet 0x2030000 .entered) = true ∧
      (storing 0x2030000 .entered).remote 0x2030000 = false ∧ (packet 0x2030000 .entered).stage ≠ .applied) ∧
    ((storing (2 ^ 52 + 0x40) .sent).mayApply 0 (packet (2 ^ 52 + 0x40) .sent) = true ∧
      (storing (2 ^ 52 + 0x40) .sent).remote (2 ^ 52 + 0x40) = true ∧
      (packet (2 ^ 52 + 0x40) .sent).stage ≠ .applied) ∧
    (loading.fabric = [] ∧ loading.homeStands 0x2030000 = false ∧ ∃ o q, (loading.slot 0).outs[0]? = some o ∧ o.load = some q ∧ q.va = 0x10000 ∧
      q.pa = 0x2030000 ∧ o.dst = some 3) ∧
    (loadingFar.fabric = [] ∧ loadingFar.homeStands (2 ^ 52 + 0x40) = false ∧ loadingFar.remote (2 ^ 52 + 0x40) = true ∧
      ∃ o q, (loadingFar.slot 0).outs[0]? = some o ∧ o.load = some q ∧ q.pa = 2 ^ 52 + 0x40) :=
  ⟨by decide +kernel, by decide +kernel, ⟨by decide +kernel, by decide +kernel, _, _, rfl, rfl, by decide +kernel⟩,
    by decide +kernel, by decide +kernel, by decide +kernel, _, _, rfl, rfl, by decide +kernel⟩

/-- Slot 0 waits at a home for the word at `loc` of package `p`, for ever so long. -/
def waiting (op : WaitOp) (p loc : Nat) (accepted noticed unheard : Bool) : State :=
  let w : Wait := ⟨op, 4, p * 2 ^ 52 + loc, 0x10000, 0, false, 0, accepted, noticed, 0, unheard⟩
  { (lab.modMe fun x => { x with wait := some w, feWaitMax := 1, agWaitMax := 1 }).modDie 0
    (fun d => { d with ncyc0 := 0x100000 }) with sidereal := 0x100000000 }
def waitOps : List WaitOp := [.fe .rff false 0, .fe .wef false 0, .aged 5 .i64]
/-- What the ends of a wait ask: it stands, its limits have passed, and so has FABLIMIT. -/
def overlong (op : WaitOp) (p : Nat) (accepted noticed unheard : Bool) : Bool :=
  let s := waiting op p 0x40 accepted noticed unheard
  match (s.slot 0).wait with
  | some w => w.op == op && w.accepted == accepted && w.noticed == noticed && w.unheard == unheard
      && (s.remote w.loc == (p != 0)) && decide ((s.slot 0).feWaitMax.toNat < s.nominal 0 - w.since)
      && decide ((s.slot 0).agWaitMax.toNat < s.nominal 0 - w.since)
      && decide (s.fabLimit w.loc ≤ (s.sidereal - w.probeAt).toNat)
  | none => false

theorem witness_SlotEvents_waits :
    (∀ op ∈ waitOps, ∀ p ∈ [0, 1], ∀ a ∈ [false, true], ∀ n ∈ [false, true], ∀ u ∈ [false, true],
      overlong op p a n u = true) ∧
    (lab.slot 0).inTrap = false ∧ (lab.slot 0).trapVec ≠ 0 ∧
    (waiting (.fe .rff false 0) 0 0x40 false false false).feReady .rff (feWords 0x40 false) = false ∧
    (waiting (.fe .wef false 0) 0 0x40 false false false).feReady .wef (feWords 0x40 false) = true ∧
    ((waiting (.aged 5 .i64) 0 0x40 false false false).ageOf 0x40 = 0 ∧
      (waiting (.aged 5 .i64) 0 0x40 false false false).regs = []) :=
  ⟨by decide +kernel, by decide +kernel, by decide +kernel, by decide +kernel, by decide +kernel,
    by decide +kernel⟩
theorem witness_SlotEvents_quiet : QuietSlot (waiting (.fe .rff false 0) 1 0x40 true true true) 0 ∧
    QuietSlot lab 0 := ⟨quiet_of (by decide +kernel), quiet_of (by decide +kernel)⟩

/-- How the walk ends: with a leaf, without a page, or refused. -/
def walkEnds (s : State) (va : Word) (acc : Access) : Nat :=
  match s.bump.walkFill (coreOf 0) (s.slot 0).asid (s.slot 0).root (s.slot 0).super va.toNat
    (accessKind acc) with
  | .ok .. => 0
  | .page => 1
  | .prot _ => 2
  | _ => 3
/-- The pc stands on a page without leaf; on a page that is no code. -/
def lost_ : State := lab.modMe fun x => { x with pc := 0x20000 }
def stray_ : State := labWith 0x77 [] |>.modMe fun x => { x with pc := 0x10000 }

theorem witness_SlotEvents_walks : (lab.slot 0).phase.run? = some .running ∧ lab.aligned 0 = false ∧
    noCode (lab.slot 0).pc = false ∧ walkEnds lab (lab.slot 0).pc .fetch = 0 ∧
    (walkEnds lost_ 0x20000 .fetch = 1 ∧ noCode 0x20000 = false ∧ lost_.aligned 0 = false) ∧
    (walkEnds stray_ 0x10000 .fetch = 2 ∧ stray_.aligned 0 = false) ∧
    (noCode 0x10000 = false ∧ walkEnds lab 0x10000 .load = 0 ∧ walkEnds lab 0x20000 .load = 1 ∧
      walkEnds (labWith 0x1B []) 0x10000 .store = 2) :=
  ⟨by decide +kernel, by decide +kernel, by decide +kernel, by decide +kernel, by decide +kernel,
    by decide +kernel, by decide +kernel⟩

/-- The core's buffer is empty, so that the line of the pc is asked for. -/
def thirsty : State := lab.modCore 0 fun k => { k with buffer := [] }
/-- Slot 0 has come to wait at its ALIGN, in die cycle 0 of 9. -/
def drawn : State := busySlot.modDie 0 fun d => { d with dcyc := 9 }

theorem witness_SlotEvents_fetches :
    (thirsty.fetchFor 0 ((thirsty.slot 0).pc.toNat / 64) = some 0 ∧
      noCode (BitVec.ofNat 64 (64 * ((thirsty.slot 0).pc.toNat / 64))) = false ∧
      (thirsty.cluster 0).fetchAt ≠ some (thirsty.die 0).dcyc) ∧
    (drawn.released 0 ≠ [] ∧ (drawn.cluster 0).alignAt ≠ (drawn.die 0).dcyc) ∧
    ((drawn.slot 0).align = some 0 ∧ 0 < (drawn.die 0).dcyc.toNat ∧ drawn.aligned 0 = true) := by
  refine ⟨?_, ?_, ?_⟩ <;> decide +kernel

/-- Slot 0 is at the end of its drain window; its heartbeat has passed; its record waits. -/
def overdue : State := (lab.modMe fun x =>
  { x with phase := .draining .running, drainAt := some 0, heart := 5, heldErr := some 7 }).modCore 0
    fun k => { k with hbint := 4 }

theorem witness_SlotEvents_ends : overdue.windowOver 0 = true ∧ overdue.fabric = [] ∧
    (overdue.slot 0).heldErr = some 7 ∧ (overdue.bump.sendErr (dieOf 0) (.slot 7)).2 = true ∧
    overdue.heartPassed 0 = true ∧ (overdue.core 0).contained = false :=
  ⟨by decide +kernel, by decide +kernel, by decide +kernel, by decide +kernel, by decide +kernel,
    by decide +kernel⟩
theorem witness_SlotEvents_window : QuietSlot overdue 0 := quiet_of (by decide +kernel)

/-- Commands in each of the conditions that a step of the engine starts from. -/
def fresh : Cmd := { going 0 64 0x100 0x200 with started := false }
/-- One that names a core which does not exist. -/
def nowhereTo : Cmd := { going 0 64 0x100 (BitVec.ofNat 64 (2 ^ 63 + 500 * 2 ^ 40)) with started := false }
def paused : Cmd := { going 0 64 0x100 0x200 with paused := some 0x20000 }
/-- A command whose transfer is over waits for the page of its cell. -/
def pausedAtCell : Cmd := { paused with piece := 4, join := .va 0x20000 }
def multicast : Cmd := { going 1 64 0x100 0x200 with piece := 4 }
def signalling : Cmd := { going 3 64 0x100 0x200 with piece := 4 }
def aging : Cmd := { going 8 256 0x100 0x10000 with
  left := [0], obj := some (mkCoreAddr 0 0 0x100), words := (going 8 256 0x100 0x10000).words.set 5 1 }
/-- All of its block has been read. -/
def blockRead : Cmd := { aging with got := List.replicate 16 1 }
/-- The core holds the registration of the block's page, and its region's descriptor stands at 0x100. -/
def agingAt (c : Cmd) : State := { region 1 with regs := [(0x203, ⟨.registered, 0, 0, 1⟩)] }.modCore 0 fun k =>
  { k with queue := [c] }
/-- A collective queue, attached as queue 20 with the descriptor at `dp`, and a command for its
block 3. -/
def collCmd : Cmd := { going 10 64 0x100 0x300 with obj := some 0x2030040, piece := 4, got := [1, 2, 3, 4] }
def collQ : QueueSettings :=
  { kind := 3, cls := 0, cores := 0xFFFF, win := 16, extCap := 0, extBase := 0, desc := 0x2030040,
    collective := true, ordered := true, ranks := 2, maxLen := 64, landSlots := 2, land := 0x1000,
    entry := 0x10000 }
def collective : State := (engine collCmd).modCluster 0 fun k =>
  k.setQueue 20 { k.queue 20 with attached := true, kind := .service, desc := collQ.desc, coll := some collQ }
def collReady : Bool :=
  let c := collCmd
  let u := collective.bump
  match collective.collQueue 0x2030040 with
  | some (cl, q, x) =>
    let rank := (c.word 4).extractLsb' 32 16
    let i := (c.word 4).extractLsb' 0 32
    let g := cl * 16 + i.toNat % 16
    match u.collSlot cl q x rank i with
    | some off =>
      match (u.modCore g fun y => { y with scratch := y.scratch.writeLE off c.len (gotValue c.got) }).push cl
        (4 + i.toNat % 16) (collRecord x off rank c.len i)
        { c.env with kind := 0, sent := u.sidereal.setWidth 40 } with
      | .ok _ => !collective.stands (cl / 512)
      | .error _ => false
    | none => false
  | none => false

/-- The block of `blockRead` translates to the page's place, in a state that keeps its command. -/
def blockLands : Bool :=
  let s := agingAt blockRead
  match s.bump.engAt 0 blockRead .any (blockRead.word 2) (256 * blockRead.block) 256 .agedStore with
  | .ok (u, .here (.phys pa _)) => pa == 0x2030000 && decide (cmdAt u 0 0 = some blockRead) && !u.homeStands pa
      && !u.remote pa && (u.die (u.homeOf pa)).retry.isEmpty
      && u.inRegion blockRead (blockRead.word 2 + BitVec.ofNat 64 (256 * blockRead.block))
      && decide ((u.regOf pa).state = .registered) && (u.regOf pa).writer == 0
      && decide (u.ageOf pa < (blockRead.word 5).setWidth 32)
  | _ => false

theorem going_of {c : Cmd} (e : (c.started && !c.stopped && c.paused.isNone) = true) : Going c := by
  simp only [Bool.and_eq_true, Bool.not_eq_true', Option.isNone_iff_eq_none] at e
  exact ⟨e.1.1, e.1.2, e.2⟩

/-- A command that starts, with what its names lead to. -/
def starts (c : Cmd) (p : Found → Found → Bool) : Bool :=
  let v := (engine c).bump.findAux 0 c
  let w := v.1.findObj 0 c
  decide (cmdAt (engine c) 0 0 = some c) && !c.started
    && ((engine c).core 0).queue.findIdx (fun c => !c.started) == 0
    && v.2 != .moving && w.2 != .moving && decide (cmdAt w.1 0 0 = some c) && p v.2 w.2

theorem witness_UnitEvents_tiles :
    (let s := withUnits lab [(4, .owned, .f32x4, false)]
     let t := s.modCore 0 fun k => { k with
       units := vset k.units 4 { vget k.units .reset 4 with pend := [3] }, mmas := [4] }
     (t.core 0).mmas = [4] ∧ (vget (t.core 0).units .reset 4).pend = [3]) := by decide +kernel
theorem witness_UnitEvents_starts : starts fresh (fun a b => a.bits == 0 && b.bits == 0) = true ∧
    starts { fresh with aux := some 1 } (fun a _ => a == .stop 2) = true ∧
    starts nowhereTo (fun a b => a.bits == 0 && b.bits == 0) = true ∧ nowhereTo.nowhere = true := by
  decide +kernel
theorem witness_UnitEvents_pages : (cmdAt (engine paused) 0 0 = some paused ∧ paused.paused = some 0x20000 ∧
      ¬ (paused.over = true ∧ paused.moved = true ∧ paused.join = .va 0x20000)) ∧
    (cmdAt (engine pausedAtCell) 0 0 = some pausedAtCell ∧ pausedAtCell.over = true ∧
      pausedAtCell.moved = true ∧ pausedAtCell.join = .va 0x20000) := by decide +kernel
theorem witness_UnitEvents_signals : Going multicast ∧ Going signalling ∧
    (cmdAt (engine multicast) 0 0 = some multicast ∧ multicast.isRel = false ∧ multicast.rel = 0 ∧
      multicast.wrote = [] ∧ multicast.code = 1 ∧ multicast.receivers.getLsbD 1 = true ∧
      multicast.total ≤ multicast.piece ∧ (multicast.word 3).toNat + 64 ≤ 0x8000 ∧
      (engine multicast).coreClosed 1 = false) ∧
    (cmdAt (engine signalling) 0 0 = some signalling ∧ signalling.isRel = false ∧ signalling.code = 3 ∧
      signalling.signalled = false ∧ signalling.errs = 0 ∧ signalling.rel = 0 ∧ signalling.wrote = [] ∧
      signalling.total ≤ signalling.piece) := by
  refine ⟨going_of (by decide), going_of (by decide), ?_, ?_⟩ <;> decide +kernel
theorem witness_UnitEvents_blocks : Going aging ∧ Going blockRead ∧ Going collCmd ∧
    (cmdAt (agingAt aging) 0 0 = some aging ∧ aging.code = 8 ∧ aging.piece < aging.total ∧ aging.left ≠ [] ∧
      aging.got.length < 16) ∧
    (cmdAt (agingAt blockRead) 0 0 = some blockRead ∧ blockRead.got.length = 16 ∧ blockRead.isRel = false ∧
      blockRead.rel = 0 ∧ blockLands = true) ∧
    (cmdAt collective 0 0 = some collCmd ∧ collCmd.code = 10 ∧ collCmd.signalled = false ∧
      collCmd.obj = some 0x2030040 ∧ collCmd.total ≤ collCmd.piece ∧ collReady = true) := by
  refine ⟨going_of (by decide), going_of (by decide), going_of (by decide), ?_, ?_, ?_⟩ <;> decide +kernel

/-- The mailbox of core 0 holds a record of space 0, whose entry the lab's memory has; two pushes of
a barrier wait. -/
def posted : State :=
  let r : QRec := ⟨0x12344, .zero, 0, 0, [], none⟩
  (sender.modCluster 0 fun k => { k.setQueue 4 { k.queue 4 with pool := [r] } with
    pushes := [⟨0, 0, 0x12344, .zero⟩] })
/-- A name for a place in memory, in state `st`, with sector `q` still to answer where there is one. -/
def leaving (st : NameState) (q : List Nat) : State :=
  { holder with almanac := holder.almanac.map fun e =>
      (e.1, { e.2 with state := st, awaiting := q, newLoc := 0x2030080 }) }
def leaves (st : NameState) (q : List Nat) : Bool :=
  let s := leaving st q
  let n := (s.me.read 9).val
  match s.entryAt n with
  | some (p, e) => decide (e.state = st) && e.awaiting == q && !s.inFlight n none && decide (p < 2 ^ 40)
      && (q.all fun j => !s.inFlight n (some j)) && (locCore e.newLoc).isNone
      && decide (localOf e.newLoc.toNat < 2 ^ 40)
  | none => false
def otherCoord : Sender := { pkg := 1, coord := 0, asid := 0, launch := 0, otherPod := false }
/-- Space 0 has its entry in the table of spaces. -/
def spaced : State :=
  let m := lab.mem.writeLE (lab.physOf lab.image.asidTab.toNat) 16 (2 ^ 64 + lab.me.root.toNat * 2 ^ 16 + 1)
  { lab with mem := m }
def attached20 : State := lab.modCluster 0 fun k =>
  k.setQueue 20 { k.queue 20 with attached := true, desc := 0x2030040 }
/-- Another package has asked for a place through the name in m9. -/
def asked (op : InOp) : State :=
  { holder with incoming := [⟨otherCoord, some ((holder.me.read 9).val, clsQueue), none, 0, op⟩] }

theorem witness_RecordEvents_dispatch : (posted.bump.grants (posted.order 0)
      (4 - (posted.cluster 0).granted (posted.die 0).dcyc)).2.1 ≠ 0 ∧
    posted.governed 0 = true ∧ (spaced.asidEntry 0).isSome = true ∧ lab.asidEntry 9 = none := by decide +kernel
theorem witness_RecordEvents_messages : otherCoord.pkg ≠ lab.image.pkg ∧
    took ((sender.bump.landWrites otherCoord).push 0 4 (recWithStatus 0x12344 0) (envOf otherCoord 1 5))
      = true ∧
    ((cell.core 0).fenced = false ∧ (cell.core 0).contained = false ∧ 0x40 % 64 = 0 ∧
      (let v := cell.bump.landWrites otherCoord
       (cellStatus v 0 0x40).getLsbD 15 = false ∧ 0 < (cellCount v 0 0x40 - 1).toInt)) ∧
    (locCore (mkCoreAddr 0 0 0x40) = some ⟨0, 0, 0x40⟩ ∧
      (barrier 0xA5).closed (mkCoreAddr 0 0 0x40) = false) ∧
    ((posted.cluster 0).pushes[0]? = some ⟨0, 0, 0x12344, .zero⟩ ∧ 0 ≤ (posted.die 0).dcyc.toNat ∧
      took ((posted.bump.modCluster 0 fun c => { c with pushes := c.pushes.eraseIdx 0 }).push
        (mailboxOf 0).1 (mailboxOf 0).2 0x12344 .zero) = true) := by
  refine ⟨?_, ?_, ?_, ?_, ?_⟩ <;> decide +kernel
theorem witness_RecordEvents_queues : ((lab.cluster 0).queue 20).attached = false ∧
    settingsFit collQ 448 = true ∧ ((lab.cluster 448).queue 20).attached = false ∧
    ((attached20.cluster 0).queue 20).attached = true ∧
    attached20.descOf 0 20 ((attached20.cluster 0).queue 20) = 0x2030040 ∧
    locCore 0x2030040 = none ∧ localOf 0x2030040 < 2 ^ 40 := by
  refine ⟨?_, ?_, ?_, ?_, ?_, ?_, ?_⟩ <;> decide +kernel
theorem witness_RecordEvents_names : nameOrigin (holder.me.read 9).val = holder.origin ∧
    (∀ op ∈ [InOp.dec 1 0, .retire], (asked op).unresolved (holder.me.read 9).val clsQueue = some 0 ∧
      (match (asked op).entryAt (holder.me.read 9).val with
        | some (_, e) => decide (e.state = .live)
        | none => false) = true ∧ (asked op).forgedName (holder.me.read 9).val = false) ∧
    nameClass (holder.me.read 9).val = clsQueue ∧
    (leaves .retiring [5] = true ∧ leaves .retiring [] = true ∧ leaves .moving [] = true) ∧
    holder.forgedName 5 = true := by
  refine ⟨?_, ?_, ?_, ?_, ?_⟩ <;> decide +kernel

/-- Two packets on their way to one line of package 1, and one to memory of its own; slot 0 holds one more
store; a write of another package is to land. -/
def flying : State :=
  { lab.modMe (fun x => { x with stores := [packet 0x2030040 .entered] }) with
    fabric := [packet (2 ^ 52 + 0x40) .entered, packet 0x2030000 .entered, packet (2 ^ 52 + 0x80) .applied]
    incoming := [⟨otherCoord, none, none, 0x2030100, .write [7, 8]⟩]
    sidereal := 0x100000000 }
/-- Link 3 keeps a packet, which has failed `n` times. -/
def failing (n : Nat) : State := flying.setLink 3 { flying.link 3 with replay := [⟨5, false, [], 0, n⟩] }

theorem witness_LinkEvents_stores :
    (flying.fabric[0]? = some (packet (2 ^ 52 + 0x40) .entered) ∧ flying.remote (2 ^ 52 + 0x40) = true ∧
      flying.maySend 0 (packet (2 ^ 52 + 0x40) .entered) = true ∧ flying.reachAlias (2 ^ 52 + 0x40) = false ∧
      dieOf 0 < 8) ∧
    ((lab.link 0).up = true ∧ (lab.link 0).portUp = true ∧ (lab.link 0).underKey ≤ 2 ^ 32) ∧
    (flying.fabric[1]? = some (packet 0x2030000 .entered) ∧ flying.remote 0x2030000 = false ∧
      flying.mayApply 1 (packet 0x2030000 .entered) = true ∧ localOf 0x2030000 < 2 ^ 40 ∧
      flying.bump.writeFault 0x2030000 2 = none) ∧
    (rotten flying).bump.writeFault 0x2030000 2 = some .memErr ∧
    (flying.issued[0]? = some (0, 0) ∧ (flying.slot 0).stores[0]? = some (packet 0x2030040 .entered)) ∧
    flying.incoming[0]? = some ⟨otherCoord, none, none, 0x2030100, .write [7, 8]⟩ ∧
    (locCore 0x2030100 = none ∧ flying.homeStands 0x2030100 = false) ∧ (lab.link 0).underKey = 0 ∧
    (flying.fabric[2]? = some (packet (2 ^ 52 + 0x80) .applied) ∧
      flying.fabLimit (2 ^ 52 + 0x80) ≤ (flying.sidereal - 0).toNat ∧
      (({ flying with sidereal := 0 } : State).sidereal - 0).toNat < flying.fabLimit (2 ^ 52 + 0x80)) := by
  refine ⟨?_, ?_, ?_, ?_, ?_, ?_, ?_, ?_, ?_⟩ <;> decide +kernel
theorem witness_LinkEvents_links : ((failing 0).link 3).up = true ∧
    (((failing 0).link 3).replay.all fun e => decide (e.fails < 3)) = true ∧
    ((((failing 3).link 3).replay.all fun e => decide (3 ≤ e.fails)) = true ∧ ((failing 3).link 3).replay ≠ []) ∧
    ((lab.link 3).up = true ∧ (lab.link 3).portUp = true ∧ (lab.link 3).rotation = .none) ∧
    (let s := lab.setLink 3 { lab.link 3 with rotation := .loaded }
     (s.link 3).rotation = .loaded) ∧
    (let s := lab.setLink 3 { lab.link 3 with rotation := .flipped, ki := true, replay := [⟨0, true, [], 0, 0⟩] }
     (s.link 3).rotation = .flipped ∧ ((s.link 3).replay.all fun e => e.ki == (s.link 3).ki) = true) ∧
    (let s := lab.setLink 3 { lab.link 3 with up := false }
     (s.link 3).up = false ∧ s.repairLog.length < 1024) := by decide +kernel

/-- A package that is not the time master, late in its clocks: the relock of die 0 is over, and a step of die 1
is due. -/
def late' : State :=
  let s := lab.modDie 0 fun d => { d with relock := some ⟨1000, 1200, 0, 0, 1500, 0, 0, none⟩ }
  { s with image := { s.image with master := false }, sidereal := 0x100000000
           schedule := [(1, 0, 1100)] }
/-- Die 1 is in a relock when its step comes due; a step of it waits. -/
def stepWaiting : State := late'.modDie 1 fun d => { d with relock := some ⟨1000, 1200, 0, 0, 1500, 9, 0, none⟩ }
def stepNext : State := { late' with schedule := [] }.modDie 1 fun d => { d with waitingSteps := [⟨none, 1100, 5⟩] }

theorem witness_ModuleAndTimeEvents_time : late'.image.master = false ∧ late'.timeLost = false ∧
    100000000 ≤ (late'.sidereal - late'.lastTiming).toNat ∧
    (∃ r, (late'.die 0).relock = some r ∧ r.left = 0 ∧ r.past = 0) ∧
    (earliest 1 late'.schedule = some (1, 0, 1100) ∧ (late'.die 1).stepWaits = false ∧
      (late'.die 1).mhz ≠ 1100 ∧ (late'.die 1).frac = 0) ∧
    (earliest 1 stepWaiting.schedule = some (1, 0, 1100) ∧ (stepWaiting.die 1).stepWaits = true) ∧
    (earliest 1 stepNext.schedule = none ∧ (stepNext.die 1).waitingSteps = [⟨none, 1100, 5⟩] ∧
      (stepNext.die 1).relock = none ∧ (stepNext.die 1).justUp = false ∧
      stepNext.wants ⟨none, 1100, 5⟩ = true ∧ (stepNext.die 1).mhz ≠ 1100) :=
  ⟨by decide +kernel, by decide +kernel, by decide +kernel, ⟨_, rfl, by decide +kernel⟩, by decide +kernel,
    by decide +kernel, by decide +kernel⟩

/-- In STANDBY, with RST_REQ low or high; with copies of the image that fail; with an epoch record. -/
def standing (high : Bool) : State := { lab with power := .standby, rstReq := high }
def failed (a b : Bool) : State :=
  { standing true with copyA := { lab.copyA with signed := !a }, copyB := { lab.copyB with signed := !b } }
def blank : State := { standing true with
  epochA := ⟨0, 0, 1⟩, epochB := ⟨0, 0, 1⟩ }
def lastEpoch : State := { standing true with epochA := ⟨7, 0xFFFFFF, epochCrc 7 0xFFFFFF⟩, epochB := ⟨0, 0, 1⟩ }

theorem witness_ModuleAndTimeEvents_power : (lab.power = .run ∧ lab.rstReq = true) ∧
    ({ lab with slots := [] } : State).slots = [] ∧
    ({ lab with power := .off } : State).power = .off ∧
    (startSteps = [(.resetRequest, false), (.i3cStart, true)] ∧ (standing false).power = .standby ∧
      (standing false).rstReq = false ∧ (standing true).rstReq = true) ∧
    (verified lab.copyA ∧ verified lab.copyB ∧ Boots lab false lab.copyA.image ∧
      Boots (failed true false) true (failed true false).copyB.image ∧
      ¬ verified (failed true true).copyA ∧ ¬ verified (failed true true).copyB) ∧
    (blank.epochA.valid = false ∧ blank.epochB.valid = false) ∧
    (Counts lastEpoch false ∧ (lastEpoch.epochSlot false).epoch = 0xFFFFFF) ∧
    (lab.trains = true ∧ ({ lab with trains := false } : State).trains = false) ∧
    ∃ b, Counts lab b ∧ (lab.epochSlot b).epoch ≠ 0xFFFFFF := by
  have va : verified lab.copyA := ⟨by decide +kernel, by decide +kernel, by decide +kernel⟩
  have vb : verified lab.copyB := ⟨by decide +kernel, by decide +kernel, by decide +kernel⟩
  have no (c : ImageCopy) (h : c.signed = false) : ¬ verified c := fun v => by rw [v.1] at h; cases h
  refine ⟨by decide +kernel, rfl, rfl, ⟨rfl, rfl, rfl, rfl⟩,
    ⟨va, vb, .inl ⟨rfl, va, rfl⟩, .inr ⟨rfl, no _ (by decide +kernel), vb, rfl⟩, no _ (by decide +kernel),
      no _ (by decide +kernel)⟩, by decide +kernel, ⟨⟨by decide +kernel, by decide +kernel⟩, by decide +kernel⟩,
    by decide +kernel, ?_⟩
  refine ⟨true, ⟨by decide +kernel, by decide +kernel⟩, by decide +kernel⟩

/-- Slot 0 runs alone. -/
theorem witness_ModuleAndTimeEvents_stops : lab.power = .run ∧ lab.stopping = false ∧ lab.slots = [(0, lab.slot 0)] ∧
    (lab.slot 0).phase = .active .running ∧ lab.image.preWin ≠ 0 := by decide +kernel

/-- Core 0 has a lasting fault; and an HBM row of die 0. -/
def worn (unit : Nat) : State := { lab with lasting := [(unit, 0)] }

theorem witness_ModuleAndTimeEvents_repairs : (∀ u ∈ [0, 1, 2, 3], (u, 0) ∈ (worn u).lasting ∧ (worn u).power = .run ∧
      (worn u).repairLog.length < 1024) ∧
    (unitCluster 0 0 < 4096 ∧ clusterNum (unitCluster 0 0) < 448 ∧ ((worn 0).freeSpare 0).isSome = true ∧
      ((worn 0).slot 0).phase = .active .running) ∧
    (∀ c, ({ worn 0 with slots := [] } : State).slot c = .reset) := by
  refine ⟨by decide +kernel, by decide +kernel, fun _ => rfl⟩

theorem witness_ModuleAndTimeEvents_images : (lab.update = .none ∧ lab.power = .run) ∧
    (let s : State := { lab with update := .written 2 }
     s.update = .written 2 ∧ verified s.copyA ∧ verified s.copyB) ∧
    (let s : State := { lab with update := .verified 2 }
     s.update = .verified 2) ∧
    (let s : State := { lab with update := .handing 2 }
     s.update = .handing 2) :=
  ⟨by decide +kernel, ⟨rfl, ⟨by decide +kernel, by decide +kernel, by decide +kernel⟩,
    ⟨by decide +kernel, by decide +kernel, by decide +kernel⟩⟩, rfl, rfl⟩

theorem witness_ModuleAndTimeEvents_module : lab.power = .run ∧ lab.eyepiece = 0 ∧ lab.repairLog.length < 1024 ∧
    1024 ≤ ({ lab with repairLog := List.replicate 1024 [] } : State).repairLog.length ∧
    ({ lab with session := true } : State).session = true ∧ isServiceCore 0 = false ∧ 0 ∈ slotsOf 0 ∧
    4 ∉ slotsOf 0 ∧ ((lab.modMe fun x => { x with haltNext := true, atBreak := true }).slot 0).haltNext = true :=
  ⟨by decide +kernel, by decide +kernel, by decide +kernel, by simp, rfl, by decide +kernel, by decide +kernel,
    by decide +kernel, by decide +kernel⟩

/-- The service knows space 7, whose root is the lab's; a launch descriptor of one record, its record
at 0x10000 and its mask at 0x10100. -/
def client : State :=
  let s := { lab with spaces := [(7, lab.me.root)], service := [] }
  { s with mem := (s.mem.writeLE 0x2030000 32 0x12344).writeLE 0x2030100 448 1 }
def desc7 (rnd : Nat) : BitVec 512 := BitVec.ofNat 512
  (7 * 2 ^ 320 + 0x10100 * 2 ^ 128 + 0x10000 * 2 ^ 64 + 9 * 2 ^ 32 + rnd * 2 ^ 29 + 1)
def theLaunch (v : Option Word) (todo : List (Nat × BitVec 256)) : Launch :=
  { id := 9, asid := 7, rnd := 1, ftz := false, clusters := [0], todo := todo, queues := [], stages := [],
    used := [0], answered := false, tag := 5, ended := v }

/-- The payload of a request: an address and a length; a launch descriptor; a LAUNCHID. -/
def lePayload (l : List Nat) : List Byte := l.flatMap fun n => (List.range 8).map fun i => BitVec.ofNat 8 (n / 256 ^ i)
def launchBytes (rnd : Nat) : List Byte := (List.range 64).map fun i => BitVec.ofNat 8 ((desc7 rnd).toNat / 256 ^ i)

theorem witness_ServiceEvents_refused : client.power = .run ∧ client.ready = true ∧
    ({ client with bootstat := 2 } : State).ready = false ∧
    ((header 9 5 7 []).extractLsb' 0 8 = 9) ∧
    ((lePayload [0x10010]).length = 8 ∧ (lePayload [0x10010, 8]).length = 16 ∧
      payload (lePayload [0x10010, 8]) 1 = 8 ∧ (launchBytes 1).length = 64 ∧
      (launchDesc (BitVec.ofNat 512 (bytesNat (launchBytes 1)))).asid = 7 ∧ ([] : List Byte).length ≠ 4) ∧
    client.spaces.find 8 = none := by decide +kernel

theorem witness_ServiceEvents_requests : client.power = .run ∧ client.ready = true ∧
    client.spaces.find 7 = some lab.me.root ∧ (lePayload [0x10010]).length < 2 ^ 64 ∧
    (∃ l, client.bump.range lab.me.root true 0x10010 8 = some l) ∧
    client.bump.range lab.me.root true 0x30000 8 = none ∧
    (∃ b, client.bump.svcRead lab.me.root 0x10010 8 = some b) ∧
    client.bump.svcRead lab.me.root 0x30000 8 = none ∧ client.launches = [] ∧
    (∃ l, [theLaunch (some 3) []].reverse.find? (fun l => l.asid == 7 && l.id == 9) = some l ∧
      l.ended = some 3) ∧
    (∃ l, [theLaunch none []].reverse.find? (fun l => l.asid == 7 && l.id == 9) = some l ∧ l.ended = none) ∧
    ({ client with launches := [theLaunch none []] } : State).launchLives (theLaunch none []) = false ∧
    took (client.bump.push 0 (recPri 0x12344) 0x12344 (client.launchEnv (theLaunch none []))) = true ∧
    (theLaunch none [(0, 0x12344)]).todo = [(0, 0x12344)] :=
  ⟨by decide +kernel, by decide +kernel, by decide +kernel, by decide +kernel,
    (some_of (fun _ => true) (by decide +kernel)).imp fun _ h => h.1, by decide +kernel,
    (some_of (fun _ => true) (by decide +kernel)).imp fun _ h => h.1, by decide +kernel, by decide +kernel,
    ⟨_, rfl, rfl⟩, ⟨_, rfl, rfl⟩, by decide +kernel, by decide +kernel, by decide⟩

/-- An object with a scratchpad image, already placed; one whose relocation lies outside its text; ones that have
still to be placed, at a page that is mapped or at one that is not. -/
def theObject (relocs : List Reloc) : Object :=
  ⟨7, 0x20000, 0x30000, List.replicate 0x40 0, [], [1, 2, 3], relocs, [], [], true⟩
def loads_ (relocs : List Reloc) : State := { client with objects := [theObject relocs] }
def unplaced (at_ : Word) : Object := { theObject [] with textAt := at_, loaded := false }
def places (o : Object) : State := { client with objects := [o], frames := [] }
/-- The page at 0x10000 is no code. -/
def noText : State :=
  let s := places (unplaced 0x10000)
  { s with mem := s.mem.writeLE (placeTable + 0x20008) 8 (placeTable + 0x30000 + 0x17) }

theorem launchAt_of {s : State} {d : LaunchDesc} {root : BitVec 40} {objs : List Object} {recs : List Nat} {mask : Nat}
    (h : s.bump.linkedObjects d.asid = some objs) (h' : d.ok = true) (k : d.argLen = 0 ∧ d.pmap = 0)
    (e : (objs.all fun o => s.bump.objectFits root o) = true)
    (g : (match s.bump.loadObjects root d.asid objs with
      | some u => decide (u.svcTable root d.recs 32 d.nrec = some recs)
        && decide (u.svcNat root d.mask 448 = some mask)
      | none => false) = true) : ∃ u, LaunchAt s u d root objs recs mask := by
  cases hu : s.bump.loadObjects root d.asid objs with
  | none => rw [hu] at g; cases g
  | some u =>
  rw [hu] at g
  have hg := Bool.and_eq_true_iff.mp g
  exact ⟨u, h, ⟨h', List.all_eq_true.mp e⟩, hu, of_decide_eq_true hg.1, of_decide_eq_true hg.2, k⟩

theorem witness_ServiceEvents_launches :
    (∃ u, LaunchAt (loads_ []) u (launchDesc (desc7 1)) lab.me.root [theObject []] [0x12344] 1) ∧
    (∃ u, LaunchAt (loads_ []) u (launchDesc (desc7 6)) lab.me.root [theObject []] [0x12344] 1) ∧
    maskClusters 1 = [0] ∧ (launchDesc (desc7 1)).rnd = 1 ∧ (launchDesc (desc7 6)).rnd = 6 ∧
    (theObject []).scratch.length ≤ 0x8000 ∧ (loads_ []).launches = [] ∧
    (loads_ []).bump.roundingWaits (launchDesc (desc7 1)) = false ∧
    (launchBytes 1).length = 64 ∧ launchDesc (BitVec.ofNat 512 (bytesNat (launchBytes 1))) = launchDesc (desc7 1) ∧
    ((loads_ []).power = .run ∧ (loads_ []).ready = true ∧ (loads_ []).spaces.find 7 = some lab.me.root) ∧
    lab.image.asidTab.toNat + 16 * 7 < 2 ^ 40 :=
  ⟨launchAt_of (by decide +kernel) (by decide +kernel) (by decide +kernel) (by decide +kernel) (by decide +kernel),
    launchAt_of (by decide +kernel) (by decide +kernel) (by decide +kernel) (by decide +kernel) (by decide +kernel),
    by decide +kernel, by decide +kernel, by decide +kernel, by decide, by decide +kernel, by decide +kernel,
    by decide +kernel, by decide +kernel, by decide +kernel, by decide +kernel⟩
theorem witness_ServiceEvents_refusals :
    (loads_ [⟨.text, 0x3FE, .abs64, .text, 0, 0⟩]).bump.linkedObjects 7 = none ∧
    (loads_ []).bump.linkedObjects 7 = some [theObject []] ∧
    (launchDesc (desc7 1 ||| 0x10000)).ok = false ∧
    (noText.bump.linkedObjects 7 = some [unplaced 0x10000] ∧
      noText.bump.objectFits lab.me.root (unplaced 0x10000) = false) ∧
    ((places (unplaced 0x20000)).bump.linkedObjects 7 = some [unplaced 0x20000] ∧
      (places (unplaced 0x20000)).bump.objectFits lab.me.root (unplaced 0x20000) = true ∧
      ((places (unplaced 0x20000)).bump.loadObjects lab.me.root 7 [unplaced 0x20000]).isNone = true) := by
  refine ⟨?_, ?_, ?_, ?_, ?_⟩ <;> decide +kernel

/-- Every kind of relocation at the start of the text. -/
theorem witness_ServiceEvents_relocations : ∀ k ∈ [RelocKind.abs64, .ent54, .imm57, .off54 8, .off50 16, .off52, .imm63,
    .pc63], ((theObject []).reloc ⟨.text, 0x10, k, .text, 0x20, 0⟩).isSome = true := by decide +kernel

/-- A call stands in the scratchpad at 0x40. -/
def calling (no : Nat) (x y : Nat) : State :=
  { padded client 0x40 [no, x, y, 0, 0, 0, 0, 0] with
    scalls := [⟨mkCoreAddr 0 0 0x40, 0, 7, lab.me.root, false, 9, 7⟩]
    launches := [theLaunch none []] }
def theCall : Scall := ⟨mkCoreAddr 0 0 0x40, 0, 7, lab.me.root, false, 9, 7⟩

theorem witness_ServiceEvents_plainCall : ∀ p ∈ [(0, 0, 0), (1, 5, 0), (2, 0x40000, 0x3F0000000000 + 65536), (3, 0x10000, 65536),
    (4, 3, 0), (5, 0x4000, 0x10010)],
    PlainCall (calling p.1 p.2.1 p.2.2) theCall 0 0x40 p.1 := by
  intro p h
  have e := each (p := fun p : Nat × Nat × Nat => let s := calling p.1 p.2.1 p.2.2
    decide (s.scalls = [theCall]) && decide (theCall.block = mkCoreAddr s.image.pkg 0 0x40)
      && decide (locCore theCall.block = some ⟨s.image.pkg, 0, 0x40⟩)
      && !(s.core 0).fenced && !(s.core 0).contained
      && (s.core 0).scratch.readLE 0x40 2 == p.1 && (s.core 0).scratch.readLE 0x42 6 == 0
      && (s.core 0).scratch.readLE 0x58 8 == 0 && (s.core 0).scratch.readLE 0x60 16 == 0)
    (by decide +kernel) p h
  simp only [Bool.and_eq_true, decide_eq_true_eq, beq_iff_eq, Bool.not_eq_true'] at e
  exact ⟨e.1.1.1.1.1.1.1.1, e.1.1.1.1.1.1.1.2, ⟨e.1.1.1.1.1.1.2, by decide⟩, ⟨e.1.1.1.1.1.2, e.1.1.1.1.2⟩,
    e.1.1.1.2, ⟨e.1.1.2, e.1.2⟩, e.2⟩

def takenOf (s : State) : State := { s.bump with scalls := [] }
/-- The same call while a slot of the space waits through its page. -/
def calling' : State :=
  { calling 3 0x10000 65536 with
    slots := [(1, { Slot.reset with asid := 7, wait := some ⟨.fe .rff false 0, 4, 0x40, 0x10000, 0, false, 0, true, false, 0, false⟩ })]
    cores := ((calling 3 0x10000 65536).modCore 0 fun k =>
      { k with dtlb := [⟨0x10000, false, 7, 0x203007F⟩] }).cores }

theorem witness_ServiceEvents_calls : callRange 0x40000 (BitVec.ofNat 64 (0x3F * 2 ^ 40 + 65536)) = some (0x40000, 1) ∧
    pteMalformed 3 (BitVec.setWidth 64 (0x3F : BitVec 12)) = false ∧
    ((takenOf (calling 2 0x40000 0)).mapPages theCall.root 0x3F 0x40000 1).isSome = true ∧
    callRange 0x10000 65536 = some (0x10000, 1) ∧
    (let s := calling 3 0x10000 65536
     let v := takenOf s
     s.waitsThrough (s.unmapStruck theCall 0x10000 1) = false ∧
     ((v.settleThrough (v.unmapStruck theCall 0x10000 1)).unmapPages theCall.root 0x10000 1).isSome = true) ∧
    calling'.waitsThrough (calling'.unmapStruck theCall 0x10000 1) = true ∧
    ((takenOf (calling 4 3 0)).launchAt theCall.of_ theCall.launch = 0 ∧
      (calling 4 3 0).launches[0]? = some (theLaunch none [])) ∧
    (coreAddr ((mkCoreAddr 0 0 4) &&& 0xFFFFFF0FFFFFFFFF) = some ⟨0, 0, 4⟩ ∧
      (takenOf (calling 5 0 0x10010)).qnameAt theCall 0x10010 = some 0x2030010 ∧
      ((takenOf (calling 5 0 0x10010)).queueName 0 4).isSome = true ∧ locCore 0x2030010 = none) := by
  refine ⟨?_, ?_, ?_, ?_, ?_, ?_, ?_, ?_⟩ <;> decide +kernel
/-- R335: port 1 of die 3 stands on plane 5, by which die 2's packets come in too. -/
theorem test_planes : planeOf 3 1 = 5 ∧ inbound 3 5 = (3, 1) ∧ inbound 2 5 = (3, 1) := by decide

/-! ### The whole machine -/

theorem witness_DecodeAndEncodeAgree : encode (.add false 4 5 6) = some 0x0220A300 ∧
    (Instr.add false 4 5 6).check = none ∧ decodeWord 0x0220A300 = .ok (.add false 4 5 6) :=
  ⟨by decide +kernel, by decide +kernel, by decide +kernel⟩

/-- A program of one word, which adds nothing to m7, about to issue in slot 0. -/
noncomputable def onTurn : State := State.reset.withFetchWord 32 0x0438FFFF

/-- What the step's premises come to for the word at slot 0's pc. -/
noncomputable def fetches (s : State) (upsets : List Bool) : Bool :=
  let x := s.slot 0
  let b := { s with focus := 0 }.finishLate 0
  match b.bump.fetchXlate 0 x.pc.toNat with
  | .ok t _ _ =>
    match t.nextLine 0 with
    | some l =>
      match l.word x.pc.toNat with
      | some w => t.focus == 0 && (t.slot 0).pc == x.pc
          && (t.readLine (coreOf 0) l).myCore.upsets == upsets
          && decide (decodeWord w = .ok (.addi false 7 7 0x1FFF)) && !x.halts
          && (match exec (.addi false 7 7 0x1FFF) (t.readLine (coreOf 0) l) with
            | .next v => v.focus == 0 && (t.readLine (coreOf 0) l).me.pos != v.me.pos
                && !(t.readLine (coreOf 0) l).me.isHint w
            | _ => false)
      | none => false
    | none => false
  | _ => false

/-- The first result of the core is found wrong, and its second execution right or wrong; slot 0's pc stands on a
page without leaf; a debug stop has come to slot 0. -/
noncomputable def upset (again : Bool) : State := onTurn.modCore 0 fun k => { k with upsets := [true, again] }
noncomputable def pageless : State := onTurn.modSlot 0 fun x => { x with pc := 0x400000 }
noncomputable def halting : State := onTurn.modSlot 0 fun x => { x with haltNext := true }

theorem witness_StepRunsDecoded : onTurn.turn = .slot 0 ∧ noCode (onTurn.slot 0).pc = false ∧
    fetches onTurn [] = true ∧ (upset false).turn = .slot 0 ∧ fetches (upset false) [true, false] = true ∧
    (upset true).turn = .slot 0 ∧ fetches (upset true) [true, true] = true ∧
    halting.turn = .slot 0 ∧ (halting.slot 0).halts = true := by
  refine ⟨?_, ?_, ?_, ?_, ?_, ?_, ?_, ?_, ?_⟩ <;> decide +kernel
theorem witness_StepRunsDecoded_faults :
    (noCode (onTurn.modSlot 0 fun x => { x with pc := 0x100 }).me.pc = true ∧
      (onTurn.modSlot 0 fun x => { x with pc := 0x100 }).turn = .slot 0) ∧
    (pageless.turn = .slot 0 ∧ (match fetchWord ({ pageless with focus := 0 }.finishLate 0) with
      | .ok _ => false
      | .error _ => true) = true) ∧
    (State.reset.withFetchWord 32 0xFFFFFFFF).turn = .slot 0 ∧
    (match decodeWord 0x00000000 with | .ok _ => false | .error _ => true) = true := by
  refine ⟨?_, ?_, ?_, ?_⟩ <;> decide +kernel

/-- A step from reset answers, and reset is canonical. -/
theorem witness_MemoryStaysCanonical : State.reset.canonical ∧ ∃ t, step State.reset = .next t := by
  refine ⟨reset_canonical, ?_⟩
  have h : (match step State.reset with | .next _ => true | _ => false) = true := by decide +kernel
  revert h
  cases step State.reset with
  | next t => intro _; exact ⟨t, rfl⟩
  | _ => intro h; cases h

/-- A user word and ERET both answer. -/
def answers (i : Instr) (s : State) : Bool :=
  match exec i s with
  | .next _ => true
  | _ => false
theorem witness_OnlyEretChangesMode : (encode (.addi false 7 7 0x1FFF)).isSome = true ∧
    answers (.addi false 7 7 0x1FFF) boss = true ∧ answers (.addi false 7 7 0x1FFF) lab = true ∧
    boss.me.super = true ∧ answers (.eret false) handling = true :=
  ⟨by decide +kernel, by decide +kernel, by decide +kernel, by decide +kernel, by decide +kernel⟩

/-! ## Single steps, with the values of the spec's worked examples -/

/-- The instruction answers, and what it leaves, its results written, satisfies `p`. -/
def leads (i : Instr) (s : State) (p : State → Bool) : Bool :=
  match exec i s with
  | .next t => p (t.drain t.focus)
  | _ => false

/-- Four FP32 lanes, lane 0 first. -/
def f32s (a b c d : Nat) : RV := ⟨BitVec.ofNat 128 (a + 2 ^ 32 * b + 2 ^ 64 * c + 2 ^ 96 * d), .f32x4⟩
/-- Register `r` reads as `v`, and the flags are `f`. -/
def reads (r : Reg) (v : RV) (f : BitVec 5) (t : State) : Bool :=
  decide (t.me.read r = v) && decide (t.me.fpflags = f)
/-- The lab with the registers of `l`. -/
def having (l : List (Nat × RV)) : State := lab.modMe (regs l)

/-- R126's example: bits 19:8 of 0xABCD00, sign-extended. -/
theorem test_extrs : leads (.extrs false 5 6 8 11) (having [(6, num 0xABCD00)])
    (reads 5 (num 0xFFFFFFFFFFFFFBCD) 0) = true := by decide +kernel
/-- R172, R179: x² of x = 1 + 2^-12 rounds to 1 + 2^-11 with NX; fused with -(1 + 2^-11) it is 2^-24,
exactly. -/
theorem test_vmul_tie : leads (.vmul false 5 6 6) (having [(6, f32s 0x3F800800 0 0 0)])
    (reads 5 (f32s 0x3F801000 0 0 0) 1) = true := by decide +kernel
theorem test_vfma_exact : leads (.vfma false 5 6 6) (having [(6, f32s 0x3F800800 0 0 0), (5, f32s 0xBF801000 0 0 0)])
    (reads 5 (f32s 0x33800000 0 0 0) 0) = true := by decide +kernel
/-- VNEG flips the sign of a signalling NaN and sets no flag. -/
theorem test_vneg_nan : leads (.vneg false 5 6) (having [(6, f32s 0x7F800001 0 0 0)])
    (reads 5 (f32s 0xFF800001 0x80000000 0x80000000 0x80000000) 0) = true := by decide +kernel
/-- The row of the MXFP8 example: 300.0, 1.5, -0.05 and a NaN narrow to E4M3, then widen to BF16,
then to F32 scaled by 2. -/
theorem test_vcvt_narrow : leads (.vcvt false 4 5 0 0x0A 0)
    (having [(4, .zero), (5, f32s 0x43960000 0x3FC00000 0xBD4CCCCD 0x7FC00000)])
    (reads 4 ⟨0x7F953C79, .e4m3x16⟩ 1) = true := by decide +kernel
theorem test_vcvt_widen : leads (.vcvt false 6 4 0 0x09 0) (having [(4, ⟨0x7F953C79, .e4m3x16⟩)])
    (reads 6 ⟨0x7FC0BD503FC04390, .bf16x8⟩ 0) = true := by decide +kernel
theorem test_vcvt_scaled : leads (.vcvt false 7 6 8 0x07 0)
    (having [(6, ⟨0x7FC0BD503FC04390, .bf16x8⟩), (8, ⟨0x80, .e8m0x16⟩)])
    (reads 7 (f32s 0x44100000 0x40400000 0xBDD00000 0x7FC00000) 0) = true := by decide +kernel
/-- R159's example: the tree over 2^24, 1, 1, -2^24 gives 1.0 with NX. -/
theorem test_vrsum_tree : leads (.vrsum false 5 6)
    (having [(6, f32s 0x4B800000 0x3F800000 0x3F800000 0xCB800000)])
    (fun t => decide ((t.me.read 5).val.extractLsb' 0 32 = 0x3F800000#32) && t.me.fpflags == 1) = true := by
  decide +kernel
/-- R189's example: sixteen lanes of -128. -/
theorem test_vrsumw_bytes : leads (.vrsumw false 5 6)
    (having [(6, ⟨0x80808080808080808080808080808080, .i8x16⟩)])
    (reads 5 (num (2 ^ 64 - 2048)) 0) = true := by decide +kernel
/-- The accumulator example: 3.0, 2^-149, -1.0 and +0 added to a cleared accumulator at 0x200. What the
word writes, all of it. -/
theorem test_laadd : ((f32s 0x40400000 1 0xBF800000 0).values.foldl (fun a x => LongAcc.add a false x) LongAcc.zero).toNat
    = 0x800 + 2 ^ 128 * 0x200000000 + 2 ^ 384 * 4 := by decide +kernel
theorem test_larnd : leads (.larnd false 6 4)
    (begun ((padded lab 0x200 [0x800, 0, 0x200000000, 0, 0, 0, 4, 0]).modMe (regs [(4, num 0x200)])))
    (reads 6 (f32s 0x40000000 0 0 0) 1) = true := by decide +kernel
/-- The Survey example: best values 0, 0, 2, 0.5 at 0x400 and four candidates at 0x500. -/
def survey4 : State :=
  (padded (padded lab 0x400 [4 + 0x10 * 2 ^ 32, 0, 0, 0, 0, 0x3F00000040000000]) 0x500
    [0x40400000, 0x3F0000003F800000, 0x400000003F800000, 0x3F80000040200000, 0x3F8000004B800000,
      0x3F00000040400000, 0x400000007FC00000, 0x3F00000040000000]).modMe
    (regs [(4, num 0x400), (5, num 0x500), (9, num 0x520),
      (6, f32s 0x40400000 0x40800000 0x4B800001 0x40000000), (8, ⟨3 * 2 ^ 96 + 2 * 2 ^ 64 + 2 ^ 32, .i32x4⟩)])
theorem test_svprb4 : leads (.svprb4 false 7 4 5) (begun survey4)
    (reads 7 (f32s 0x40400000 0x40800000 0x4B800001 0x40000000) 16) = true := by decide +kernel
theorem test_svpick : leads (.svpick false 3 6 8) survey4 (fun t => (t.me.read 3).val == 2) = true := by
  decide +kernel
/-- What SVCMT writes, all of it. -/
theorem test_svcmt : (match surveyAt survey4.myCore.scratch 0x400 with
    | .ok v =>
      let sp := survey4.myCore.scratch
      let l := ((v.best sp).zip (v.elements sp 0x520)).map fun p => v.commit1 p.1 p.2
      let t := sp.writePieces (v.pieces l (v.commits + 1))
      t.readLE 0x420 16 == 0x3F000000404000003F8000004B800000 && t.readLE 0x408 8 == 1
    | .error _ => false) = true := by decide +kernel
/-- R129, R130: a branch back by 3 words from 0x10000, and a call. -/
theorem test_bnez : leads (.bnez false 4 0xFFFD) lab (fun t => t.me.pc == 0xFFF4) = true := by decide +kernel
end Sys2Proof.Tests
end

section
/-! SUPPORT. The results of the integer words as the statements write them: what each operation of the model
computes, in terms of the signed or unsigned values of its operands. -/

namespace Sys2Proof.Machine

/-! ## Operations of R120 on integers -/

theorem add_eq_ofInt (a b : Word) : a + b = BitVec.ofInt 64 (a.toInt + b.toInt) := by
  rw [BitVec.ofInt_add, BitVec.ofInt_toInt, BitVec.ofInt_toInt]

theorem ofInt_sub_eq (x y : Int) : BitVec.ofInt 64 (x - y) = BitVec.ofInt 64 x - BitVec.ofInt 64 y := by
  rw [Int.sub_eq_add_neg, BitVec.ofInt_add, BitVec.ofInt_neg, BitVec.sub_eq_add_neg]

theorem sub_eq_ofInt (a b : Word) : a - b = BitVec.ofInt 64 (a.toInt - b.toInt) := by
  rw [ofInt_sub_eq, BitVec.ofInt_toInt, BitVec.ofInt_toInt]

theorem mul_eq_ofInt (a b : Word) : a * b = BitVec.ofInt 64 (a.toInt * b.toInt) := by
  rw [BitVec.ofInt_mul, BitVec.ofInt_toInt, BitVec.ofInt_toInt]

/-- The upper half of the signed product is the floor of its quotient by 2^64 (R120). -/
theorem mulh_eq (a b : Word) : mulh a b = BitVec.ofInt 64 (a.toInt * b.toInt / 2 ^ 64) := by
  have h : a.signExtend 128 * b.signExtend 128 = BitVec.ofInt 128 (a.toInt * b.toInt) := by
    rw [BitVec.signExtend, BitVec.signExtend, BitVec.ofInt_mul]
  unfold mulh
  rw [h]
  generalize a.toInt * b.toInt = z
  apply BitVec.eq_of_toNat_eq
  simp only [BitVec.extractLsb'_toNat, BitVec.toNat_ofInt, Nat.shiftRight_eq_div_pow]
  omega

theorem mulhu_eq (a b : Word) : mulhu a b = BitVec.ofNat 64 (a.toNat * b.toNat / 2 ^ 64) := by
  have h : a.toNat * b.toNat < 2 ^ 128 := by
    have := Nat.mul_lt_mul'' a.isLt b.isLt
    simpa using this
  apply BitVec.eq_of_toNat_eq
  unfold mulhu
  rw [BitVec.extractLsb'_toNat, BitVec.toNat_mul, BitVec.toNat_setWidth_of_le (by omega),
    BitVec.toNat_setWidth_of_le (by omega), Nat.mod_eq_of_lt h, Nat.shiftRight_eq_div_pow,
    BitVec.toNat_ofNat]

theorem sshiftRight_eq (a : Word) (n : Nat) :
    a.sshiftRight n = BitVec.ofInt 64 (a.toInt / 2 ^ n) := by
  rw [BitVec.sshiftRight, Int.shiftRight_eq_div_pow, Nat.cast_pow, Nat.cast_ofNat]

theorem rotateLeft_eq (a : Word) {n : Nat} (h : n < 64) :
    a.rotateLeft n = a <<< n ||| a >>> (64 - n) := by
  rw [BitVec.rotateLeft, Nat.mod_eq_of_lt h, BitVec.rotateLeftAux]

theorem rotateRight_eq (a : Word) {n : Nat} (h : n < 64) :
    a.rotateRight n = a >>> n ||| a <<< (64 - n) := by
  rw [BitVec.rotateRight, Nat.mod_eq_of_lt h, BitVec.rotateRightAux]

theorem cnt_lt (b : Word) : cnt b < 64 := Nat.mod_lt _ (by decide)

theorem shiftLeft_eq_mul (a : Word) (n : Nat) : a <<< n = a * BitVec.ofNat 64 (2 ^ n) := by
  apply BitVec.eq_of_toNat_eq
  simp [BitVec.toNat_shiftLeft, Nat.shiftLeft_eq]

theorem minS_eq (a b : Word) : minS a b = if a.toInt ≤ b.toInt then a else b := by
  by_cases h : a.toInt ≤ b.toInt
  · simp [minS, BitVec.slt, h, h.not_gt]
  · simp [minS, BitVec.slt, h, not_le.mp h]

theorem maxS_eq (a b : Word) : maxS a b = if a.toInt ≤ b.toInt then b else a := by
  rcases lt_trichotomy a.toInt b.toInt with h | h | h
  · simp [maxS, BitVec.slt, h, h.le]
  · simp [maxS, BitVec.slt, BitVec.eq_of_toInt_eq h]
  · simp [maxS, BitVec.slt, h.not_gt, h.not_ge]

theorem minU_eq (a b : Word) : minU a b = if a.toNat ≤ b.toNat then a else b := by
  by_cases h : a.toNat ≤ b.toNat
  · simp [minU, BitVec.ult, h, h.not_gt]
  · simp [minU, BitVec.ult, h, not_le.mp h]

theorem maxU_eq (a b : Word) : maxU a b = if a.toNat ≤ b.toNat then b else a := by
  rcases lt_trichotomy a.toNat b.toNat with h | h | h
  · simp [maxU, BitVec.ult, h, h.le]
  · simp [maxU, BitVec.ult, BitVec.eq_of_toNat_eq h]
  · simp [maxU, BitVec.ult, h.not_gt, h.not_ge]

theorem bit_slt (a b : Word) : bit (a.slt b) = if a.toInt < b.toInt then 1 else 0 := by
  simp [bit, BitVec.slt]

theorem bit_ult (a b : Word) : bit (a.ult b) = if a.toNat < b.toNat then 1 else 0 := by
  simp [bit, BitVec.ult]

theorem bit_beq (a b : Word) : bit (a == b) = if a = b then 1 else 0 := by
  simp [bit]

theorem bit_bne (a b : Word) : bit (a != b) = if a = b then 0 else 1 := by
  by_cases h : a = b <;> simp [bit, h]

/-- The low `n` bits as a signed number (R120). -/
theorem sextLow_eq {n : Nat} (h : n ≤ 64) (a : Word) :
    sextLow n a = BitVec.ofInt 64 (a.toInt.bmod (2 ^ n)) := by
  unfold sextLow
  rw [BitVec.signExtend, BitVec.toInt_setWidth, BitVec.toInt_eq_toNat_bmod a,
    Int.bmod_bmod_of_dvd (by exact_mod_cast Nat.pow_dvd_pow 2 h)]

theorem sextLow_ofInt {n : Nat} (h : n ≤ 64) (z : Int) :
    sextLow n (BitVec.ofInt 64 z) = BitVec.ofInt 64 (z.bmod (2 ^ n)) := by
  rw [sextLow_eq h, BitVec.toInt_ofInt,
    Int.bmod_bmod_of_dvd (by exact_mod_cast Nat.pow_dvd_pow 2 h)]

theorem absd_eq (a b : Word) : absd a b = BitVec.ofInt 64 |a.toInt - b.toInt| := by
  rw [absd, Int.abs_eq_natAbs, BitVec.ofInt_natCast]

/-! ## Division (R121) -/

theorem remS_eq (a b : Word) : remS a b = a - divS a b * b := by
  unfold remS divS
  split_ifs with h
  · simp [h]
  · rw [Int.tmod_def, ofInt_sub_eq, BitVec.ofInt_mul, BitVec.ofInt_toInt, BitVec.ofInt_toInt,
      BitVec.mul_comm]

theorem remU_eq (a b : Word) : remU a b = a - divU a b * b := by
  unfold remU divU
  split_ifs with h
  · simp [h]
  · refine eq_sub_of_add_eq ?_
    calc BitVec.ofNat 64 (a.toNat % b.toNat) + BitVec.ofNat 64 (a.toNat / b.toNat) * b
        = BitVec.ofNat 64 (a.toNat % b.toNat + a.toNat / b.toNat * b.toNat) := by
          rw [BitVec.ofNat_add, BitVec.ofNat_mul, BitVec.ofNat_toNat, BitVec.setWidth_eq]
      _ = a := by rw [Nat.mod_add_div', BitVec.ofNat_toNat, BitVec.setWidth_eq]

end Sys2Proof.Machine
end

section
/-! SUPPORT. The integer words: which shared word each is, what a word that writes one register answers, and the
trap a word takes at issue. -/

namespace Sys2Proof.Machine

/-! ## What a word answers -/

/-- A word that answers with one register result: what the result leaves. -/
theorem exists_result {o : Host.Outcome State Fault Refusal} {h : Takes} {s : State} {m : Bool} {d : Reg}
    {v : RV} {p : Pipe} {lat : Lat} {target : Word}
    (ho : o = .next ((s.result h d v p lat target).settle s.focus m)) :
    ∃ t, o = .next (t.settle s.focus m) ∧ Holds s t d v ∧ Retired s t target ∧ SlotFrame s t ∧
      ∀ n, p = .l0 → lat = .fixed n → EntersL0 s t d v n := by
  obtain ⟨hf, hr, hh⟩ := result_holds h s d v p lat target
  exact ⟨_, ho, hh, hr, hf, fun n hp hl => by subst hp hl; exact result_l0 h s d v n target⟩

/-- A result of latency 1 for l0, which is what most words of the integer pipe bring (R119). -/
theorem exists_result_one {o : Host.Outcome State Fault Refusal} {h : Takes} {s : State} {m : Bool} {d : Reg}
    {v : RV} {target : Word}
    (ho : o = .next ((s.result h d v .l0 (.fixed 1) target).settle s.focus m)) :
    ∃ t, o = .next (t.settle s.focus m) ∧ Holds s t d v ∧ Retired s t target ∧ SlotFrame s t ∧
      EntersL0 s t d v 1 := by
  obtain ⟨t, ht, hh, hr, hf, hl⟩ := exists_result ho
  exact ⟨t, ht, hh, hr, hf, hl 1 rfl rfl⟩

/-- A word whose body stops with a trap takes it, with the group's first word as the place (R43, R367). -/
theorem issue_trapped {h : Takes} {s : State} {body : State → Except Stop State} {c : Cause} {addr info : Word}
    {pend : Bool} (ht : s.canTrap) (hg : h.group s.me.hints = true) (hs : h.super = true → s.me.super = true)
    (hb : body (s.atIssue h) = .error (.trap c addr info pend)) :
    ∃ t, issue h s body = .next t ∧ Trapped s.bump t c s.me.groupStart addr info pend := by
  have hr : Ready h s [] := ⟨hg, hs, by simp⟩
  exact ⟨_, by rw [issue_ready hr, hb], stop_trapped ht c addr info pend⟩

/-- A word that names a pending register traps HAZARD before anything else (R25). -/
theorem issue_hazard {h : Takes} {s : State} {rs : List Reg} {r : Reg} {g : State → Except Stop State}
    (ht : s.canTrap) (hg : h.group s.me.hints = true) (hs : h.super = true → s.me.super = true) (hr : r ∈ rs)
    (hp : s.me.pending r = true) :
    ∃ t, issue h s (fun s => do touch s rs; g s) = .next t ∧
      Trapped s.bump t .hazard s.me.groupStart 0 0 false := by
  refine issue_trapped ht hg hs ?_
  rw [touch_hazard hr (by rw [atIssue_pending]; exact hp)]
  rfl

/-! ## IOP -/

theorem intOp2_congr {m : Bool} {d a b : Reg} {lat : Lat} {f g : Word → Word → Word} {s : State}
    (h : ∀ x y, f x y = g x y) : intOp2 m d a b lat f s = intOp2 m d a b lat g s := by
  rw [funext₂ h]

theorem twoSourceA_exec : ∀ e ∈ twoSourceA, ∀ (m : Bool) (d a b : Reg) (s : State),
    exec (e.1 m d a b) s = intOp2 m d a b e.2.1 e.2.2 s := by
  intro e he m d a b s
  unfold twoSourceA at he
  simp only [List.mem_cons, List.not_mem_nil, or_false] at he
  rcases he with rfl | rfl | rfl | rfl | rfl | rfl | rfl | rfl | rfl | rfl | rfl | rfl | rfl | rfl | rfl
  · rfl
  · rfl
  · rfl
  · exact intOp2_congr mulh_eq
  · exact intOp2_congr mulhu_eq
  · rfl
  · rfl
  · rfl
  · rfl
  · rfl
  · rfl
  · rfl
  · exact intOp2_congr fun x y => sshiftRight_eq x (cnt y)
  · exact intOp2_congr fun x y => rotateLeft_eq x (cnt_lt y)
  · exact intOp2_congr fun x y => rotateRight_eq x (cnt_lt y)

theorem twoSourceB_exec : ∀ e ∈ twoSourceB, ∀ (m : Bool) (d a b : Reg) (s : State),
    exec (e.1 m d a b) s = intOp2 m d a b e.2.1 e.2.2 s := by
  intro e he m d a b s
  unfold twoSourceB at he
  simp only [List.mem_cons, List.not_mem_nil, or_false] at he
  rcases he with rfl | rfl | rfl | rfl | rfl | rfl | rfl | rfl | rfl | rfl | rfl | rfl | rfl | rfl | rfl
  · exact intOp2_congr minS_eq
  · exact intOp2_congr maxS_eq
  · exact intOp2_congr minU_eq
  · exact intOp2_congr maxU_eq
  · exact intOp2_congr bit_slt
  · exact intOp2_congr bit_ult
  · exact intOp2_congr bit_beq
  · exact intOp2_congr bit_bne
  · exact intOp2_congr fun x y => by rw [add_eq_ofInt, sextLow_ofInt (by decide)]
  · exact intOp2_congr fun x y => by rw [sub_eq_ofInt, sextLow_ofInt (by decide)]
  · exact intOp2_congr fun x y => by rw [mul_eq_ofInt, sextLow_ofInt (by decide)]
  · exact intOp2_congr fun x y => by rw [shiftLeft_eq_mul]; rfl
  · exact intOp2_congr fun x y => by rw [shiftLeft_eq_mul]; rfl
  · exact intOp2_congr fun x y => by rw [shiftLeft_eq_mul]; rfl
  · exact intOp2_congr absd_eq

/-- Each two-source word is the shared one, with the result its statement gives (R120). -/
theorem twoSource_exec {e} (he : e ∈ twoSource) (m : Bool) (d a b : Reg) (s : State) :
    exec (e.1 m d a b) s = intOp2 m d a b e.2.1 e.2.2 s :=
  (List.mem_append.mp he).elim (twoSourceA_exec e · m d a b s) (twoSourceB_exec e · m d a b s)

/-! ## Divisions (R113, R114, R121) -/

theorem divOp_next {s : State} {m : Bool} {d a b : Reg} {f : Word → Word → Word}
    (r : Ready {} s [a, b, d]) (hi : s.ints [a, b]) (hu : s.myCore.divUntil ≤ s.myDie.dcyc) :
    ∃ v, divOp m d a b f s = .next (((s.modMyCore fun k => { k with divUntil := v }).result {} d
      (.int (f (s.int a) (s.int b))) .l0 .var (s.me.pc + 4)).settle s.focus m) := by
  refine ⟨s.myDie.dcyc + Config.word (s.free + 1) 0x240 % 128, ?_⟩
  have hu' : ¬ (s.atIssue {}).myDie.dcyc < (s.atIssue {}).myCore.divUntil := BitVec.not_lt.mpr hu
  unfold divOp
  rw [issue_ready r]
  simp only [touch_ready r, srcInt_ints hi (by simp : a ∈ [a, b]), srcInt_ints hi (by simp : b ∈ [a, b]),
    Bind.bind, Except.bind, if_neg hu']
  exact congrArg _ (retire_result (s.modMyCore fun k => { k with divUntil := _ }) {} m d _ .l0 .var)

theorem divOp_hold {s : State} {m : Bool} {d a b : Reg} {f : Word → Word → Word}
    (r : Ready {} s [a, b, d]) (hi : s.ints [a, b]) (hu : s.myDie.dcyc < s.myCore.divUntil) :
    divOp m d a b f s = .next (s.bump.modMe fun x => { x with slow := true }) := by
  have hu' : (s.atIssue {}).myDie.dcyc < (s.atIssue {}).myCore.divUntil := hu
  unfold divOp
  rw [issue_ready r]
  simp only [touch_ready r, srcInt_ints hi (by simp : a ∈ [a, b]), srcInt_ints hi (by simp : b ∈ [a, b]),
    Bind.bind, Except.bind, if_pos hu']
  rfl

theorem twoSource_claim : Claims.TwoSource := by
  intro e he s m d a b r hi
  obtain ⟨t, ht, hh, hr, hf, hl⟩ := exists_result ((twoSource_exec he m d a b s).trans (intOp2_next r hi))
  exact ⟨t, ht, hh, hr, hf, fun n hn => hl n rfl hn⟩

/-- A division whose divider is free answers with its result, and takes the divider. -/
theorem division_answers {i : Instr} {s : State} {m : Bool} {d a b : Reg} {f : Word → Word → Word} {v : Word}
    (r : Ready {} s [a, b, d]) (hi : s.ints [a, b]) (hu : s.myCore.divUntil ≤ s.myDie.dcyc)
    (hx : exec i s = divOp m d a b f s) (hv : f (s.int a) (s.int b) = v) :
    ∃ t, exec i s = .next (t.settle s.focus m) ∧ Holds s t d (.int v) ∧ Retired s t (s.me.pc + 4) ∧
      ∃ c, SlotFrame (s.modMyCore fun k => { k with divUntil := c }) t := by
  subst hv
  obtain ⟨c, hc⟩ := divOp_next (m := m) (f := f) r hi hu
  -- The state with the divider taken has the same slots: what it holds and how it retires is the same.
  obtain ⟨t, ht, ⟨hdest, hzero, hregs⟩, ⟨hfocus, hpc, hpos, hhints⟩, hf, -⟩ := exists_result (hx.trans hc)
  exact ⟨t, ht, ⟨hdest, hzero, hregs⟩, ⟨hfocus, hpc, hpos, hhints⟩, c, hf⟩

theorem divisions_claim : Claims.Divisions := by
  intro s m d a b r hi hu x y q qu e he
  simp only [List.mem_cons, List.not_mem_nil, or_false] at he
  rcases he with rfl | rfl | rfl | rfl
  · exact division_answers r hi hu rfl rfl
  · exact division_answers r hi hu rfl rfl
  · exact division_answers r hi hu rfl (remS_eq _ _)
  · exact division_answers r hi hu rfl (remU_eq _ _)

theorem dividerHolds_claim : Claims.DividerHolds := by
  intro e he s m d a b r hi hu
  simp only [List.mem_cons, List.not_mem_nil, or_false] at he
  rcases he with rfl | rfl | rfl | rfl <;> exact divOp_hold r hi hu

/-- Settles O1: every two-source word is the shared word `intOp2` with the result of its row; the divisions
write the quotients and remainders of R121, or hold issue while the divider is taken. -/
theorem twoSourceResults : Obligations.TwoSourceResults :=
  ⟨twoSource_claim, divisions_claim, dividerHolds_claim⟩

end Sys2Proof.Machine
end

section
/-! SUPPORT. The words with an immediate, the field words and the conditional moves (R123 to R127). -/

namespace Sys2Proof.Machine

/-! ## Immediates (R40) -/

theorem group_imm_le {h : Takes} {g : Hints} (hg : h.group g = true) : g.imm.length ≤ 2 := by
  simp only [Takes.group, Bool.and_eq_true, decide_eq_true_eq] at hg
  obtain ⟨⟨⟨⟨⟨⟨-, hlen⟩, -⟩, -⟩, -⟩, -⟩, -⟩ := hg
  exact hlen

theorem group_imm_nil {h : Takes} {g : Hints} (hg : h.group g = true) (hi : h.imm = false) : g.imm = [] := by
  simp only [Takes.group, Bool.and_eq_true, hi, Bool.or_false, List.isEmpty_iff] at hg
  obtain ⟨⟨⟨⟨⟨-, hnil⟩, -⟩, -⟩, -⟩, -⟩ := hg
  exact hnil

theorem toNat_append_add {m n : Nat} (x : BitVec m) (y : BitVec n) :
    (x ++ y).toNat = x.toNat * 2 ^ n + y.toNat := by
  rw [BitVec.toNat_append, ← Nat.shiftLeft_add_eq_or_of_lt y.isLt, Nat.shiftLeft_eq]

/-- The combined immediate, sign-extended from its top bit, is the number R40 gives. -/
theorem immOf_eq {g : Hints} {n : Nat} (f : BitVec n) (hg : g.imm.length ≤ 2) :
    immOf g f = BitVec.ofInt 64 (combined g n f.toNat) := by
  unfold immOf combined
  match hi : g.imm with
  | [] => simp [BitVec.signExtend, BitVec.toInt_eq_toNat_bmod]
  | [a] => simp [BitVec.signExtend, BitVec.toInt_eq_toNat_bmod, toNat_append_add, -BitVec.toNat_append]
  | [a, b] =>
    have hab : (a ++ b).toNat = a.toNat * 2 ^ 22 + b.toNat := toNat_append_add a b
    simp [BitVec.signExtend, BitVec.toInt_eq_toNat_bmod, toNat_append_add, hab, -BitVec.toNat_append]
  | _ :: _ :: _ :: _ => simp [hi] at hg

theorem cnt_signExtend (n : BitVec 6) : cnt (n.signExtend 64) = n.toNat := by
  have := n.isLt
  rw [cnt, BitVec.toNat_signExtend, BitVec.toNat_setWidth_of_le (by omega)]
  split_ifs <;> omega

theorem immOf_constant {g : Hints} (hg : Takes.group {} g = true) (n : BitVec 6) :
    cnt (immOf g n) = n.toNat := by
  rw [immOf, group_imm_nil hg rfl]
  exact cnt_signExtend n

/-! ## The words (R123, R124, R125) -/

theorem intImm_congr {n : Nat} {k m : Bool} {d a : Reg} {i : BitVec n} {f g : Word → Word → Word} {s : State}
    (h : ∀ x y, f x y = g x y) : intImm k m d a i f s = intImm k m d a i g s := by
  rw [funext₂ h]

theorem immediate_exec : ∀ e ∈ immediate, ∀ (m : Bool) (d a : Reg) (i : BitVec 13) (s : State),
    exec (e.1 m d a i) s = intImm true m d a i e.2 s := by
  intro e he m d a i s
  unfold immediate at he
  simp only [List.mem_cons, List.not_mem_nil, or_false] at he
  rcases he with rfl | rfl | rfl | rfl | rfl | rfl
  · rfl
  · rfl
  · rfl
  · rfl
  · show execSlti m d a i s = _
    exact intImm_congr bit_slt
  · show execSltiu m d a i s = _
    exact intImm_congr bit_ult

theorem immediates_claim : Claims.Immediates := by
  intro e he s m d a i r hi v
  have hx := (immediate_exec e he m d a i s).trans (intImm_next (m := m) r hi)
  rw [immOf_eq i (group_imm_le r.hints)] at hx
  exact exists_result_one hx

/-- A word with a constant count answers with its result on that count (R124). -/
theorem constantShift_answers {i : Instr} {s : State} {m : Bool} {d a : Reg} {n : BitVec 6}
    {f : Word → Word → Word} {g : Word → Nat → Word} (r : Ready {} s [a, d]) (hi : s.ints [a])
    (hx : exec i s = intImm false m d a n f s) (hf : ∀ x y, f x y = g x (cnt y)) :
    ∃ t, exec i s = .next (t.settle s.focus m) ∧ Holds s t d (.int (g (s.int a) n.toNat)) ∧
      Retired s t (s.me.pc + 4) ∧ SlotFrame s t ∧ EntersL0 s t d (.int (g (s.int a) n.toNat)) 1 := by
  have ho := hx.trans (intImm_next r hi)
  rw [hf, immOf_constant r.hints] at ho
  exact exists_result_one ho

theorem constantShifts_claim : Claims.ConstantShifts := by
  intro e he s m d a n r hi
  simp only [List.mem_cons, List.not_mem_nil, or_false] at he
  rcases he with rfl | rfl | rfl | rfl
  · exact constantShift_answers r hi (show exec _ s = execShli m d a n s from rfl) fun _ _ => rfl
  · exact constantShift_answers r hi (show exec _ s = execShri m d a n s from rfl) fun _ _ => rfl
  · exact constantShift_answers r hi (show exec _ s = execSari m d a n s from rfl)
      fun x y => sshiftRight_eq x (cnt y)
  · exact constantShift_answers r hi (show exec _ s = execRotli m d a n s from rfl)
      fun x y => rotateLeft_eq x (cnt_lt y)

theorem execLimm_next {s : State} {m : Bool} {d : Reg} {i : BitVec 19} (r : Ready { imm := true } s [d]) :
    execLimm m d i s = .next ((s.result { imm := true } d (.int (immOf s.me.hints i)) .l0 (.fixed 1)
      (s.me.pc + 4)).settle s.focus m) := by
  unfold execLimm
  rw [issue_ready r]
  simp [touch_ready r, Bind.bind, Except.bind, retire_result]

theorem execAddpc_next {s : State} {m : Bool} {d : Reg} {i : BitVec 19} (r : Ready { imm := true } s [d]) :
    execAddpc m d i s = .next ((s.result { imm := true } d (.int (s.me.pc + immOf s.me.hints i * 4)) .l0
      (.fixed 1) (s.me.pc + 4)).settle s.focus m) := by
  unfold execAddpc
  rw [issue_ready r]
  simp [touch_ready r, Bind.bind, Except.bind, retire_result]

theorem limmAndAddpc_claim : Claims.LimmAndAddpc := by
  intro s m d i r v
  have hv : immOf s.me.hints i = v := immOf_eq i (group_imm_le r.hints)
  exact ⟨exists_result_one (hv ▸ execLimm_next r), exists_result_one (hv ▸ execAddpc_next r)⟩

/-- Settles O3: the immediate that hints and field make up is the one of R40, and each word is a shared one on it. -/
theorem immediateResults : Obligations.ImmediateResults :=
  ⟨immediates_claim, constantShifts_claim, limmAndAddpc_claim⟩

end Sys2Proof.Machine
end

section
/-! SUPPORT. The field words and the conditional moves (R126, R127). -/

namespace Sys2Proof.Machine

/-! ## Fields of a word (R126) -/

theorem getLsbD_fieldMask (l : BitVec 6) (i : Nat) : (fieldMask l).getLsbD i = decide (i < l.toNat + 1) := by
  have hl := l.isLt
  rw [fieldMask, BitVec.getLsbD_ushiftRight, BitVec.getLsbD_allOnes]
  congr 1
  apply propext
  omega

theorem extr_eq (p l : BitVec 6) (a : Word) :
    extr p l a = BitVec.ofNat 64 (a.toNat / 2 ^ p.toNat % 2 ^ (l.toNat + 1)) := by
  apply BitVec.eq_of_getLsbD_eq
  intro i hi
  rw [extr, BitVec.getLsbD_and, getLsbD_fieldMask, BitVec.getLsbD_ushiftRight, BitVec.getLsbD_ofNat,
    Nat.testBit_mod_two_pow, Nat.testBit_div_two_pow]
  simp [hi, BitVec.testBit_toNat, Bool.and_comm, Nat.add_comm]

theorem sextLow_eq_toNat (n : Nat) (a : Word) : sextLow n a = BitVec.ofInt 64 ((a.toNat : Int).bmod (2 ^ n)) := by
  rw [sextLow, BitVec.signExtend, BitVec.toInt_setWidth]

/-- Moving a field to the top and back copies its top bit upward. -/
theorem shiftLeft_sshiftRight {k : Nat} (h : k < 64) (a : Word) :
    (a <<< k).sshiftRight k = sextLow (64 - k) a := by
  apply BitVec.eq_of_getLsbD_eq
  intro i hi
  have hm : (a <<< k).msb = (a.setWidth (64 - k)).msb := by
    have h1 : 64 - k - 1 = 63 - k := by omega
    have h2 : ¬ 63 < k := by omega
    have h3 : 63 - k < 64 - k := by omega
    simp [BitVec.msb_eq_getLsbD_last, h1, h2, h3,
      BitVec.getLsbD_eq_getElem (show 63 - k < 64 by omega)]
  rw [BitVec.getLsbD_sshiftRight, sextLow, BitVec.getLsbD_signExtend, hm]
  have hlt : (k + i < 64) ↔ (i < 64 - k) := by omega
  by_cases hk : i < 64 - k
  · simp [hi, hlt.mpr hk, hk]
  · simp [hi, hlt, hk]

theorem extrs_eq (p l : BitVec 6) (a : Word) :
    extrs p l a = BitVec.ofInt 64
      (((a.toNat / 2 ^ p.toNat % 2 ^ (l.toNat + 1) : Nat) : Int).bmod (2 ^ (l.toNat + 1))) := by
  have hl := l.isLt
  have hn : 64 - (63 - l.toNat) = l.toNat + 1 := by omega
  rw [extrs, shiftLeft_sshiftRight (by omega), hn, sextLow_eq_toNat, BitVec.toNat_ushiftRight,
    Nat.shiftRight_eq_div_pow, Int.natCast_mod, Int.emod_bmod]

/-- A number with one field replaced, as what stands above, in and below the field. -/
theorem replaced_eq (p n old x : Nat) :
    old - old / 2 ^ p % 2 ^ n * 2 ^ p + x * 2 ^ p = 2 ^ p * (2 ^ n * (old / 2 ^ p / 2 ^ n) + x) + old % 2 ^ p := by
  have h1 := Nat.div_add_mod old (2 ^ p)
  have h2 := Nat.div_add_mod (old / 2 ^ p) (2 ^ n)
  set q := old / 2 ^ p
  have h3 : 2 ^ p * q = 2 ^ p * (2 ^ n * (q / 2 ^ n)) + q % 2 ^ n * 2 ^ p :=
    calc 2 ^ p * q = 2 ^ p * (2 ^ n * (q / 2 ^ n) + q % 2 ^ n) := by rw [h2]
      _ = _ := by ring
  rw [Nat.mul_add, Nat.mul_comm x]
  omega

theorem testBit_replaced (p n old x i : Nat) :
    (old - old / 2 ^ p % 2 ^ n * 2 ^ p + x % 2 ^ n * 2 ^ p).testBit i =
      if i < p then old.testBit i else if i - p < n then x.testBit (i - p) else old.testBit i := by
  rw [replaced_eq, Nat.testBit_two_pow_mul_add _ (Nat.mod_lt _ (Nat.two_pow_pos p)),
    Nat.testBit_two_pow_mul_add _ (Nat.mod_lt _ (Nat.two_pow_pos n))]
  split_ifs with h1 h2
  · simp [h1]
  · simp [h2]
  · rw [Nat.testBit_div_two_pow, Nat.testBit_div_two_pow]
    congr 1
    omega

theorem ins_eq (p l : BitVec 6) (old a : Word) :
    ins p l old a = BitVec.ofNat 64
      (old.toNat - old.toNat / 2 ^ p.toNat % 2 ^ (l.toNat + 1) * 2 ^ p.toNat
        + a.toNat % 2 ^ (l.toNat + 1) * 2 ^ p.toNat) := by
  apply BitVec.eq_of_getLsbD_eq
  intro i hi
  rw [BitVec.getLsbD_ofNat, testBit_replaced]
  simp only [ins, BitVec.getLsbD_or, BitVec.getLsbD_and, BitVec.getLsbD_not, BitVec.getLsbD_shiftLeft,
    getLsbD_fieldMask, hi, decide_true, Bool.true_and]
  split_ifs with h1 h2
  · simp [h1, BitVec.testBit_toNat]
  · simp [h1, h2, BitVec.testBit_toNat]
  · simp [h1, h2, BitVec.testBit_toNat]

theorem fieldEffects_claim : Claims.FieldEffects := by
  intro s m d a p l _ r hi len field low old kept
  have he : exec (.extr m d a p l) s = intOp1 m d a (extr p l) s := rfl
  have hes : exec (.extrs m d a p l) s = intOp1 m d a (extrs p l) s := rfl
  have hins : exec (.ins m d a p l) s = intOp3 m d a a (fun old x _ => ins p l old x) s := rfl
  refine ⟨?_, ?_, fun hd => ?_⟩
  · rw [he, intOp1_next r hi, extr_eq]
    exact exists_result_one rfl
  · rw [hes, intOp1_next r hi, extrs_eq]
    exact exists_result_one rfl
  · have r3 : Ready {} s [a, a, d] := ⟨r.hints, r.mode, fun x hx => r.clear x (by simpa using hx)⟩
    have hi3 : s.ints [a, a, d] := fun x hx => by
      rcases List.mem_cons.mp hx with rfl | hx
      · exact hi _ (by simp)
      · rcases List.mem_cons.mp hx with rfl | hx
        · exact hi _ (by simp)
        · exact hd _ hx
    rw [hins, intOp3_next r3 hi3, ins_eq]
    exact exists_result_one rfl

/-! ## Words that read their destination (R25, R119) -/

theorem srcInt_atIssue (s : State) (h : Takes) (r : Reg) : srcInt (s.atIssue h) r = srcInt s r := by
  unfold srcInt
  rw [atIssue_read]

/-- A source is delivered, or refused with FORMAT. -/
theorem srcInt_cases (s : State) (r : Reg) :
    (s.ints [r] ∧ srcInt s r = .ok (s.int r)) ∨ (¬ s.ints [r] ∧ srcInt s r = .error (.plain .format)) := by
  unfold srcInt State.ints
  by_cases h : (s.me.read r).tag = .i64 ∨ (s.me.read r).tag = .raw
  · exact .inl ⟨by simpa using h, if_pos h⟩
  · exact .inr ⟨by simpa using h, if_neg h⟩

theorem intOp3_hazard {s : State} {m : Bool} {d a b r : Reg} {f : Word → Word → Word → Word} (ht : s.canTrap)
    (hg : Takes.group {} s.me.hints = true) (hr : r ∈ [a, b, d]) (hp : s.me.pending r = true) :
    ∃ t, intOp3 m d a b f s = .next t ∧ Trapped s.bump t .hazard s.me.groupStart 0 0 false :=
  issue_hazard ht hg nofun hr hp

theorem intOp3_format {s : State} {m : Bool} {d a b : Reg} {f : Word → Word → Word → Word} (ht : s.canTrap)
    (hg : Takes.group {} s.me.hints = true) (hc : ∀ r ∈ [a, b, d], s.me.pending r = false)
    (hi : ¬ s.ints [a, b, d]) :
    ∃ t, intOp3 m d a b f s = .next t ∧ Trapped s.bump t .format s.me.groupStart 0 0 false := by
  have r : Ready {} s [a, b, d] := ⟨hg, nofun, hc⟩
  refine issue_trapped ht hg nofun ?_
  simp only [touch_ready r, srcInt_atIssue, Bind.bind, Except.bind]
  rcases srcInt_cases s a with ⟨ha, ea⟩ | ⟨-, ea⟩
  · rcases srcInt_cases s b with ⟨hb, eb⟩ | ⟨-, eb⟩
    · rcases srcInt_cases s d with ⟨hd, -⟩ | ⟨-, ed⟩
      · exact absurd (by simpa [State.ints] using ⟨ha a (by simp), hb b (by simp), hd d (by simp)⟩) hi
      · rw [ea, eb, ed]; rfl
    · rw [ea, eb]; rfl
  · rw [ea]; rfl

theorem insReadsDest_claim : Claims.InsReadsDest := by
  intro s m d a p l ht hg
  have hins : exec (.ins m d a p l) s = intOp3 m d a a (fun old x _ => ins p l old x) s := rfl
  rw [hins]
  refine ⟨fun hp => intOp3_hazard ht hg (by simp) hp, fun ha hd hi => intOp3_format ht hg ?_ fun h => ?_⟩
  · simp [ha, hd]
  · exact hi fun r hr => h r (by simp_all)

/-! ## Their encodings -/

theorem fld_one (k : Nat) (w : BitVec 32) : fld k 1 w = BitVec.ofBool (w.getLsbD k) := by
  apply BitVec.eq_of_getLsbD_eq
  intro i hi
  obtain rfl : i = 0 := by omega
  simp [fld]

theorem fldS_eq (w : BitVec 32) : fldS w = w.getLsbD 31 := by
  rw [fldS, fld_one, Laws.ofBool_beq_one]

theorem decodeWord_of_rawError {w : BitVec 32} {e : DecodeError} (h : rawDecode w = .error e) :
    decodeWord w = .error e := by
  rw [decodeWord, h]

theorem decodeWord_of_check {w : BitVec 32} {i : Instr} (h : rawDecode w = .ok i) (hc : i.check ≠ none) :
    ∃ e, decodeWord w = .error e := by
  obtain ⟨e, he⟩ := Option.ne_none_iff_exists'.mp hc
  exact ⟨e, by rw [decodeWord, h]; simp only [he]⟩

theorem fieldOk_ne_none {p l : BitVec 6} (h : ¬ p.toNat + l.toNat < 64) : fieldOk p l ≠ none := by
  have h' : ¬ p.toNat + l.toNat + 1 ≤ 64 := h
  simp [fieldOk, need, h']

theorem orElse_ne_none {α : Type} {x y : Option α} (h : y ≠ none) : (x <|> y) ≠ none := by
  cases x with
  | none => simpa using h
  | some v => simp

theorem rawDecode_extr {w : BitVec 32} (h : w.extractLsb' 25 6 = 0x0B#6) : rawDecode w = decExtr w := by
  simp [rawDecode, fld, h]

theorem rawDecode_ins {w : BitVec 32} (h : w.extractLsb' 25 6 = 0x0C#6) : rawDecode w = decIns w := by
  simp [rawDecode, fld, h]

theorem decExtr_eq (w : BitVec 32) : decExtr w = .ok
    (if w.getLsbD 0 then .extrs (fldS w) (fld 19 6 w) (fld 13 6 w) (fld 7 6 w) (fld 1 6 w)
      else .extr (fldS w) (fld 19 6 w) (fld 13 6 w) (fld 7 6 w) (fld 1 6 w)) := by
  rw [decExtr, fld_one]
  cases w.getLsbD 0 <;> rfl

theorem decIns_eq (w : BitVec 32) : decIns w =
    if w.getLsbD 0 then .error .selectorUnassigned
      else .ok (.ins (fldS w) (fld 19 6 w) (fld 13 6 w) (fld 7 6 w) (fld 1 6 w)) := by
  rw [decIns, fld_one]
  cases w.getLsbD 0 <;> rfl

theorem fieldWords_claim : Claims.FieldWords := by
  intro w d a p l m fits
  have hm : fldS w = m := fldS_eq w
  refine ⟨fun hw => ?_, fun hw => ?_⟩
  · have hr := (rawDecode_extr hw).trans (decExtr_eq w)
    rw [hm] at hr
    refine ⟨fun hf hc => Laws.decodeWord_of_raw hr ?_, fun hf => decodeWord_of_check hr ?_⟩
    · split_ifs <;> exact hc
    · split_ifs <;> exact orElse_ne_none (fieldOk_ne_none hf)
  · have hr := (rawDecode_ins hw).trans (decIns_eq w)
    rw [hm] at hr
    cases h0 : w.getLsbD 0 with
    | true =>
      rw [h0] at hr
      exact ⟨fun _ h => (by cases h), fun _ => ⟨_, decodeWord_of_rawError hr⟩⟩
    | false =>
      rw [h0] at hr
      exact ⟨fun _ _ hc => Laws.decodeWord_of_raw hr hc, fun h => decodeWord_of_check hr
        (orElse_ne_none (fieldOk_ne_none (h.resolve_right (by simp))))⟩

/-- Settles O4: the masks and shifts of the model are the division and remainder by powers of two that R126
names, INS reads its destination as any source, and the decoder finds the fields where R126 puts them. -/
theorem fieldResults : Obligations.FieldResults :=
  ⟨fieldEffects_claim, insReadsDest_claim, fieldWords_claim⟩

/-! ## Conditional moves (R127) -/

theorem intOp3_congr {m : Bool} {d a b : Reg} {f g : Word → Word → Word → Word} {s : State}
    (h : ∀ o x y, f o x y = g o x y) : intOp3 m d a b f s = intOp3 m d a b g s := by
  rw [show f = g from funext fun o => funext₂ (h o)]

/-- A conditional move copies A where the test on the signed value of B holds. -/
def chosen (test : Int → Bool) (old a b : Word) : Word := if test b.toInt then a else old

theorem movc_eq {p : Word → Bool} {q : Int → Bool} (h : ∀ b, p b = q b.toInt) (old a b : Word) :
    movc p old a b = chosen q old a b := by
  rw [movc, chosen, h]

theorem beq_zero_eq (b : Word) : (b == 0) = decide (b.toInt = 0) := by
  rw [Bool.beq_eq_decide_eq]
  exact decide_eq_decide.mpr ⟨fun h => by rw [h]; rfl, fun h => BitVec.eq_of_toInt_eq h⟩

theorem slt_zero_eq (b : Word) : b.slt 0 = decide (b.toInt < 0) := by
  simp [BitVec.slt]

theorem zero_slt_eq (b : Word) : (0 : Word).slt b = decide (0 < b.toInt) := by
  simp [BitVec.slt]

theorem bne_zero_eq (b : Word) : (b != 0) = decide (b.toInt ≠ 0) := by
  rw [bne, beq_zero_eq, decide_not]

theorem not_slt_zero_eq (b : Word) : (!b.slt 0) = decide (0 ≤ b.toInt) := by
  simp only [slt_zero_eq, ← decide_not, not_lt]

theorem not_zero_slt_eq (b : Word) : (!(0 : Word).slt b) = decide (b.toInt ≤ 0) := by
  simp only [zero_slt_eq, ← decide_not, not_lt]

theorem conditional_exec : ∀ e ∈ conditional, ∀ (m : Bool) (d a b : Reg) (s : State),
    exec (e.1 m d a b) s = intOp3 m d a b (chosen e.2) s := by
  intro e he m d a b s
  unfold conditional at he
  simp only [List.mem_cons, List.not_mem_nil, or_false] at he
  rcases he with rfl | rfl | rfl | rfl | rfl | rfl
  · exact intOp3_congr (movc_eq beq_zero_eq)
  · exact intOp3_congr (movc_eq bne_zero_eq)
  · exact intOp3_congr (movc_eq slt_zero_eq)
  · exact intOp3_congr (movc_eq not_slt_zero_eq)
  · exact intOp3_congr (movc_eq zero_slt_eq)
  · exact intOp3_congr (movc_eq not_zero_slt_eq)

/-- Settles O5: each conditional move is the shared word that reads its destination, on the move its test chooses. -/
theorem conditionalMoves : Obligations.ConditionalMoves := by
  intro e he s m d a b
  rw [conditional_exec e he]
  refine ⟨fun r hi => ?_, fun ht hg => ⟨fun ⟨r, hr, hp⟩ => intOp3_hazard ht hg hr hp, intOp3_format ht hg⟩⟩
  rw [intOp3_next r hi]
  exact exists_result_one rfl

end Sys2Proof.Machine
end

section
/-! SUPPORT. Control transfer (R128 to R133): branches, jumps, and the words that move the register window. -/

namespace Sys2Proof.Machine

/-! ## Setting a slot twice -/

theorem AMap.set_set {α : Type} (m : AMap α) (k : Nat) (v w : α) : (m.set k v).set k w = m.set k w := by
  induction m with
  | nil => simp [AMap.set]
  | cons e m ih =>
    obtain ⟨k', v'⟩ := e
    by_cases h1 : k' = k
    · simp [AMap.set, h1]
    · by_cases h2 : k < k'
      · simp [AMap.set, h1, h2]
      · simp [AMap.set, h1, h2, ih]

theorem setMe_setMe (s : State) (x y : Slot) : (s.setMe x).setMe y = s.setMe y := by
  simp only [State.setMe, State.setSlot, AMap.set_set]

/-! ## Going on from a slot that changed -/

/-- A word that changes its own slot at issue and goes on. `x` is the slot the frame speaks of, `y` the one the word
leaves before it goes on: they agree but for registers and pending results. -/
theorem setMe_goOn (s : State) (h : Takes) {x y : Slot} (target : Word) (hs : y.special = x.special)
    (hp : y.fpflags = x.fpflags)
    (ho : (∀ o ∈ x.outs, o.flags.getD 0 = 0) → ∀ o ∈ y.outs, o.flags.getD 0 = 0) :
    let t := ((s.atIssue h).setMe y).goOn s.focus target
    SlotFrame (s.setMe x) t ∧ Retired ((s.atIssue h).setMe y) t target ∧ t.me.file = y.file ∧
      t.me.l0 = y.next0 y.l0 ∧ t.me.l1 = y.next1 y.l1 := by
  intro t
  set u := (s.atIssue h).setMe y with hu
  have hme : u.me = y := by simp [hu]
  have hfocus : u.focus = s.focus := by simp [hu]
  obtain ⟨g1, g2, g3, g4⟩ := goOn_frame u target
  rw [hfocus] at g1 g2 g3 g4
  have hf : SlotFrame (s.setMe x) u := by
    refine ⟨fun a => by simp [hu], fun k a => by simp [hu], fun c hc => ?_, ?_, fun k => by simp [hu],
      fun k => by simp [hu], ?_, fun _ => ⟨?_, fun k => by simp [hu]⟩⟩
    · have hc' : c ≠ s.focus := hc
      simp [hu, State.slot_setSlot_ne _ _ _ _ hc', atIssue_slot _ _ _ hc']
    · simpa [hme] using hs
    · simpa [hu, State.outside] using atIssue_outside s h
    · simpa [hme] using hp
  have hq : (s.setMe x).flagless → u.flagless := fun q => by
    unfold State.flagless at *
    rw [hme]
    exact ho (by simpa using q)
  obtain ⟨l0, l1⟩ := g4
  rw [hme] at g3 l0 l1
  exact ⟨hf.trans g1 hq, g2, g3, l0, l1⟩

/-- A word that changes special registers of its slot, as `f` says, and goes on to the next word. -/
theorem exists_special {o : Host.Outcome State Fault Refusal} {s : State} {h : Takes} {m : Bool} {f : Slot → Slot}
    {target : Word} (hf : ∀ e, (f { s.me with eff := e }).special = (f s.me).special)
    (hr : ∀ x, (f x).file = x.file ∧ (f x).pos = x.pos ∧ (f x).fpflags = x.fpflags ∧ (f x).outs = x.outs ∧
      (f x).next0 (f x).l0 = x.next0 x.l0 ∧ (f x).next1 (f x).l1 = x.next1 x.l1)
    (ho : o = .next ((((s.atIssue h).modMe f).goOn s.focus target).settle s.focus m)) :
    ∃ t, o = .next (t.settle s.focus m) ∧ FileKept s t ∧ LastKept s t ∧ Retired s t target ∧
      SlotFrame (s.modMe f) t := by
  obtain ⟨e, he⟩ := atIssue_me s h
  obtain ⟨rf, rq, rp, rs, r0, r1⟩ := hr (s.atIssue h).me
  obtain ⟨-, -, sp, ss, -, -⟩ := hr s.me
  obtain ⟨g1, ⟨gf, gpc, gpos, gh⟩, g3, g4, g5⟩ := setMe_goOn s h (x := f s.me) (y := f (s.atIssue h).me) target
    (by rw [he]; exact hf e) (by rw [rp, sp, atIssue_fpflags]) (by rw [rs, ss, atIssue_outs]; exact id)
  refine ⟨_, ho, fun i => ?_, ⟨?_, ?_⟩, ⟨?_, ?_, ?_, ?_⟩, ?_⟩
  · exact congrArg (vget · .zero i) (g3.trans (rf.trans (atIssue_file s h)))
  · exact g4.trans (by rw [r0, atIssue_l0, atIssue_next0])
  · exact g5.trans (by rw [r1, atIssue_l1, atIssue_next1])
  · exact gf.trans (atIssue_focus s h)
  · exact gpc
  · exact gpos.trans (by simp [rq])
  · exact gh
  · exact g1

/-- A word that only moves the slot on. -/
theorem exists_jump {o : Host.Outcome State Fault Refusal} {s : State} {h : Takes} {m : Bool} {target : Word}
    (ho : o = .next (((s.atIssue h).goOn s.focus target).settle s.focus m)) :
    ∃ t, o = .next (t.settle s.focus m) ∧ Retired s t target ∧ FileKept s t ∧ LastKept s t ∧ SlotFrame s t := by
  obtain ⟨hf, hr, hk, hl⟩ := jump_frame h s target
  exact ⟨_, ho, hr, hk, hl, hf⟩

/-! ## Branches (R129) -/

theorem branchTo_eq (pc : Word) {n : Nat} (disp : BitVec n) : branchTo pc disp = dispTarget pc disp := by
  rw [branchTo, dispTarget, BitVec.ofInt_mul, BitVec.signExtend]
  rfl

theorem brc_answers {i : Instr} {s : State} {m : Bool} {a : Reg} {disp : BitVec 16} {p : Word → Bool}
    {q : Int → Bool} (r : Ready {} s [a]) (hi : s.ints [a]) (hx : exec i s = brc m a disp p s)
    (hq : ∀ x, p x = q x.toInt) :
    ∃ t, exec i s = .next (t.settle s.focus m) ∧
      Retired s t (if q (s.int a).toInt then dispTarget s.me.pc disp else s.me.pc + 4) ∧
      FileKept s t ∧ LastKept s t ∧ SlotFrame s t := by
  rw [← branchTo_eq, ← hq]
  exact exists_jump (hx.trans (brc_next r hi))

theorem bcmp_answers {i : Instr} {s : State} {m : Bool} {a b : Reg} {disp : BitVec 10} {p q : Word → Word → Bool}
    (r : Ready {} s [a, b]) (hi : s.ints [a, b]) (hx : exec i s = bcmp m a b disp p s)
    (hq : ∀ x y, p x y = q x y) :
    ∃ t, exec i s = .next (t.settle s.focus m) ∧
      Retired s t (if q (s.int a) (s.int b) then dispTarget s.me.pc disp else s.me.pc + 4) ∧
      FileKept s t ∧ LastKept s t ∧ SlotFrame s t := by
  rw [← branchTo_eq, ← hq]
  exact exists_jump (hx.trans (bcmp_next r hi))

theorem not_slt_eq (a b : Word) : (!a.slt b) = decide (b.toInt ≤ a.toInt) := by
  simp only [BitVec.slt, ← decide_not, not_lt]

theorem not_ult_eq (a b : Word) : (!a.ult b) = decide (b.toNat ≤ a.toNat) := by
  simp only [BitVec.ult, ← decide_not, not_lt]

theorem rawDecode_brc {w : BitVec 32} (h : w.extractLsb' 25 6 = 0x10#6) : rawDecode w = decBrc w := by
  simp [rawDecode, fld, h]

theorem rawDecode_bcmp {w : BitVec 32} (h : w.extractLsb' 25 6 = 0x11#6) : rawDecode w = decBcmp w := by
  simp [rawDecode, fld, h]

/-- COND values 6 and 7 are no condition (R129). -/
theorem decBrc_unassigned {w : BitVec 32} (h : 6 ≤ (w.extractLsb' 16 3).toNat) :
    decBrc w = .error .selectorUnassigned := by
  unfold decBrc fld
  split
  case h_7 => rfl
  all_goals omega

theorem decBcmp_unassigned {w : BitVec 32} (h : 6 ≤ (w.extractLsb' 10 3).toNat) :
    decBcmp w = .error .selectorUnassigned := by
  unfold decBcmp fld
  split
  case h_7 => rfl
  all_goals omega

/-- Settles O7: each branch is one of the two shared words on its condition; the decoder refuses COND 6 and 7. -/
theorem branches : Obligations.Branches := by
  refine ⟨fun e he s m a i r hi => ?_, fun e he s m a b i r hi => ?_, fun w hw => ?_⟩
  · simp only [List.mem_cons, List.not_mem_nil, or_false] at he
    rcases he with rfl | rfl | rfl | rfl | rfl | rfl
    · exact brc_answers r hi rfl beq_zero_eq
    · exact brc_answers r hi rfl bne_zero_eq
    · exact brc_answers r hi rfl slt_zero_eq
    · exact brc_answers r hi rfl not_slt_zero_eq
    · exact brc_answers r hi rfl zero_slt_eq
    · exact brc_answers r hi rfl not_zero_slt_eq
  · simp only [List.mem_cons, List.not_mem_nil, or_false] at he
    rcases he with rfl | rfl | rfl | rfl | rfl | rfl
    · exact bcmp_answers r hi rfl fun x y => Bool.beq_eq_decide_eq x y
    · exact bcmp_answers r hi rfl fun x y => by simp [bne, Bool.beq_eq_decide_eq]
    · exact bcmp_answers r hi rfl fun x y => rfl
    · exact bcmp_answers r hi rfl not_slt_eq
    · exact bcmp_answers r hi rfl fun x y => rfl
    · exact bcmp_answers r hi rfl not_ult_eq
  · rcases hw with ⟨hm, hc⟩ | ⟨hm, hc⟩
    · exact ⟨_, decodeWord_of_rawError ((rawDecode_brc hm).trans (decBrc_unassigned hc))⟩
    · exact ⟨_, decodeWord_of_rawError ((rawDecode_bcmp hm).trans (decBcmp_unassigned hc))⟩

/-! ## Jumps (R130, R131) -/

theorem jumpTarget_aligned {t : Word} (h : t.toNat % 4 = 0) : jumpTarget t = .ok () := by
  unfold jumpTarget
  rw [if_neg]
  simp only [ne_eq, not_not]
  apply BitVec.eq_of_toNat_eq
  simpa using h

theorem jumpTarget_misaligned {t : Word} (h : t.toNat % 4 ≠ 0) :
    jumpTarget t = .error (.trap .misalign t 0 false) := by
  unfold jumpTarget
  rw [if_pos]
  intro e
  exact h (by simpa using congrArg BitVec.toNat e)

theorem regRef_lk (w : BitVec 6) : regRef w lk = .file 38 := rfl

/-- A result for the file that enters neither last-result register. -/
theorem put_none_last {x : Slot} {d : Reg} {v : RV} {lat : Lat} {i : Nat} (h : regRef x.wbase d = .file i) :
    (x.put d v none none lat).l0 = x.l0 ∧ (x.put d v none none lat).l1 = x.l1 := by
  unfold Slot.put
  cases lat <;> simp [h]

/-- A word that writes a register of the file and no last-result register. -/
theorem result_last {h : Takes} {s : State} {d : Reg} {v : RV} {lat : Lat} {target : Word} {i : Nat}
    (hd : regRef s.me.wbase d = .file i) : LastKept s (s.result h d v .none lat target) := by
  obtain ⟨-, -, -, e0, e1⟩ := goOn_frame ((s.atIssue h).wr d v .none lat) target
  rw [wr_focus] at e0 e1
  have hme : ((s.atIssue h).wr d v .none lat).me = (s.atIssue h).me.put d v none none lat := by
    simp [State.wr, Slot.write]
  obtain ⟨k0, k1⟩ := put_none_last (x := (s.atIssue h).me) (v := v) (lat := lat) (by rw [atIssue_wbase]; exact hd)
  rw [hme] at e0 e1
  exact ⟨e0.trans (by rw [k0, put_next0, atIssue_next0, atIssue_l0]),
    e1.trans (by rw [k1, put_next1, atIssue_next1, atIssue_l1])⟩

theorem retireTo_result (s : State) (h : Takes) (m : Bool) (d : Reg) (v : RV) (p : Pipe) (lat : Lat) (target : Word) :
    ((s.atIssue h).wr d v p lat).retireTo m target = (s.result h d v p lat target).settle s.focus m := by
  rw [retireTo_eq, wr_focus]
  rfl

/-- A word that leaves the address of the next word in lk and goes to `target`. -/
theorem exists_link {o : Host.Outcome State Fault Refusal} {s : State} {h : Takes} {m : Bool} {v : RV} {target : Word}
    (ho : o = .next (((s.atIssue h).wr lk v .none (.fixed 1)).retireTo m target)) :
    ∃ t, o = .next (t.settle s.focus m) ∧ Retired s t target ∧ Holds s t lk v ∧ LastKept s t ∧ SlotFrame s t := by
  rw [retireTo_result] at ho
  obtain ⟨hf, hr, hh⟩ := result_holds h s lk v .none (.fixed 1) target
  exact ⟨_, ho, hr, hh, result_last (regRef_lk _), hf⟩

theorem execJmp_next {s : State} {m : Bool} {i : BitVec 25} (r : Ready {} s []) :
    execJmp m i s = .next (((s.atIssue {}).goOn s.focus (dispTarget s.me.pc i)).settle s.focus m) := by
  unfold execJmp
  rw [issue_ready r, ← branchTo_eq]
  simp [retireTo_eq]

theorem execCall_next {s : State} {m : Bool} {i : BitVec 25} (r : Ready {} s [lk]) :
    execCall m i s = .next (((s.atIssue {}).wr lk (.int (s.me.pc + 4)) .none (.fixed 1)).retireTo m
      (dispTarget s.me.pc i)) := by
  unfold execCall
  rw [issue_ready r, ← branchTo_eq]
  simp [touch_ready r, Bind.bind, Except.bind]

theorem execJr_next {s : State} {m : Bool} {a : Reg} (r : Ready {} s [a]) (hi : s.ints [a])
    (h4 : (s.int a).toNat % 4 = 0) :
    execJr m a s = .next (((s.atIssue {}).goOn s.focus (s.int a)).settle s.focus m) := by
  unfold execJr
  rw [issue_ready r]
  simp [touch_ready r, srcInt_ints hi, jumpTarget_aligned h4, Bind.bind, Except.bind, retireTo_eq]

theorem execCallr_next {s : State} {m : Bool} {a : Reg} (r : Ready {} s [a, lk]) (hi : s.ints [a])
    (h4 : (s.int a).toNat % 4 = 0) :
    execCallr m a s = .next (((s.atIssue {}).wr lk (.int (s.me.pc + 4)) .none (.fixed 1)).retireTo m (s.int a)) := by
  unfold execCallr
  rw [issue_ready r]
  simp [touch_ready r, srcInt_ints hi, jumpTarget_aligned h4, Bind.bind, Except.bind]

theorem execRet_next {s : State} {m : Bool} (r : Ready {} s [lk]) (hi : s.ints [lk]) (h0 : s.int lk ≠ 0)
    (h4 : (s.int lk).toNat % 4 = 0) :
    execRet m s = .next (((s.atIssue {}).goOn s.focus (s.int lk)).settle s.focus m) := by
  unfold execRet
  rw [issue_ready r]
  simp only [touch_ready r, srcInt_ints hi (List.mem_singleton_self lk), if_neg h0, jumpTarget_aligned h4, Bind.bind,
    Except.bind, retireTo_eq, atIssue_focus]

theorem execCall_hazard {s : State} (m : Bool) (i : BitVec 25) (ht : s.canTrap)
    (hg : Takes.group {} s.me.hints = true) (hp : s.me.pending lk = true) :
    ∃ t, execCall m i s = .next t ∧ Trapped s.bump t .hazard s.me.groupStart 0 0 false :=
  issue_hazard (rs := [lk]) ht hg nofun (by simp) hp

theorem execCallr_hazard {s : State} (m : Bool) (a : Reg) (ht : s.canTrap)
    (hg : Takes.group {} s.me.hints = true) (hp : s.me.pending lk = true) :
    ∃ t, execCallr m a s = .next t ∧ Trapped s.bump t .hazard s.me.groupStart 0 0 false :=
  issue_hazard (rs := [a, lk]) ht hg nofun (by simp) hp

theorem execRet_hazard {s : State} (m : Bool) (ht : s.canTrap)
    (hg : Takes.group {} s.me.hints = true) (hp : s.me.pending lk = true) :
    ∃ t, execRet m s = .next t ∧ Trapped s.bump t .hazard s.me.groupStart 0 0 false :=
  issue_hazard (rs := [lk]) ht hg nofun (by simp) hp

theorem execJr_misaligned {s : State} {m : Bool} {a : Reg} (r : Ready {} s [a]) (hi : s.ints [a])
    (h4 : (s.int a).toNat % 4 ≠ 0) (ht : s.canTrap) :
    ∃ t, execJr m a s = .next t ∧ Trapped s.bump t .misalign s.me.groupStart (s.int a) 0 false := by
  refine issue_trapped ht r.hints nofun ?_
  simp only [touch_ready r, srcInt_ints hi (List.mem_singleton_self a), jumpTarget_misaligned h4, Bind.bind,
    Except.bind]

theorem execCallr_misaligned {s : State} {m : Bool} {a : Reg} (r : Ready {} s [a, lk]) (hi : s.ints [a])
    (h4 : (s.int a).toNat % 4 ≠ 0) (ht : s.canTrap) :
    ∃ t, execCallr m a s = .next t ∧ Trapped s.bump t .misalign s.me.groupStart (s.int a) 0 false := by
  refine issue_trapped ht r.hints nofun ?_
  simp only [touch_ready r, srcInt_ints hi (List.mem_singleton_self a), jumpTarget_misaligned h4, Bind.bind,
    Except.bind]

theorem execRet_misaligned {s : State} {m : Bool} (r : Ready {} s [lk]) (hi : s.ints [lk])
    (h4 : (s.int lk).toNat % 4 ≠ 0) (ht : s.canTrap) :
    ∃ t, execRet m s = .next t ∧ Trapped s.bump t .misalign s.me.groupStart (s.int lk) 0 false := by
  have h0 : s.int lk ≠ 0 := fun e => h4 (by rw [e]; rfl)
  refine issue_trapped ht r.hints nofun ?_
  simp only [touch_ready r, srcInt_ints hi (List.mem_singleton_self lk), if_neg h0, jumpTarget_misaligned h4, Bind.bind,
    Except.bind]

/-- Settles O8: a jump with an aligned target goes on there, CALL and CALLR through a result for lk; the checks on
lk and on the target come first. -/
theorem jumps : Obligations.Jumps := by
  intro s m a i
  refine ⟨fun r => exists_jump (execJmp_next r), fun r => exists_link (execCall_next r),
    fun r hi h4 => exists_jump (execJr_next r hi h4), fun r hi h4 => exists_link (execCallr_next r hi h4),
    fun r hi h0 h4 => exists_jump (execRet_next r hi h0 h4), fun ht hg hp j hj => ?_,
    fun r hi h4 ht j hj => ?_, fun r hi h4 ht => execRet_misaligned r hi h4 ht⟩
  · simp only [List.mem_cons, List.not_mem_nil, or_false] at hj
    rcases hj with rfl | rfl | rfl
    · exact execCall_hazard m i ht hg hp
    · exact execCallr_hazard m a ht hg hp
    · exact execRet_hazard m ht hg hp
  · simp only [List.mem_cons, List.not_mem_nil, or_false] at hj
    rcases hj with rfl | rfl
    · have r1 : Ready {} s [a] := ⟨r.hints, r.mode, fun x hx => r.clear x (by simp_all)⟩
      exact execJr_misaligned r1 hi h4 ht
    · exact execCallr_misaligned r hi h4 ht

/-! ## The register window (R31, R132, R133) -/

theorem wbasePred_eq {w : BitVec 6} (h : w.toNat < 48) : wbasePred w = BitVec.ofNat 6 ((w.toNat + 47) % 48) := by
  unfold wbasePred
  split_ifs with h0
  · subst h0; rfl
  · have h1 : w.toNat ≠ 0 := fun e => h0 (BitVec.eq_of_toNat_eq e)
    bv_omega

theorem wbaseOf_eq (x : Word) : wbaseOf (x.setWidth 6) = BitVec.ofNat 6 (x.toNat % 64 % 48) := by
  have h : (x.setWidth 6).toNat = x.toNat % 64 := BitVec.toNat_setWidth 6 x
  unfold wbaseOf
  rw [h]
  apply BitVec.eq_of_toNat_eq
  split_ifs with h1
  · have h48 : (48 : BitVec 6).toNat = 48 := rfl
    rw [BitVec.toNat_sub_of_le (by rw [BitVec.le_def, h]; exact h1), h, h48, BitVec.toNat_ofNat]
    omega
  · rw [h, BitVec.toNat_ofNat]
    omega

theorem regRef_file {w : BitVec 6} {d : Reg} (h : d ∉ [0#6, 62#6, 63#6]) : ∃ i, regRef w d = .file i := by
  have hlt := d.isLt
  have ne (k : BitVec 6) (hk : k ∈ [0#6, 62#6, 63#6]) : d.toNat ≠ k.toNat := fun e =>
    h (BitVec.eq_of_toNat_eq e ▸ hk)
  have h0 : d.toNat ≠ 0 := ne 0#6 (by simp)
  have h62 : d.toNat ≠ 62 := ne 62#6 (by simp)
  have h63 : d.toNat ≠ 63 := ne 63#6 (by simp)
  unfold regRef
  dsimp only
  split_ifs
  · exact absurd ‹_› h0
  · exact ⟨_, rfl⟩
  · exact ⟨_, rfl⟩
  · exact ⟨_, rfl⟩
  · omega

/-- The slot that LOOP leaves before it goes on: the count in its register, the window rotated (R132). -/
def Slot.looped (x : Slot) (a : Reg) (c : Word) : Slot :=
  { x.put a (.int c) none none (.fixed 1) with wbase := wbasePred x.wbase }

theorem looped_eq (s : State) (a : Reg) (c : Word) :
    ((s.wr a (.int c) .none (.fixed 1)).modMe fun y => { y with wbase := wbasePred y.wbase })
      = s.setMe (s.me.looped a c) := by
  obtain ⟨-, -, -, -, -, hw, -, -⟩ := put_rest s.me a (.int c) none none (.fixed 1)
  have hwr : s.wr a (.int c) .none (.fixed 1) = s.setMe (s.me.put a (.int c) none none (.fixed 1)) := rfl
  have hmod (u : State) (f : Slot → Slot) : u.modMe f = u.setMe (f u.me) := rfl
  rw [hwr, hmod, setMe_setMe, Slot.looped, ← hw]
  simp

theorem execLoop_next {s : State} {m : Bool} {a : Reg} {i : BitVec 16} (r : Ready {} s [a]) (hi : s.ints [a]) :
    execLoop m a i s = .next ((((s.atIssue {}).setMe ((s.atIssue {}).me.looped a (s.int a - 1))).goOn s.focus
      (if s.int a - 1 = 0 then s.me.pc + 4 else dispTarget s.me.pc i)).settle s.focus m) := by
  unfold execLoop
  rw [issue_ready r, ← branchTo_eq]
  simp only [touch_ready r, srcInt_ints hi (List.mem_singleton_self a), Bind.bind, Except.bind, looped_eq, retireTo_eq,
    State.setMe_eq, State.setSlot_focus, atIssue_focus, atIssue_pc]

theorem looped_rest {x : Slot} {a : Reg} {j : Nat} (h : regRef x.wbase a = .file j) (c : Word) :
    (x.looped a c).file = vset x.file j (.int c) ∧ (x.looped a c).pos = x.pos ∧
    (x.looped a c).fpflags = x.fpflags ∧ (x.looped a c).next0 (x.looped a c).l0 = x.next0 x.l0 ∧
    (x.looped a c).next1 (x.looped a c).l1 = x.next1 x.l1 ∧
    (x.looped a c).special = { x.special with wbase := wbasePred x.wbase } ∧
    ((∀ o ∈ x.outs, o.flags.getD 0 = 0) → ∀ o ∈ (x.looped a c).outs, o.flags.getD 0 = 0) := by
  obtain ⟨p1, -, p3, -, p5, -, p7, p8⟩ := put_rest x a (.int c) none none (.fixed 1)
  obtain ⟨q0, q1⟩ := put_none_last (v := .int c) (lat := .fixed 1) h
  rw [h] at p7
  refine ⟨p7, p3, p5, ?_, ?_, ?_, p8⟩
  · exact (put_next0 x a (.int c) none none (.fixed 1) _).trans (congrArg x.next0 q0)
  · exact (put_next1 x a (.int c) none none (.fixed 1) _).trans (congrArg x.next1 q1)
  · exact congrArg (fun y : Slot => { y with wbase := wbasePred x.wbase }) p1

theorem loopRotates_claim : Claims.LoopRotates := by
  intro s m a i ha r hi c w hw
  obtain ⟨j, hj⟩ := regRef_file (w := s.me.wbase) ha
  have hj' : regRef (s.atIssue {}).me.wbase a = .file j := by rw [atIssue_wbase]; exact hj
  obtain ⟨lf, lq, lp, l0, l1, ls, lo⟩ := looped_rest hj' c
  obtain ⟨g1, ⟨gf, gpc, gpos, gh⟩, g3, g4, g5⟩ := setMe_goOn s {} (x := { s.me with wbase := w })
    (y := (s.atIssue {}).me.looped a c) (if c = 0 then s.me.pc + 4 else dispTarget s.me.pc i)
    (by rw [ls, atIssue_special, atIssue_wbase, wbasePred_eq hw]; rfl) (lp.trans (atIssue_fpflags s {}))
    (by rw [atIssue_outs] at lo; exact lo)
  refine ⟨_, execLoop_next r hi, holds_of_file ?_, ⟨?_, ?_⟩, ⟨gf.trans (by simp), gpc, gpos.trans ?_, gh⟩, g1⟩
  · rw [g3, lf, hj, atIssue_file]
  · exact g4.trans (l0.trans (by rw [atIssue_l0, atIssue_next0]))
  · exact g5.trans (l1.trans (by rw [atIssue_l1, atIssue_next1]))
  · simp [lq]

theorem countOk_refuses {a : Reg} (h : a ∈ [0#6, 62#6, 63#6]) : countOk a ≠ none := by
  simp only [List.mem_cons, List.not_mem_nil, or_false] at h
  rcases h with rfl | rfl | rfl <;> decide

theorem rawDecode_loop {w : BitVec 32} (h : w.extractLsb' 25 6 = 0x15#6) : rawDecode w = decLoop w := by
  simp [rawDecode, fld, h]

theorem decLoop_unassigned {w : BitVec 32} (h : w.extractLsb' 16 3 ≠ 0#3) :
    decLoop w = .error .selectorUnassigned := by
  unfold decLoop fld
  split
  · exact absurd (BitVec.eq_of_toNat_eq ‹_›) h
  · rfl

theorem loopWords_claim : Claims.LoopWords :=
  ⟨fun _ _ _ ha => countOk_refuses ha, fun _ hw hc =>
    ⟨_, decodeWord_of_rawError ((rawDecode_loop hw).trans (decLoop_unassigned hc))⟩⟩

theorem retire_modMe {s : State} {h : Takes} {f : Slot → Slot} {m : Bool}
    (hf : (f (s.atIssue h).me).pc = (s.atIssue h).me.pc) :
    ((s.atIssue h).modMe f).retire m
      = (((s.atIssue h).modMe f).goOn s.focus (s.me.pc + 4)).settle s.focus m := by
  simp [State.retire, retireTo_eq, hf]

/-- WRC whose write the register's own rule allows (R134). -/
theorem execWrc_written {s u : State} {m : Bool} {a : Reg} {c : Creg} (r : Ready { super := cregSuper c true } s [a])
    (hi : s.ints [a])
    (hw : writeCreg (awaitFlags c (s.atIssue { super := cregSuper c true })) c (s.int a) = .ok u) :
    execWrc m a c s = .next (u.retire m) := by
  unfold execWrc ctrlWrite
  rw [issue_ready r]
  simp [touch_ready r, srcInt_ints hi, hw, Bind.bind, Except.bind]

/-- WSET, and WRC of WBASE, do the same (R133). -/
theorem execWset_next {s : State} {m : Bool} {a : Reg} (r : Ready {} s [a]) (hi : s.ints [a]) :
    execWset m a s = .next ((((s.atIssue {}).modMe fun x =>
      { x with wbase := wbaseOf ((s.int a).setWidth 6) }).goOn s.focus (s.me.pc + 4)).settle s.focus m) := by
  unfold execWset
  rw [issue_ready r, ← retire_modMe (f := fun x => { x with wbase := wbaseOf ((s.int a).setWidth 6) }) rfl]
  simp only [touch_ready r, srcInt_ints hi (List.mem_singleton_self a), Bind.bind, Except.bind]

theorem execWrc_wbase_next {s : State} {m : Bool} {a : Reg} (r : Ready {} s [a]) (hi : s.ints [a]) :
    execWrc m a .wbase s = .next ((((s.atIssue {}).modMe fun x =>
      { x with wbase := wbaseOf ((s.int a).setWidth 6) }).goOn s.focus (s.me.pc + 4)).settle s.focus m) := by
  rw [execWrc_written (c := .wbase) (u := (s.atIssue {}).modMe _) r hi rfl, retire_modMe]
  rfl

theorem wsetSets_claim : Claims.WsetSets := by
  intro s m a r hi w i hm
  have hw : wbaseOf ((s.int a).setWidth 6) = w := wbaseOf_eq _
  have hx : exec i s = .next ((((s.atIssue {}).modMe fun x => { x with wbase := w }).goOn s.focus
      (s.me.pc + 4)).settle s.focus m) := by
    rw [← hw]
    simp only [List.mem_cons, List.not_mem_nil, or_false] at hm
    rcases hm with rfl | rfl
    · exact execWset_next r hi
    · exact execWrc_wbase_next r hi
  exact exists_special (f := fun x => { x with wbase := w }) (fun _ => rfl)
    (fun _ => ⟨rfl, rfl, rfl, rfl, rfl, rfl⟩) hx

/-- Settles O9: LOOP puts its count into the entry its name meant and then rotates, WSET and WRC set WBASE; a count
that is z, l0 or l1 breaks a rule of the word, and a non-zero COND is no LOOP. -/
theorem windowWords : Obligations.WindowWords :=
  ⟨loopRotates_claim, loopWords_claim, wsetSets_claim⟩

end Sys2Proof.Machine
end

section
/-! SUPPORT. NOP, HBEAT and the hint words (R39 to R42, R106, R118, R141). -/

namespace Sys2Proof.Machine

/-! ## NOP and HBEAT (R106, R141) -/

theorem execNop_next {s : State} {m : Bool} (r : Ready {} s []) :
    execNop m s = .next (((s.atIssue {}).goOn s.focus (s.me.pc + 4)).settle s.focus m) := by
  unfold execNop
  rw [issue_ready r]
  simp [State.retire, retireTo_eq]

theorem execHbeat_next {s : State} {m : Bool} (r : Ready {} s []) :
    execHbeat m s = .next ((((s.atIssue {}).modMe fun x => { x with heart := 0 }).goOn s.focus
      (s.me.pc + 4)).settle s.focus m) := by
  unfold execHbeat
  rw [issue_ready r, ← retire_modMe (f := fun x => { x with heart := 0 }) rfl]

theorem nopAndHbeat_claim : Claims.NopAndHbeat := by
  intro s m r
  obtain ⟨t, ht, hk, hl, hr, hf⟩ := exists_special (s := s) (f := fun x => { x with heart := 0 }) (fun _ => rfl)
    (fun _ => ⟨rfl, rfl, rfl, rfl, rfl, rfl⟩) (execHbeat_next (m := m) r)
  exact ⟨exists_jump (execNop_next r), t, ht, hr, hk, hl, hf⟩

/-! ## Hints (R39 to R42, R118) -/

/-- Whether the slot may have come to wait at an ALIGN shows in the frame alone (R116). -/
theorem SlotFrame.cameToWait {s t : State} (h : SlotFrame s t) :
    SlotFrame (s.cameToWait s.focus) (t.cameToWait s.focus) := by
  have hfocus := focus_of_outside h.outside
  have halign : (t.slot s.focus).align = (s.slot s.focus).align := by
    have := congrArg Slot.align h.special
    rw [State.me_eq t, hfocus] at this
    exact this
  have hdie (d : Nat) : t.die d = s.die d := by
    have := congrArg (·.die d) h.outside
    exact this
  unfold State.cameToWait
  rw [halign]
  split_ifs with ha
  · refine ⟨h.mem, h.scratch, h.others, h.special, h.cores, fun k => ?_, h.outside,
      fun q => ⟨(h.flags q).1, fun k => ?_⟩⟩
    · simp only [State.modCluster_eq, State.cluster_setCluster, hdie]
      split_ifs with hk
      · exact congrArg (fun k : Cluster => { k with alignAt := (s.die (dieOf s.focus)).dcyc }) (h.clusters _)
      · exact h.clusters k
    · have := (h.flags q).2
      simp only [State.modCluster_eq, State.cluster_setCluster]
      split_ifs with hk
      · exact this _
      · exact this k
  · exact h

/-- The state that a hint word leaves, but for the mark of R116. -/
def State.hinted (s : State) (f : Hints → Hints) : State := (s.bump.written s.focus).modMe (·.hint f)

/-- The flags of results that complete reach the slot, and nothing else of it changes (R138). -/
theorem written_me (s : State) :
    (s.written s.focus).focus = s.focus ∧ ∃ f, (s.written s.focus).me = { s.me with fpflags := f } := by
  obtain ⟨hout, -, hme, -, -, -⟩ := accrue_frame s
    (dueFlags (s.me.outs.filter fun o => !o.pending (s.me.pos + 1)))
  have hfocus : (s.written s.focus).focus = s.focus := focus_of_outside hout
  exact ⟨hfocus, _, (congrArg (s.written s.focus).slot hfocus).trans hme⟩

theorem goOn_eq (s : State) (target : Word) : s.goOn s.focus target = (s.written s.focus).setMe
    { (s.written s.focus).me.reach ((s.written s.focus).me.pos + 1) with
      pc := target, hints := .empty, slow := false, seen := none } := by
  rw [State.setMe, State.me_eq (s.written s.focus), (written_me s).1]
  rfl

/-- No result becomes outstanding as a word goes on. -/
theorem goOn_outs (s : State) (target : Word) : ∀ o ∈ (s.goOn s.focus target).me.outs, o ∈ s.me.outs := by
  obtain ⟨-, g, hme⟩ := written_me s
  intro o ho
  rw [goOn_eq, hme] at ho
  simp only [State.setMe_eq, State.me_setSlot, if_true] at ho
  exact (List.mem_filter.mp ho).1

/-- A hint word leaves what a word leaves that goes on to the next one, but for the hint state. -/
theorem hinted_eq (s : State) (f : Hints → Hints) :
    let u := s.bump.goOn s.bump.focus (s.me.pc + 4)
    ∃ y, s.hinted f = u.setMe y ∧ y.special = u.me.special ∧ y.fpflags = u.me.fpflags ∧ y.file = u.me.file ∧
      y.outs = u.me.outs ∧ y.l0 = u.me.l0 ∧ y.l1 = u.me.l1 ∧ y.pos = s.me.pos + 1 ∧ y.pc = s.me.pc + 4 ∧
      y.hints = f { s.me.hints with first := some s.me.groupStart } := by
  intro u
  obtain ⟨-, g, hme⟩ := written_me s.bump
  have hgo : u = _ := goOn_eq s.bump (s.me.pc + 4)
  have hu := congrArg State.me hgo
  simp only [State.setMe_eq, State.me_setSlot, if_true] at hu
  refine ⟨(s.bump.written s.bump.focus).me.hint f, by rw [hgo, setMe_setMe]; rfl, ?_⟩
  rw [hu, hme]
  exact ⟨rfl, rfl, rfl, rfl, rfl, rfl, rfl, rfl, rfl⟩

theorem hinted_frame (s : State) (f : Hints → Hints) :
    SlotFrame s (s.hinted f) ∧ FileKept s (s.hinted f) ∧ LastKept s (s.hinted f) ∧
    (s.hinted f).me.hints = f { s.me.hints with first := some s.me.groupStart } ∧
    (s.hinted f).me.pc = s.me.pc + 4 ∧ (s.hinted f).me.pos = s.me.pos + 1 := by
  obtain ⟨y, hy, ysp, yfp, yfile, youts, yl0, yl1, ypos, ypc, yh⟩ := hinted_eq s f
  obtain ⟨g1, -, g3, g4, g5⟩ := goOn_frame s.bump (s.me.pc + 4)
  have hme : (s.hinted f).me = y := by rw [hy]; simp
  have hf : SlotFrame s (s.hinted f) := by
    rw [hy]
    refine ((atIssue_frame s {}).trans g1 id).trans (setMe_frame _ y ysp yfp) fun q o ho => ?_
    exact q o (goOn_outs s.bump _ o ho)
  refine ⟨hf, fun i => ?_, ⟨?_, ?_⟩, ?_, ?_, ?_⟩
  · rw [Slot.entry, hme, yfile, g3]; rfl
  · rw [hme, yl0]; exact g4
  · rw [hme, yl1]; exact g5
  · rw [hme, yh]
  · rw [hme, ypc]
  · rw [hme, ypos]

theorem cameToWait_me (s : State) (c : Nat) : (s.cameToWait c).me = s.me := by
  unfold State.cameToWait
  split_ifs <;> rfl

/-- A hint word of its run: what it leaves (R118). `b` is the state the frame speaks of, the slot's own or one
that shows no difference to it. -/
theorem hintWord_answers {s b : State} (f : Hints → Hints) (h : s.me.groupLength ≤ 16) (hb : SlotFrame b s)
    (ho : b.flagless → s.flagless) :
    ∃ t, hintWord f s = .next t ∧ t.me.hints = f { s.me.hints with first := some s.me.groupStart } ∧
      t.me.pc = s.me.pc + 4 ∧ t.me.pos = s.me.pos + 1 ∧ FileKept s t ∧ LastKept s t ∧
      SlotFrame (b.cameToWait s.focus) t := by
  obtain ⟨hf, hk, hl, hh, hp, hq⟩ := hinted_frame s f
  have hme := cameToWait_me (s.hinted f) s.focus
  have hfocus : s.focus = b.focus := focus_of_outside hb.outside
  refine ⟨(s.hinted f).cameToWait s.focus, ?_, by rw [hme, hh], by rw [hme, hp], by rw [hme, hq], fun i => ?_, ?_, ?_⟩
  · have hlen : ¬ 17 ≤ s.bump.me.groupLength := not_le.mpr (Nat.lt_succ_of_le h)
    unfold hintWord
    rw [if_neg hlen]
    rfl
  · rw [hme]; exact hk i
  · unfold LastKept; rw [hme]; exact hl
  · rw [hfocus]; exact (hb.trans hf ho).cameToWait

/-- A slot whose ALIGN is set to what it is. -/
theorem sameAlign_frame (s : State) : SlotFrame (s.modMe fun x => { x with align := s.me.align }) s := by
  refine ⟨fun a => by simp, fun k a => by simp, fun c hc => ?_, by simp, fun k => by simp, fun k => by simp, rfl,
    fun _ => ⟨by simp, fun k => by simp⟩⟩
  have hc' : c ≠ s.focus := hc
  simp [State.slot_setSlot_ne _ _ _ _ hc']

theorem hintWord_align {s : State} (f : Hints → Hints) (v : Option Nat) (h : s.me.groupLength ≤ 16) :
    ∃ t, hintWord f (s.modMe fun x => { x with align := v }) = .next t ∧
      t.me.hints = f { s.me.hints with first := some s.me.groupStart } ∧
      t.me.pc = s.me.pc + 4 ∧ t.me.pos = s.me.pos + 1 ∧ FileKept s t ∧ LastKept s t ∧
      SlotFrame ((s.modMe fun x => { x with align := v }).cameToWait s.focus) t := by
  have hme : (s.modMe fun x => { x with align := v }).me = { s.me with align := v } := by simp
  have h' : (s.modMe fun x => { x with align := v }).me.groupLength ≤ 16 := by rw [hme]; exact h
  obtain ⟨t, ht, hh, hp, hq, hk, ⟨l0, l1⟩, hf⟩ := hintWord_answers f h' (.refl _) id
  rw [hme] at hh hp hq l0 l1
  exact ⟨t, ht, hh, hp, hq, fun i => (hk i).trans (by rw [hme]; rfl), ⟨l0, l1⟩, hf⟩

/-- The payload of ALIGN is its count (R41). -/
theorem alignPayload_eq (n : BitVec 16) : 0#4 ++ 0#2 ++ n = n.setWidth 22 := by
  apply BitVec.eq_of_toNat_eq
  rw [toNat_append_add, BitVec.toNat_setWidth_of_le (by decide)]
  simp

theorem hintsGather_claim : Claims.HintsGather := by
  intro s v r q f k n hlen e he align
  have hb := sameAlign_frame s
  have ho : (s.modMe fun x => { x with align := s.me.align }).flagless → s.flagless := fun q => by
    simpa [State.flagless] using q
  simp only [List.mem_cons, List.not_mem_nil, or_false] at he
  rcases he with rfl | rfl | rfl | rfl | rfl
  · exact hintWord_answers _ hlen hb ho
  · exact hintWord_answers _ hlen hb ho
  · exact hintWord_answers _ hlen hb ho
  · exact hintWord_answers _ hlen hb ho
  · have hx : exec (.hschedAlign n) s =
        hintWord (fun h => { h with sched := h.sched ++ [n.setWidth 22], t0 := s.myDie.dcyc.toNat })
          (if n = 0 then s
            else s.modMe fun x => { x with align := some (s.myDie.dcyc.toNat + n.toNat) }) := by
      rw [← alignPayload_eq]; rfl
    by_cases hn : n = 0
    · have ha : align = s.me.align := if_neg fun h => h.2 hn
      rw [hx, if_pos hn, ha]
      exact hintWord_answers _ hlen hb ho
    · have ha : align = some (s.myDie.dcyc.toNat + n.toNat) := if_pos ⟨rfl, hn⟩
      rw [hx, if_neg hn, ha]
      exact hintWord_align _ _ hlen

/-- Settles O15: NOP and HBEAT go on with a special register changed at most, and a hint word leaves what a word
leaves that goes on, with its payload in the hint state. -/
theorem nopHbeatAndHints : Obligations.NopHbeatAndHints :=
  ⟨nopAndHbeat_claim, hintsGather_claim⟩

end Sys2Proof.Machine
end

section
/-! SUPPORT. Control registers (R134 to R140): what a read depends on, and what the writes that a rule can refuse and
the access steps leave. -/

namespace Sys2Proof.Machine

/-! ## What a read depends on -/

/-- A register reads from the slot's special registers and flags, its core, cluster and die, and the package. -/
theorem creg_congr {s t : State} {c : Creg} (hout : t.outside = s.outside) (hsp : t.me.special = s.me.special)
    (hcore : t.myCore = s.myCore) (hcl : t.myCluster.outside = s.myCluster.outside)
    (hfp : c = .fpflags → t.me.fpflags = s.me.fpflags)
    (hfu : c = .flagsunion → t.myCluster.flagsUnion = s.myCluster.flagsUnion) : t.creg c = s.creg c := by
  have hx {α : Type} (f : Slot → α) (hf : ∀ x : Slot, f x.special = f x) : f t.me = f s.me := by
    rw [← hf, hsp, hf]
  have hl {α : Type} (f : Cluster → α) (hf : ∀ x : Cluster, f x.outside = f x) : f t.myCluster = f s.myCluster := by
    rw [← hf, hcl, hf]
  have ho {α : Type} (f : State → α) (hf : ∀ x : State, f x.outside = f x) : f t = f s := by
    rw [← hf, hout, hf]
  cases c
  case fpflags => simp only [State.creg, hfp rfl]
  case flagsunion => simp only [State.creg, hfu rfl]
  all_goals simp only [State.creg, hx Slot.super fun _ => rfl, hx Slot.inTrap fun _ => rfl, hx Slot.ftz fun _ => rfl,
    hx Slot.rnd fun _ => rfl, hx Slot.trapVec fun _ => rfl, hx Slot.trapPc fun _ => rfl,
    hx Slot.trapCause fun _ => rfl, hx Slot.trapPend fun _ => rfl, hx Slot.trapAddr fun _ => rfl,
    hx Slot.trapInfo fun _ => rfl, hx Slot.env fun _ => rfl, hx Slot.wbase fun _ => rfl,
    hx Slot.heart fun _ => rfl, hx Slot.agWaitMax fun _ => rfl, hx Slot.feWaitMax fun _ => rfl,
    hx Slot.acks fun _ => rfl, hx Slot.err fun _ => rfl, hx Slot.asid fun _ => rfl, hx Slot.root fun _ => rfl,
    hl Cluster.poolSel fun _ => rfl, hl Cluster.queue fun _ => rfl, hl Cluster.freeEntries fun _ => rfl,
    hl Cluster.barStep fun _ => rfl, hl Cluster.dwellMax fun _ => rfl, hcore, ho State.focus fun _ => rfl,
    ho State.image fun _ => rfl, ho State.sidereal fun _ => rfl, ho State.myDie fun _ => rfl]

/-! ## Frames of accesses -/

theorem SlotFrame.creg {s t : State} (h : SlotFrame s t) (q : s.flagless) (c : Creg) : t.creg c = s.creg c := by
  have hfocus := focus_of_outside h.outside
  have hcore : t.myCore = s.myCore := (congrArg (fun c => t.core (coreOf c)) hfocus).trans (h.cores _)
  have hcl : t.myCluster = t.cluster (clusterOf s.focus) := congrArg (fun c => t.cluster (clusterOf c)) hfocus
  exact creg_congr h.outside h.special hcore (hcl ▸ h.clusters _) (fun _ => (h.flags q).1)
    fun _ => hcl ▸ (h.flags q).2 _

/-- Only FPFLAGS and FLAGSUNION read flags that earlier words may bring. -/
theorem SlotFrame.creg_of_ne {s t : State} (h : SlotFrame s t) {c : Creg} (hf : c ≠ .fpflags) (hu : c ≠ .flagsunion) :
    t.creg c = s.creg c := by
  have hfocus := focus_of_outside h.outside
  have hcore : t.myCore = s.myCore := (congrArg (fun c => t.core (coreOf c)) hfocus).trans (h.cores _)
  have hcl : t.myCluster = t.cluster (clusterOf s.focus) := congrArg (fun c => t.cluster (clusterOf c)) hfocus
  exact creg_congr h.outside h.special hcore (hcl ▸ h.clusters _) (fun e => absurd e hf) fun e => absurd e hu

theorem SlotFrame.ctrl {s t : State} (h : SlotFrame s t) (c : Creg) : CtrlFrame s t c :=
  ⟨fun q k _ _ => h.creg q k, h.mem, h.scratch, h.others⟩

theorem ctrlFrame_trans {s u t : State} {c : Creg} (a : CtrlFrame s u c) (b : CtrlFrame u t c)
    (hf : u.focus = s.focus) (q : s.flagless → u.flagless) : CtrlFrame s t c :=
  ⟨fun h k hk hn => (b.others (q h) k hk hn).trans (a.others h k hk hn), fun x => (b.mem x).trans (a.mem x),
    fun k x => (b.scratch k x).trans (a.scratch k x), fun c hc => (b.slots c (hf ▸ hc)).trans (a.slots c hc)⟩

theorem flagless_congr {s u : State} (h : u.me.outs = s.me.outs) (q : s.flagless) : u.flagless := by
  unfold State.flagless at *
  rw [h]
  exact q

/-- An access step whose write the register's own rule allows: `u` is what the write leaves. -/
theorem cregStep_written {s u : State} {c : Creg} {v : Word} (r : Ready { super := cregSuper c true } s [])
    (hw : writeCreg (s.atIssue { super := cregSuper c true }) c v = .ok u)
    (hc : CtrlFrame (s.atIssue { super := cregSuper c true }) u c)
    (hfocus : u.focus = s.focus) (hfile : u.me.file = s.me.file) (houts : u.me.outs = s.me.outs) (q : s.flagless) :
    ∃ t, cregStep c v s = .next t ∧ (∀ k, t.creg k = u.creg k) ∧ FileKept s t ∧ CtrlFrame s t c := by
  obtain ⟨g1, -, g3, -⟩ := goOn_frame u (u.me.pc + 4)
  have hu := flagless_congr houts q
  have hs := ctrlFrame_trans ((atIssue_frame s _).ctrl c) hc (atIssue_focus s _) (atIssue_flagless s _)
  refine ⟨u.goOn u.focus (u.me.pc + 4), ?_, g1.creg hu, fun i => ?_, ctrlFrame_trans hs (g1.ctrl c) hfocus fun _ => hu⟩
  · unfold cregStep
    rw [issue_ready r]
    simp only [hw, Bind.bind, Except.bind]
    rfl
  · rw [Slot.entry, g3, hfile]
    rfl

/-! ## THREADST (R137) -/

/-- FTZ and RND as a write of `v` sets them. -/
def Slot.rounding (v : Word) (x : Slot) : Slot := { x with ftz := v.getLsbD 7, rnd := v.extractLsb' 4 3 }

/-- Field RND of a value for THREADST. -/
theorem toNat_rndField (v : Word) : (v.extractLsb' 4 3).toNat = v.toNat / 16 % 8 := by
  rw [BitVec.extractLsb'_toNat, Nat.shiftRight_eq_div_pow]

theorem writeCreg_threadst {s : State} {v : Word} (h : v.toNat / 16 % 8 ∉ [0, 6, 7]) :
    writeCreg s .threadst v = .ok (s.modMe (Slot.rounding v)) := by
  have ne (k : BitVec 3) (hk : k.toNat ∈ [0, 6, 7]) : v.extractLsb' 4 3 ≠ k := fun e =>
    h (by rw [← toNat_rndField, e]; exact hk)
  unfold writeCreg
  exact if_neg (not_or.mpr ⟨ne 0#3 (by simp), not_or.mpr ⟨ne 6#3 (by simp), ne 7#3 (by simp)⟩⟩)

theorem writeCreg_threadst_refused {s : State} {v : Word} (h : v.toNat / 16 % 8 ∈ [0, 6, 7]) :
    writeCreg s .threadst v = .error (.info .prot 7) := by
  rw [← toNat_rndField] at h
  simp only [List.mem_cons, List.not_mem_nil, or_false] at h
  unfold writeCreg
  exact if_pos (h.imp (BitVec.eq_of_toNat_eq ·) (Or.imp (BitVec.eq_of_toNat_eq ·) (BitVec.eq_of_toNat_eq ·)))

/-- What a write of special registers of the slot leaves, as the rest of the state sees it. -/
theorem ctrlFrame_modMe {s : State} {c : Creg} {f : Slot → Slot}
    (hf : ∀ k, k ≠ c → k ∉ selectedBy c → (s.modMe f).creg k = s.creg k) : CtrlFrame s (s.modMe f) c :=
  ⟨fun _ => hf, fun _ => rfl, fun _ _ => rfl, fun _ hk => State.slot_setSlot_ne _ _ _ _ hk⟩

theorem creg_rounding {s : State} {v : Word} {c : Creg} (hc : c ≠ .threadst) :
    (s.modMe (Slot.rounding v)).creg c = s.creg c := by
  cases c
  case threadst => exact absurd rfl hc
  all_goals simp [State.creg, Slot.rounding, State.myCore_eq, State.myCluster_eq, State.myDie_eq]

/-- The bits of THREADST that a write may change (R137). -/
theorem getLsbD_roundingMask : ∀ i < 64, (0xF0#64).getLsbD i = (decide (4 ≤ i) && decide (i < 8)) := by
  decide

/-- FTZ and RND replaced in a word of THREADST's layout. -/
theorem roundingField_write (x : BitVec 56) (c : Bool) (r : BitVec 3) (v : Word) :
    x ++ BitVec.ofBool (v.getLsbD 7) ++ v.extractLsb' 4 3 ++ 0#4
      = ((x ++ BitVec.ofBool c ++ r ++ 0#4) &&& ~~~0xF0#64) ||| (v &&& 0xF0#64) := by
  apply BitVec.eq_of_getLsbD_eq
  intro i hi
  have hi' : i < 64 := hi
  simp only [BitVec.getLsbD_append, BitVec.getLsbD_or, BitVec.getLsbD_and, BitVec.getLsbD_not, hi',
    getLsbD_roundingMask i hi', BitVec.getLsbD_extractLsb', BitVec.getLsbD_ofBool]
  by_cases h4 : i < 4
  · simp [h4]
  by_cases h7 : i < 7
  · have h3 : i - 4 < 3 := by omega
    have h8 : i < 8 := by omega
    have h44 : 4 + (i - 4) = i := by omega
    simp [h4, h3, h8, h44, not_lt.mp h4]
  by_cases h8 : i < 8
  · obtain rfl : i = 7 := by omega
    simp
  · simp [h4, h8, show ¬ i - 4 < 3 by omega, show ¬ i - 4 - 3 < 1 by omega]

theorem creg_threadst_rounding (s : State) (v : Word) :
    (s.modMe (Slot.rounding v)).creg .threadst = (s.creg .threadst &&& ~~~0xF0) ||| (v &&& 0xF0) := by
  simp only [State.creg, State.modMe_eq, State.me_setSlot, Slot.rounding, if_true]
  exact roundingField_write _ _ _ _

theorem rounding_frame (s : State) (v : Word) : CtrlFrame s (s.modMe (Slot.rounding v)) .threadst :=
  ctrlFrame_modMe fun _ hk _ => creg_rounding hk

theorem threadst_of_atIssue (s : State) (h : Takes) : (s.atIssue h).creg .threadst = s.creg .threadst :=
  (atIssue_frame s h).creg_of_ne (by decide) (by decide)

theorem threadstWrite_answers {s : State} {v : Word} (r : Ready {} s []) (hv : v.toNat / 16 % 8 ∉ [0, 6, 7])
    (q : s.flagless) :
    ∃ t, exec (.threadstWrite v) s = .next t ∧
      t.creg .threadst = (s.creg .threadst &&& ~~~0xF0) ||| (v &&& 0xF0) ∧ FileKept s t ∧
      CtrlFrame s t .threadst := by
  obtain ⟨t, ht, hc, hk, hf⟩ := cregStep_written (c := .threadst) r (writeCreg_threadst hv) (rounding_frame _ v)
    rfl (by simp [Slot.rounding]) (by simp [Slot.rounding]) q
  exact ⟨t, ht, (hc _).trans ((creg_threadst_rounding _ _).trans (by rw [threadst_of_atIssue])), hk, hf⟩

/-- WRC whose write the register's own rule refuses (R134). -/
theorem execWrc_refused {s : State} {m : Bool} {a : Reg} {c : Creg} {e : Stop}
    (r : Ready { super := cregSuper c true } s [a]) (hi : s.ints [a])
    (hw : writeCreg (awaitFlags c (s.atIssue { super := cregSuper c true })) c (s.int a) = .error e) :
    execWrc m a c s = .next (s.bump.stop e) := by
  unfold execWrc ctrlWrite
  rw [issue_ready r]
  simp [touch_ready r, srcInt_ints hi, hw, Bind.bind, Except.bind]

/-- A trap leaves FTZ and RND as they are (R367). -/
theorem takeTrap_rounding {s : State} (h : s.canTrap) (c : Cause) (addr info : Word) (pend : Bool) :
    (s.takeTrap s.focus c addr info pend).me.rnd = s.me.rnd ∧
      (s.takeTrap s.focus c addr info pend).me.ftz = s.me.ftz := by
  have k {α : Type} (f : Slot → α) (hf : ∀ x : Slot, f x.ctl = f x) :
      f ((s.drain s.focus).slot s.focus) = f s.me := drain_keeps f hf s s.focus s.focus
  have dfocus : (s.drain s.focus).focus = s.focus := (Kept.drain s s.focus).focus
  have hin := (k Slot.inTrap fun _ => rfl).trans h.1
  have htv := k Slot.trapVec fun _ => rfl
  have hrnd := k Slot.rnd fun _ => rfl
  have hftz := k Slot.ftz fun _ => rfl
  unfold State.takeTrap
  simp only [hin, Bool.false_eq_true, if_false, htv, if_neg h.2]
  simp [dfocus, hrnd, hftz]

theorem threadstWrites_claim : Claims.ThreadstWrites := by
  intro s m a r hi v rnd new
  refine ⟨fun hr => ?_, fun hr ht => ?_⟩
  · have hx : exec (.wrc m a .threadst) s = .next ((((s.atIssue {}).modMe (Slot.rounding v)).goOn s.focus
        (s.me.pc + 4)).settle s.focus m) := by
      rw [← retire_modMe rfl]
      exact execWrc_written (c := .threadst) r hi (writeCreg_threadst hr)
    obtain ⟨t, ht, hk, -, hret, hf⟩ := exists_special (s := s) (f := Slot.rounding v) (fun _ => rfl)
      (fun _ => ⟨rfl, rfl, rfl, rfl, rfl, rfl⟩) hx
    have hnew : t.creg .threadst = new := (hf.creg_of_ne (by decide) (by decide)).trans (creg_threadst_rounding s v)
    exact ⟨t, ht, hnew, hk, hret, ctrlFrame_trans (rounding_frame s v) (hf.ctrl _) rfl
      fun q => flagless_congr (by simp [Slot.rounding]) q⟩
  · have hx : exec (.wrc m a .threadst) s = .next (s.bump.stop (.info .prot 7)) :=
      execWrc_refused (c := .threadst) r hi (writeCreg_threadst_refused hr)
    exact ⟨_, hx, stop_trapped ht .prot 0 7 false, takeTrap_rounding (s := s.bump) ht .prot 0 7 false⟩

end Sys2Proof.Machine
end

section
/-! SUPPORT. POOLMIN and POOLCAP (R97). -/

namespace Sys2Proof.Machine

/-! ## Sums over association lists -/

theorem AMap.find_of_lt {α : Type} {m : AMap α} {k : Nat} (h : ∀ e ∈ m, k < e.1) : m.find k = none := by
  induction m with
  | nil => rfl
  | cons e m ih =>
    obtain ⟨k', v'⟩ := e
    have hk : k' ≠ k := Nat.ne_of_gt (h (k', v') List.mem_cons_self)
    simp [AMap.find, hk, ih fun e he => h e (List.mem_cons_of_mem _ he)]

/-- A sum over a list of entries does not change with one that counts as much as before. -/
theorem AMap.sum_set {α : Type} {m : AMap α} {k : Nat} {v d : α} (f : α → Nat) (hm : m.rising) (hd : f d = 0)
    (hv : f v = f (m.get d k)) : ((m.set k v).map fun e => f e.2).sum = (m.map fun e => f e.2).sum := by
  induction m with
  | nil => simpa [AMap.set, AMap.get, hd] using hv
  | cons e m ih =>
    obtain ⟨k', v'⟩ := e
    obtain ⟨hlt, hm'⟩ := List.pairwise_cons.mp hm
    by_cases hk : k' = k
    · have hv' : f v = f v' := by simpa [AMap.get, AMap.find, hk] using hv
      simp [AMap.set, hk, hv']
    by_cases hk' : k < k'
    · have hnone : AMap.find ((k', v') :: m) k = none := AMap.find_of_lt fun e he => by
        rcases List.mem_cons.mp he with rfl | he
        · exact hk'
        · exact Nat.lt_trans hk' (hlt e he)
      have hv' : f v = 0 := by rw [hv, AMap.get, hnone]; exact hd
      simp [AMap.set, hk, hk', hv']
    · have hv' : f v = f (AMap.get m d k) := by simpa [AMap.get, AMap.find, hk] using hv
      simp [AMap.set, hk, hk', ih hm' hv']

/-! ## The selected queue (R97) -/

/-- The cluster with another selected queue. -/
def Cluster.select (k : Cluster) (x : Queue) : Cluster := { k with queues := k.queues.set k.poolSel.toNat x }

/-- The queue that POOLSEL selects. -/
def Cluster.selected (k : Cluster) : Queue := k.queue k.poolSel.toNat

theorem selected_select (k : Cluster) (x : Queue) : (k.select x).selected = x := AMap.get_set_self ..

theorem freeEntries_select {k : Cluster} {x : Queue} (hm : AMap.rising k.queues) (hx : x.use = k.selected.use) :
    (k.select x).freeEntries = k.freeEntries := by
  unfold Cluster.freeEntries
  rw [Cluster.select, AMap.sum_set (d := Queue.none) Queue.use hm rfl hx]

/-- A write that leaves MIN at most CAP, CAP not zero and the minimums within the pool. -/
theorem writePool_ok {s : State} {f : Queue → Queue}
    (hsum : (((s.myCluster.select (f s.myCluster.selected)).queues).map fun e => e.2.min.toNat).sum ≤ 2048)
    (hmin : (f s.myCluster.selected).min ≤ (f s.myCluster.selected).cap) (hcap : (f s.myCluster.selected).cap ≠ 0) :
    ∃ w, writePool s f = .ok (s.modMyCluster (·.select { f s.myCluster.selected with was := w })) := by
  refine ⟨_, if_neg ?_⟩
  rintro (h | h | h)
  · exact absurd h (not_lt.mpr hsum)
  · exact absurd h (BitVec.not_lt.mpr hmin)
  · exact hcap h

/-- Of the control registers only the two of the selected queue read what such a write changes. -/
theorem creg_select {s : State} {x : Queue} {c : Creg} (hm : AMap.rising s.myCluster.queues)
    (huse : x.use = s.myCluster.selected.use) (hext : x.ext = s.myCluster.selected.ext)
    (hmin : c = .poolmin → x.min = s.myCluster.selected.min) (hcap : c = .poolcap → x.cap = s.myCluster.selected.cap) :
    (s.modMyCluster (·.select x)).creg c = s.creg c := by
  have hcl : (s.modMyCluster (·.select x)).myCluster = s.myCluster.select x := by simp [State.myCluster_eq]
  have hsel : (s.myCluster.select x).queue (s.myCluster.select x).poolSel.toNat = x := selected_select _ _
  have hold : s.myCluster.queue s.myCluster.poolSel.toNat = s.myCluster.selected := rfl
  cases c
  case poolmin => simp only [State.creg, hcl, hsel, hold, hmin rfl]
  case poolcap => simp only [State.creg, hcl, hsel, hold, hcap rfl]
  case pooluse => simp only [State.creg, hcl, hsel, hold, huse, hext, freeEntries_select hm huse]
  all_goals
    simp only [State.creg, hcl]
    rfl

theorem creg_pool_select (s : State) (x : Queue) :
    (s.modMyCluster (·.select x)).creg .poolmin = x.min.setWidth 64 ∧
      (s.modMyCluster (·.select x)).creg .poolcap = x.cap.setWidth 64 := by
  have hcl : (s.modMyCluster (·.select x)).myCluster = s.myCluster.select x := by simp [State.myCluster_eq]
  have hsel : (s.myCluster.select x).queue (s.myCluster.select x).poolSel.toNat = x := selected_select _ _
  simp only [State.creg, hcl, hsel, and_self]

/-- The low bits of a value are those of a mask. -/
theorem setWidth_eq_mask {n : Nat} (h : n ≤ 64) (v : Word) :
    (v.setWidth n).setWidth 64 = v &&& BitVec.ofNat 64 (2 ^ n - 1) := by
  have hn : 2 ^ n ≤ 2 ^ 64 := Nat.pow_le_pow_right (by decide) h
  have hpos := Nat.two_pow_pos n
  apply BitVec.eq_of_toNat_eq
  rw [BitVec.toNat_setWidth_of_le h, BitVec.toNat_setWidth, BitVec.toNat_and, BitVec.toNat_ofNat,
    Nat.mod_eq_of_lt (by omega : 2 ^ n - 1 < 2 ^ 64), Nat.and_two_pow_sub_one_eq_mod]

theorem select_frame {s : State} {x : Queue} {c : Creg} (hm : AMap.rising s.myCluster.queues)
    (huse : x.use = s.myCluster.selected.use) (hext : x.ext = s.myCluster.selected.ext)
    (hmin : c ≠ .poolmin → x.min = s.myCluster.selected.min) (hcap : c ≠ .poolcap → x.cap = s.myCluster.selected.cap) :
    CtrlFrame s (s.modMyCluster (·.select x)) c :=
  ⟨fun _ _ hk _ => creg_select hm huse hext (fun e => hmin (e ▸ hk).symm) fun e => hcap (e ▸ hk).symm,
    fun _ => rfl, fun _ _ => rfl, fun _ _ => rfl⟩

theorem poolminWrite_answers {s : State} {v : Word} (r : Ready { super := true } s []) (q : s.flagless)
    (hm : AMap.rising s.myCluster.queues) (hcap : s.myCluster.selected.cap ≠ 0)
    (hle : v.setWidth 12 ≤ s.myCluster.selected.cap)
    (hsum : (((s.myCluster.select { s.myCluster.selected with min := v.setWidth 12 }).queues).map
      fun e => e.2.min.toNat).sum ≤ 2048) :
    ∃ t, exec (.poolminWrite v) s = .next t ∧ t.creg .poolmin = v &&& 0xFFF ∧ FileKept s t ∧
      CtrlFrame s t .poolmin := by
  obtain ⟨w, hw⟩ := writePool_ok (s := s.atIssue { super := true }) (f := fun q => { q with min := v.setWidth 12 })
    hsum hle hcap
  obtain ⟨t, ht, hc, hk, hf⟩ := cregStep_written (c := .poolmin) r hw
    (select_frame hm rfl rfl (fun h => absurd rfl h) fun _ => rfl) rfl rfl rfl q
  exact ⟨t, ht, (hc _).trans ((creg_pool_select _ _).1.trans (setWidth_eq_mask (by decide) v)), hk, hf⟩

theorem poolcapWrite_answers {s : State} {v : Word} (r : Ready { super := true } s []) (q : s.flagless)
    (hm : AMap.rising s.myCluster.queues) (hcap : v.setWidth 12 ≠ 0)
    (hle : s.myCluster.selected.min ≤ v.setWidth 12)
    (hsum : (((s.myCluster.select { s.myCluster.selected with cap := v.setWidth 12 }).queues).map
      fun e => e.2.min.toNat).sum ≤ 2048) :
    ∃ t, exec (.poolcapWrite v) s = .next t ∧ t.creg .poolcap = v &&& 0xFFF ∧ FileKept s t ∧
      CtrlFrame s t .poolcap := by
  obtain ⟨w, hw⟩ := writePool_ok (s := s.atIssue { super := true }) (f := fun q => { q with cap := v.setWidth 12 })
    hsum hle hcap
  obtain ⟨t, ht, hc, hk, hf⟩ := cregStep_written (c := .poolcap) r hw
    (select_frame hm rfl rfl (fun _ => rfl) fun h => absurd rfl h) rfl rfl rfl q
  exact ⟨t, ht, (hc _).trans ((creg_pool_select _ _).2.trans (setWidth_eq_mask (by decide) v)), hk, hf⟩

/-! ## DELAYSEL (R404) -/

/-- What a write of DELAYSEL with LOAD set leaves of a core none of whose activations has ended in die cycle `now`:
the selection, and the row it loads. -/
def Core.loaded (k : Core) (v : Word) : Core :=
  { k with delaySel := v &&& 0x003FFFFF0006000F
           chrono := vset k.chrono (v.toNat % 16) (delayRow v) }

theorem writeDelaySel_loaded {s : State} {v : Word} (hv : v.getLsbD 16 = true)
    (h : ∀ e, s.myCore.ended = some e → e.1 ≠ s.myDie.dcyc) :
    writeDelaySel s v = s.modMyCore (·.loaded v) := by
  unfold writeDelaySel
  simp only [hv, if_true, State.modMyCore_eq]
  congr 1
  unfold Core.loadRow Core.loaded
  split
  · next t was l he => exact if_neg (h (t, was, l) he)
  · rfl

theorem creg_loaded {s : State} {v : Word} {c : Creg} (hc : c ≠ .delaysel) (hn : c ∉ selectedBy .delaysel) :
    (s.modMyCore (·.loaded v)).creg c = s.creg c := by
  have hcore : (s.modMyCore (·.loaded v)).myCore = s.myCore.loaded v := by simp [State.myCore_eq]
  cases c
  case delaysel => exact absurd rfl hc
  case delaycnt | delaytrn | delayqw | delayrun => exact absurd (by decide) hn
  all_goals
    simp only [State.creg, hcore]
    rfl

/-- The row that a kept selection names. -/
theorem selectedRow_eq (v : Word) : (v &&& 0x003FFFFF0006000F).toNat % 16 = v.toNat % 16 := by
  rw [BitVec.toNat_and, show 16 = 2 ^ 4 from rfl, Nat.and_mod_two_pow,
    show (0x003FFFFF0006000F : Word).toNat % 2 ^ 4 = 2 ^ 4 - 1 from rfl, Nat.and_two_pow_sub_one_eq_mod, Nat.mod_mod]

/-- LOAD itself is not kept. -/
theorem selection_load (v : Word) : (v ||| 0x10000) &&& 0x003FFFFF0006000F = v &&& 0x003FFFFF0006000F := by
  apply BitVec.eq_of_getLsbD_eq
  intro i _
  have h0 : (0x10000 &&& 0x003FFFFF0006000F : Word).getLsbD i = false := by
    rw [show (0x10000 &&& 0x003FFFFF0006000F : Word) = 0 from rfl]
    exact BitVec.getLsbD_zero
  rw [BitVec.getLsbD_and] at h0
  rw [BitVec.getLsbD_and, BitVec.getLsbD_or, BitVec.getLsbD_and, Bool.and_or_distrib_right, h0, Bool.or_false]

theorem creg_delay_loaded (s : State) (v : Word) :
    let u := s.modMyCore (·.loaded v)
    u.creg .delaysel = v &&& 0x003FFFFF0006000F ∧ u.creg .delaycnt = 0 ∧ u.creg .delaytrn = 0 ∧
      u.creg .delayqw = 0 ∧ u.creg .delayrun = 0 := by
  have hcore : (s.modMyCore (·.loaded v)).myCore = s.myCore.loaded v := by simp [State.myCore_eq]
  have hrow : vget (s.myCore.loaded v).chrono (.reset false) ((s.myCore.loaded v).delaySel.toNat % 16)
      = delayRow v := by
    have hsel : (v &&& 0x003FFFFF0006000F).toNat % 16 = v.toNat % 16 := selectedRow_eq v
    simp only [Core.loaded, hsel]
    exact vget_vset_self _ _ _ _ (Nat.mod_lt _ (by decide))
  simp only [State.creg, hcore, hrow]
  exact ⟨rfl, rfl, rfl, rfl, rfl⟩

theorem scratch_loaded (s : State) (v : Word) (k a : Nat) :
    ((s.modMyCore (·.loaded v)).core k).scratch.read a = (s.core k).scratch.read a := by
  simp only [State.modMyCore_eq, State.core_setCore]
  split_ifs with hk
  · rw [hk]; rfl
  · rfl

theorem delayselLoad_answers {s : State} {v : Word} (r : Ready {} s []) (q : s.flagless)
    (h : ∀ e, s.myCore.ended = some e → e.1 ≠ s.myDie.dcyc) :
    ∃ t, exec (.delayselLoad v) s = .next t ∧
        t.creg .delaysel = v &&& 0x003FFFFF0006000F ∧ t.creg .delaycnt = 0 ∧
        t.creg .delaytrn = 0 ∧ t.creg .delayqw = 0 ∧ t.creg .delayrun = 0 ∧ FileKept s t ∧
        CtrlFrame s t .delaysel := by
  have hv : (v ||| 0x10000).getLsbD 16 = true := by
    rw [BitVec.getLsbD_or, show (0x10000 : Word).getLsbD 16 = true from rfl, Bool.or_true]
  have hw : writeCreg (s.atIssue {}) .delaysel (v ||| 0x10000)
      = .ok ((s.atIssue {}).modMyCore (·.loaded (v ||| 0x10000))) :=
    congrArg Except.ok (writeDelaySel_loaded (s := s.atIssue {}) hv h)
  obtain ⟨t, ht, hc, hk, hf⟩ := cregStep_written (c := .delaysel) r hw
    ⟨fun _ _ => creg_loaded, fun _ => rfl, scratch_loaded _ _, fun _ _ => rfl⟩ rfl rfl rfl q
  obtain ⟨c0, c1, c2, c3, c4⟩ := creg_delay_loaded (s.atIssue {}) (v ||| 0x10000)
  exact ⟨t, ht, (hc _).trans (c0.trans (selection_load v)), (hc _).trans c1, (hc _).trans c2, (hc _).trans c3,
    (hc _).trans c4, hk, hf⟩

end Sys2Proof.Machine
end

section
/-! SUPPORT. FPFLAGS read and written after the wait for flags (R134, R136, R138), and the layouts of the registers
(R138, R140, R365). -/

namespace Sys2Proof.Machine

/-! ## The wait for flags (R136) -/

/-- No slot changes but in its flags. -/
structure FlagsOnly (s t : State) : Prop where
  focus : t.focus = s.focus
  slots : ∀ c, ∃ f, t.slot c = { s.slot c with fpflags := f }

theorem FlagsOnly.refl (s : State) : FlagsOnly s s := ⟨rfl, fun _ => ⟨_, rfl⟩⟩

theorem FlagsOnly.trans {s t u : State} (a : FlagsOnly s t) (b : FlagsOnly t u) : FlagsOnly s u := by
  refine ⟨b.focus.trans a.focus, fun c => ?_⟩
  obtain ⟨f, hf⟩ := a.slots c
  obtain ⟨g, hg⟩ := b.slots c
  exact ⟨g, by rw [hg, hf]⟩

theorem FlagsOnly.modCore (s : State) (k : Nat) (f : Core → Core) : FlagsOnly s (s.modCore k f) :=
  ⟨rfl, fun _ => ⟨_, rfl⟩⟩

theorem FlagsOnly.accrue (s : State) (c : Nat) (f : BitVec 5) : FlagsOnly s (s.accrue c f) := by
  unfold State.accrue
  split
  · exact .refl s
  · refine ⟨rfl, fun d => ?_⟩
    simp only [State.modSlot_eq, State.modCluster_eq, State.slot_setSlot, State.slot_setCluster]
    split_ifs with hd
    · exact ⟨_, by rw [hd]⟩
    · exact ⟨_, rfl⟩

theorem FlagsOnly.writeTiles (s : State) (core n : Nat) : FlagsOnly s (s.writeTiles core n) := by
  induction n generalizing s with
  | zero => exact .refl s
  | succ n ih =>
    refine FlagsOnly.trans ?_ (ih _)
    unfold State.writeTile
    split
    · exact .refl s
    · exact (FlagsOnly.accrue s _ _).trans (.modCore _ _ _)

theorem FlagsOnly.settleUnits (s : State) (c : Nat) (hit : MUnit → Bool) : FlagsOnly s (s.settleUnits c hit) := by
  unfold State.settleUnits
  generalize List.range 8 = l
  induction l generalizing s with
  | nil => exact .refl s
  | cons u l ih =>
    refine FlagsOnly.trans ?_ (ih _)
    dsimp only
    split
    · unfold State.completeUnit
      exact (FlagsOnly.accrue s _ _).trans (.modCore _ _ _)
    · exact .refl s

theorem arriveAll_file (x : Slot) (l : List Out) : (x.arriveAll l).file = x.file := by
  induction l generalizing x with
  | nil => rfl
  | cons o l ih =>
    rw [Slot.arriveAll, ih]
    split <;> rfl

/-- A slot that has waited for flags keeps its file and its window, and no result has a flag left to bring. -/
theorem Slot.drainFlags_rest (x : Slot) : x.drainFlags.file = x.file ∧ x.drainFlags.wbase = x.wbase ∧
    ∀ o ∈ x.drainFlags.outs, o.flags.getD 0 = 0 := by
  have hw := congrArg Slot.wbase (Slot.ctl_arriveAll x (x.outs.filter (·.flags.isSome)))
  refine ⟨arriveAll_file _ _, hw, fun o ho => ?_⟩
  obtain ⟨p, -, rfl⟩ := List.mem_map.mp ho
  rfl

/-- The wait for flags: the units' flags accrue, and the slot's own results bring theirs. -/
theorem drainFlags_eq (s : State) (c : Nat) :
    ∃ u, FlagsOnly s u ∧ s.drainFlags c = u.modSlot c Slot.drainFlags := by
  have htiles : FlagsOnly s (s.settleTiles c) := .writeTiles s _ _
  exact ⟨_, (htiles.trans (.settleUnits _ _ _)).trans (.accrue _ _ _), rfl⟩

theorem drainFlags_me (s : State) :
    (s.drainFlags s.focus).focus = s.focus ∧ (s.drainFlags s.focus).me.file = s.me.file ∧
      (s.drainFlags s.focus).me.wbase = s.me.wbase ∧ (s.drainFlags s.focus).flagless := by
  obtain ⟨u, ⟨hfocus, hslots⟩, hd⟩ := drainFlags_eq s s.focus
  obtain ⟨f, hslot⟩ := hslots s.focus
  have hme : (s.drainFlags s.focus).me = ({ s.me with fpflags := f } : Slot).drainFlags := by
    rw [hd, State.me_eq, State.modSlot_eq, State.setSlot_focus, hfocus, State.slot_setSlot_self, hslot, ← State.me_eq]
  obtain ⟨rfile, rwbase, routs⟩ := Slot.drainFlags_rest { s.me with fpflags := f }
  unfold State.flagless
  rw [hme]
  exact ⟨by rw [hd]; exact hfocus, rfile, rwbase, routs⟩

/-! ## FPFLAGS (R134, R138) -/

theorem creg_modFpflags {s : State} {v : BitVec 5} {c : Creg} (hc : c ≠ .fpflags) :
    (s.modMe fun x => { x with fpflags := v }).creg c = s.creg c := by
  cases c
  case fpflags => exact absurd rfl hc
  all_goals simp [State.creg, State.myCore_eq, State.myCluster_eq, State.myDie_eq]

theorem creg_fpflags_modFpflags (s : State) (v : Word) :
    (s.modMe fun x => { x with fpflags := v.setWidth 5 }).creg .fpflags = v &&& 0x1F := by
  have h := setWidth_eq_mask (n := 5) (by decide) v
  simpa [State.creg] using h

/-- What a register holds depends on the file and the window only. -/
theorem holds_congr {s u w t : State} {d : Reg} {v : RV} (h : Holds u w d v) (hw : u.me.wbase = s.me.wbase)
    (hf : u.me.file = s.me.file) (ht : t.me.file = w.me.file) : Holds s t d v := by
  obtain ⟨hdest, -, hregs⟩ := h
  have ew (i : Nat) : t.me.entry i = w.me.entry i := by rw [Slot.entry, ht]; rfl
  have es (i : Nat) : u.me.entry i = s.me.entry i := by rw [Slot.entry, hf]; rfl
  rw [hw] at hdest hregs
  exact ⟨fun i hi => (ew i).trans (hdest i hi), rfl, fun i hi => (ew i).trans ((hregs i hi).trans (es i))⟩

/-- A register result, as it stands at issue. -/
theorem wr_rest (s : State) (d : Reg) (v : RV) (p : Pipe) (lat : Lat) :
    SlotFrame s (s.wr d v p lat) ∧ (s.flagless → (s.wr d v p lat).flagless) ∧ Holds s (s.wr d v p lat) d v := by
  obtain ⟨a, b, hw⟩ : ∃ a b, s.me.write d v p lat = s.me.put d v a b lat := by
    cases p
    · exact ⟨_, _, rfl⟩
    · exact ⟨_, _, rfl⟩
    · exact ⟨_, _, rfl⟩
  have hs : s.wr d v p lat = s.setMe (s.me.put d v a b lat) := congrArg s.setMe hw
  have hme : (s.setMe (s.me.put d v a b lat)).me = s.me.put d v a b lat := by simp
  obtain ⟨hsp, -, -, -, hfp, -, hfile, ho⟩ := put_rest s.me d v a b lat
  rw [hs]
  exact ⟨setMe_frame s _ hsp hfp, fun q => setMe_flagless s _ q ho,
    holds_of_file ((congrArg Slot.file hme).trans hfile)⟩

/-- The old value as a result for `d`, unless the access only writes (R134). -/
def State.oldFlags (u : State) (op : BitVec 3) (d : Reg) : State :=
  if op = 1#3 then u else u.wr d (.int (u.creg .fpflags)) .l0 (.fixed 1)

theorem oldFlags_rest (u : State) (op : BitVec 3) (d : Reg) :
    SlotFrame u (u.oldFlags op d) ∧ (u.flagless → (u.oldFlags op d).flagless) ∧
      (op ≠ 1#3 → Holds u (u.oldFlags op d) d (.int (u.creg .fpflags))) := by
  unfold State.oldFlags
  split_ifs with h
  · exact ⟨.refl u, id, fun h' => absurd h h'⟩
  · obtain ⟨hf, hq, hh⟩ := wr_rest u d (.int (u.creg .fpflags)) .l0 (.fixed 1)
    exact ⟨hf, hq, fun _ => hh⟩

/-- The value that an access writes (R134). -/
def flagsNew (op : BitVec 3) (old v : Word) : Word :=
  if op = 2#3 then old ||| v else if op = 3#3 then old &&& ~~~v else if op = 0#3 then old else v

theorem flagsNew_eq (op : BitVec 3) (old v : Word) : flagsNew op old v =
    if op = 0#3 then old else if op = 2#3 then old ||| v else if op = 3#3 then old &&& ~~~v else v := by
  unfold flagsNew
  by_cases h0 : op = 0#3
  · subst h0; rfl
  · simp only [if_neg h0]

theorem execFpflagsAccess_next {s : State} {op : BitVec 3} {d : Reg} {v : Word} (r : Ready {} s [d]) :
    let u := s.bump.drainFlags s.focus
    execFpflagsAccess op d v s = .next (((u.oldFlags op d).modMe fun x =>
      { x with fpflags := (flagsNew op (u.creg .fpflags) v).setWidth 5 }).retire false) := by
  intro u
  unfold execFpflagsAccess
  rw [issue_ready r]
  simp only [touch_ready r, Bind.bind, Except.bind]
  rfl

theorem fpflagsAccess_answers {s : State} {op : BitVec 3} {d : Reg} {v : Word} (r : Ready {} s [d]) :
    let u := s.bump.drainFlags s.focus
    ∃ t, exec (.fpflagsAccess op d v) s = .next t ∧
      t.creg .fpflags = flagsNew op (u.creg .fpflags) v &&& 0x1F ∧
      (op ≠ 1#3 → Holds s t d (.int (u.creg .fpflags))) ∧ CtrlFrame u t .fpflags := by
  intro u
  obtain ⟨hfocus, hfile, hwbase, hq⟩ := drainFlags_me s.bump
  obtain ⟨of, oq, oh⟩ := oldFlags_rest u op d
  set w := (u.oldFlags op d).modMe fun x =>
    { x with fpflags := (flagsNew op (u.creg .fpflags) v).setWidth 5 } with hw
  have wq : w.flagless := flagless_congr (by simp [hw]) (oq hq)
  have wf : CtrlFrame u w .fpflags := ctrlFrame_trans (of.ctrl _) (ctrlFrame_modMe fun _ hk _ => creg_modFpflags hk)
    (focus_of_outside of.outside) oq
  obtain ⟨g1, -, g3, -⟩ := goOn_frame w (w.me.pc + 4)
  refine ⟨w.goOn w.focus (w.me.pc + 4), execFpflagsAccess_next r, ?_, fun ho => holds_congr (oh ho) hwbase hfile ?_, ?_⟩
  · exact (g1.creg wq _).trans (creg_fpflags_modFpflags _ _)
  · rw [g3, hw]
    simp
  · exact ctrlFrame_trans wf (g1.ctrl _) (focus_of_outside of.outside) fun _ => wq

theorem accessSteps_claim : Claims.AccessSteps := by
  intro s v q
  refine ⟨fun r hv => threadstWrite_answers r hv q, fun r => ?_, fun r h => delayselLoad_answers r q h,
    fun op d r => ?_⟩
  · intro k qu sum min hm
    exact ⟨fun hcap hle hsum => poolminWrite_answers r q hm hcap hle hsum,
      fun hcap hle hsum => poolcapWrite_answers r q hm hcap hle hsum⟩
  · intro u old new
    have h := fpflagsAccess_answers (op := op) (v := v) r
    simp only [flagsNew_eq] at h
    exact h

/-! ## Layouts (R137, R138, R140, R365) -/

theorem threadst_layout (s : State) :
    (s.creg .threadst).getLsbD 15 = s.me.super ∧ (s.creg .threadst).getLsbD 14 = s.me.inTrap ∧
    (s.creg .threadst).getLsbD 7 = s.me.ftz ∧ (s.creg .threadst).extractLsb' 4 3 = s.me.rnd ∧
    (s.creg .threadst).extractLsb' 16 48 = 0 ∧ (s.creg .threadst).extractLsb' 8 6 = 0 ∧
    (s.creg .threadst).extractLsb' 0 4 = 0 := by
  simp only [State.creg]
  refine ⟨?_, ?_, ?_, ?_, ?_, ?_, Laws.ext_lo _ _⟩
  · simp only [BitVec.getLsbD_append]; simp
  · simp only [BitVec.getLsbD_append]; simp
  · simp only [BitVec.getLsbD_append]; simp
  · rw [Laws.ext_hi (k := 0) (h := rfl), Laws.ext_lo]
  · rw [Laws.ext_hi (k := 12) (h := rfl), Laws.ext_hi (k := 9) (h := rfl), Laws.ext_hi (k := 8) (h := rfl),
      Laws.ext_hi (k := 2) (h := rfl), Laws.ext_hi (k := 1) (h := rfl), Laws.ext_hi (k := 0) (h := rfl), Laws.ext_all]
    rfl
  · rw [Laws.ext_hi (k := 4) (h := rfl), Laws.ext_hi (k := 1) (h := rfl), Laws.ext_hi (k := 0) (h := rfl),
      Laws.ext_lo]
    rfl

theorem wordAddr_layout (a : BitVec 52) :
    (wordAddr a).extractLsb' 2 52 = a ∧ (wordAddr a).extractLsb' 0 2 = 0 ∧ (wordAddr a).extractLsb' 54 10 = 0 := by
  unfold wordAddr
  refine ⟨?_, Laws.ext_lo _ _, ?_⟩
  · rw [Laws.ext_hi (k := 0) (h := rfl), Laws.ext_lo]
  · rw [Laws.ext_hi (k := 52) (h := rfl), Laws.ext_hi (k := 0) (h := rfl), Laws.ext_all]
    rfl

theorem trapcause_layout (s : State) :
    (s.creg .trapcause).extractLsb' 0 6 = s.me.trapCause ∧ (s.creg .trapcause).getLsbD 8 = s.me.trapPend := by
  simp only [State.creg]
  refine ⟨Laws.ext_lo _ _, ?_⟩
  simp only [BitVec.getLsbD_append]
  simp

theorem registerLayouts_claim : Claims.RegisterLayouts := by
  intro s
  obtain ⟨h15, h14, h7, h4, h16, h8, h0⟩ := threadst_layout s
  obtain ⟨v2, v0, -⟩ := wordAddr_layout s.me.trapVec
  obtain ⟨p2, -, p54⟩ := wordAddr_layout s.me.trapPc
  obtain ⟨c0, c8⟩ := trapcause_layout s
  refine ⟨h15, h14, h7, h4, h16, h8, h0, v2, v0, p2, p54, c0, c8, ?_, ?_⟩
  · simp only [State.creg]
    apply BitVec.eq_of_toNat_eq
    simpa using s.me.fpflags.isLt
  · simp only [State.creg, coordOf]
    rw [BitVec.toNat_setWidth_of_le (by decide), BitVec.toNat_ofNat]

/-- Settles O11: a write that its register's rule allows changes what reads of that register and of those it selects
depend on; a refused one of THREADST traps; the layouts are those of the registers' words. -/
theorem ctrlSteps : Obligations.CtrlSteps :=
  ⟨accessSteps_claim, threadstWrites_claim, registerLayouts_claim⟩

end Sys2Proof.Machine
end

section
/-! SUPPORT. The default pattern table (R154, R156): what its patterns cost, and the order in which it lists them. -/

namespace Sys2Proof.Machine

/-- What the `k` codes of a pattern add to its squared norm beyond one for each, in eighths (R156). -/
def patternCost (k p : Nat) : Nat := ((List.range k).map fun i => slcCost (p / 4 ^ i % 4)).sum

theorem sq_odd_eq {d : Nat} (h : d < 4) : (2 * d + 1) ^ 2 = 1 + 8 * slcCost d := by
  interval_cases d <;> rfl

/-- The squared norm of a pattern, four times over, in terms of its cost. -/
theorem patternNorm_eq (p : Nat) :
    ((List.range 8).map fun i => (2 * (p / 4 ^ i % 4) + 1) ^ 2).sum = 8 + 8 * patternCost 8 p := by
  have h (i : Nat) : (2 * (p / 4 ^ i % 4) + 1) ^ 2 = 1 + 8 * slcCost (p / 4 ^ i % 4) :=
    sq_odd_eq (Nat.mod_lt _ (by decide))
  simp only [h, List.sum_map_add, List.sum_map_mul_left, patternCost]
  simp

theorem patternCost_succ (k p : Nat) :
    patternCost (k + 1) p = patternCost k (p % 4 ^ k) + slcCost (p / 4 ^ k % 4) := by
  have h : ∀ i ∈ List.range k, slcCost (p / 4 ^ i % 4) = slcCost (p % 4 ^ k / 4 ^ i % 4) := by
    intro i hi
    obtain ⟨j, rfl⟩ : ∃ j, k = i + (j + 1) := ⟨k - i - 1, by have := List.mem_range.mp hi; omega⟩
    rw [Nat.pow_add, Nat.mod_mul_right_div_self, Nat.mod_mod_of_dvd _ (Dvd.intro_left _ (Nat.pow_succ 4 j).symm)]
  simp only [patternCost, List.range_succ, List.map_append, List.sum_append, List.map_cons, List.map_nil,
    List.sum_cons, List.sum_nil, Nat.add_zero, List.map_congr_left h]

/-- The patterns of `k` codes of one cost are those with that cost. -/
theorem mem_patternsOf (k c p : Nat) : p ∈ patternsOf k c ↔ p < 4 ^ k ∧ patternCost k p = c := by
  induction k generalizing c p with
  | zero =>
    have hcost : patternCost 0 p = 0 := rfl
    rw [patternsOf, hcost]
    split_ifs with hc
    · simp [hc]
    · simpa using fun _ => Ne.symm hc
  | succ k ih =>
    have hpos : 0 < 4 ^ k := Nat.pow_pos (by decide)
    rw [patternCost_succ, patternsOf, List.mem_flatMap]
    constructor
    · rintro ⟨d, hd, hp⟩
      have hd4 : d < 4 := List.mem_range.mp hd
      split_ifs at hp with hle
      · obtain ⟨q, hq, rfl⟩ := List.mem_map.mp hp
        obtain ⟨hq4, hqc⟩ := (ih _ _).mp hq
        have hdiv : (d * 4 ^ k + q) / 4 ^ k = d := by
          rw [Nat.mul_comm, Nat.mul_add_div hpos, Nat.div_eq_of_lt hq4, Nat.add_zero]
        have hmod : (d * 4 ^ k + q) % 4 ^ k = q := by
          rw [Nat.mul_comm, Nat.mul_add_mod, Nat.mod_eq_of_lt hq4]
        refine ⟨?_, by rw [hdiv, hmod, Nat.mod_eq_of_lt hd4]; omega⟩
        have : d * 4 ^ k ≤ 3 * 4 ^ k := Nat.mul_le_mul_right _ (by omega)
        rw [Nat.pow_succ]
        omega
      · simp at hp
    · rintro ⟨hp, hc⟩
      have hd4 : p / 4 ^ k < 4 := Nat.div_lt_of_lt_mul (by rwa [Nat.pow_succ] at hp)
      rw [Nat.mod_eq_of_lt hd4] at hc
      refine ⟨p / 4 ^ k, List.mem_range.mpr hd4, ?_⟩
      rw [if_pos (by omega)]
      refine List.mem_map.mpr ⟨p % 4 ^ k, (ih _ _).mpr ⟨Nat.mod_lt _ hpos, by omega⟩, ?_⟩
      rw [Nat.mul_comm]
      exact Nat.div_add_mod ..

theorem patternsOf_rising (k c : Nat) : (patternsOf k c).Pairwise (· < ·) := by
  induction k generalizing c with
  | zero => rw [patternsOf]; split_ifs <;> simp
  | succ k ih =>
    rw [patternsOf, List.pairwise_flatMap]
    refine ⟨fun d _ => ?_, List.pairwise_lt_range.imp fun {d e} hde x hx y hy => ?_⟩
    · split_ifs
      · exact List.pairwise_map.mpr ((ih _).imp fun h => by omega)
      · exact .nil
    · split_ifs at hx hy
      · obtain ⟨q, hq, rfl⟩ := List.mem_map.mp hx
        obtain ⟨r, -, rfl⟩ := List.mem_map.mp hy
        have hq4 := ((mem_patternsOf _ _ _).mp hq).1
        have : (d + 1) * 4 ^ k ≤ e * 4 ^ k := Nat.mul_le_mul_right _ hde
        rw [Nat.add_mul] at this
        omega
      all_goals simp at hx hy

/-- The order of the table: by cost, and then by value. -/
def costBefore (p q : Nat) : Prop :=
  patternCost 8 p < patternCost 8 q ∨ (patternCost 8 p = patternCost 8 q ∧ p < q)

/-- The patterns the table is taken from. -/
def cheapPatterns : List Nat := (List.range 6).flatMap (patternsOf 8)

theorem mem_cheapPatterns {p : Nat} (h : p < 65536) : p ∈ cheapPatterns ↔ patternCost 8 p < 6 := by
  simp [cheapPatterns, mem_patternsOf, h]

theorem cheapPatterns_ordered : cheapPatterns.Pairwise costBefore := by
  refine List.pairwise_flatMap.mpr ⟨fun c _ => ?_, List.pairwise_lt_range.imp fun {c d} hcd p hp q hq => ?_⟩
  · refine (patternsOf_rising 8 c).imp_of_mem fun {p q} hp hq hpq => ?_
    exact .inr ⟨((mem_patternsOf _ _ _).mp hp).2.trans ((mem_patternsOf _ _ _).mp hq).2.symm, hpq⟩
  · rw [mem_patternsOf] at hp hq
    exact .inl (by omega)

theorem costBefore_iff (p q : Nat) :
    costBefore p q ↔ 8 + 8 * patternCost 8 p < 8 + 8 * patternCost 8 q ∨
      (8 + 8 * patternCost 8 p = 8 + 8 * patternCost 8 q ∧ p < q) := by
  unfold costBefore
  omega

/-- A pattern that the table leaves out comes after all that it holds. -/
theorem costBefore_of_not_mem {p q : Nat} (hp : p < 65536) (hn : p ∉ defaultPatterns) (hq : q ∈ defaultPatterns) :
    costBefore q p := by
  have hq6 : patternCost 8 q < 6 := by
    obtain ⟨c, hc, hqc⟩ := List.mem_flatMap.mp (List.mem_of_mem_take hq)
    rw [((mem_patternsOf _ _ _).mp hqc).2]
    exact List.mem_range.mp hc
  by_cases hm : p ∈ cheapPatterns
  · have hord := cheapPatterns_ordered
    rw [← List.take_append_drop 256 cheapPatterns] at hm hord
    exact (List.pairwise_append.mp hord).2.2 q hq p ((List.mem_append.mp hm).resolve_left hn)
  · rw [mem_cheapPatterns hp] at hm
    exact .inl (by omega)

theorem defaultPatterns_length : defaultPatterns.length = 256 := by decide +kernel

theorem defaultPatterns_claim : Claims.DefaultPatterns := by
  unfold Claims.DefaultPatterns
  simp only [patternNorm_eq]
  refine ⟨defaultPatterns_length, ?_, fun p hp hn q hq => ?_, fun _ _ _ => rfl⟩
  · exact (cheapPatterns_ordered.sublist (List.take_sublist _ _)).imp fun {p q} h => (costBefore_iff p q).mp h
  · exact (costBefore_iff q p).mp (costBefore_of_not_mem hp hn hq)

end Sys2Proof.Machine
end

section
/-! SUPPORT. What accesses that are performed at their homes, and translations, leave of slots and cores: all but the
slots' flags, errors, counts of acknowledgements and stores, and the cores' commands and cached translations. -/

namespace Sys2Proof.Machine

/-- A slot without what stores, errors, acknowledgements and flags change. -/
def Slot.still (x : Slot) : Slot := { x with fpflags := 0, acks := ⟨0, 0, 0, 0⟩, err := .none, stores := [] }

/-- A core without the commands of its engine and its cached translations. -/
def Core.still (k : Core) : Core := { k with queue := [], dtlb := [], itlb := [] }

/-- The turn, every slot's `still` and every core's `still` are as before. -/
structure Still (s t : State) : Prop where
  focus : t.focus = s.focus
  slots : ∀ c, (t.slot c).still = (s.slot c).still
  cores : ∀ k, (t.core k).still = (s.core k).still

theorem Still.refl (s : State) : Still s s := ⟨rfl, fun _ => rfl, fun _ => rfl⟩

theorem Still.trans {s t u : State} (a : Still s t) (b : Still t u) : Still s u :=
  ⟨b.focus.trans a.focus, fun c => (b.slots c).trans (a.slots c), fun k => (b.cores k).trans (a.cores k)⟩

theorem Still.foldl {α : Type} {f : State → α → State} (h : ∀ s a, Still s (f s a)) (l : List α) (s : State) :
    Still s (l.foldl f s) := by
  induction l generalizing s with
  | nil => exact .refl s
  | cons a l ih => exact (h s a).trans (ih _)

/-- A further change outside slots and cores. -/
theorem Still.upd {s t u : State} (h : Still s t) (hs : u.slots = t.slots) (hc : u.cores = t.cores)
    (hf : u.focus = t.focus) : Still s u :=
  ⟨hf.trans h.focus, fun c => by rw [← h.slots]; simp only [State.slot, hs],
    fun k => by rw [← h.cores]; simp only [State.core, hc]⟩

theorem Still.modSlot (s : State) (c : Nat) {f : Slot → Slot} (h : ∀ x, (f x).still = x.still) :
    Still s (s.modSlot c f) := by
  refine ⟨rfl, fun d => ?_, fun _ => rfl⟩
  simp only [State.modSlot_eq, State.slot_setSlot]
  split_ifs with hd
  · rw [hd, h]
  · rfl

theorem Still.modCore (s : State) (k : Nat) {f : Core → Core} (h : ∀ x, (f x).still = x.still) :
    Still s (s.modCore k f) := by
  refine ⟨rfl, fun _ => rfl, fun j => ?_⟩
  simp only [State.modCore_eq, State.core_setCore]
  split_ifs with hj
  · rw [hj, h]
  · rfl

/-- What `still` keeps of the slot whose turn it is. -/
theorem Still.me {s t : State} (h : Still s t) : t.me.still = s.me.still := by
  rw [State.me_eq, h.focus]
  exact h.slots _

theorem Still.scratch {s t : State} (h : Still s t) (k : Nat) : (t.core k).scratch = (s.core k).scratch := by
  have := congrArg Core.scratch (h.cores k)
  exact this

theorem Still.units {s t : State} (h : Still s t) (k : Nat) : (t.core k).units = (s.core k).units := by
  have := congrArg Core.units (h.cores k)
  exact this

theorem Still.munit {s t : State} (h : Still s t) (u : Nat) : t.munit u = s.munit u := by
  rw [State.munit, State.myCore_eq, h.focus, h.units]
  rfl

/-! ## Reads that find nothing on its way -/

/-- Slots, cores and memory are as before, and every store on its way is one of a slot that had one there. -/
structure Silent (s t : State) : Prop where
  focus : t.focus = s.focus
  slots : ∀ c, t.slot c = s.slot c
  cores : ∀ k, t.core k = s.core k
  mem : t.mem = s.mem
  fabric : ∀ p ∈ t.fabric, ∃ q ∈ s.fabric, q.slot = p.slot

theorem Silent.refl (s : State) : Silent s s := ⟨rfl, fun _ => rfl, fun _ => rfl, rfl, fun p hp => ⟨p, hp, rfl⟩⟩

theorem Silent.trans {s t u : State} (a : Silent s t) (b : Silent t u) : Silent s u :=
  ⟨b.focus.trans a.focus, fun c => (b.slots c).trans (a.slots c), fun k => (b.cores k).trans (a.cores k),
    b.mem.trans a.mem, fun p hp => by
      obtain ⟨q, hq, hqp⟩ := b.fabric p hp
      obtain ⟨r, hr, hrq⟩ := a.fabric q hq
      exact ⟨r, hr, hrq.trans hqp⟩⟩

theorem Silent.foldl {α : Type} {f : State → α → State} (h : ∀ s a, Silent s (f s a)) (l : List α) (s : State) :
    Silent s (l.foldl f s) := by
  induction l generalizing s with
  | nil => exact .refl s
  | cons a l ih => exact (h s a).trans (ih _)

/-- A change of what a `Silent` step may change. -/
theorem Silent.outer {s t : State} (hs : t.slots = s.slots) (hc : t.cores = s.cores) (hf : t.focus = s.focus)
    (hm : t.mem = s.mem) (hfab : t.fabric = s.fabric) : Silent s t :=
  ⟨hf, fun c => by simp only [State.slot, hs], fun k => by simp only [State.core, hc], hm,
    fun p hp => ⟨p, hfab ▸ hp, rfl⟩⟩

theorem Silent.still {s t : State} (h : Silent s t) : Still s t :=
  ⟨h.focus, fun c => by rw [h.slots], fun k => by rw [h.cores]⟩

theorem Silent.bump (s : State) : Silent s s.bump := .outer rfl rfl rfl rfl rfl
theorem Silent.modCluster (s : State) (k : Nat) (f : Cluster → Cluster) : Silent s (s.modCluster k f) :=
  .outer rfl rfl rfl rfl rfl

theorem Silent.hbmError (s : State) (pa : Nat) : Silent s (s.hbmError pa) := by
  unfold State.hbmError
  dsimp only
  split
  · exact .outer rfl rfl rfl rfl rfl
  · split <;> exact .outer rfl rfl rfl rfl rfl

theorem Silent.meet (s : State) (pa n : Nat) : Silent s (s.meet pa n) :=
  .foldl (fun s w => .hbmError s (8 * w)) _ s

theorem Silent.found (s : State) (c : Cause) (pa n : Nat) : Silent s (s.found c pa n) := by
  unfold State.found
  split
  · exact .refl s
  · split
    · exact .meet s pa n
    · exact .hbmError s pa

theorem Silent.transmit (s : State) (d pkg : Nat) (b : List Byte) : Silent s (s.transmit d pkg b).1 :=
  .outer rfl rfl rfl rfl rfl

theorem Silent.badFlits (s : State) (l : Nat) : Silent s (s.badFlits l) := by
  unfold State.badFlits
  dsimp only
  split <;> exact .outer rfl rfl rfl rfl rfl

/-- A packet on its way is replaced by one of the same slot. -/
theorem Silent.setFabric {s t : State} (h : Silent s t) {p q : Packet} (hp : p ∈ s.fabric) (hq : q.slot = p.slot)
    (i : Nat) : Silent s { t with fabric := t.fabric.set i q } :=
  ⟨h.focus, h.slots, h.cores, h.mem, fun r hr => by
    rcases List.mem_or_eq_of_mem_set hr with hr | rfl
    · exact h.fabric r hr
    · exact ⟨p, hp, hq.symm⟩⟩

theorem Silent.respray (s : State) (l : Nat) : Silent s (s.respray l) := by
  unfold State.respray
  dsimp only
  have h0 : Silent s (s.setLink l { s.link l with replay := [] }) := .outer rfl rfl rfl rfl rfl
  have hmem : ∀ e ∈ s.fabric.zipIdx, e.1 ∈ s.fabric := fun e he => by
    obtain ⟨-, h⟩ := List.mem_zipIdx' he
    exact h ▸ List.getElem_mem _
  change Silent s (List.foldl _ (s.setLink l { s.link l with replay := [] }) s.fabric.zipIdx)
  generalize s.setLink l { s.link l with replay := [] } = t at h0
  generalize s.fabric.zipIdx = es at hmem
  induction es generalizing t with
  | nil => exact h0
  | cons e es ih =>
    refine ih _ ?_ fun e he => hmem e (List.mem_cons_of_mem _ he)
    dsimp only
    split
    · refine Silent.setFabric ?_ (hmem e List.mem_cons_self) ?_ _
      · exact h0.trans (.transmit t _ _ _)
      · rfl
    · exact h0

theorem Silent.failTag (s : State) (l n : Nat) : Silent s (s.failTag l n) := by
  have h (x : Link) : Silent s ((s.setLink l x).badFlits l) :=
    (show Silent s (s.setLink l x) from .outer rfl rfl rfl rfl rfl).trans (.badFlits _ l)
  unfold State.failTag
  dsimp only
  split
  · exact (h _).trans (.respray _ l)
  · exact h _

theorem Silent.failTags (s : State) (l n k : Nat) : Silent s (s.failTags l n k) := by
  induction k generalizing s with
  | zero => exact .refl s
  | succ k ih => exact (Silent.failTag s l n).trans (ih _)

theorem Silent.cross (s : State) (d pkg : Nat) (b : List Byte) : Silent s (s.cross d pkg b) := by
  unfold State.cross
  dsimp only
  have h := (Silent.transmit s d pkg b).trans (.failTags (s.transmit d pkg b).1 (s.transmit d pkg b).2.1
    (s.transmit d pkg b).2.2 (Config.choice (s.transmit d pkg b).1.free 0x730 % 5))
  split
  · exact h.trans (.transmit _ _ _ _)
  · exact h

theorem Silent.exchange (s : State) (d pa : Nat) (b : List Byte) : Silent s (s.exchange d pa b) := by
  unfold State.exchange
  split
  · exact .cross s d _ b
  · exact .refl s

theorem Silent.keepCache (s : State) (cl : Nat) (f : Nat → Bool) : Silent s (s.keepCache cl f) :=
  .modCluster s cl _

theorem Silent.dropLine (s : State) (cl line : Nat) : Silent s (s.dropLine cl line) := .keepCache s cl _

theorem Silent.makeRoom (s : State) (cl line : Nat) : Silent s (s.makeRoom cl line) := by
  unfold State.makeRoom
  dsimp only
  split
  · exact .refl s
  · split
    · exact .dropLine s cl _
    · exact .refl s

theorem Silent.fillLine (s : State) (cl line : Nat) : Silent s (s.fillLine cl line) := by
  unfold State.fillLine
  exact (Silent.makeRoom s cl line).trans (.modCluster _ cl _)

/-! ## Stores performed (R236, R240) -/

theorem Still.recordErr (s : State) (c : Nat) (e : Cause) (a i : Word) (pos : Nat) :
    Still s (s.recordErr c e a i pos) := .modSlot s c fun _ => rfl

theorem Still.setStores (s : State) (c : Nat) (l : List Packet) : Still s (s.setStores c l) :=
  .modSlot s c fun _ => rfl

theorem Still.enter (s : State) (p : Packet) : Still s (s.enter p) := by
  unfold State.enter
  dsimp only
  split
  · exact (Silent.makeRoom s _ _).still.upd rfl rfl rfl
  · exact (Still.refl s).upd rfl rfl rfl

theorem Still.enterStores (s : State) (c : Nat) (hit : Packet → Bool) : Still s (s.enterStores c hit) :=
  (Still.setStores s c _).trans (.foldl Still.enter _ _)

theorem Still.setFlow (s : State) (d pkg : Nat) (f : Flow) : Still s (s.setFlow d pkg f) :=
  (Still.refl s).upd rfl rfl rfl

theorem Still.markRel (s : State) (p : Packet) (c : Cause) : Still s (s.markRel p c) := by
  unfold State.markRel
  exact .modCore s _ fun _ => rfl

theorem Still.sendPacket (s : State) (p : Packet) : Still s (s.sendPacket p).1 := by
  unfold State.sendPacket
  dsimp only
  split
  · exact .refl s
  · exact (Still.setFlow s _ _ _).trans (Silent.transmit _ _ _ _).still

theorem Still.installWritten (s : State) (pa n : Nat) : Still s (s.installWritten pa n) := by
  unfold State.installWritten
  extract_lets o l
  split
  · exact .refl s
  · exact (Still.refl s).upd rfl rfl rfl

theorem Still.homeWrite (s : State) (pa n v : Nat) : Still s (s.homeWrite pa n v) := by
  have h : Still s { s.unpoison pa n with mem := (s.unpoison pa n).mem.writeLE pa n v } :=
    (Still.refl s).upd rfl rfl rfl
  unfold State.homeWrite State.pokePhys
  split
  · exact h
  · split
    · exact h.trans (.installWritten _ pa n)
    · exact (Still.refl s).upd rfl rfl rfl

theorem Still.perform (s : State) (p : Packet) (e : Option Cause) : Still s (s.perform p e) := by
  cases e with
  | none => exact .homeWrite s _ _ _
  | some c =>
    have h : Still s ((s.found c p.loc p.bytes.length).markRel p c) :=
      (Silent.found s c p.loc p.bytes.length).still.trans (.markRel _ _ _)
    unfold State.perform
    dsimp only
    split
    · exact h
    · exact h.trans (.recordErr _ _ _ _ _ _)

theorem Still.finishStore (s : State) (p : Packet) : Still s (s.finishStore p).1 := by
  unfold State.finishStore
  split
  · exact .refl s
  · dsimp only
    split
    · exact (Still.sendPacket s p).trans (.perform _ _ _)
    · split
      · exact .perform s p _
      · exact (Silent.transmit s _ _ _).still.trans (.perform _ _ _)

theorem Still.ackPacket (s : State) (p : Packet) : Still s (s.ackPacket p) := by
  unfold State.ackPacket
  split
  · exact .refl s
  · exact .modSlot s _ fun _ => rfl

theorem Still.finishFrom (s : State) (hit : Packet → Bool) (done l : List Packet) :
    Still s (s.finishFrom hit done l).1 := by
  induction l generalizing s done with
  | nil => exact .refl s
  | cons p ps ih =>
    unfold State.finishFrom
    dsimp only
    split
    · exact ((Still.foldl Still.ackPacket _ s).trans (.finishStore _ p)).trans (ih _ _)
    · exact ih s _

theorem Still.finishStores (s : State) (hit : Packet → Bool) : Still s (s.finishStores hit) :=
  (Still.finishFrom s hit [] s.fabric).upd rfl rfl rfl

theorem Still.flushLine (s : State) (c pa : Nat) : Still s (s.flushLine c pa) :=
  (Still.enterStores s c _).trans (.finishStores _ _)

/-! ## Reads of memory (R236, R240) -/

/-- What a read of memory makes of the stores of its slot before it reads. -/
def State.atRead (s : State) (c pa : Nat) : State :=
  let t := s.enterStores c fun p => lineOf p.loc == lineOf pa
  if t.fabric.any fun p => p.slot == c && !p.buffered && lineOf p.loc == lineOf pa then t.flushLine c pa else t

/-- A read is served by its home, by the read cache, or by its home into the read cache. -/
theorem readGlobal_cases (s : State) (c pa : Nat) (cached : Bool) (n : Nat) :
    let u := s.atRead c pa
    let cl := clusterOf c
    let line := lineOf pa
    let home := (u.flushLine c pa).exchange (dieOf c) pa []
    let room := (if u.lineHeld cl line || Config.flag u.free (pa + 2 ^ 55) then u else u.dropLine cl line).exchange
      (dieOf c) pa []
    (∃ e, home.readFault pa n = some e ∧ s.readGlobal c pa cached n = (home.found e pa n, .error e)) ∨
    (home.readFault pa n = none ∧
      s.readGlobal c pa cached n = (home.dropLine cl line, .ok (home.homeRead pa n))) ∨
    (u.valid cl pa n = true ∧ s.readGlobal c pa cached n = (u, .ok (cacheRead (u.cluster cl).cache pa n))) ∨
    (∃ e, room.readFault pa n = some e ∧ s.readGlobal c pa cached n = (room.found e pa n, .error e)) ∨
    (room.readFault pa n = none ∧ s.readGlobal c pa cached n =
      (room.fillLine cl line, .ok (cacheRead ((room.fillLine cl line).cluster cl).cache pa n))) := by
  intro u cl line home room
  have hread : s.readGlobal c pa cached n =
      if !cached || decide (2 ^ 40 ≤ localOf pa) then
        match home.readFault pa n with
        | some e => (home.found e pa n, .error e)
        | none => (home.dropLine cl line, .ok (home.homeRead pa n))
      else if u.valid cl pa n && (u.lineHeld cl line || Config.flag u.free (pa + 2 ^ 56)) then
        (u, .ok (cacheRead (u.cluster cl).cache pa n))
      else
        match room.readFault pa n with
        | some e => (room.found e pa n, .error e)
        | none => (room.fillLine cl line, .ok (cacheRead ((room.fillLine cl line).cluster cl).cache pa n)) := rfl
  rw [hread]
  split_ifs with h1 h2
  · cases he : home.readFault pa n with
    | some e => exact .inl ⟨e, rfl, rfl⟩
    | none => exact .inr (.inl ⟨rfl, rfl⟩)
  · exact .inr (.inr (.inl ⟨(Bool.and_eq_true _ _ ▸ h2).1, rfl⟩))
  · cases he : room.readFault pa n with
    | some e => exact .inr (.inr (.inr (.inl ⟨e, rfl, rfl⟩)))
    | none => exact .inr (.inr (.inr (.inr ⟨rfl, rfl⟩)))

theorem Still.atRead (s : State) (c pa : Nat) : Still s (s.atRead c pa) := by
  unfold State.atRead
  dsimp only
  split
  · exact (Still.enterStores s c _).trans (.flushLine _ c pa)
  · exact .enterStores s c _

theorem Still.readGlobal (s : State) (c pa : Nat) (cached : Bool) (n : Nat) :
    Still s (s.readGlobal c pa cached n).1 := by
  have hu := Still.atRead s c pa
  have hhome := (hu.trans (.flushLine _ c pa)).trans (Silent.exchange _ (dieOf c) pa []).still
  have hroom : Still s ((if (s.atRead c pa).lineHeld (clusterOf c) (lineOf pa) ||
      Config.flag (s.atRead c pa).free (pa + 2 ^ 55) then s.atRead c pa
      else (s.atRead c pa).dropLine (clusterOf c) (lineOf pa)).exchange (dieOf c) pa []) := by
    refine Still.trans ?_ (Silent.exchange _ _ _ _).still
    split
    · exact hu
    · exact hu.trans (Silent.dropLine _ _ _).still
  rcases readGlobal_cases s c pa cached n with ⟨e, -, h⟩ | ⟨-, h⟩ | ⟨-, h⟩ | ⟨e, -, h⟩ | ⟨-, h⟩
  · rw [h]; exact hhome.trans (Silent.found _ _ _ _).still
  · rw [h]; exact hhome.trans (Silent.dropLine _ _ _).still
  · rw [h]; exact hu
  · rw [h]; exact hroom.trans (Silent.found _ _ _ _).still
  · rw [h]; exact hroom.trans (Silent.fillLine _ _ _).still

/-- No store of the slot or of its cluster is on its way. -/
def Quiet (s : State) (c : Nat) : Prop :=
  (s.slot c).stores = [] ∧ ∀ p ∈ s.fabric, clusterOf p.slot ≠ clusterOf c

theorem Silent.quiet {s t : State} {c : Nat} (h : Silent s t) (q : Quiet s c) : Quiet t c :=
  ⟨by rw [h.slots]; exact q.1, fun p hp => by
    obtain ⟨r, hr, hrp⟩ := h.fabric p hp
    rw [← hrp]
    exact q.2 r hr⟩

theorem enterStores_quiet {s : State} {c : Nat} (q : Quiet s c) (hit : Packet → Bool) :
    s.enterStores c hit = s.setStores c [] := by
  unfold State.enterStores
  simp [q.1]

theorem Silent.setStores {s : State} {c : Nat} (q : Quiet s c) : Silent s (s.setStores c []) := by
  refine ⟨rfl, fun d => ?_, fun _ => rfl, rfl, fun p hp => ⟨p, hp, rfl⟩⟩
  simp only [State.setStores, State.modSlot_eq, State.slot_setSlot]
  split_ifs with hd
  · rw [hd, ← q.1]
  · rfl

theorem finishFrom_none {s : State} {hit : Packet → Bool} {l : List Packet} (h : ∀ p ∈ l, hit p = false)
    (done : List Packet) : s.finishFrom hit done l = (s, done ++ l) := by
  induction l generalizing done with
  | nil => simp [State.finishFrom]
  | cons p ps ih =>
    have hps : ∀ q ∈ ps, hit q = false := fun q hq => h q (List.mem_cons_of_mem _ hq)
    have hskip : (hit p || ps.any fun q => hit q && q.sameLine p) = false := by
      rw [h p List.mem_cons_self, Bool.false_or, List.any_eq_false]
      intro q hq
      simp [hps q hq]
    unfold State.finishFrom
    rw [hskip]
    simp only [Bool.false_eq_true, if_false, ih hps, List.append_assoc, List.singleton_append]

theorem flushLine_quiet {s : State} {c : Nat} (q : Quiet s c) (pa : Nat) : s.flushLine c pa = s.setStores c [] := by
  have hfab : (s.setStores c []).fabric = s.fabric := rfl
  unfold State.flushLine State.finishStores
  simp only [enterStores_quiet q]
  rw [finishFrom_none]
  · rfl
  · intro p hp
    simp [q.2 p (hfab ▸ hp)]

theorem atRead_quiet {s : State} {c : Nat} (q : Quiet s c) (pa : Nat) :
    s.atRead c pa = s.setStores c [] := by
  have hnone : (s.fabric.any fun p => p.slot == c && !p.buffered && lineOf p.loc == lineOf pa) = false := by
    rw [List.any_eq_false]
    intro p hp
    have : p.slot ≠ c := fun h => q.2 p hp (h ▸ rfl)
    simp [this]
  have hfab : (s.setStores c []).fabric = s.fabric := rfl
  unfold State.atRead
  simp only [enterStores_quiet q, hfab, hnone, Bool.false_eq_true, if_false]

theorem Silent.readGlobal {s : State} {c : Nat} (q : Quiet s c) (pa : Nat) (cached : Bool) (n : Nat) :
    Silent s (s.readGlobal c pa cached n).1 := by
  have hu : Silent s (s.atRead c pa) := atRead_quiet q pa ▸ Silent.setStores q
  have hhome : Silent s (((s.atRead c pa).flushLine c pa).exchange (dieOf c) pa []) := by
    refine (hu.trans ?_).trans (.exchange _ _ _ _)
    rw [flushLine_quiet (hu.quiet q)]
    exact Silent.setStores (hu.quiet q)
  have hroom : Silent s ((if (s.atRead c pa).lineHeld (clusterOf c) (lineOf pa) ||
      Config.flag (s.atRead c pa).free (pa + 2 ^ 55) then s.atRead c pa
      else (s.atRead c pa).dropLine (clusterOf c) (lineOf pa)).exchange (dieOf c) pa []) := by
    refine Silent.trans ?_ (.exchange _ _ _ _)
    split
    · exact hu
    · exact hu.trans (.dropLine _ _ _)
  rcases readGlobal_cases s c pa cached n with ⟨e, -, h⟩ | ⟨-, h⟩ | ⟨-, h⟩ | ⟨e, -, h⟩ | ⟨-, h⟩
  · rw [h]; exact hhome.trans (.found _ _ _ _)
  · rw [h]; exact hhome.trans (.dropLine _ _ _)
  · rw [h]; exact hu
  · rw [h]; exact hroom.trans (.found _ _ _ _)
  · rw [h]; exact hroom.trans (.fillLine _ _ _)

/-! ## Translations (R358 to R362) -/

theorem Still.setAD (s : State) (a : Nat) (e : Word) (w : Bool) : Still s (s.setAD a e w).1 := by
  unfold State.setAD
  extract_lets n
  split
  · exact .refl s
  · exact (Still.refl s).upd rfl rfl rfl

theorem Still.fill (s : State) (core : Nat) (f : Bool) (t : TlbEntry) : Still s (s.fill core f t) := by
  unfold State.fill
  refine Still.trans (.modCore s core fun k => ?_) (Silent.modCluster _ _ _).still
  split <;> rfl

theorem Still.walkFill {s t : State} {core : Nat} {asid : BitVec 16} {root : BitVec 40} {super : Bool} {va : Nat}
    {k : AccKind} {pa : Nat} {leaf : Word} (e : s.walkFill core asid root super va k = .ok t pa leaf) : Still s t := by
  unfold State.walkFill at e
  split at e
  · cases e
  · cases e
  · cases e
  · split at e
    · cases e
    · cases e; exact (Still.setAD _ _ _ _).trans (.fill _ _ _ _)

theorem Still.translate {s t : State} {core : Nat} {asid : BitVec 16} {root : BitVec 40} {super : Bool} {va : Nat}
    {k : AccKind} {pa : Nat} {leaf : Word} (e : s.translate core asid root super va k = .ok t pa leaf) :
    Still s t := by
  unfold State.translate at e
  dsimp only at e
  split at e
  · exact .walkFill e
  · split at e
    · cases e; exact .refl s
    · exact .walkFill e

theorem Still.target {s t : State} {va : Word} {n : Nat} {k : AccKind} {float : Bool} {tg : Target}
    (e : target s va n k float = .ok (t, tg)) : Still s t := by
  unfold Machine.target at e
  dsimp only at e
  split_ifs at e
  · cases e; exact .refl s
  · split at e
    · cases e
    · cases e
    · cases e
    · next h =>
      split_ifs at e
      cases e
      exact .translate h

/-- What comes after part of an instruction, where it ends well. -/
theorem during_ok {α : Type} {s : State} {e : Except Stop α} {a : α} : during s e = .ok a ↔ e = .ok a := by
  cases e with
  | ok b => exact Iff.rfl
  | error e => cases e <;> simp [during]

/-- The pieces of `n` bytes of a row: their number, and what their translations leave. -/
theorem piecesFrom_ok {k : AccKind} {size : Nat} (n : Nat) {s t : State} {va : Word} {l : List Piece}
    (e : piecesFrom s k va size n = .ok (t, l)) : Still s t ∧ l.length = n := by
  induction n generalizing s t va l with
  | zero => cases e; exact ⟨.refl s, rfl⟩
  | succ n ih =>
    unfold piecesFrom at e
    cases h : target s va 1 k false with
    | error x => rw [h] at e; cases e
    | ok p =>
      obtain ⟨u, tg⟩ := p
      rw [h] at e
      simp only [Bind.bind, Except.bind] at e
      cases h' : during u (piecesFrom u k (va + BitVec.ofNat 64 size) size n) with
      | error x => rw [h'] at e; cases e
      | ok p =>
        obtain ⟨w, l'⟩ := p
        rw [h'] at e
        cases e
        obtain ⟨hs, hl⟩ := ih (during_ok.mp h')
        exact ⟨(Still.target h).trans hs, by simp [hl]⟩

theorem rowPieces_ok {k : AccKind} {n : Nat} {s t : State} {va : Word} {l : List Piece}
    (e : rowPieces s k va n = .ok (t, l)) : Still s t ∧ l.length = n / min n 16 := by
  unfold rowPieces at e
  split_ifs at e
  exact piecesFrom_ok _ e

theorem allPieces_still {k : AccKind} {rows : List (Word × Nat)} {s t : State} {ps : List (List Piece)}
    (e : allPieces s k rows = .ok (t, ps)) :
    Still s t ∧ ps.flatten.length = (rows.map fun r => r.2 / min r.2 16).sum := by
  induction rows generalizing s t ps with
  | nil => cases e; exact ⟨.refl s, rfl⟩
  | cons r rows ih =>
    obtain ⟨va, n⟩ := r
    unfold allPieces at e
    cases h : rowPieces s k va n with
    | error x => rw [h] at e; cases e
    | ok p =>
      obtain ⟨u, l⟩ := p
      rw [h] at e
      simp only [Bind.bind, Except.bind] at e
      cases h' : during u (allPieces u k rows) with
      | error x => rw [h'] at e; cases e
      | ok p =>
        obtain ⟨w, ps'⟩ := p
        rw [h'] at e
        cases e
        obtain ⟨hs, hl⟩ := ih (during_ok.mp h')
        obtain ⟨hs', hl'⟩ := rowPieces_ok h
        exact ⟨hs'.trans hs, by simp [hl, hl']⟩

end Sys2Proof.Machine
end

section
/-! SUPPORT. Reads of the own package's memory that find no store on its way and no poison (R236, R240): what they
deliver, and what they leave. -/

namespace Sys2Proof.Machine

/-! ## What such a read leaves -/

/-- Nothing that a later read depends on has changed: only what the read caches hold, which is still what memory
holds, and the counter of free values. -/
structure SameReads (s t : State) : Prop where
  focus : t.focus = s.focus
  slots : ∀ c, t.slot c = s.slot c
  cores : ∀ k, t.core k = s.core k
  mem : t.mem = s.mem
  fabric : t.fabric = s.fabric
  image : t.image = s.image
  poison : t.poison = s.poison
  bad : t.bad = s.bad
  cache : Coherent s → Coherent t

theorem SameReads.refl (s : State) : SameReads s s :=
  ⟨rfl, fun _ => rfl, fun _ => rfl, rfl, rfl, rfl, rfl, rfl, id⟩

theorem SameReads.trans {s t u : State} (a : SameReads s t) (b : SameReads t u) : SameReads s u :=
  ⟨b.focus.trans a.focus, fun c => (b.slots c).trans (a.slots c), fun k => (b.cores k).trans (a.cores k),
    b.mem.trans a.mem, b.fabric.trans a.fabric, b.image.trans a.image, b.poison.trans a.poison, b.bad.trans a.bad,
    fun h => b.cache (a.cache h)⟩

theorem SameReads.bump (s : State) : SameReads s s.bump :=
  ⟨rfl, fun _ => rfl, fun _ => rfl, rfl, rfl, rfl, rfl, rfl, id⟩

theorem SameReads.me {s t : State} (h : SameReads s t) : t.me = s.me := by
  rw [State.me_eq, h.focus, h.slots]
  rfl

theorem SameReads.still {s t : State} (h : SameReads s t) : Still s t :=
  ⟨h.focus, fun c => by rw [h.slots], fun k => by rw [h.cores]⟩

theorem SameReads.poisoned {s t : State} (h : SameReads s t) (pa n : Nat) : t.poisoned pa n = s.poisoned pa n := by
  simp only [State.poisoned, h.poison, h.bad]

theorem SameReads.idle {s t : State} (h : SameReads s t) (i : Idle s) : Idle t := by
  refine ⟨?_, ?_, ?_, ?_⟩
  · rw [h.me]; exact i.loads
  · rw [h.me]; exact i.stores
  · rw [State.myCore_eq, h.focus, h.cores]; exact i.units
  · rw [h.fabric, h.focus]; exact i.fabric

theorem SameReads.plain {s t : State} (h : SameReads s t) {pa n : Nat} (p : Plain s pa n) : Plain t pa n := by
  refine ⟨p.some, p.line, ?_, p.memory, fun i hi => (h.poisoned _ _).trans (p.sound i hi)⟩
  rw [State.remote, h.image]
  exact p.own

theorem SameReads.held {s t : State} (h : SameReads s t) (tg : Target) (n : Nat) :
    Sys2Proof.held t tg n = Sys2Proof.held s tg n := by
  cases tg with
  | scratch k off => simp only [Sys2Proof.held, h.cores]
  | phys pa leaf => simp only [Sys2Proof.held, h.mem]

theorem SameReads.setStores {s : State} {c : Nat} (q : Quiet s c) : SameReads s (s.setStores c []) :=
  ⟨rfl, (Silent.setStores q).slots, fun _ => rfl, rfl, rfl, rfl, rfl, rfl, id⟩

/-- The caches change, to what is still what memory holds. -/
theorem SameReads.modCluster (s : State) (cl : Nat) (f : Cluster → Cluster)
    (h : (∀ a b, (s.cluster cl).cache.find a = some b → b = s.mem.read a) →
      ∀ a b, (f (s.cluster cl)).cache.find a = some b → b = s.mem.read a) : SameReads s (s.modCluster cl f) := by
  refine ⟨rfl, fun _ => rfl, fun _ => rfl, rfl, rfl, rfl, rfl, rfl, fun hc => ?_⟩
  intro a b hab
  have hcl : (s.modCluster cl f).myCluster =
      if clusterOf s.focus = cl then f (s.cluster cl) else s.cluster (clusterOf s.focus) := by
    simp only [State.modCluster_eq, State.myCluster_eq]
    exact State.cluster_setCluster ..
  rw [hcl] at hab
  split_ifs at hab with he
  · exact h (fun a b => he ▸ hc a b) a b hab
  · exact hc a b hab

theorem AMap.find_filter {α : Type} (m : AMap α) (keep : Nat → Bool) (a : Nat) :
    AMap.find (m.filter fun e => keep e.1) a = if keep a then m.find a else none := by
  induction m with
  | nil => simp
  | cons e m ih =>
    obtain ⟨k, v⟩ := e
    by_cases hk : k = a
    · subst hk
      by_cases hkeep : keep k = true
      · simp [AMap.find, hkeep]
      · simp [ih, hkeep]
    · by_cases hkeep : keep k = true
      · simp [AMap.find, hkeep, hk, ih]
      · simp [AMap.find, hkeep, hk, ih]

theorem SameReads.keepCache (s : State) (cl : Nat) (keep : Nat → Bool) : SameReads s (s.keepCache cl keep) := by
  unfold State.keepCache
  refine .modCluster s cl _ fun h a b hab => h a b ?_
  dsimp only at hab
  rw [AMap.find_filter] at hab
  split_ifs at hab
  exact hab

theorem SameReads.dropLine (s : State) (cl line : Nat) : SameReads s (s.dropLine cl line) := .keepCache s cl _

theorem SameReads.makeRoom (s : State) (cl line : Nat) : SameReads s (s.makeRoom cl line) := by
  unfold State.makeRoom
  dsimp only
  split
  · exact .refl s
  · split
    · exact .dropLine s cl _
    · exact .refl s

/-! ## A line brought into the cache (R236) -/

/-- Byte `i` of a line goes beneath the valid bytes. -/
def State.fillByte (s : State) (line : Nat) (m : AMap Byte) (i : Nat) : AMap Byte :=
  if (m.find (64 * line + i)).isSome || s.poisoned (64 * line + i) 1 then m
  else m.set (64 * line + i) (s.mem.read (64 * line + i))

theorem fillLine_eq (s : State) (cl line : Nat) : s.fillLine cl line = (s.makeRoom cl line).modCluster cl fun k =>
    { k with cache := (List.range 64).foldl ((s.makeRoom cl line).fillByte line) k.cache } := rfl

theorem fillByte_find (s : State) (line : Nat) (m : AMap Byte) (i : Nat) {a : Nat} {b : Byte}
    (h : (s.fillByte line m i).find a = some b) : m.find a = some b ∨ b = s.mem.read a := by
  unfold State.fillByte at h
  split_ifs at h
  · exact .inl h
  · by_cases ha : a = 64 * line + i
    · rw [ha, AMap.find_set_self] at h
      exact .inr (ha ▸ (Option.some.inj h).symm)
    · rw [AMap.find_set_ne _ _ _ _ ha] at h
      exact .inl h

theorem fillByte_keeps (s : State) (line : Nat) (m : AMap Byte) (i : Nat) {a : Nat} (h : (m.find a).isSome) :
    ((s.fillByte line m i).find a).isSome := by
  unfold State.fillByte
  split_ifs
  · exact h
  · by_cases ha : a = 64 * line + i
    · rw [ha, AMap.find_set_self]; rfl
    · rw [AMap.find_set_ne _ _ _ _ ha]; exact h

theorem fillByte_self (s : State) (line : Nat) (m : AMap Byte) (i : Nat) (h : s.poisoned (64 * line + i) 1 = false) :
    ((s.fillByte line m i).find (64 * line + i)).isSome := by
  unfold State.fillByte
  split_ifs with hs
  · simpa [h] using hs
  · rw [AMap.find_set_self]; rfl

theorem foldl_fillByte_find (s : State) (line : Nat) (l : List Nat) (m : AMap Byte) {a : Nat} {b : Byte}
    (h : (l.foldl (s.fillByte line) m).find a = some b) : m.find a = some b ∨ b = s.mem.read a := by
  induction l generalizing m with
  | nil => exact .inl h
  | cons i l ih =>
    rcases ih _ h with h | h
    · exact fillByte_find s line m i h
    · exact .inr h

theorem foldl_fillByte_isSome (s : State) (line : Nat) (l : List Nat) (m : AMap Byte) {i : Nat}
    (h : s.poisoned (64 * line + i) 1 = false) (hi : i ∈ l ∨ (m.find (64 * line + i)).isSome) :
    ((l.foldl (s.fillByte line) m).find (64 * line + i)).isSome := by
  induction l generalizing m with
  | nil => exact hi.resolve_left List.not_mem_nil
  | cons j l ih =>
    refine ih _ ?_
    rcases hi with hi | hi
    · rcases List.mem_cons.mp hi with rfl | hi
      · exact .inr (fillByte_self s line m i h)
      · exact .inl hi
    · exact .inr (fillByte_keeps s line m j hi)

theorem SameReads.fillLine (s : State) (cl line : Nat) : SameReads s (s.fillLine cl line) := by
  rw [fillLine_eq]
  refine (SameReads.makeRoom s cl line).trans ?_
  generalize s.makeRoom cl line = t
  refine .modCluster t cl _ fun h a b hab => ?_
  dsimp only at hab
  rcases foldl_fillByte_find t line (List.range 64) _ hab with hab | hab
  · exact h a b hab
  · exact hab

/-- The bytes of a filled line that are not poisoned are valid. -/
theorem fillLine_valid {s : State} {line i : Nat} (cl : Nat) (h : s.poisoned (64 * line + i) 1 = false) (hi : i < 64) :
    (((s.fillLine cl line).cluster cl).cache.find (64 * line + i)).isSome := by
  rw [fillLine_eq]
  simp only [State.modCluster_eq, State.cluster_setCluster_self]
  refine foldl_fillByte_isSome _ line _ _ ?_ (.inl (List.mem_range.mpr hi))
  rw [(SameReads.makeRoom s cl line).poisoned, h]

/-! ## What a read delivers -/

theorem cacheRead_eq {m : AMap Byte} {mem : Mem} (hc : ∀ a b, m.find a = some b → b = mem.read a) (a n : Nat)
    (hv : ∀ i, i < n → (m.find (a + i)).isSome) : cacheRead m a n = mem.readLE a n := by
  induction n generalizing a with
  | zero => rfl
  | succ n ih =>
    obtain ⟨b, hb⟩ := Option.isSome_iff_exists.mp (hv 0 (by omega))
    have htail := ih (a + 1) fun i hi => by
      rw [Nat.add_right_comm, Nat.add_assoc]
      exact hv (i + 1) (by omega)
    rw [cacheRead, Mem.readLE, htail, AMap.get, ← Nat.add_zero a, hb, hc _ _ hb]
    rfl

theorem readFault_plain {s : State} {pa n : Nat} (p : Plain s pa n) : s.readFault pa n = none := by
  have hsound (l : NSet) (hl : ∀ i, i < 64 → l.any (wordIn (pa / 64 * 64 + i) 1) = false) :
      l.any (wordIn pa n) = false := by
    rw [List.any_eq_false]
    intro w hw hin
    have hin : pa / 8 ≤ w ∧ w ≤ (pa + n - 1) / 8 := by simpa [wordIn] using hin
    have hline := p.line
    have hpos := p.some
    have hbyte := List.any_eq_false.mp (hl (8 * w - pa / 64 * 64) (by omega)) w hw
    refine hbyte ?_
    simp only [wordIn, Bool.and_eq_true, decide_eq_true_eq]
    omega
  have hpois : s.poisoned pa n = false := by
    rw [State.poisoned, Bool.or_eq_false_iff]
    exact ⟨hsound _ fun i hi => (Bool.or_eq_false_iff.mp (p.sound i hi)).1,
      hsound _ fun i hi => (Bool.or_eq_false_iff.mp (p.sound i hi)).2⟩
  simp [State.readFault, State.remoteFault, p.own, hpois]

theorem exchange_own {s : State} {pa : Nat} (h : s.remote pa = false) (d : Nat) (b : List Byte) :
    s.exchange d pa b = s := by
  simp [State.exchange, h]

theorem quiet_of_idle {s : State} (i : Idle s) : Quiet s s.focus := ⟨i.stores, i.fabric⟩

/-- A read of memory delivers what memory holds, and leaves what later reads find. -/
theorem readGlobal_plain {s : State} (i : Idle s) (hc : Coherent s) {pa n : Nat} (p : Plain s pa n) (cached : Bool) :
    ∃ t, s.readGlobal s.focus pa cached n = (t, .ok (s.mem.readLE pa n)) ∧ SameReads s t := by
  set u := s.atRead s.focus pa with hu
  have su : SameReads s u := by
    rw [hu, atRead_quiet (quiet_of_idle i)]
    exact .setStores (quiet_of_idle i)
  have shome : SameReads s ((u.flushLine s.focus pa).exchange (dieOf s.focus) pa []) := by
    have hq : Quiet u s.focus := su.focus ▸ quiet_of_idle (su.idle i)
    rw [flushLine_quiet hq, exchange_own ((SameReads.setStores hq).plain (su.plain p)).own]
    exact su.trans (.setStores hq)
  have sroom : SameReads s ((if u.lineHeld (clusterOf s.focus) (lineOf pa) || Config.flag u.free (pa + 2 ^ 55) then u
      else u.dropLine (clusterOf s.focus) (lineOf pa)).exchange (dieOf s.focus) pa []) := by
    have hin : SameReads s (if u.lineHeld (clusterOf s.focus) (lineOf pa) || Config.flag u.free (pa + 2 ^ 55) then u
        else u.dropLine (clusterOf s.focus) (lineOf pa)) := by
      split
      · exact su
      · exact su.trans (.dropLine _ _ _)
    rw [exchange_own (hin.plain p).own]
    exact hin
  have hcache {t : State} (h : SameReads s t)
      (hv : ∀ j, j < n → ((t.cluster (clusterOf s.focus)).cache.find (pa + j)).isSome) :
      cacheRead (t.cluster (clusterOf s.focus)).cache pa n = s.mem.readLE pa n := by
    refine cacheRead_eq (fun a b hab => ?_) pa n hv
    have := h.cache hc a b
    rw [State.myCluster_eq, h.focus, h.mem] at this
    exact this hab
  rcases readGlobal_cases s s.focus pa cached n with ⟨e, he, -⟩ | ⟨-, h⟩ | ⟨hv, h⟩ | ⟨e, he, -⟩ | ⟨-, h⟩
  · rw [readFault_plain (shome.plain p)] at he
    cases he
  · rw [h, State.homeRead, if_pos p.memory, shome.mem]
    exact ⟨_, rfl, shome.trans (.dropLine _ _ _)⟩
  · rw [h, hcache su fun j hj => List.all_eq_true.mp hv j (List.mem_range.mpr hj)]
    exact ⟨_, rfl, su⟩
  · rw [readFault_plain (sroom.plain p)] at he
    cases he
  · have sfill := sroom.trans (.fillLine _ (clusterOf s.focus) (lineOf pa))
    rw [h, hcache sfill fun j hj => ?_]
    · exact ⟨_, rfl, sfill⟩
    · have hline := p.line
      have hj' : pa + j = 64 * lineOf pa + (pa % 64 + j) := by unfold lineOf; omega
      rw [hj']
      refine fillLine_valid _ ?_ (by omega)
      rw [lineOf, Nat.mul_comm]
      exact (sroom.plain p).sound _ (by omega)

/-! ## Nothing of the slot under way -/

theorem performLoads_none {s : State} {c : Nat} (h : ∀ o ∈ (s.slot c).outs, o.load = none) (hit : Load → Bool)
    (idx : List Nat) : s.performLoads c hit idx = s := by
  refine List.foldl_fixed' (fun i => if_neg ?_) idx
  cases ho : (s.slot c).outs[i]? with
  | none => simp
  | some o => simp [h o (List.mem_of_getElem? ho)]

theorem readUnit_settled {s : State} {c u : Nat} (h : (vget (s.core (coreOf c)).units .reset u).loads c = false)
    (hit : Nat → UnitPiece → Bool) : s.readUnit c u hit = s := by
  unfold State.readUnit
  dsimp only
  split
  · rw [h]; rfl
  · rfl

theorem loads_of_idle {s : State} (i : Idle s) (u : Nat) :
    (vget (s.core (coreOf s.focus)).units .reset u).loads s.focus = false := by
  by_cases hu : u < 8
  · exact i.units u hu
  · rw [vget, dif_neg hu]; rfl

theorem readPieces_idle {s : State} (i : Idle s) (hit : UnitPiece → Bool) : s.readPieces s.focus hit = s :=
  List.foldl_fixed' (fun u => readUnit_settled (loads_of_idle i u) _) _

theorem earlierLoads_idle {s : State} (i : Idle s) (pa n : Nat) : s.earlierLoads s.focus pa n = s := by
  unfold State.earlierLoads
  rw [performLoads_none i.loads, readPieces_idle i]

/-! ## Pieces read one after another (R206) -/

theorem readPrecise_plain {s : State} (i : Idle s) (hc : Coherent s) {p : Piece}
    (hp : ∀ pa leaf, p.tg = .phys pa leaf → Plain s pa p.n) :
    ∃ t, readPrecise s p = .ok (t, held s p.tg p.n) ∧ SameReads s t := by
  obtain ⟨tg, va, n⟩ := p
  cases tg with
  | scratch k off => exact ⟨s, rfl, .refl s⟩
  | phys pa leaf =>
    obtain ⟨t, ht, st⟩ := readGlobal_plain i hc (hp pa leaf rfl) (leafCached leaf)
    refine ⟨t.bump, ?_, st.trans (.bump t)⟩
    simp only [readPrecise, earlierLoads_idle i, ht]
    rfl

/-- What a readable piece holds, and what reading it leaves, after reads of others. -/
theorem readPrecise_after {v s : State} {l : List Piece} (r : Readable v l) (h : SameReads v s) {p : Piece}
    (hp : p ∈ l) : ∃ t, readPrecise s p = .ok (t, held v p.tg p.n) ∧ SameReads v t := by
  obtain ⟨i, hc, hplain⟩ := r
  obtain ⟨t, ht, st⟩ := readPrecise_plain (h.idle i) (h.cache hc) fun pa leaf e => h.plain (hplain p hp pa leaf e)
  exact ⟨t, by rw [ht, h.held], h.trans st⟩

theorem readable_tail {v : State} {p : Piece} {l : List Piece} (r : Readable v (p :: l)) : Readable v l :=
  ⟨r.1, r.2.1, fun q hq => r.2.2 q (List.mem_cons_of_mem _ hq)⟩

theorem during_error {α : Type} {s : State} {e : Stop} (he : e ≠ .hold) :
    during s (.error e : Except Stop α) = .error (.became (s.stop e)) := by
  cases e with
  | hold => exact absurd rfl he
  | trap | page | became => rfl

/-- Pieces that all pass are read in turn. -/
theorem readEach_ok {v : State} {check : Nat → Except Stop Nat} {g : Nat → Nat} {l : List Piece} {s : State}
    (r : Readable v l) (hg : ∀ p ∈ l, check (held v p.tg p.n) = .ok (g (held v p.tg p.n))) (h : SameReads v s) :
    ∃ t, readEach s check l = .ok (t, l.map fun p => g (held v p.tg p.n)) ∧ SameReads v t := by
  induction l generalizing s with
  | nil => exact ⟨s, rfl, h⟩
  | cons p l ih =>
    obtain ⟨t, ht, st⟩ := readPrecise_after r h List.mem_cons_self
    obtain ⟨w, hw, sw⟩ := ih (readable_tail r) (fun q hq => hg q (List.mem_cons_of_mem _ hq)) st
    refine ⟨w, ?_, sw⟩
    rw [readEach, ht]
    simp only [Bind.bind, Except.bind, hg p List.mem_cons_self, during, hw]
    rfl

/-- Pieces of which one is refused are read up to it, and the refusal then stops the word. -/
theorem readEach_refused {v : State} {check : Nat → Except Stop Nat} {e : Stop} (he : e ≠ .hold) {l : List Piece}
    {s : State} (r : Readable v l)
    (hall : ∀ p ∈ l, (∃ x, check (held v p.tg p.n) = .ok x) ∨ check (held v p.tg p.n) = .error e)
    (hbad : ∃ p ∈ l, check (held v p.tg p.n) = .error e) (h : SameReads v s) :
    ∃ t, readEach s check l = .error (.became (t.stop e)) ∧ SameReads v t := by
  induction l generalizing s with
  | nil => obtain ⟨p, hp, -⟩ := hbad; cases hp
  | cons p l ih =>
    obtain ⟨t, ht, st⟩ := readPrecise_after r h List.mem_cons_self
    rw [readEach, ht]
    simp only [Bind.bind, Except.bind]
    rcases hall p List.mem_cons_self with ⟨x, hx⟩ | hx
    · have hbad' : ∃ q ∈ l, check (held v q.tg q.n) = .error e := by
        obtain ⟨q, hq, hqe⟩ := hbad
        rcases List.mem_cons.mp hq with rfl | hq
        · rw [hx] at hqe; cases hqe
        · exact ⟨q, hq, hqe⟩
      obtain ⟨w, hw, sw⟩ := ih (readable_tail r) (fun q hq => hall q (List.mem_cons_of_mem _ hq)) hbad' st
      refine ⟨w, ?_, sw⟩
      simp only [hx, during, hw]
      rfl
    · refine ⟨t, ?_, st⟩
      rw [hx, during_error he]

end Sys2Proof.Machine
end

section
/-! SUPPORT. Operand units (R203): a unit after a change of one, what a word leaves that changes one and goes on, and
the pieces of a load that may have been read. -/

namespace Sys2Proof.Machine

/-! ## One unit after another changed -/

section
variable (s : State) (u : Nat) (x : MUnit)

@[simp] theorem setUnit_focus : (s.setUnit u x).focus = s.focus := rfl
@[simp] theorem setUnit_me : (s.setUnit u x).me = s.me := rfl
@[simp] theorem setUnit_mem : (s.setUnit u x).mem = s.mem := rfl
@[simp] theorem setUnit_slot (c : Nat) : (s.setUnit u x).slot c = s.slot c := rfl
@[simp] theorem munit_bump : s.bump.munit u = s.munit u := rfl

theorem munit_setUnit_self (hu : u < 8) : (s.setUnit u x).munit u = x := by
  simp [State.setUnit, State.munit, State.myCore_eq, vget_vset_self, hu]

theorem munit_setUnit_ne {k : Nat} (h : k ≠ u) : (s.setUnit u x).munit k = s.munit k := by
  simp [State.setUnit, State.munit, State.myCore_eq, vget_vset_ne _ _ _ _ _ h]

theorem scratch_setUnit (k : Nat) : ((s.setUnit u x).core k).scratch = (s.core k).scratch := by
  simp only [State.setUnit, State.modMyCore_eq, State.core_setCore]
  split_ifs with hk
  · rw [hk]
  · rfl
end

theorem SlotFrame.munit {s t : State} (h : SlotFrame s t) (k : Nat) : t.munit k = s.munit k := by
  rw [State.munit, State.myCore_eq, focus_of_outside h.outside, h.cores]
  rfl

/-! ## Going on after accesses performed at their homes -/

theorem retire_still {s w : State} (hf : w.focus = s.focus) (hs : w.me.still = s.me.still) (m : Bool) :
    w.retire m = (w.goOn s.focus (s.me.pc + 4)).settle s.focus m := by
  have hpc : w.me.pc = s.me.pc := by
    have := congrArg Slot.pc hs
    exact this
  rw [State.retire, retireTo_eq, hf, hpc]

theorem goOn_kept {s w : State} (hf : w.focus = s.focus) (hs : w.me.still = s.me.still) (target : Word) :
    FileKept s (w.goOn s.focus target) ∧ LastKept s (w.goOn s.focus target) ∧
      Retired s (w.goOn s.focus target) target := by
  obtain ⟨-, ⟨gf, gpc, gpos, gh⟩, gfile, g0, g1⟩ := goOn_frame w target
  rw [hf] at gf gpc gpos gh gfile g0 g1
  have hfile : w.me.file = s.me.file := by
    have := congrArg Slot.file hs
    exact this
  have hpos : w.me.pos = s.me.pos := by
    have := congrArg Slot.pos hs
    exact this
  have h0 : w.me.next0 w.me.l0 = s.me.next0 s.me.l0 := by
    have := congrArg (fun x => x.next0 x.l0) hs
    exact this
  have h1 : w.me.next1 w.me.l1 = s.me.next1 s.me.l1 := by
    have := congrArg (fun x => x.next1 x.l1) hs
    exact this
  refine ⟨fun i => ?_, ⟨g0.trans h0, g1.trans h1⟩, ⟨gf, gpc, ?_, gh⟩⟩
  · rw [Slot.entry, gfile, hfile]
    rfl
  · rw [gpos, hpos]

theorem goOn_munit {s w : State} (hf : w.focus = s.focus) (target : Word) (k : Nat) :
    (w.goOn s.focus target).munit k = w.munit k :=
  hf ▸ (goOn_frame w target).1.munit k

/-- A word that leaves unit `u` as `x` after a state `v` and goes on. -/
theorem unitLeft_goOn {s v : State} {u : Nat} {x : MUnit} (hu : u < 8) (hf : v.focus = s.focus)
    (hs : v.me.still = s.me.still) :
    UnitLeft s v ((v.setUnit u x).bump.goOn s.focus (s.me.pc + 4)) u x := by
  have hf' : (v.setUnit u x).bump.focus = s.focus := hf
  obtain ⟨hfile, hlast, hret⟩ := goOn_kept hf' hs (s.me.pc + 4)
  refine ⟨?_, fun k hk => ?_, hfile, hlast, hret, ?_⟩
  · rw [goOn_munit hf', munit_bump, munit_setUnit_self _ _ _ hu]
  · rw [goOn_munit hf', munit_bump, munit_setUnit_ne _ _ _ hk]
  · have hframe := (jump_frame {} (v.setUnit u x) (s.me.pc + 4)).1
    rw [setUnit_focus, hf] at hframe
    exact hframe

/-- A word whose checks at issue pass, and whose body ends well. -/
theorem issue_next {s w : State} {rs : List Reg} {body : State → Except Stop State} (r : Ready {} s rs)
    (hb : body s.bump = .ok w) : issue {} s body = .next w := by
  have hat : s.atIssue {} = s.bump := rfl
  rw [issue_ready r, hat, hb]

/-- The same, where its body stops. -/
theorem issue_stops {s : State} {rs : List Reg} {body : State → Except Stop State} {e : Stop} (r : Ready {} s rs)
    (hb : body s.bump = .error e) : issue {} s body = .next (s.bump.stop e) := by
  have hat : s.atIssue {} = s.bump := rfl
  rw [issue_ready r, hat, hb]

/-- A word that passes its checks and leaves a unit. -/
theorem issue_unitLeft {s v : State} {rs : List Reg} {body : State → Except Stop State} {m : Bool} {u : Nat} {x : MUnit}
    (r : Ready {} s rs) (hu : u < 8) (hf : v.focus = s.focus) (hs : v.me.still = s.me.still)
    (hb : body s.bump = .ok ((v.setUnit u x).bump.retire m)) :
    ∃ t, issue {} s body = .next (t.settle s.focus m) ∧ UnitLeft s v t u x := by
  have hf' : (v.setUnit u x).bump.focus = s.focus := hf
  exact ⟨_, by rw [issue_next r hb, retire_still hf' hs], unitLeft_goOn hu hf hs⟩

/-- A word that passes its checks and is refused for the state of a unit (R203). -/
theorem issue_slotState {s : State} {rs : List Reg} {body : State → Except Stop State} {u : Nat}
    (r : Ready {} s rs) (ht : s.canTrap) (hb : body s.bump = slotState u) :
    ∃ t, issue {} s body = .next t ∧
      Trapped s.bump t .slotState s.me.groupStart 0 (BitVec.ofNat 64 u) false :=
  ⟨_, issue_stops r hb, stop_trapped ht _ _ _ _⟩

/-! ## The checks of R203 -/

theorem heldUnit_ok {s : State} {u : Nat} (h : holdsUnit s u) : heldUnit s u = .ok (s.munit u) := by
  obtain ⟨hstate, howner⟩ := h
  unfold heldUnit
  exact if_neg fun hn => hn.elim hstate fun ho => ho howner

theorem heldUnit_refused {s : State} {u : Nat} (h : ¬ holdsUnit s u) : heldUnit s u = slotState u := by
  unfold heldUnit
  refine if_pos ?_
  by_contra hn
  obtain ⟨hstate, howner⟩ := not_or.mp hn
  exact h ⟨hstate, not_not.mp howner⟩

theorem settledUnit_ok {s : State} {u : Nat} (h : settled s u) : settledUnit s u = .ok (s.munit u) := by
  obtain ⟨hheld, hstate⟩ := h
  unfold settledUnit
  rw [heldUnit_ok hheld]
  exact if_pos hstate

theorem tileHazard_ok {s : State} {u : Nat} (h : 4 ≤ u → (s.munit u).pend = []) : tileHazard s u = .ok () := by
  unfold tileHazard
  refine if_neg fun hn => ?_
  simp [h hn.1] at hn

/-! ## Zeroed units -/

theorem vget_replicate {α : Type} {n : Nat} (a d : α) (i : Nat) :
    vget (Vector.replicate n a) d i = if i < n then a else d := by
  unfold vget
  split_ifs <;> simp

theorem elem_zeroRows {x : MUnit} (h : x.rows = zeroRows) (r i : Nat) : elem x r i = 0 := by
  have hrow : vget x.rows 0 r = 0#2048 := by
    rw [h, zeroRows, vget_replicate]
    exact ite_self _
  rw [elem, hrow, BitVec.toNat_zero, Nat.zero_div, Nat.zero_mod]

theorem vget_unitScales {r : Nat} (h : r < 16) : vget unitScales 0 r = 0x7F7F7F7F7F7F7F7F := by
  rw [unitScales, vget_replicate, if_pos h]

/-! ## Pieces of a load read (R206) -/

/-- A piece, a load and a unit as they were before any piece was read. -/
def UnitPiece.unread (p : UnitPiece) : UnitPiece := { p with got := none }
def UnitLoad.unread (l : UnitLoad) : UnitLoad := { l with pieces := l.pieces.map UnitPiece.unread }
def MUnit.unread (x : MUnit) : MUnit := { x with poison := none, load := x.load.map UnitLoad.unread }

theorem MUnit.eq_of_unread {x y : MUnit} (h : y.unread = x.unread) :
    y = { x with poison := y.poison, load := y.load } ∧ y.load.map UnitLoad.unread = x.load.map UnitLoad.unread := by
  obtain ⟨a1, a2, a3, a4, a5, a6, a7, a8, a9⟩ := x
  obtain ⟨b1, b2, b3, b4, b5, b6, b7, b8, b9⟩ := y
  simp only [MUnit.unread, MUnit.mk.injEq] at h ⊢
  tauto

/-- A piece that has been read. -/
theorem UnitLoad.unread_set {l : UnitLoad} {k : Nat} {p : UnitPiece} (h : l.pieces[k]? = some p) (g : Option Nat) :
    UnitLoad.unread { l with pieces := l.pieces.set k { p with got := g } } = l.unread := by
  have hk := List.getElem?_eq_some_iff.mp h
  obtain ⟨hk, hp⟩ := hk
  have hsame : (l.pieces.map UnitPiece.unread).set k p.unread = l.pieces.map UnitPiece.unread := by
    rw [← hp, ← List.getElem_map UnitPiece.unread (h := by simpa using hk)]
    exact List.set_getElem_self _
  simp only [UnitLoad.unread, List.map_set]
  exact congrArg _ hsame

/-- Some pieces of unit `u` of slot `c` have been read, or none. No other unit and no scratchpad has changed, and with
no store on its way neither memory nor another slot. -/
structure PiecesRead (c u : Nat) (s t : State) : Prop where
  focus : t.focus = s.focus
  slots : ∀ d, (t.slot d).still = (s.slot d).still
  scratch : ∀ k, (t.core k).scratch = (s.core k).scratch
  unit : (vget (t.core (coreOf c)).units .reset u).unread = (vget (s.core (coreOf c)).units .reset u).unread
  others : ∀ k j, ¬ (k = coreOf c ∧ j = u) → vget (t.core k).units .reset j = vget (s.core k).units .reset j
  quiet : Quiet s c → Quiet t c ∧ t.mem = s.mem ∧ ∀ d, d ≠ c → t.slot d = s.slot d

theorem PiecesRead.refl (c u : Nat) (s : State) : PiecesRead c u s s :=
  ⟨rfl, fun _ => rfl, fun _ => rfl, rfl, fun _ _ _ => rfl, fun q => ⟨q, rfl, fun _ _ => rfl⟩⟩

theorem PiecesRead.trans {c u : Nat} {s t w : State} (a : PiecesRead c u s t) (b : PiecesRead c u t w) :
    PiecesRead c u s w := by
  refine ⟨b.focus.trans a.focus, fun d => (b.slots d).trans (a.slots d), fun k => (b.scratch k).trans (a.scratch k),
    b.unit.trans a.unit, fun k j h => (b.others k j h).trans (a.others k j h), fun q => ?_⟩
  obtain ⟨qt, mt, st⟩ := a.quiet q
  obtain ⟨qw, mw, sw⟩ := b.quiet qt
  exact ⟨qw, mw.trans mt, fun d hd => (sw d hd).trans (st d hd)⟩

/-- A unit is put back with pieces read, after an access that left the slots still. -/
theorem PiecesRead.put {c u : Nat} {s w : State} {y : MUnit} (hu : u < 8) (h : Still s w)
    (hq : Quiet s c → Quiet w c ∧ w.mem = s.mem ∧ ∀ d, d ≠ c → w.slot d = s.slot d)
    (hy : y.unread = (vget (s.core (coreOf c)).units .reset u).unread) :
    PiecesRead c u s (w.modCore (coreOf c) fun k => { k with units := vset k.units u y }) := by
  refine ⟨h.focus, h.slots, fun k => ?_, ?_, fun k j hkj => ?_, hq⟩
  · simp only [State.modCore_eq, State.core_setCore]
    split_ifs with hk
    · rw [hk]; exact h.scratch _
    · exact h.scratch k
  · simp only [State.modCore_eq, State.core_setCore_self, vget_vset_self _ _ _ _ hu]
    exact hy
  · simp only [State.modCore_eq, State.core_setCore]
    split_ifs with hk
    · rw [vget_vset_ne _ _ _ _ _ fun hj => hkj ⟨hk, hj⟩, h.units, hk]
    · rw [h.units]

theorem PiecesRead.bump {c u : Nat} {s t : State} (h : PiecesRead c u s t) : PiecesRead c u s t.bump :=
  ⟨h.focus, h.slots, h.scratch, h.unit, h.others, h.quiet⟩

theorem quiet_recordErr {s w : State} {c : Nat} (h : Quiet s c → Silent s w) (e : Cause) (a i : Word) (pos : Nat)
    (q : Quiet s c) : Quiet (w.recordErr c e a i pos) c ∧ (w.recordErr c e a i pos).mem = s.mem ∧
      ∀ d, d ≠ c → (w.recordErr c e a i pos).slot d = s.slot d := by
  have hs := h q
  refine ⟨⟨?_, (hs.quiet q).2⟩, hs.mem, fun d hd => ?_⟩
  · simp only [State.recordErr, State.modSlot_eq, State.slot_setSlot_self]
    exact (hs.quiet q).1
  · simp only [State.recordErr, State.modSlot_eq]
    rw [State.slot_setSlot_ne _ _ _ _ hd, hs.slots]

theorem PiecesRead.readPiece {u : Nat} (hu : u < 8) (s : State) (c k : Nat) : PiecesRead c u s (s.readPiece c u k) := by
  unfold State.readPiece
  dsimp only
  split
  · exact .refl c u s
  · next l p hlp =>
    obtain ⟨l', hl, hp⟩ := Option.bind_eq_some_iff.mp hlp
    obtain ⟨p', hget, hlp'⟩ := Option.map_eq_some_iff.mp hp
    obtain ⟨rfl, rfl⟩ := Prod.mk.inj hlp'
    have hunit (g : Option Nat) (q : Option (BitVec 6)) :
        MUnit.unread { vget (s.core (coreOf c)).units .reset u with
          load := some { l' with pieces := l'.pieces.set k { p' with got := g } }, poison := q }
          = (vget (s.core (coreOf c)).units .reset u).unread := by
      simp only [MUnit.unread, hl, Option.map_some, UnitLoad.unread_set hget]
    split
    · exact .refl c u s
    · split
      · exact .put hu (.refl s) (fun q => ⟨q, rfl, fun _ _ => rfl⟩) (hunit _ _)
      · have hstill := Still.readGlobal s c p'.pa p'.cached p'.n
        have hsilent := fun q : Quiet s c => Silent.readGlobal q p'.pa p'.cached p'.n
        split
        · next w v e =>
          rw [e] at hstill hsilent
          refine PiecesRead.bump (.put hu hstill (fun q => ?_) (hunit _ _))
          exact ⟨(hsilent q).quiet q, (hsilent q).mem, fun d _ => (hsilent q).slots d⟩
        · next w v e =>
          rw [e] at hstill hsilent
          exact PiecesRead.bump (.put hu (hstill.trans (.recordErr _ _ _ _ _ _))
            (quiet_recordErr hsilent _ _ _ _) (hunit _ _))

theorem PiecesRead.foldl {α : Type} {c u : Nat} {f : State → α → State} (h : ∀ s a, PiecesRead c u s (f s a))
    (l : List α) (s : State) : PiecesRead c u s (l.foldl f s) := by
  induction l generalizing s with
  | nil => exact .refl c u s
  | cons a l ih => exact (h s a).trans (ih _)

theorem PiecesRead.readUnit {u : Nat} (hu : u < 8) (s : State) (c : Nat) (hit : Nat → UnitPiece → Bool) :
    PiecesRead c u s (s.readUnit c u hit) := by
  unfold State.readUnit
  dsimp only
  split
  · split
    · refine .foldl (fun s e => ?_) _ s
      split
      · exact .readPiece hu s c _
      · exact .refl c u s
    · exact .refl c u s
  · exact .refl c u s

end Sys2Proof.Machine
end

section
/-! SUPPORT. The words of operand units (R203 to R205, R207 to R209, R214, R217). -/

namespace Sys2Proof.Machine

/-! ## MCLAIM (R208) -/

/-- A unit as a claim leaves it. -/
def claimedUnit (s : State) (u : Nat) (k : BitVec 1) (g : Tag) : MUnit :=
  { state := .owned, owner := BitVec.ofNat 2 s.focus, tag := g, scaled := k == 1, poison := none, load := none,
    pend := [], rows := zeroRows, scales := if u < 4 then unitScales else Vector.replicate 16 0 }

theorem execMclaim_left {s : State} {m : Bool} {d : Reg} {k : BitVec 1} {f : BitVec 5} {g : Tag} (hu : d.toNat < 8)
    (r : Ready {} s []) (hg : Tag.ofCode f = some g) (hfree : (s.munit d.toNat).state = .free) :
    ∃ t, execMclaim m d k f s = .next (t.settle s.focus m) ∧
      UnitLeft s s t d.toNat (claimedUnit s d.toNat k g) := by
  refine issue_unitLeft r hu rfl rfl ?_
  dsimp only
  rw [if_neg (by simpa using hfree), hg]
  rfl

theorem execMclaim_refused {s : State} {m : Bool} {d : Reg} {k : BitVec 1} {f : BitVec 5}
    (r : Ready {} s []) (hheld : (s.munit d.toNat).state ≠ .free) (ht : s.canTrap) :
    ∃ t, execMclaim m d k f s = .next t ∧
      Trapped s.bump t .slotState s.me.groupStart 0 (BitVec.ofNat 64 d.toNat) false := by
  refine issue_slotState r ht ?_
  dsimp only
  rw [if_pos (by simpa using hheld)]

/-! ## MREL (R205, R209) -/

theorem accrue_bump (s : State) (c : Nat) (f : BitVec 5) : s.bump.accrue c f = (s.accrue c f).bump := by
  unfold State.accrue
  split <;> rfl

theorem writeTiles_bump (s : State) (core n : Nat) : s.bump.writeTiles core n = (s.writeTiles core n).bump := by
  induction n generalizing s with
  | zero => rfl
  | succ n ih =>
    have htile : s.bump.writeTile core = (s.writeTile core).bump := by
      unfold State.writeTile
      rw [State.core_bump]
      split
      · rfl
      · dsimp only
        rw [accrue_bump]
        rfl
    rw [State.writeTiles, htile, ih]
    rfl

theorem FlagsOnly.me_still {s t : State} (h : FlagsOnly s t) : t.me.still = s.me.still := by
  obtain ⟨f, hf⟩ := h.slots s.focus
  rw [State.me_eq, h.focus, hf]
  rfl

/-- The reads of an operand slot that loads, and the flags that come with it, before MREL resets it. -/
def State.unitReleased (s : State) (u : Nat) : State :=
  (s.readUnit s.focus u fun _ _ => true).accrue s.focus ((s.munit u).pend.foldl (· ||| ·) 0)

theorem execMrel_slot {s : State} {m : Bool} {d : Reg} (r : Ready {} s []) (hheld : holdsUnit s d.toNat)
    (hd : d.toNat < 4) : execMrel m d s = .next (((s.bump.unitReleased d.toNat).setUnit d.toNat .reset).retire m) := by
  refine issue_next r ?_
  have hheld' : heldUnit s.bump d.toNat = .ok (s.bump.munit d.toNat) := heldUnit_ok (s := s.bump) hheld
  simp only [hheld', Bind.bind, Except.bind, if_neg (Nat.not_le.mpr hd)]
  rfl

theorem unitReleased_still (s : State) {u : Nat} (hu : u < 8) :
    (s.unitReleased u).focus = s.focus ∧ (s.unitReleased u).me.still = s.me.still := by
  have hread := PiecesRead.readUnit hu s s.focus fun _ _ => true
  have hacc := FlagsOnly.accrue (s.readUnit s.focus u fun _ _ => true) s.focus ((s.munit u).pend.foldl (· ||| ·) 0)
  refine ⟨hacc.focus.trans hread.focus, hacc.me_still.trans ?_⟩
  rw [State.me_eq, hread.focus, hread.slots]
  rfl

/-- MREL of an operand slot, which may be loading. -/
theorem execMrel_resets {s : State} {m : Bool} {d : Reg} (r : Ready {} s []) (hheld : holdsUnit s d.toNat)
    (hd : d.toNat < 4) : ∃ t, execMrel m d s = .next (t.settle s.focus m) ∧ t.munit d.toNat = .reset ∧ FileKept s t ∧
      Retired s t (s.me.pc + 4) := by
  obtain ⟨hf, hs⟩ := unitReleased_still s.bump (u := d.toNat) (by omega)
  have hf' : ((s.bump.unitReleased d.toNat).setUnit d.toNat .reset).focus = s.focus := hf
  obtain ⟨hfile, -, hret⟩ := goOn_kept hf' hs (s.me.pc + 4)
  refine ⟨_, ?_, ?_, hfile, hret⟩
  · rw [execMrel_slot r hheld hd, retire_still hf' hs]
  · rw [goOn_munit hf', munit_setUnit_self _ _ _ (by omega)]

/-- MREL of an operand slot that does not load. -/
theorem execMrel_left {s : State} {m : Bool} {d : Reg} (r : Ready {} s []) (hheld : holdsUnit s d.toNat)
    (hd : d.toNat < 4) (hl : (s.munit d.toNat).state ≠ .loading) :
    ∃ t, execMrel m d s = .next (t.settle s.focus m) ∧
      UnitLeft s (s.accrue s.focus ((s.munit d.toNat).pend.foldl (· ||| ·) 0)) t d.toNat .reset := by
  have hacc := FlagsOnly.accrue s s.focus ((s.munit d.toNat).pend.foldl (· ||| ·) 0)
  have hloads : (vget (s.bump.core (coreOf s.bump.focus)).units .reset d.toNat).loads s.bump.focus = false := by
    have hstate : ((s.munit d.toNat).state == .loading) = false := by simpa using hl
    exact (congrArg (· && _) hstate).trans (Bool.false_and _)
  have hrel : s.bump.unitReleased d.toNat =
      (s.accrue s.focus ((s.munit d.toNat).pend.foldl (· ||| ·) 0)).bump := by
    rw [State.unitReleased, readUnit_settled hloads]
    exact accrue_bump s _ _
  obtain ⟨hf, hs⟩ := And.intro hacc.focus hacc.me_still
  have hf' : (((s.accrue s.focus ((s.munit d.toNat).pend.foldl (· ||| ·) 0)).setUnit d.toNat .reset).bump).focus
      = s.focus := hf
  refine ⟨_, ?_, unitLeft_goOn (by omega) hf hs⟩
  rw [execMrel_slot r hheld hd, hrel, ← retire_still hf' hs]
  rfl

/-- No tile of the units that `hit` names is left once as many have been written as `lastOf` says. -/
theorem lastOf_drop (hit : Nat → Bool) (l : List Nat) : ∀ u ∈ l.drop (lastOf hit l), hit u = false := by
  induction l with
  | nil => simp
  | cons v l ih =>
    unfold lastOf
    dsimp only
    by_cases h0 : lastOf hit l = 0
    · rw [if_pos h0]
      rw [h0, List.drop_zero] at ih
      split_ifs with hv
      · simpa using ih
      · intro u hu
        rcases List.mem_cons.mp hu with rfl | hu
        · simpa using hv
        · exact ih u hu
    · rw [if_neg h0]
      simpa using ih

theorem writeTile_mmas (s : State) (core : Nat) : ((s.writeTile core).core core).mmas = (s.core core).mmas.tail := by
  unfold State.writeTile
  split
  · next h => rw [h]; rfl
  · next u l h => simp [h]

theorem writeTiles_mmas (s : State) (core n : Nat) :
    ((s.writeTiles core n).core core).mmas = (s.core core).mmas.drop n := by
  induction n generalizing s with
  | zero => rfl
  | succ n ih => rw [State.writeTiles, ih, writeTile_mmas, List.drop_tail]

theorem FlagsOnly.settleTile (s : State) (u : Nat) : FlagsOnly s (s.settleTile u) := .writeTiles s _ _

theorem settleTile_mmas (s : State) (u : Nat) : u ∉ (s.settleTile u).myCore.mmas := by
  intro hu
  rw [State.myCore_eq, (FlagsOnly.settleTile s u).focus, State.settleTile, writeTiles_mmas] at hu
  simpa using lastOf_drop (· == u) _ u hu

/-- MREL of a tile. -/
theorem execMrel_tile {s : State} {m : Bool} {d : Reg} (r : Ready {} s []) (hu : d.toNat < 8)
    (hheld : holdsUnit s d.toNat) (hd : 4 ≤ d.toNat) : ∃ t, execMrel m d s = .next (t.settle s.focus m) ∧
      UnitLeft s (s.settleTile d.toNat) t d.toNat .reset ∧ d.toNat ∉ t.myCore.mmas := by
  have hset := FlagsOnly.settleTile s d.toNat
  have hheld' : heldUnit s.bump d.toNat = .ok (s.bump.munit d.toNat) := heldUnit_ok (s := s.bump) hheld
  have hbump : s.bump.settleTile d.toNat = (s.settleTile d.toNat).bump := writeTiles_bump s _ _
  obtain ⟨t, ht, hleft⟩ := issue_unitLeft (m := m) (x := .reset) r hu hset.focus hset.me_still
    (body := fun s => do
      let x ← heldUnit s d.toNat
      let s := if 4 ≤ d.toNat then s.settleTile d.toNat
        else (s.readUnit s.focus d.toNat fun _ _ => true).accrue s.focus (x.pend.foldl (· ||| ·) 0)
      .ok ((s.setUnit d.toNat .reset).retire m))
    (by simp only [hheld', Bind.bind, Except.bind, if_pos hd, hbump]; rfl)
  refine ⟨t, ht, hleft, ?_⟩
  have hcore := hleft.frame.cores (coreOf s.focus)
  have hmmas : t.myCore.mmas = (s.settleTile d.toNat).myCore.mmas := by
    rw [State.myCore_eq, hleft.retired.focus, hcore, State.setUnit, State.modMyCore_eq, hset.focus,
      State.core_setCore_self, State.myCore_eq, hset.focus]
  rw [hmmas]
  exact settleTile_mmas s _

theorem execMrel_refused {s : State} {m : Bool} {d : Reg} (r : Ready {} s []) (hheld : ¬ holdsUnit s d.toNat)
    (ht : s.canTrap) : ∃ t, execMrel m d s = .next t ∧
      Trapped s.bump t .slotState s.me.groupStart 0 (BitVec.ofNat 64 d.toNat) false := by
  refine issue_slotState r ht ?_
  dsimp only
  rw [heldUnit_refused (s := s.bump) hheld]
  rfl

/-! ## MZERO (R203, R214) -/

theorem execMzero_tile {s : State} {m : Bool} {d : Reg} (r : Ready {} s []) (hu : d.toNat < 8) (hd : 4 ≤ d.toNat)
    (hheld : holdsUnit s d.toNat) (hp : (s.munit d.toNat).pend = []) :
    ∃ t, execMzero m d s = .next (t.settle s.focus m) ∧
      UnitLeft s s t d.toNat { s.munit d.toNat with rows := zeroRows } := by
  refine issue_unitLeft r hu rfl rfl ?_
  dsimp only
  rw [tileHazard_ok (s := s.bump) fun _ => hp, heldUnit_ok (s := s.bump) hheld]
  simp only [Bind.bind, Except.bind, if_pos hd]
  rfl

theorem execMzero_slot {s : State} {m : Bool} {d : Reg} (r : Ready {} s []) (hd : d.toNat < 4)
    (hset : settled s d.toNat) : ∃ t, execMzero m d s = .next (t.settle s.focus m) ∧
      UnitLeft s s t d.toNat
        { s.munit d.toNat with state := .ready, poison := none, rows := zeroRows, scales := unitScales } := by
  refine issue_unitLeft r (by omega) rfl rfl ?_
  dsimp only
  rw [tileHazard_ok (s := s.bump) fun h => absurd h (by omega), settledUnit_ok (s := s.bump) hset]
  simp only [Bind.bind, Except.bind, if_neg (Nat.not_le.mpr hd)]
  rfl

/-! ## MSTATE (R217) -/

theorem execMstate_next {s : State} {m : Bool} {d a : Reg} (r : Ready {} s []) (hd : s.me.pending d = false) :
    execMstate m d a s = .next ((s.result {} d (.int ((s.munit a.toNat).snapshot.setWidth 64)) .none .var
      (s.me.pc + 4)).settle s.focus m) := by
  refine issue_next r ?_
  have htouch : touch s.bump [d] = .ok () := touch_clear (by simpa using hd)
  simp only [htouch, Bind.bind, Except.bind]
  exact congrArg Except.ok (retire_result s {} m d _ .none .var)

theorem snapshot_mod_four (x : MUnit) : (x.snapshot.setWidth 64).toNat % 4 = x.state.code.toNat := by
  have hlow : x.snapshot.extractLsb' 0 2 = x.state.code := by
    unfold MUnit.snapshot
    exact Laws.ext_lo _ _
  rw [BitVec.toNat_setWidth_of_le (by decide), ← hlow, BitVec.extractLsb'_toNat, Nat.shiftRight_zero]

/-! ## The words -/

theorem unitWords_claim : Claims.UnitWords := by
  intro s m d a k f g u x hu r hg
  refine ⟨fun hfree => ?_, fun hheld ht => execMclaim_refused r hheld ht,
    fun hheld hd hl => execMrel_left r hheld hd hl, fun hheld hd => execMrel_resets r hheld hd,
    fun hheld hd => execMrel_tile r hu hheld hd, fun hheld ht => execMrel_refused r hheld ht,
    fun hd hheld hp => ?_, fun hd hset => ?_, fun hd _ => ?_⟩
  · obtain ⟨t, ht, hleft⟩ := execMclaim_left (m := m) (k := k) hu r hg hfree
    refine ⟨t, _, ht, hleft, rfl, rfl, rfl, rfl, rfl, elem_zeroRows rfl, fun hd r hr => ?_⟩
    rw [claimedUnit, if_pos hd]
    exact vget_unitScales hr
  · obtain ⟨t, ht, hleft⟩ := execMzero_tile (m := m) r hu hd hheld hp
    exact ⟨t, _, ht, hleft, rfl, elem_zeroRows rfl⟩
  · obtain ⟨t, ht, hleft⟩ := execMzero_slot (m := m) r hd hset
    exact ⟨t, _, ht, hleft, rfl, rfl, rfl, elem_zeroRows rfl, fun r hr => vget_unitScales hr⟩
  · obtain ⟨hframe, hret, hholds⟩ := result_holds {} s d (.int ((s.munit a.toNat).snapshot.setWidth 64)) .none .var
      (s.me.pc + 4)
    exact ⟨_, _, execMstate_next r hd, hholds, hret, hframe, rfl, snapshot_mod_four _⟩

end Sys2Proof.Machine
end

section
/-! SUPPORT. The loads into operand slots as they begin (R206, R210, R212). -/

namespace Sys2Proof.Machine

theorem alignedTo_ok {a st : Word} {n : Nat} (ha : a.toNat % n = 0) (hst : st.toNat % n = 0) :
    alignedTo a st n = .ok () :=
  if_neg fun h => h.elim (absurd ha) (absurd hst)

/-- The unit that a load begins in, before any piece is read. -/
def begunUnit (v : State) (x : MUnit) (kind : LoadKind) (per : Nat) (ps : List (List Piece)) : MUnit :=
  { x with state := .loading, poison := none, pend := []
           load := some ⟨kind, v.me.pos, per, ps.flatten.map (Piece.unit v.me.asid)⟩ }

theorem unread_unit (asid : BitVec 16) (p : Piece) : (Piece.unit asid p).unread = Piece.unit asid p := by
  unfold Piece.unit
  split <;> rfl

/-- A unit of which pieces have been read since its load began. -/
theorem eq_of_unread_begun {v : State} {x y : MUnit} {kind : LoadKind} {per : Nat} {ps : List (List Piece)}
    (h : y.unread = (begunUnit v x kind per ps).unread) :
    ∃ l q, y = { x with state := .loading, poison := q, load := some l, pend := [] } ∧ l.kind = kind ∧
      l.pos = v.me.pos ∧ l.per = per ∧
      l.pieces.map (fun p => { p with got := none }) = ps.flatten.map (Piece.unit v.me.asid) := by
  obtain ⟨hy, hload⟩ := MUnit.eq_of_unread h
  obtain ⟨l, hl, hunread⟩ := Option.map_eq_some_iff.mp hload
  obtain ⟨kind', pos', per', pieces'⟩ := l
  obtain ⟨hkind, hpos, hper, hpieces⟩ := UnitLoad.mk.inj hunread
  refine ⟨⟨kind', pos', per', pieces'⟩, y.poison, by rw [hy, hl]; rfl, hkind, hpos, hper, hpieces.trans ?_⟩
  rw [List.map_map]
  exact List.map_congr_left fun p _ => unread_unit _ p

theorem loadUnit_begun {s v : State} {u : Nat} (hu : u < 8) (hst : Still s v) (m : Bool) (x : MUnit) (kind : LoadKind)
    (per : Nat) (ps : List (List Piece)) :
    ∃ t, loadUnit v m u x kind per ps = t.settle s.focus m ∧ LoadBegun s v t u x kind per ps := by
  set w := v.setUnit u (begunUnit v x kind per ps) with hw
  set t := w.readUnit w.focus u fun k _ => Config.flag w.free (2 ^ 18 + k) with ht
  have hread : PiecesRead w.focus u w t := .readUnit hu w w.focus _
  have htf : t.focus = s.focus := hread.focus.trans hst.focus
  have hme : t.me.still = s.me.still := by
    rw [State.me_eq, hread.focus, hread.slots]
    exact hst.me
  have hmunit (k : Nat) : t.munit k = vget (t.core (coreOf w.focus)).units .reset k := by
    rw [State.munit, State.myCore_eq, hread.focus]
  have hpos : v.me.pos = s.me.pos := by
    have := congrArg Slot.pos hst.me
    exact this
  have hasid : v.me.asid = s.me.asid := by
    have := congrArg Slot.asid hst.me
    exact this
  obtain ⟨hfile, hlast, hret⟩ := goOn_kept htf hme (s.me.pc + 4)
  have hframe := (goOn_frame t (s.me.pc + 4)).1
  rw [htf] at hframe
  refine ⟨t.goOn s.focus (s.me.pc + 4), retire_still htf hme m,
    ⟨?_, fun k hk => ?_, hfile, hlast, hret, fun k a => ?_, fun hidle => ?_⟩⟩
  · have hunit : (t.munit u).unread = (begunUnit v x kind per ps).unread := by
      rw [hmunit, hread.unit]
      exact congrArg MUnit.unread (munit_setUnit_self v u _ hu)
    rw [goOn_munit htf, ← hpos, ← hasid]
    exact eq_of_unread_begun hunit
  · rw [goOn_munit htf, hmunit, hread.others _ _ fun h => hk h.2]
    exact munit_setUnit_ne v u _ hk
  · rw [hframe.scratch, hread.scratch, hw, scratch_setUnit]
  · have hquiet : Quiet v v.focus := quiet_of_idle hidle
    obtain ⟨-, hmem, hslots⟩ := hread.quiet ⟨hquiet.1, hquiet.2⟩
    refine ⟨fun a => by rw [hframe.mem, hmem, hw, setUnit_mem], fun c hc => ?_⟩
    have hwf : w.focus = s.focus := hst.focus
    rw [hframe.others c (htf ▸ hc), hslots c (hwf ▸ hc), hw, setUnit_slot]

section
variable {s v : State} {m : Bool} {d a b : Reg} {ps : List (List Piece)}

theorem srcInt_bump (hi : s.ints [a]) : srcInt s.bump a = .ok (s.int a) :=
  srcInt_ints (h := {}) hi List.mem_cons_self

theorem touch_bump {rs : List Reg} (r : Ready {} s rs) : touch s.bump rs = .ok () := touch_ready (h := {}) r

theorem execMload_next (r : Ready {} s [a, b]) (ha : s.ints [a]) (hb : s.ints [b]) (hset : settled s d.toNat)
    (hva : (s.int a).toNat % 16 = 0) (hst : (s.int b).toNat % 16 = 0)
    (hp : allPieces s.bump .load (rowsAt (s.int a) (s.int b) 16 256) = .ok (v, ps)) :
    execMload m d a b s = .next (loadUnit v m d.toNat (s.munit d.toNat) .rows 16 ps) := by
  refine issue_next r ?_
  simp only [touch_bump r, srcInt_bump ha, srcInt_bump hb, settledUnit_ok (s := s.bump) hset, alignedTo_ok hva hst, hp,
    Bind.bind, Except.bind, munit_bump]

theorem execMloadt_next (r : Ready {} s [a, b]) (ha : s.ints [a]) (hb : s.ints [b]) (hset : settled s d.toNat)
    (hva : (s.int a).toNat % 16 = 0) (hst : (s.int b).toNat % 16 = 0) (htag : (s.munit d.toNat).tag ≠ .e2m1x32)
    (hp : allPieces s.bump .load (rowsAt (s.int a) (s.int b) (2048 / (s.munit d.toNat).tag.width)
      (2 * (s.munit d.toNat).tag.width)) = .ok (v, ps)) :
    execMloadt m d a b s = .next
      (loadUnit v m d.toNat (s.munit d.toNat) .columns ((s.munit d.toNat).tag.width / 8) ps) := by
  have hper : 2 * (s.munit d.toNat).tag.width / 16 = (s.munit d.toNat).tag.width / 8 := by omega
  refine issue_next r ?_
  simp only [touch_bump r, srcInt_bump ha, srcInt_bump hb, settledUnit_ok (s := s.bump) hset, alignedTo_ok hva hst,
    Tag.perRow, munit_bump, if_neg htag, hp, hper, Bind.bind, Except.bind]

theorem execMdec_next (r : Ready {} s [a, b]) (ha : s.ints [a]) (hb : s.ints [b]) (hset : settled s d.toNat)
    (htag : (s.munit d.toNat).tag = .e4m3x16) (hsc : (s.munit d.toNat).scaled = true)
    (hva : (s.int a).toNat % 64 = 0) (hst : (s.int b).toNat % 16 = 0)
    (hp : allPieces s.bump .load [(s.int a, 1024), (s.int b, 16)] = .ok (v, ps)) :
    execMdec m d a b s = .next (loadUnit v m d.toNat (s.munit d.toNat) (.indices v.myCore.pattern true) 4 ps) := by
  have hkind : ¬ ((s.munit d.toNat).tag ≠ .e4m3x16 ∨ (!(s.munit d.toNat).scaled) = true) := by simp [htag, hsc]
  refine issue_next r ?_
  simp only [touch_bump r, srcInt_bump ha, srcInt_bump hb, heldUnit_ok (s := s.bump) hset.1,
    settledUnit_ok (s := s.bump) hset, munit_bump, if_neg hkind, if_neg (not_not.mpr hva), if_neg (not_not.mpr hst), hp,
    Bind.bind, Except.bind]
end

theorem Still.pattern {s t : State} (h : Still s t) : t.myCore.pattern = s.myCore.pattern := by
  rw [State.myCore_eq, h.focus]
  have := congrArg Core.pattern (h.cores (coreOf s.focus))
  exact this

theorem unitLoads_claim : Claims.UnitLoads := by
  intro s v m d a b ps ha hb u x va st w hu r hset
  have begun {rows : List (Word × Nat)} (hp : allPieces s.bump .load rows = .ok (v, ps)) (kind : LoadKind) (per : Nat)
      {o : Host.Outcome State Fault Refusal} (ho : o = .next (loadUnit v m u x kind per ps)) :
      ∃ t, o = .next (t.settle s.focus m) ∧ LoadBegun s v t u x kind per ps := by
    have hst : Still s v := (SameReads.bump s).still.trans (allPieces_still hp).1
    obtain ⟨t, ht, hbegun⟩ := loadUnit_begun (Nat.lt_trans hu (by decide)) hst m x kind per ps
    exact ⟨t, by rw [ho, ht], hbegun⟩
  refine ⟨fun hva hst hp => begun hp _ _ (execMload_next r ha hb hset hva hst hp),
    fun hva hst htag hp => begun hp _ _ (execMloadt_next r ha hb hset hva hst htag hp),
    fun htag hsc hva hst hp => begun hp _ _ ?_⟩
  have hpattern : v.myCore.pattern = s.myCore.pattern :=
    ((SameReads.bump s).still.trans (allPieces_still hp).1).pattern
  rw [← hpattern]
  exact execMdec_next r ha hb hset htag hsc hva hst hp

end Sys2Proof.Machine
end

section
/-! SUPPORT. Lanes of numbers, bit by bit (R33, R202), and what an index decodes to (R154, R155). -/

namespace Sys2Proof.Machine

theorem Mem.readLE_lt (m : Mem) (a n : Nat) : m.readLE a n < 256 ^ n := by
  induction n generalizing a with
  | zero => exact Nat.one_pos
  | succ n ih =>
    have hbyte : (m.read a).toNat < 256 := (m.read a).isLt
    have htail := ih (a + 1)
    rw [Mem.readLE, Nat.pow_succ]
    omega

/-- Bit `j` of lane `i` of packed lanes. -/
theorem testBit_packLanes {w j : Nat} (hj : j < w) (l : List Nat) (i : Nat) :
    (packLanes w l).testBit (w * i + j) = (l.getD i 0).testBit j := by
  induction l generalizing i with
  | nil => simp [packLanes]
  | cons x l ih =>
    rw [packLanes, Nat.add_comm, Nat.testBit_two_pow_mul_add _ (Nat.mod_lt _ (Nat.two_pow_pos w))]
    cases i with
    | zero => simp [hj, Nat.testBit_mod_two_pow]
    | succ i =>
      have hle : ¬ w * (i + 1) + j < w := by rw [Nat.mul_succ]; omega
      have hsub : w * (i + 1) + j - w = w * i + j := by rw [Nat.mul_succ]; omega
      rw [if_neg hle, hsub, ih]
      rfl

/-- Lane `i` of packed lanes. -/
theorem lane_packLanes (w : Nat) (l : List Nat) (i : Nat) :
    packLanes w l / 2 ^ (w * i) % 2 ^ w = l.getD i 0 % 2 ^ w := by
  refine Nat.eq_of_testBit_eq fun j => ?_
  rw [Nat.testBit_mod_two_pow, Nat.testBit_mod_two_pow, Nat.testBit_div_two_pow]
  by_cases hj : j < w
  · rw [Nat.add_comm, testBit_packLanes hj]
  · simp [hj]

/-- A lane within the width of a number's low bits. -/
theorem lane_ofNat {W w i : Nat} (n : Nat) (h : w * i + w ≤ W) :
    (BitVec.ofNat W n).toNat / 2 ^ (w * i) % 2 ^ w = n / 2 ^ (w * i) % 2 ^ w := by
  refine Nat.eq_of_testBit_eq fun j => ?_
  rw [Nat.testBit_mod_two_pow, Nat.testBit_mod_two_pow, Nat.testBit_div_two_pow, Nat.testBit_div_two_pow,
    BitVec.testBit_toNat, BitVec.getLsbD_ofNat]
  by_cases hj : j < w
  · have hin : j + w * i < W := by omega
    simp [hj, hin]
  · simp [hj]

/-- An element of a row that holds the low bits of a number. -/
theorem elem_eq_lane {x : MUnit} {r i n : Nat} (h : vget x.rows 0 r = BitVec.ofNat 2048 n)
    (hi : x.tag.width * i + x.tag.width ≤ 2048) :
    elem x r i = n / 2 ^ (x.tag.width * i) % 2 ^ x.tag.width := by
  rw [elem, h, lane_ofNat _ hi]

theorem vget_rowsOf {f : Nat → Nat} {r : Nat} (h : r < 16) : vget (rowsOf f) 0 r = BitVec.ofNat 2048 (f r) := by
  simp [vget, rowsOf, h]

/-- Where every element of a list becomes `n` elements, the place of each of them. -/
theorem getElem?_flatMap_of_length {α β : Type} {f : α → List β} {n : Nat} (hf : ∀ a, (f a).length = n) (l : List α)
    (k : Nat) {w : Nat} (hw : w < n) : (l.flatMap f)[n * k + w]? = l[k]?.bind fun a => (f a)[w]? := by
  induction l generalizing k with
  | nil => simp
  | cons a l ih =>
    rw [List.flatMap_cons]
    cases k with
    | zero => simp [List.getElem?_append_left, hf, hw]
    | succ k =>
      have hle : (f a).length ≤ n * (k + 1) + w := by rw [hf, Nat.mul_succ]; omega
      have hsub : n * (k + 1) + w - (f a).length = n * k + w := by rw [hf, Nat.mul_succ]; omega
      rw [List.getElem?_append_right hle, hsub, ih]
      rfl

theorem decodeIndex_length (t : Option (Vector Byte 512)) (x : Nat) : (decodeIndex t x).length = 8 := by
  simp [decodeIndex]

theorem slcMag_eq {m : Nat} (h : m < 4) : slcMag m = [0x30, 0x3C, 0x42, 0x46].getD m 0 := by
  interval_cases m <;> rfl

theorem slcMag_lt (m : Nat) : slcMag m < 128 := by
  unfold slcMag
  split <;> decide

/-- Element `w` of an index of 16 bits. -/
theorem decodeIndex_getD {t : Option (Vector Byte 512)} {x w : Nat} (hx : x < 65536) (hw : w < 8) :
    (decodeIndex t x)[w]? = some ([0x30, 0x3C, 0x42, 0x46].getD (patternAt t (x / 256) / 4 ^ w % 4) 0
      + 128 * (x / 2 ^ w % 2)) := by
  have hlow : x / 256 % 256 = x / 256 := Nat.mod_eq_of_lt (by omega)
  simp only [decodeIndex, List.getElem?_map, List.getElem?_range hw, Option.map_some, hlow]
  rw [slcMag_eq (Nat.mod_lt _ (by decide))]

/-- A byte in each of the eight bytes of a scale word. -/
theorem spread_eq_packLanes {b : Nat} (h : b < 256) :
    b * 0x0101010101010101 = packLanes 8 (List.replicate 8 b) := by
  simp only [List.replicate, packLanes]
  omega

theorem testBit_spread {b k j : Nat} (h : b < 256) (hk : k < 8) (hj : j < 8) :
    (b * 0x0101010101010101).testBit (8 * k + j) = b.testBit j := by
  rw [spread_eq_packLanes h, testBit_packLanes hj, List.getD_replicate _ hk]

theorem width_spec {t : Tag} (h : t ≠ .e2m1x32) :
    0 < t.width / 8 ∧ 16 * t.width = 128 * (t.width / 8) ∧ t.width * t.perRow = 2048 := by
  cases t with
  | e2m1x32 => exact absurd rfl h
  | _ => exact ⟨by decide, by decide, by decide⟩

end Sys2Proof.Machine
end

section
/-! SUPPORT. The completion of a load into an operand slot, and the reading of one of its pieces (R203, R206, R210,
R212). -/

namespace Sys2Proof.Machine

/-! ## A load whose pieces have been read -/

/-- A piece, and a load, once read as the scratchpads stand in `s`. -/
def pieceRead (s : State) (p : UnitPiece) : UnitPiece := { p with got := some (pieceNow s p) }
def loadRead (s : State) (l : UnitLoad) : UnitLoad := { l with pieces := l.pieces.map (pieceRead s) }

/-- What the pieces of a load are before it completes: of sixteen bytes each. -/
def PiecesOk (l : UnitLoad) : Prop := ∀ p ∈ l.pieces, p.n = 16 ∧ ∀ g, p.got = some g → g < 2 ^ 128

theorem pieceNow_lt {s : State} {l : UnitLoad} (h : PiecesOk l) {p : UnitPiece} (hp : p ∈ l.pieces) :
    pieceNow s p < 2 ^ 128 := by
  obtain ⟨hn, hg⟩ := h p hp
  unfold pieceNow
  cases hgot : p.got with
  | some g => exact hg g hgot
  | none =>
    rw [hn]
    exact Mem.readLE_lt _ _ 16

theorem testBit_piecesValue (l : List UnitPiece) (h : ∀ p ∈ l, p.n = 16 ∧ p.got.getD 0 < 2 ^ 128) (i : Nat) :
    (piecesValue l).testBit i = l[i / 128]?.any fun p => (p.got.getD 0).testBit (i % 128) := by
  induction l generalizing i with
  | nil => simp [piecesValue]
  | cons p l ih =>
    obtain ⟨hn, hg⟩ := h p List.mem_cons_self
    have htail := ih fun q hq => h q (List.mem_cons_of_mem _ hq)
    rw [piecesValue, hn, Nat.add_comm, Nat.testBit_two_pow_mul_add _ hg]
    split_ifs with hi
    · rw [Nat.div_eq_of_lt hi, Nat.mod_eq_of_lt hi]
      rfl
    · obtain ⟨j, rfl⟩ : ∃ j, i = j + 128 := ⟨i - 128, by omega⟩
      rw [Nat.add_sub_cancel, htail, Nat.add_mod_right, Nat.add_div_right _ (by decide)]
      rfl

theorem loadedBit_eq (s : State) (l : UnitLoad) (r i : Nat) : loadedBit s l r i =
    l.pieces[l.per * r + i / 128]?.any fun p => (pieceNow s p).testBit (i % 128) := by
  unfold loadedBit
  split <;> next h => rw [h]; rfl

/-- Row `r` of a load that has been read, bit by bit. -/
theorem testBit_row {s : State} {l : UnitLoad} (h : PiecesOk l) {r i : Nat} (hi : i < 128 * l.per) :
    ((loadRead s l).row r).testBit i = loadedBit s l r i := by
  have hin : i / 128 < l.per := Nat.div_lt_of_lt_mul hi
  have hpieces : ∀ p ∈ ((l.pieces.map (pieceRead s)).drop (l.per * r)).take l.per,
      p.n = 16 ∧ p.got.getD 0 < 2 ^ 128 := by
    intro p hp
    obtain ⟨q, hq, rfl⟩ := List.mem_map.mp (List.mem_of_mem_drop (List.mem_of_mem_take hp))
    exact ⟨(h q hq).1, pieceNow_lt h hq⟩
  rw [UnitLoad.row, loadedBit_eq]
  refine (testBit_piecesValue _ hpieces i).trans ?_
  rw [List.getElem?_take_of_lt hin, List.getElem?_drop, List.getElem?_map, Option.any_map]
  rfl

/-! ## What the unit holds then -/

theorem fill_rest (x : MUnit) (l : UnitLoad) : (x.fill l).tag = x.tag ∧ (x.fill l).poison = x.poison := by
  unfold MUnit.fill
  split <;> exact ⟨rfl, rfl⟩

theorem fill_rows {x : MUnit} {l : UnitLoad} (h : l.kind = .rows) : x.fill l = { x with rows := rowsOf l.row } := by
  unfold MUnit.fill
  rw [h]

theorem fill_columns {x : MUnit} {l : UnitLoad} (h : l.kind = .columns) : x.fill l =
    { x with
        rows := rowsOf fun r => packLanes x.tag.width
          (((List.range (l.pieces.length / l.per)).map l.row).map fun v => v / 2 ^ (x.tag.width * r)) } := by
  unfold MUnit.fill
  rw [h]

theorem fill_indices {x : MUnit} {l : UnitLoad} {tab : Option (Vector Byte 512)} {sc : Bool}
    (h : l.kind = .indices tab sc) : x.fill l =
    { x with
        rows := rowsOf fun r => packLanes 8 ((lanesOf 16 32 (l.row r)).flatMap (decodeIndex tab))
        scales := if sc then
          Vector.ofFn fun i : Fin 16 => BitVec.ofNat 64 (l.row 16 / 256 ^ i.val % 256 * 0x0101010101010101)
          else x.scales } := by
  unfold MUnit.fill
  rw [h]

section
variable {s : State} {x : MUnit} {l : UnitLoad}

/-- MLOAD: the rows (R210). -/
theorem filled_rows (h : PiecesOk l) (hk : l.kind = .rows) (hper : l.per = 16) {r i : Nat} (hr : r < 16)
    (hi : i < 2048) : (vget (x.fill (loadRead s l)).rows 0 r).getLsbD i = loadedBit s l r i := by
  rw [fill_rows (l := loadRead s l) hk, vget_rowsOf hr, BitVec.getLsbD_ofNat, testBit_row h (by omega)]
  simp [hi]

/-- MLOADT: element `i` of row `r` from element `r` of memory row `i` (R210). -/
theorem filled_columns (h : PiecesOk l) (hk : l.kind = .columns) (htag : x.tag ≠ .e2m1x32)
    (hper : l.per = x.tag.width / 8) (hlen : l.pieces.length = l.per * x.tag.perRow) {r i j : Nat} (hr : r < 16)
    (hi : i < x.tag.perRow) (hj : j < x.tag.width) :
    (elem (x.fill (loadRead s l)) r i).testBit j = loadedBit s l i (x.tag.width * r + j) := by
  obtain ⟨hpos, h16, h2048⟩ := width_spec htag
  have htag' : (x.fill (loadRead s l)).tag = x.tag := (fill_rest _ _).1
  have hcount : (loadRead s l).pieces.length / (loadRead s l).per = x.tag.perRow := by
    have hlen' : (loadRead s l).pieces.length = l.per * x.tag.perRow := by simpa [loadRead] using hlen
    rw [hlen']
    exact Nat.mul_div_cancel_left _ (hper ▸ hpos)
  have hrow : vget (x.fill (loadRead s l)).rows 0 r = BitVec.ofNat 2048 (packLanes x.tag.width
      (((List.range x.tag.perRow).map (loadRead s l).row).map fun v => v / 2 ^ (x.tag.width * r))) := by
    rw [fill_columns (l := loadRead s l) hk, hcount, vget_rowsOf hr]
  have hfit : x.tag.width * i + x.tag.width ≤ 2048 := by
    rw [← h2048, ← Nat.mul_succ]
    exact Nat.mul_le_mul_left _ hi
  have hbit : x.tag.width * r + j < 128 * l.per := by
    have : x.tag.width * r ≤ x.tag.width * 15 := Nat.mul_le_mul_left _ (by omega)
    omega
  have helem : (((List.range x.tag.perRow).map (loadRead s l).row).map fun v => v / 2 ^ (x.tag.width * r)).getD i 0 =
      (loadRead s l).row i / 2 ^ (x.tag.width * r) := by
    simp [List.getD, List.getElem?_range hi]
  rw [elem_eq_lane hrow (by rw [htag']; exact hfit), htag', lane_packLanes, helem, Nat.testBit_mod_two_pow,
    Nat.testBit_div_two_pow, Nat.add_comm, testBit_row h hbit]
  simp [hj]

/-- MDEC: the elements that the table gives for an index (R212, R155). -/
theorem filled_indices (h : PiecesOk l) {tab : Option (Vector Byte 512)} {sc : Bool} (hk : l.kind = .indices tab sc)
    (hper : l.per = 4) (htag : x.tag = .e4m3x16) {r k w ix : Nat} (hr : r < 16) (hk32 : k < 32) (hw : w < 8)
    (hix : ix < 65536) (hbits : ∀ j, j < 16 → ix.testBit j = loadedBit s l r (16 * k + j)) :
    elem (x.fill (loadRead s l)) r (8 * k + w) =
      [0x30, 0x3C, 0x42, 0x46].getD (patternAt tab (ix / 256) / 4 ^ w % 4) 0 + 128 * (ix / 2 ^ w % 2) := by
  have hwidth : (x.fill (loadRead s l)).tag.width = 8 := by rw [(fill_rest _ _).1, htag]; rfl
  have hrow : vget (x.fill (loadRead s l)).rows 0 r =
      BitVec.ofNat 2048 (packLanes 8 ((lanesOf 16 32 ((loadRead s l).row r)).flatMap (decodeIndex tab))) := by
    rw [fill_indices (l := loadRead s l) (sc := sc) hk, vget_rowsOf hr]
  have hlane : (loadRead s l).row r / 2 ^ (16 * k) % 2 ^ 16 = ix := by
    refine Nat.eq_of_testBit_eq fun j => ?_
    rw [Nat.testBit_mod_two_pow, Nat.testBit_div_two_pow]
    by_cases hj : j < 16
    · rw [Nat.add_comm, testBit_row h (by omega), hbits j hj]
      simp [hj]
    · have hhigh : ix < 2 ^ j := Nat.lt_of_lt_of_le hix (Nat.pow_le_pow_right (n := 2) (by decide) (by omega : 16 ≤ j))
      simp [hj, Nat.testBit_lt_two_pow hhigh]
  have hget : ((lanesOf 16 32 ((loadRead s l).row r)).flatMap (decodeIndex tab))[8 * k + w]? =
      (decodeIndex tab ix)[w]? := by
    rw [getElem?_flatMap_of_length (decodeIndex_length tab) _ _ hw, lanesOf, List.getElem?_map,
      List.getElem?_range hk32, Option.map_some, hlane]
    rfl
  have hlt : [0x30, 0x3C, 0x42, 0x46].getD (patternAt tab (ix / 256) / 4 ^ w % 4) 0 + 128 * (ix / 2 ^ w % 2)
      < 2 ^ 8 := by
    have := slcMag_lt (patternAt tab (ix / 256) / 4 ^ w % 4)
    rw [slcMag_eq (Nat.mod_lt _ (by decide))] at this
    omega
  rw [elem_eq_lane hrow (by rw [hwidth]; omega), hwidth, lane_packLanes, List.getD, hget, decodeIndex_getD hix hw,
    Option.getD_some, Nat.mod_eq_of_lt hlt]

/-- MDEC: a scale for each row, in all its bytes (R212). -/
theorem filled_scales (h : PiecesOk l) {tab : Option (Vector Byte 512)} (hk : l.kind = .indices tab true)
    (hper : l.per = 4) {r k j : Nat} (hr : r < 16) (hk8 : k < 8) (hj : j < 8) :
    (vget (x.fill (loadRead s l)).scales 0 r).getLsbD (8 * k + j) = loadedBit s l 16 (8 * r + j) := by
  have hscale : vget (x.fill (loadRead s l)).scales 0 r =
      BitVec.ofNat 64 ((loadRead s l).row 16 / 256 ^ r % 256 * 0x0101010101010101) := by
    rw [fill_indices (l := loadRead s l) (sc := true) hk]
    simp [vget, hr]
  have hbyte : (loadRead s l).row 16 / 256 ^ r % 256 = (loadRead s l).row 16 / 2 ^ (8 * r) % 2 ^ 8 := by
    rw [Nat.pow_mul]
    rfl
  rw [hscale, BitVec.getLsbD_ofNat, testBit_spread (Nat.mod_lt _ (by decide)) hk8 hj, hbyte, Nat.testBit_mod_two_pow,
    Nat.testBit_div_two_pow, Nat.add_comm j, testBit_row h (by omega)]
  simp only [hj, show 8 * k + j < 64 by omega, decide_true, Bool.true_and]
end

/-! ## One piece read (R206) -/

/-- Unit `u` of a core becomes `y`. -/
def State.putUnit (s : State) (core u : Nat) (y : MUnit) : State :=
  s.modCore core fun k => { k with units := vset k.units u y }

theorem unit_putUnit {u : Nat} (hu : u < 8) (s : State) (core : Nat) (y : MUnit) :
    vget ((s.putUnit core u y).core core).units .reset u = y := by
  simp [State.putUnit, vget_vset_self _ _ _ _ hu]

theorem scratch_putUnit (s : State) (core u : Nat) (y : MUnit) (k : Nat) :
    ((s.putUnit core u y).core k).scratch = (s.core k).scratch := by
  simp only [State.putUnit, State.modCore_eq, State.core_setCore]
  split_ifs with hk
  · rw [hk]
  · rfl

/-- A unit whose load has read piece `k`, which was `p`, as `v`, or has met a fault there. -/
def MUnit.gotPiece (x : MUnit) (l : UnitLoad) (k : Nat) (p : UnitPiece) (v : Nat) (e : Option Cause) : MUnit :=
  { x with load := some { l with pieces := l.pieces.set k { p with got := some v } }
           poison := x.poison.or (e.map (·.code)) }

section
variable {s : State} {c u k : Nat} {l : UnitLoad} {p : UnitPiece}
  (hl : (vget (s.core (coreOf c)).units .reset u).load = some l) (hp : l.pieces[k]? = some p)
include hl hp

theorem readPiece_read (hg : p.got.isSome = true) : s.readPiece c u k = s := by
  unfold State.readPiece
  simp only [hl, hp, Option.bind_some, Option.map_some, hg, if_true]

theorem readPiece_scratch (hg : p.got = none) {j : Nat} (hc : p.core = some j) : s.readPiece c u k =
    s.putUnit (coreOf c) u ((vget (s.core (coreOf c)).units .reset u).gotPiece l k p
      ((s.core j).scratch.readLE p.pa p.n) none) := by
  unfold State.readPiece
  simp only [hl, hp, Option.bind_some, Option.map_some, hg, hc, Option.isSome_none, Bool.false_eq_true, if_false]
  cases hpoison : (vget (s.core (coreOf c)).units .reset u).poison <;>
    simp only [MUnit.gotPiece, hpoison, hc] <;> rfl

theorem readPiece_ok (hg : p.got = none) (hc : p.core = none) {w : State} {v : Nat}
    (hr : s.readGlobal c p.pa p.cached p.n = (w, .ok v)) : s.readPiece c u k =
    (w.putUnit (coreOf c) u ((vget (s.core (coreOf c)).units .reset u).gotPiece l k p v none)).bump := by
  unfold State.readPiece
  simp only [hl, hp, Option.bind_some, Option.map_some, hg, hc, Option.isSome_none, Bool.false_eq_true, if_false, hr]
  cases hpoison : (vget (s.core (coreOf c)).units .reset u).poison <;>
    simp only [MUnit.gotPiece, hpoison, hc] <;> rfl

theorem readPiece_error (hg : p.got = none) (hc : p.core = none) {w : State} {e : Cause}
    (hr : s.readGlobal c p.pa p.cached p.n = (w, .error e)) : s.readPiece c u k =
    ((w.recordErr c e p.va 0 l.pos).putUnit (coreOf c) u
      ((vget (s.core (coreOf c)).units .reset u).gotPiece l k p 0 (some e))).bump := by
  unfold State.readPiece
  simp only [hl, hp, Option.bind_some, Option.map_some, hg, hc, Option.isSome_none, Bool.false_eq_true, if_false, hr]
  cases hpoison : (vget (s.core (coreOf c)).units .reset u).poison <;>
    simp only [MUnit.gotPiece, hpoison, hc] <;> rfl

end

theorem gotPiece_piece {l : UnitLoad} {k : Nat} {p : UnitPiece} (hp : l.pieces[k]? = some p) (x : MUnit) (v : Nat)
    (e : Option Cause) :
    ((x.gotPiece l k p v e).load.bind fun l => l.pieces[k]?) = some { p with got := some v } := by
  have hk : k < l.pieces.length := (List.getElem?_eq_some_iff.mp hp).1
  simp [MUnit.gotPiece, hk]

/-- A piece of memory is performed by a read of its slot; a fault marks the unit and is pending (R206). -/
theorem readPiece_claim (s : State) (c u k : Nat) (l : UnitLoad) (p : UnitPiece) (hu : u < 8) :
    let x := vget (s.core (coreOf c)).units .reset u
    let r := s.readGlobal c p.pa p.cached p.n
    let t := s.readPiece c u k
    let y := vget (t.core (coreOf c)).units .reset u
    x.load = some l → l.pieces[k]? = some p → p.got = none → p.core = none →
    (∀ v, r.2 = .ok v → y.poison = x.poison ∧
      (y.load.bind fun l => l.pieces[k]?) = some { p with got := some v }) ∧
    (∀ e, r.2 = .error e → y.poison = some (x.poison.getD e.code) ∧
      (t.slot c).err = (r.1.slot c).err.record e p.va 0 l.pos) := by
  intro x r t y hl hp hg hc
  refine ⟨fun v hv => ?_, fun e he => ?_⟩
  · have hy : y = x.gotPiece l k p v none := by
      have ht : t = _ := readPiece_ok hl hp hg hc (Prod.ext rfl hv : s.readGlobal c p.pa p.cached p.n = (r.1, .ok v))
      rw [show y = vget (t.core (coreOf c)).units .reset u from rfl, ht]
      exact unit_putUnit hu _ _ _
    rw [hy]
    exact ⟨Option.or_none, gotPiece_piece hp _ _ _⟩
  · have ht : t = _ :=
      readPiece_error hl hp hg hc (Prod.ext rfl he : s.readGlobal c p.pa p.cached p.n = (r.1, .error e))
    have hy : y = x.gotPiece l k p 0 (some e) := by
      rw [show y = vget (t.core (coreOf c)).units .reset u from rfl, ht]
      exact unit_putUnit hu _ _ _
    rw [hy, ht]
    refine ⟨?_, ?_⟩
    · unfold MUnit.gotPiece
      cases x.poison <;> rfl
    · simp [State.putUnit, State.recordErr]

/-! ## All pieces read, and the load complete (R203) -/

/-- Reads in scratchpads have left unit `u` of a core as `y`, and neither memory nor a scratchpad changed. -/
structure UnitRead (core u : Nat) (s t : State) (y : MUnit) : Prop where
  mem : t.mem = s.mem
  scratch : ∀ k, (t.core k).scratch = (s.core k).scratch
  unit : vget (t.core core).units .reset u = y

theorem UnitRead.readPiece {s t : State} {c u k : Nat} {x : MUnit} {l : UnitLoad} {p : UnitPiece} (hu : u < 8)
    (h : UnitRead (coreOf c) u s t { x with load := some l }) (hp : l.pieces[k]? = some p)
    (hloc : p.core.isSome = true ∨ p.got.isSome = true) :
    UnitRead (coreOf c) u s (t.readPiece c u k)
      { x with load := some { l with pieces := l.pieces.set k (pieceRead s p) } } := by
  have hl : (vget (t.core (coreOf c)).units .reset u).load = some l := by rw [h.unit]
  obtain ⟨hk, hpk⟩ := List.getElem?_eq_some_iff.mp hp
  cases hg : p.got with
  | some g =>
    have hsame : pieceRead s p = p := by
      unfold pieceRead pieceNow
      rw [hg, Option.getD_some, ← hg]
    rw [readPiece_read hl hp (by rw [hg]; rfl), hsame, ← hpk, List.set_getElem_self]
    exact h
  | none =>
    obtain ⟨j, hj⟩ := Option.isSome_iff_exists.mp (hloc.resolve_right (by simp [hg]))
    have hnow : pieceNow s p = (t.core j).scratch.readLE p.pa p.n := by
      rw [pieceNow, hg, hj, h.scratch]
      rfl
    rw [readPiece_scratch hl hp hg hj, h.unit, ← hnow]
    refine ⟨h.mem, fun i => (scratch_putUnit _ _ _ _ i).trans (h.scratch i), ?_⟩
    rw [unit_putUnit hu, MUnit.gotPiece, Option.map_none, Option.or_none]
    rfl

theorem UnitRead.foldl {s : State} {c u : Nat} {x : MUnit} {l : UnitLoad} (hu : u < 8) (rest : List UnitPiece)
    (hloc : ∀ p ∈ rest, p.core.isSome = true ∨ p.got.isSome = true) (done : List UnitPiece) {t : State}
    (h : UnitRead (coreOf c) u s t { x with load := some { l with pieces := done.map (pieceRead s) ++ rest } }) :
    UnitRead (coreOf c) u s ((rest.zipIdx done.length).foldl (fun (t : State) e => t.readPiece c u e.2) t)
      { x with load := some { l with pieces := (done ++ rest).map (pieceRead s) } } := by
  induction rest generalizing done t with
  | nil => simpa using h
  | cons p rest ih =>
    have hp : (done.map (pieceRead s) ++ p :: rest)[done.length]? = some p := by simp
    have hstep := h.readPiece hu hp (hloc p List.mem_cons_self)
    have hset : (done.map (pieceRead s) ++ p :: rest).set done.length (pieceRead s p) =
        (done ++ [p]).map (pieceRead s) ++ rest := by simp
    rw [hset] at hstep
    have := ih (fun q hq => hloc q (List.mem_cons_of_mem _ hq)) (done ++ [p]) hstep
    simpa using this

/-- A load whose pieces lie in scratchpads or have been read is read through. -/
theorem UnitRead.readUnit {s : State} {c u : Nat} {l : UnitLoad} (hu : u < 8)
    (hl : (vget (s.core (coreOf c)).units .reset u).load = some l)
    (hloads : (vget (s.core (coreOf c)).units .reset u).loads c = true)
    (hloc : ∀ p ∈ l.pieces, p.core.isSome = true ∨ p.got.isSome = true) :
    UnitRead (coreOf c) u s (s.readUnit c u fun _ _ => true)
      { vget (s.core (coreOf c)).units .reset u with load := some (loadRead s l) } := by
  have hunfold : (s.readUnit c u fun _ _ => true) =
      l.pieces.zipIdx.foldl (fun (t : State) e => t.readPiece c u e.2) s := by
    unfold State.readUnit
    simp only [hl, hloads, if_true]
  rw [hunfold]
  refine UnitRead.foldl hu l.pieces hloc [] ⟨rfl, fun _ => rfl, ?_⟩
  rw [List.map_nil, List.nil_append, ← hl]

theorem core_accrue (s : State) (c : Nat) (f : BitVec 5) (k : Nat) : (s.accrue c f).core k = s.core k := by
  unfold State.accrue
  split <;> rfl

theorem mem_accrue (s : State) (c : Nat) (f : BitVec 5) : (s.accrue c f).mem = s.mem := by
  unfold State.accrue
  split <;> rfl

theorem UnitRead.complete {core u : Nat} (hu : u < 8) {s t : State} {y : MUnit} (h : UnitRead core u s t y) :
    UnitRead core u s (t.completeUnit core u) y.complete := by
  have hput : t.completeUnit core u =
      (t.accrue (ownerSlot core y) (y.pend.foldl (· ||| ·) 0)).putUnit core u y.complete := by
    rw [← h.unit]
    rfl
  rw [hput]
  refine ⟨(mem_accrue t _ _).trans h.mem, fun k => ?_, unit_putUnit hu _ _ _⟩
  rw [scratch_putUnit, core_accrue, h.scratch]

theorem coreOf_ownerSlot (core : Nat) (x : MUnit) : coreOf (ownerSlot core x) = core := by
  have := x.owner.isLt
  unfold coreOf ownerSlot
  omega

theorem loads_ownerSlot {core : Nat} {x : MUnit} (h : x.state = .loading) : x.loads (ownerSlot core x) = true := by
  have howner : x.owner = BitVec.ofNat 2 (ownerSlot core x) := by
    apply BitVec.eq_of_toNat_eq
    have := x.owner.isLt
    rw [BitVec.toNat_ofNat, ownerSlot]
    omega
  simp only [MUnit.loads, h, ← howner, beq_self_eq_true, Bool.and_self]

theorem execSlotLoadComplete_read {s : State} {core u : Nat} {l : UnitLoad} (hu : u < 8)
    (hst : (vget (s.core core).units .reset u).state = .loading)
    (hl : (vget (s.core core).units .reset u).load = some l)
    (hloc : ∀ p ∈ l.pieces, p.core.isSome = true ∨ p.got.isSome = true) :
    ∃ t, execSlotLoadComplete core u s = .next t ∧ UnitRead core u s t
      (MUnit.complete { vget (s.core core).units .reset u with load := some (loadRead s l) }) := by
  have hcore := coreOf_ownerSlot core (vget (s.core core).units .reset u)
  have hread := UnitRead.readUnit (s := s.bump) (c := ownerSlot core (vget (s.core core).units .reset u)) hu
    (by rw [hcore]; exact hl) (by rw [hcore]; exact loads_ownerSlot hst) hloc
  rw [hcore] at hread
  obtain ⟨hmem, hscratch, hunit⟩ := hread.complete hu
  refine ⟨_, ?_, ⟨hmem, hscratch, hunit⟩⟩
  unfold execSlotLoadComplete event
  simp only [hst, beq_self_eq_true, if_true]

/-- A completed unit has the rows and scales of its load. -/
theorem complete_loaded (x : MUnit) (l : UnitLoad) :
    let y := MUnit.complete { x with load := some l }
    y.state = .ready ∧ y.load = none ∧ y.pend = [] ∧ y.tag = x.tag ∧ y.poison = x.poison ∧
      y.rows = (x.fill l).rows ∧ y.scales = (x.fill l).scales := by
  obtain ⟨kind, pos, per, pieces⟩ := l
  cases kind <;> exact ⟨rfl, rfl, rfl, rfl, rfl, rfl, rfl⟩

theorem elem_congr {x y : MUnit} (hr : y.rows = x.rows) (ht : y.tag = x.tag) (r i : Nat) : elem y r i = elem x r i := by
  rw [elem, hr, ht]
  rfl

theorem unitLoadEnds_claim : Claims.UnitLoadEnds := by
  refine ⟨?_, fun s c u k l p hu => readPiece_claim s c u k l p hu⟩
  intro s core u l hu x hst hl hok hloc
  obtain ⟨t, ht, hmem, hscratch, hunit⟩ := execSlotLoadComplete_read hu hst hl hloc
  have hok : PiecesOk l := hok
  have hy := complete_loaded x (loadRead s l)
  generalize MUnit.complete { x with load := some (loadRead s l) } = y at hunit hy
  obtain ⟨hstate, hload, hpend, htag, hpoison, hrows, hscales⟩ := hy
  have helem (r i : Nat) : elem y r i = elem (x.fill (loadRead s l)) r i :=
    elem_congr hrows (htag.trans (fill_rest x _).1.symm) r i
  refine ⟨t, y, ht, hunit, hstate, hload, hpend, htag, hpoison, fun a => by rw [hmem], fun k a => by rw [hscratch],
    fun hk hper => ⟨?_, fun r i hr hi => ?_⟩, fun hk hne hper hlen => ⟨?_, fun r i j hr hi hj => ?_⟩,
    fun tab sc hk hper h4 => ⟨fun r k w hr hk32 hw ix hix hbits => ?_, fun hsc => ?_, fun hsc r k j hr hk8 hj => ?_⟩⟩
  · rw [hscales, fill_rows (l := loadRead s l) hk]
  · rw [hrows, filled_rows hok hk hper hr hi]
  · rw [hscales, fill_columns (l := loadRead s l) hk]
  · rw [helem, filled_columns hok hk hne hper hlen hr hi hj]
  · rw [helem, filled_indices hok hk hper h4 hr hk32 hw hix hbits]
  · subst hsc
    rw [hscales, fill_indices (l := loadRead s l) hk]
    rfl
  · subst hsc
    rw [hscales, filled_scales hok hk hper hr hk8 hj]

end Sys2Proof.Machine
end

section
/-! SUPPORT. Scales and pattern tables: the pieces that MLOADSC and MTBL read in order, and the words (R206, R211, R213,
R300). -/

namespace Sys2Proof.Machine

/-! ## Pieces in order, with one hold (R206, R300) -/

/-- The numbers that the word at the pc has read before it held issue. -/
def gotBefore (s : State) : List Nat := (s.me.seen.getD []).map (·.2.2)

theorem gotBefore_length (s : State) : (gotBefore s).length = (s.me.seen.getD []).length := List.length_map ..

/-- What a word has read once it has read all pieces, `f` being what it makes of the rest. -/
def readAll (s v : State) (f : Nat → Nat) (l : List Piece) : List Nat :=
  gotBefore s ++ (l.drop (gotBefore s).length).map fun p => f (held v p.tg p.n)

/-- What piece `r` gave. -/
theorem readAll_getD {s v : State} {f : Nat → Nat} {l : List Piece} {r : Nat} (hr : r < l.length) :
    (readAll s v f l).getD r 0 =
      if (gotBefore s).length ≤ r then f (readBefore s v l r) else readBefore s v l r := by
  have hdef : readBefore s v l r = if r < (gotBefore s).length then (gotBefore s).getD r 0
      else held v l[r].tg l[r].n := by
    rw [readBefore]
    change (if r < (gotBefore s).length then (gotBefore s).getD r 0 else _) = _
    rw [List.getElem?_eq_getElem hr]
  unfold readAll
  by_cases h : r < (gotBefore s).length
  · rw [hdef, if_pos h, if_neg (Nat.not_le.mpr h), List.getD_append _ _ _ _ h]
  · have hle := Nat.le_of_not_lt h
    rw [hdef, if_neg h, if_pos hle, List.getD_append_right _ _ _ _ hle, List.getD, List.getElem?_map,
      List.getElem?_drop, Nat.add_sub_cancel' hle, List.getElem?_eq_getElem hr]
    rfl

theorem readable_subset {v : State} {l l' : List Piece} (r : Readable v l) (h : ∀ p ∈ l', p ∈ l) : Readable v l' :=
  ⟨r.1, r.2.1, fun p hp => r.2.2 p (h p hp)⟩

section
variable {v : State} {check : Nat → Except Stop Nat} {f : Nat → Nat} {l : List Piece} (r : Readable v l)
include r

/-- Pieces that all pass are read, or the word holds issue with some of them read. -/
theorem readInOrder_ok (hall : ∀ p ∈ l.drop (gotBefore v).length, check (held v p.tg p.n) = .ok (f (held v p.tg p.n))) :
    (∃ t, readInOrder v check l = .ok (t, readAll v v f l) ∧ SameReads v t) ∨
    (v.me.seen = none ∧ ∃ t ps, SameReads v t ∧
      readInOrder v check l = .error (.became (t.modMe fun x => { x with seen := some ps, slow := true }))) := by
  unfold readInOrder
  cases hseen : v.me.seen with
  | some ps =>
    have hgot : gotBefore v = ps.map (·.2.2) := by rw [gotBefore, hseen]; rfl
    rw [hgot] at hall
    obtain ⟨t, ht, st⟩ := readEach_ok (readable_subset r fun p hp => List.mem_of_mem_drop hp) hall (.refl v)
    refine .inl ⟨t, ?_, st⟩
    simp only [ht, Bind.bind, Except.bind, readAll, hgot]
  | none =>
    have hgot : gotBefore v = [] := by rw [gotBefore, hseen]; rfl
    rw [hgot] at hall
    have hall' : ∀ p ∈ l, check (held v p.tg p.n) = .ok (f (held v p.tg p.n)) := hall
    dsimp only
    split_ifs
    · have hsub : ∀ p ∈ l.take (Config.choice v.free 0x412 % l.length + 1), p ∈ l := fun p hp => List.mem_of_mem_take hp
      obtain ⟨t, ht, st⟩ := readEach_ok (readable_subset r hsub) (fun p hp => hall' p (hsub p hp)) (.refl v)
      refine .inr ⟨rfl, t, ((l.take (Config.choice v.free 0x412 % l.length + 1)).map fun p =>
        f (held v p.tg p.n)).mapIdx fun r x => (0x8000 + r, 0, x), st, ?_⟩
      simp only [ht, Bind.bind, Except.bind]
    · obtain ⟨t, ht, st⟩ := readEach_ok r hall' (.refl v)
      refine .inl ⟨t, ?_, st⟩
      rw [ht, readAll, hgot]
      rfl

/-- A piece that is refused, after those read before, stops the word. -/
theorem readInOrder_refused {e : Stop} (he : e ≠ .hold) (hseen : v.me.seen ≠ none)
    (hall : ∀ p ∈ l.drop (gotBefore v).length,
      (∃ x, check (held v p.tg p.n) = .ok x) ∨ check (held v p.tg p.n) = .error e)
    (hbad : ∃ p ∈ l.drop (gotBefore v).length, check (held v p.tg p.n) = .error e) :
    ∃ t, readInOrder v check l = .error (.became (t.stop e)) ∧ SameReads v t := by
  obtain ⟨ps, hps⟩ := Option.ne_none_iff_exists'.mp hseen
  have hgot : gotBefore v = ps.map (·.2.2) := by rw [gotBefore, hps]; rfl
  rw [hgot] at hall hbad
  obtain ⟨t, ht, st⟩ := readEach_refused he (readable_subset r fun p hp => List.mem_of_mem_drop hp) hall hbad (.refl v)
  refine ⟨t, ?_, st⟩
  unfold readInOrder
  rw [hps]
  simp only [ht, Bind.bind, Except.bind]
end

/-- A word that has read some pieces and holds issue. -/
theorem holdsOn_of {s v t : State} {i : Instr} {ps : List (Nat × Nat × Nat)} (hst : Still s v) (h : SameReads v t)
    (he : exec i s = .next (t.modMe fun x => { x with seen := some ps, slow := true })) : HoldsOn s i := by
  have hstill : Still s t := hst.trans h.still
  have hme : (t.modMe fun x => { x with seen := some ps, slow := true }).me =
      { t.me with seen := some ps, slow := true } := by simp
  have hf := congrArg Slot.file hstill.me
  have hpc := congrArg Slot.pc hstill.me
  have hpos := congrArg Slot.pos hstill.me
  have h0 := congrArg Slot.l0 hstill.me
  have h1 := congrArg Slot.l1 hstill.me
  refine ⟨_, ps, he, ?_, ?_, ?_, fun i => ?_, ⟨?_, ?_⟩, fun k a => ?_⟩
  · rw [hme]
  · rw [hme]; exact hpc
  · rw [hme]; exact hpos
  · rw [hme]; exact congrArg (vget · .zero i) hf
  · rw [hme]; exact h0
  · rw [hme]; exact h1
  · exact congrArg (Mem.read · a) (hstill.scratch k)

/-! ## Scales of E2M1 slots (R211) -/

theorem evens_lanes (v : Nat) :
    evens (lanesOf 8 16 v) = (List.range 8).map fun k => v / 2 ^ (8 * (2 * k)) % 2 ^ 8 := rfl

theorem odds_lanes (v : Nat) :
    odds (lanesOf 8 16 v) = (List.range 8).map fun k => v / 2 ^ (8 * (2 * k + 1)) % 2 ^ 8 := rfl

theorem byte_eq_lane (v k : Nat) : v / 256 ^ k % 256 = v / 2 ^ (8 * k) % 2 ^ 8 := by
  rw [Nat.pow_mul]
  rfl

/-- The pairs of sixteen bytes agree. -/
def Paired (v : Nat) : Prop := ∀ k, k < 8 → v / 256 ^ (2 * k) % 256 = v / 256 ^ (2 * k + 1) % 256

theorem paired_iff (v : Nat) : Paired v ↔ evens (lanesOf 8 16 v) = odds (lanesOf 8 16 v) := by
  rw [evens_lanes, odds_lanes, List.map_inj_left]
  simp only [Paired, byte_eq_lane, List.mem_range]

/-- What MLOADSC makes of a row's scales, where it takes them. -/
def scalesOf (g : Tag) (v : Nat) : Nat := if g = .e2m1x32 then packLanes 8 (evens (lanesOf 8 16 v)) else v

/-- The check of MLOADSC on a row's scales. -/
def scaleCheck (g : Tag) (v : Nat) : Except Stop Nat := if g = .e2m1x32 then halveScales v else .ok v

theorem scaleCheck_ok {g : Tag} {v : Nat} (h : g ≠ .e2m1x32 ∨ Paired v) : scaleCheck g v = .ok (scalesOf g v) := by
  unfold scaleCheck scalesOf
  split_ifs with hg
  · exact if_pos ((paired_iff v).mp (h.resolve_left (not_not.mpr hg)))
  · rfl

theorem scaleCheck_refused {g : Tag} {v : Nat} (hg : g = .e2m1x32) (h : ¬ Paired v) :
    scaleCheck g v = .error (.info .format 11) := by
  unfold scaleCheck
  rw [if_pos hg]
  exact if_neg fun he => h ((paired_iff v).mpr he)

/-- Byte `k` of the scales of a row. -/
theorem scalesOf_byte (g : Tag) (v : Nat) {k : Nat} (hk : k < 8) : scalesOf g v / 256 ^ k % 256 =
    if g = .e2m1x32 then v / 256 ^ (2 * k) % 256 else v / 256 ^ k % 256 := by
  unfold scalesOf
  split_ifs
  · rw [byte_eq_lane, byte_eq_lane, lane_packLanes, evens_lanes, List.getD, List.getElem?_map,
      List.getElem?_range hk, Option.map_some, Option.getD_some, Nat.mod_mod]
  · rfl

theorem setScales_byte (x : MUnit) (sc : List Nat) {r k : Nat} (hr : r < 16) (hk : k < 8) :
    (vget (x.setScales sc).scales 0 r).toNat / 256 ^ k % 256 = sc.getD r 0 / 256 ^ k % 256 := by
  have hrow : vget (x.setScales sc).scales 0 r = BitVec.ofNat 64 (sc.getD r 0) := by
    simp [MUnit.setScales, vget, hr]
  rw [hrow, byte_eq_lane, byte_eq_lane, lane_ofNat _ (by omega)]

/-! ## MLOADSC (R211) -/

section
variable {s v : State} {m : Bool} {d a b : Reg} {ps : List (List Piece)} (r : Ready {} s [a, b]) (ha : s.ints [a])
  (hb : s.ints [b]) (hheld : holdsUnit s d.toNat) (hsc : (s.munit d.toNat).scaled = true)
  (hva : (s.int a).toNat % (if (s.munit d.toNat).tag = .e2m1x32 then 16 else 8) = 0)
  (hst : (s.int b).toNat % (if (s.munit d.toNat).tag = .e2m1x32 then 16 else 8) = 0)
  (hp : allPieces s.bump .load (rowsAt (s.int a) (s.int b) 16
    (if (s.munit d.toNat).tag = .e2m1x32 then 16 else 8)) = .ok (v, ps))
include r ha hb hheld hsc hva hst hp

theorem execMloadsc_next {w : State} {sc : List Nat}
    (h : readInOrder v (scaleCheck (s.munit d.toNat).tag) ps.flatten = .ok (w, sc)) :
    execMloadsc m d a b s = .next ((w.setUnit d.toNat ((w.munit d.toNat).setScales sc)).retire m) := by
  have h' : readInOrder v (fun n => if (s.munit d.toNat).tag = .e2m1x32 then halveScales n else .ok n) ps.flatten =
    .ok (w, sc) := h
  refine issue_next r ?_
  simp only [touch_bump r, srcInt_bump ha, srcInt_bump hb, heldUnit_ok (s := s.bump) hheld, munit_bump, hsc,
    alignedTo_ok hva hst, hp, h', during, Bind.bind, Except.bind, Bool.not_true, Bool.false_eq_true, if_false]

theorem execMloadsc_became {w : State}
    (h : readInOrder v (scaleCheck (s.munit d.toNat).tag) ps.flatten = .error (.became w)) :
    execMloadsc m d a b s = .next w := by
  have h' : readInOrder v (fun n => if (s.munit d.toNat).tag = .e2m1x32 then halveScales n else .ok n) ps.flatten =
    .error (.became w) := h
  refine issue_stops (e := .became w) r ?_
  simp only [touch_bump r, srcInt_bump ha, srcInt_bump hb, heldUnit_ok (s := s.bump) hheld, munit_bump, hsc,
    alignedTo_ok hva hst, hp, h', during, State.stop, Bind.bind, Except.bind, Bool.not_true, Bool.false_eq_true, if_false]
end

/-- What a word leaves that sets the scales of a unit and goes on. -/
theorem setScales_goOn {s v w : State} {u : Nat} (hu : u < 8) (hst : Still s v) (h : SameReads v w) (sc : List Nat) :
    let x := s.munit u
    let t := (w.setUnit u ((w.munit u).setScales sc)).goOn s.focus (s.me.pc + 4)
    FileKept s t ∧ LastKept s t ∧ Retired s t (s.me.pc + 4) ∧ (t.munit u).rows = x.rows ∧
      (t.munit u).state = x.state ∧ (t.munit u).scales = (x.setScales sc).scales ∧
      (∀ k, k ≠ u → t.munit k = v.munit k) ∧ ∀ k, t.mem.read k = v.mem.read k := by
  intro x t
  have hstill : Still s w := hst.trans h.still
  have hf : (w.setUnit u ((w.munit u).setScales sc)).focus = s.focus := hstill.focus
  obtain ⟨hfile, hlast, hret⟩ := goOn_kept hf hstill.me (s.me.pc + 4)
  have hframe := (goOn_frame (w.setUnit u ((w.munit u).setScales sc)) (s.me.pc + 4)).1
  rw [hf] at hframe
  have hunit : t.munit u = x.setScales sc := by
    rw [hframe.munit, munit_setUnit_self _ _ _ hu, hstill.munit]
  refine ⟨hfile, hlast, hret, by rw [hunit]; rfl, by rw [hunit]; rfl, by rw [hunit], fun k hk => ?_, fun k => ?_⟩
  · rw [hframe.munit, munit_setUnit_ne _ _ _ hk, h.still.munit]
  · rw [hframe.mem, setUnit_mem, h.mem]

/-! ## The trap of MLOADSC (R211, R367) -/

/-- The units of a core keep their scales while its tiles are written, and none of them comes to load. -/
theorem writeTile_unit (s : State) (core j : Nat) : ∃ p,
    vget ((s.writeTile core).core core).units .reset j = { vget (s.core core).units .reset j with pend := p } := by
  unfold State.writeTile
  split
  · exact ⟨_, rfl⟩
  · next u l _ =>
    dsimp only
    simp only [State.modCore_eq, State.core_setCore_self, core_accrue]
    by_cases hj : j = u
    · subst hj
      by_cases hlt : j < 8
      · rw [vget_vset_self _ _ _ _ hlt]
        exact ⟨_, rfl⟩
      · rw [vset, dif_neg hlt]
        exact ⟨_, rfl⟩
    · rw [vget_vset_ne _ _ _ _ _ hj]
      exact ⟨_, rfl⟩

theorem writeTiles_unit (s : State) (core n j : Nat) : ∃ p,
    vget ((s.writeTiles core n).core core).units .reset j = { vget (s.core core).units .reset j with pend := p } := by
  induction n generalizing s with
  | zero => exact ⟨_, rfl⟩
  | succ n ih =>
    obtain ⟨p, hp⟩ := ih (s.writeTile core)
    obtain ⟨q, hq⟩ := writeTile_unit s core j
    exact ⟨p, by rw [State.writeTiles, hp, hq]⟩

theorem settleUnits_none {s : State} {c : Nat} (h : ∀ u, (vget (s.core (coreOf c)).units .reset u).loads c = false)
    (hit : MUnit → Bool) : s.settleUnits c hit = s := by
  refine List.foldl_fixed' (fun u => ?_) _
  dsimp only
  rw [h u]
  rfl

theorem writeLate_units (s : State) (c k : Nat) : ((s.writeLate c).core k).units = (s.core k).units := by
  unfold State.writeLate
  split
  · rfl
  · simp only [State.modSlot_eq, State.modCore_eq, State.core_setSlot, State.core_setCore]
    split_ifs with hk
    · rw [hk]
    · rfl

/-- The wait of a slot of which nothing is under way leaves the units their scales. -/
theorem drain_scales {s : State} (i : Idle s) (j : Nat) :
    (vget ((s.drain s.focus).core (coreOf s.focus)).units .reset j).scales = (s.munit j).scales := by
  have hloads : s.allLoads s.focus = s := by
    rw [State.allLoads, performLoads_none i.loads, readPieces_idle i]
  have hlate : s.finishLate s.focus = s.writeLate s.focus := by
    rw [State.finishLate, readPieces_idle i]
  have hunits (j : Nat) : ∃ p, vget (((s.writeLate s.focus).settleTiles s.focus).core (coreOf s.focus)).units .reset j =
      { s.munit j with pend := p } := by
    obtain ⟨p, hp⟩ := writeTiles_unit (s.writeLate s.focus) (coreOf s.focus)
      (lastOf (((s.writeLate s.focus).core (coreOf s.focus)).holds s.focus)
        ((s.writeLate s.focus).core (coreOf s.focus)).mmas) j
    rw [writeLate_units] at hp
    exact ⟨p, hp⟩
  have hsettle : ((s.writeLate s.focus).settleTiles s.focus).settleUnits s.focus (fun _ => true) =
      (s.writeLate s.focus).settleTiles s.focus := by
    refine settleUnits_none (fun u => ?_) _
    obtain ⟨p, hp⟩ := hunits u
    rw [hp]
    exact loads_of_idle i u
  obtain ⟨p, hp⟩ := hunits j
  unfold State.drain
  simp only [hloads, hlate, hsettle, State.modSlot_eq, State.core_setSlot, core_accrue]
  rw [hp]

/-- A trap taken leaves the cores as the wait left them. -/
theorem takeTrap_core {s : State} (h : s.canTrap) (c : Cause) (addr info : Word) (pend : Bool) :
    (s.takeTrap s.focus c addr info pend).focus = s.focus ∧
      ∀ k, (s.takeTrap s.focus c addr info pend).core k = (s.drain s.focus).core k := by
  have hin : ((s.drain s.focus).slot s.focus).inTrap = false :=
    (drain_keeps Slot.inTrap (fun _ => rfl) s s.focus s.focus).trans h.1
  have hvec : ((s.drain s.focus).slot s.focus).trapVec ≠ 0 := by
    rw [drain_keeps Slot.trapVec (fun _ => rfl)]
    exact h.2
  unfold State.takeTrap
  simp only [hin, Bool.false_eq_true, if_false, if_neg hvec]
  exact ⟨by simp [(Kept.drain s s.focus).focus], fun k => by simp⟩

/-- The trap of a word that has only read. -/
theorem stop_format_eleven {s v t : State} (ht : s.canTrap) (hst : Still s v) (i : Idle v) (h : SameReads v t) (u : Nat) :
    let w := t.stop (.info .format 11)
    w.me.trapCause = Cause.format.code ∧ w.me.trapInfo = 11 ∧ w.me.inTrap = true ∧
      (w.munit u).scales = (s.munit u).scales := by
  intro w
  have hstill := hst.trans h.still
  have hcan : t.canTrap := by
    have hin := congrArg Slot.inTrap hstill.me
    have hvec := congrArg Slot.trapVec hstill.me
    exact ⟨hin.trans ht.1, fun h0 => ht.2 (hvec.symm.trans h0)⟩
  have htrap := takeTrap_trapped hcan .format 0 (BitVec.ofNat 64 11) false
  obtain ⟨hfocus, hcore⟩ := takeTrap_core hcan .format 0 (BitVec.ofNat 64 11) false
  refine ⟨htrap.trapCause, htrap.trapInfo, htrap.inTrap, ?_⟩
  have hunit : (w.munit u).scales = (t.munit u).scales := by
    rw [State.munit, State.myCore_eq, show w = t.takeTrap t.focus .format 0 (BitVec.ofNat 64 11) false from rfl, hfocus,
      hcore, drain_scales (h.idle i)]
  rw [hunit, hstill.munit]

end Sys2Proof.Machine
end

section
/-! SUPPORT. MLOADSC and MTBL as they end: with their effect, in a trap, or holding issue (R206, R211, R213, R300). -/

namespace Sys2Proof.Machine

theorem gotBefore_still {s v : State} (h : Still s v) : gotBefore v = gotBefore s := by
  have hseen := congrArg Slot.seen h.me
  exact congrArg (fun x : Option (List (Nat × Nat × Nat)) => (x.getD []).map (·.2.2)) hseen

theorem seen_still {s v : State} (h : Still s v) : v.me.seen = s.me.seen := by
  have hseen := congrArg Slot.seen h.me
  exact hseen

/-- The pieces that a word has still to read, by their numbers. -/
theorem mem_drop_gotBefore {s v : State} {l : List Piece} {x : Nat} :
    (∃ p ∈ l.drop (gotBefore s).length, held v p.tg p.n = x) ↔
      ∃ r, (gotBefore s).length ≤ r ∧ r < l.length ∧ readBefore s v l r = x := by
  have hread {r : Nat} (hle : (gotBefore s).length ≤ r) (hlt : r < l.length) :
      readBefore s v l r = held v l[r].tg l[r].n := by
    rw [readBefore]
    change (if r < (gotBefore s).length then _ else _) = _
    rw [if_neg (Nat.not_lt.mpr hle), List.getElem?_eq_getElem hlt]
  constructor
  · rintro ⟨p, hp, rfl⟩
    obtain ⟨i, hi, rfl⟩ := List.getElem_of_mem hp
    rw [List.length_drop] at hi
    have hlt : (gotBefore s).length + i < l.length := by omega
    exact ⟨_, Nat.le_add_right _ i, hlt, by rw [hread (Nat.le_add_right _ i) hlt, List.getElem_drop]⟩
  · rintro ⟨r, hle, hlt, rfl⟩
    exact ⟨l[r], List.mem_drop_iff_getElem.mpr ⟨r - (gotBefore s).length, by omega, by congr 1; omega⟩,
      (hread hle hlt).symm⟩

theorem readInOrder_still {s v : State} {check : Nat → Except Stop Nat} {f : Nat → Nat} {l : List Piece}
    (hst : Still s v) (r : Readable v l)
    (hall : ∀ r, (gotBefore s).length ≤ r → r < l.length →
      check (readBefore s v l r) = .ok (f (readBefore s v l r))) :
    (∃ w, readInOrder v check l = .ok (w, readAll s v f l) ∧ SameReads v w) ∨
    (s.me.seen = none ∧ ∃ w ps, SameReads v w ∧
      readInOrder v check l = .error (.became (w.modMe fun x => { x with seen := some ps, slow := true }))) := by
  have hsame : readAll s v f l = readAll v v f l := by
    unfold readAll
    rw [gotBefore_still hst]
  rw [hsame, ← seen_still hst]
  refine readInOrder_ok r fun p hp => ?_
  rw [gotBefore_still hst] at hp
  obtain ⟨r, hle, hlt, hr⟩ := mem_drop_gotBefore.mp ⟨p, hp, rfl⟩
  rw [← hr]
  exact hall r hle hlt

/-! ## MLOADSC (R211) -/

theorem flatten_rowsAt {k : AccKind} {s v : State} {a st : Word} {c : Prop} [Decidable c] {ps : List (List Piece)}
    (hp : allPieces s k (rowsAt a st 16 (if c then 16 else 8)) = .ok (v, ps)) : ps.flatten.length = 16 := by
  have hone : (if c then 16 else 8) / min (if c then 16 else 8) 16 = 1 := by
    split_ifs
    · rfl
    · rfl
  rw [(allPieces_still hp).2, rowsAt, List.map_map]
  change ((List.range 16).map fun _ => (if c then 16 else 8) / min (if c then 16 else 8) 16).sum = 16
  rw [hone]
  rfl

section
variable {s v : State} {m : Bool} {d a b : Reg} {ps : List (List Piece)} (r : Ready {} s [a, b]) (ha : s.ints [a])
  (hb : s.ints [b]) (hheld : holdsUnit s d.toNat) (hsc : (s.munit d.toNat).scaled = true)
  (hva : (s.int a).toNat % (if (s.munit d.toNat).tag = .e2m1x32 then 16 else 8) = 0)
  (hst : (s.int b).toNat % (if (s.munit d.toNat).tag = .e2m1x32 then 16 else 8) = 0)
  (hp : allPieces s.bump .load (rowsAt (s.int a) (s.int b) 16
    (if (s.munit d.toNat).tag = .e2m1x32 then 16 else 8)) = .ok (v, ps)) (hread : Readable v ps.flatten)
include r ha hb hheld hsc hva hst hp hread

/-- MLOADSC with scales that it takes. -/
theorem mloadsc_passes (hpass : (s.munit d.toNat).tag ≠ .e2m1x32 ∨
      ∀ r, (gotBefore s).length ≤ r → r < 16 → Paired (readBefore s v ps.flatten r)) :
    (∃ w, exec (.mloadsc m d a b) s = .next ((w.setUnit d.toNat ((w.munit d.toNat).setScales
      (readAll s v (scalesOf (s.munit d.toNat).tag) ps.flatten))).retire m) ∧ SameReads v w) ∨
    (s.me.seen = none ∧ HoldsOn s (.mloadsc m d a b)) := by
  have hstill : Still s v := (SameReads.bump s).still.trans (allPieces_still hp).1
  have hlen := flatten_rowsAt hp
  have hall (r : Nat) (hle : (gotBefore s).length ≤ r) (hlt : r < ps.flatten.length) :=
    scaleCheck_ok (hpass.imp_right fun h => h r hle (hlen ▸ hlt))
  obtain ⟨w, hw, same⟩ | ⟨hnone, w, l, same, hw⟩ := readInOrder_still hstill hread hall
  · exact .inl ⟨w, execMloadsc_next r ha hb hheld hsc hva hst hp hw, same⟩
  · exact .inr ⟨hnone, holdsOn_of hstill same (execMloadsc_became r ha hb hheld hsc hva hst hp hw)⟩

/-- MLOADSC with a pair of an E2M1 slot's scales that differs. -/
theorem mloadsc_refuses (htag : (s.munit d.toNat).tag = .e2m1x32)
    (hbad : ∃ r, (gotBefore s).length ≤ r ∧ r < 16 ∧ ¬ Paired (readBefore s v ps.flatten r))
    (hcan : s.canTrap) (hseen : s.me.seen ≠ none) :
    ∃ t, exec (.mloadsc m d a b) s = .next t ∧ t.me.trapCause = Cause.format.code ∧ t.me.trapInfo = 11 ∧
      t.me.inTrap = true ∧ (t.munit d.toNat).scales = (s.munit d.toNat).scales := by
  have hstill : Still s v := (SameReads.bump s).still.trans (allPieces_still hp).1
  have hlen := flatten_rowsAt hp
  obtain ⟨w, hw, same⟩ := readInOrder_refused (check := scaleCheck (s.munit d.toNat).tag) hread
    (e := .info .format 11) (by simp [Stop.info]) (by rwa [seen_still hstill])
    (fun p _ => (em (Paired (held v p.tg p.n))).imp (fun h => ⟨_, scaleCheck_ok (.inr h)⟩) (scaleCheck_refused htag))
    (by
      rw [gotBefore_still hstill]
      obtain ⟨r, hle, hlt, hr⟩ := hbad
      obtain ⟨p, hp, hpr⟩ := mem_drop_gotBefore.mpr ⟨r, hle, hlen ▸ hlt, rfl⟩
      exact ⟨p, hp, scaleCheck_refused htag (hpr ▸ hr)⟩)
  exact ⟨_, execMloadsc_became r ha hb hheld hsc hva hst hp hw, stop_format_eleven hcan hstill hread.1 same _⟩
end

/-! ## MTBL (R213) -/

/-- The table of the bytes that MTBL has read. -/
def tableOf (l : List Nat) : Vector Byte 512 :=
  Vector.ofFn fun i : Fin 512 => BitVec.ofNat 8 (packLanes 128 l / 256 ^ i.val)

theorem tableOf_byte (l : List Nat) {i : Nat} (h : i < 512) :
    (vget (tableOf l) 0 i).toNat = packLanes 128 l / 256 ^ i % 256 := by
  simp [vget, tableOf, h]

/-- Pattern `p` of a table is the `p`-th run of sixteen bits of what was read. -/
theorem patternAt_tableOf (l : List Nat) {p : Nat} (h : p < 256) :
    patternAt (some (tableOf l)) p = l.getD (p / 8) 0 / 2 ^ (16 * (p % 8)) % 2 ^ 16 := by
  have hbytes : patternAt (some (tableOf l)) p = packLanes 128 l / 2 ^ (16 * p) % 2 ^ 16 := by
    change (vget (tableOf l) 0 (2 * p)).toNat + 256 * (vget (tableOf l) 0 (2 * p + 1)).toNat = _
    have hpow : (2 : Nat) ^ (16 * p) = 256 ^ (2 * p) := by
      rw [show 16 * p = 8 * (2 * p) by ring, Nat.pow_mul]
    rw [tableOf_byte l (by omega), tableOf_byte l (by omega), Nat.pow_succ, ← Nat.div_div_eq_div_mul,
      ← Nat.mod_mul, hpow]
    rfl
  rw [hbytes]
  refine Nat.eq_of_testBit_eq fun j => ?_
  rw [Nat.testBit_mod_two_pow, Nat.testBit_mod_two_pow, Nat.testBit_div_two_pow, Nat.testBit_div_two_pow]
  by_cases hj : j < 16
  · rw [← testBit_packLanes (show j + 16 * (p % 8) < 128 by omega), show j + 16 * p =
      128 * (p / 8) + (j + 16 * (p % 8)) by omega]
  · simp [hj]

/-- A word that gives its core a pattern table and goes on. -/
theorem setPattern_goOn {s w : State} (h : Still s w) (tab : Option (Vector Byte 512)) :
    let t := (w.modMyCore fun k => { k with pattern := tab }).goOn s.focus (s.me.pc + 4)
    (∀ m, (w.modMyCore fun k => { k with pattern := tab }).retire m = t.settle s.focus m) ∧ FileKept s t ∧
      Retired s t (s.me.pc + 4) ∧ t.myCore.pattern = tab ∧ ∀ k, t.mem.read k = w.mem.read k := by
  intro t
  set u := w.modMyCore fun k => { k with pattern := tab } with hu
  have hf : u.focus = s.focus := h.focus
  have hme : u.me.still = s.me.still := h.me
  obtain ⟨hfile, -, hret⟩ := goOn_kept hf hme (s.me.pc + 4)
  have hframe := (goOn_frame u (s.me.pc + 4)).1
  rw [hf] at hframe
  refine ⟨retire_still hf hme, hfile, hret, ?_, fun k => hframe.mem k⟩
  rw [State.myCore_eq, hret.focus, hframe.cores, hu, ← h.focus]
  simp

section
variable {s v : State} {m : Bool} {a : Reg} {ps : List (List Piece)} (r : Ready {} s [a]) (ha : s.ints [a])
  (hz : a ≠ 0#6) (hva : (s.int a).toNat % 64 = 0) (hp : allPieces s.bump .load [(s.int a, 512)] = .ok (v, ps))
include r ha hz hva hp

theorem execMtbl_next {w : State} {l : List Nat} (h : readInOrder v .ok ps.flatten = .ok (w, l)) :
    execMtbl m a s = .next ((w.modMyCore fun k => { k with pattern := some (tableOf l) }).retire m) := by
  refine issue_next r ?_
  simp only [touch_bump r, srcInt_bump ha, if_neg (show ¬ a = 0 from hz), if_neg (not_not.mpr hva), hp, h, during,
    Bind.bind, Except.bind]
  rfl

theorem execMtbl_became {w : State} (h : readInOrder v .ok ps.flatten = .error (.became w)) :
    execMtbl m a s = .next w := by
  refine issue_stops (e := .became w) r ?_
  simp only [touch_bump r, srcInt_bump ha, if_neg (show ¬ a = 0 from hz), if_neg (not_not.mpr hva), hp, h, during,
    State.stop, Bind.bind, Except.bind]

/-- MTBL from memory: the table is what it has read, or it holds issue. -/
theorem mtbl_reads (hread : Readable v ps.flatten) :
    (∃ w, exec (.mtbl m a) s = .next ((w.modMyCore fun k =>
      { k with pattern := some (tableOf (readAll s v id ps.flatten)) }).retire m) ∧ SameReads v w) ∨
    (s.me.seen = none ∧ HoldsOn s (.mtbl m a)) := by
  have hstill : Still s v := (SameReads.bump s).still.trans (allPieces_still hp).1
  obtain ⟨w, hw, same⟩ | ⟨hnone, w, l, same, hw⟩ :=
    readInOrder_still (check := .ok) (f := id) hstill hread fun _ _ _ => rfl
  · exact .inl ⟨w, execMtbl_next r ha hz hva hp hw, same⟩
  · exact .inr ⟨hnone, holdsOn_of hstill same (execMtbl_became r ha hz hva hp hw)⟩
end

/-- MTBL from z: the default table. -/
theorem execMtbl_default {s : State} {a : Reg} (r : Ready {} s [a]) (m : Bool) :
    execMtbl m 0#6 s = .next ((s.bump.modMyCore fun k => { k with pattern := none }).retire m) := by
  refine issue_next r ?_
  have htouch : touch s.bump [0#6] = .ok () := rfl
  simp only [htouch, Bind.bind, Except.bind]
  rfl

/-! ## The claim -/

/-- A word that has read everything, or else may hold issue. -/
theorem done_of_or {α : Type} {x : Option α} {P H : Prop} (h : P ∨ (x = none ∧ H)) :
    (x ≠ none → P) ∧ (x = none → P ∨ H) :=
  ⟨fun hx => h.resolve_right fun hn => hx hn.1, fun _ => h.imp_right And.right⟩

theorem scalesAndTables_claim : Claims.ScalesAndTables := by
  intro s v m d a b ps ha u x va st n value done
  have hgot := gotBefore_length s
  refine ⟨fun r hb hu hheld hsc hva hst hp hread _ => ?_, fun r hz hva hp hread _ => ?_, fun r => ?_⟩
  · have hstill : Still s v := (SameReads.bump s).still.trans (allPieces_still hp).1
    have hlen : ps.flatten.length = 16 := flatten_rowsAt hp
    intro byte pairs
    refine ⟨fun hpass => done_of_or ?_, fun htag hbad hcan hseen => ?_⟩
    · refine (mloadsc_passes (m := m) r ha hb hheld hsc hva hst hp hread (hpass.imp_right fun h r hle hr k hk =>
        h r k (hgot ▸ hle) hr hk)).imp_left ?_
      rintro ⟨w, hw, same⟩
      obtain ⟨hfile, hlast, hret, hrows, hstate, hscales, hothers, hmem⟩ :=
        setScales_goOn (u := u) (by omega) hstill same (readAll s v (scalesOf x.tag) ps.flatten)
      refine ⟨_, hw.trans (congrArg _ (retire_still ?_ ?_ m)), hfile, hlast, hret, hrows, hstate, fun r k hr hk => ?_,
        hothers, hmem⟩
      · exact (hstill.trans same.still).focus
      · exact (hstill.trans same.still).me
      · rw [hscales, setScales_byte _ _ hr hk, readAll_getD (hlen.symm ▸ hr), hgot]
        by_cases hle : (s.me.seen.getD []).length ≤ r
        · rw [if_pos hle, scalesOf_byte _ _ hk]
          simp only [byte, hle, true_and]
          rfl
        · rw [if_neg hle]
          simp only [byte, hle, false_and, if_false]
          rfl
    · refine mloadsc_refuses r ha hb hheld hsc hva hst hp hread htag ?_ hcan hseen
      by_contra hno
      refine hbad fun r k hle hr hk => ?_
      by_contra hk'
      exact hno ⟨r, hgot.symm ▸ hle, hr, fun h => hk' (h k hk)⟩
  · have hstill : Still s v := (SameReads.bump s).still.trans (allPieces_still hp).1
    have hlen : ps.flatten.length = 32 := by
      rw [(allPieces_still hp).2]
      simp
    refine done_of_or ((mtbl_reads (m := m) r ha hz hva hp hread).imp_left ?_)
    rintro ⟨w, hw, same⟩
    obtain ⟨hgo, hfile, hret, hpat, hmem⟩ := setPattern_goOn (hstill.trans same.still)
      (some (tableOf (readAll s v id ps.flatten)))
    refine ⟨_, hw.trans (congrArg _ (hgo m)), hfile, hret, fun p hp => ?_, fun k => ?_⟩
    · rw [hpat, patternAt_tableOf _ hp, readAll_getD (by omega), id_eq, ite_self]
    · rw [hmem, same.mem]
  · obtain ⟨hgo, hfile, hret, hpat, hmem⟩ := setPattern_goOn (SameReads.bump s).still none
    exact ⟨_, (execMtbl_default r m).trans (congrArg _ (hgo m)), hfile, hret, hpat, hmem⟩

/-- Settles O44, claim by claim: each word issues, its accesses leave the slots and units still, and what it reads is
what scratchpads and memory hold; the default pattern table is ordered by norm and value, and nothing smaller is left
out. -/
theorem operandMemory : Obligations.OperandMemory :=
  ⟨unitWords_claim, unitLoads_claim, unitLoadEnds_claim, scalesAndTables_claim, defaultPatterns_claim⟩

end Sys2Proof.Machine
end

section
/-! SUPPORT. Results that bring flags (R138, R161): the flags written together with those still to come, and what a
result of the vector pipe leaves. -/

namespace Sys2Proof.Machine

/-! ## Flags that are written and flags still to come (R138, R139) -/

theorem foldl_flags (l : List Out) (f : BitVec 5) :
    l.foldl (fun f o => f ||| o.flags.getD 0) f = f ||| dueFlags l := by
  unfold dueFlags
  induction l generalizing f with
  | nil => simp
  | cons o l ih =>
    rw [List.foldl_cons, List.foldl_cons, ih (f ||| _), ih (0 ||| _)]
    simp [BitVec.or_assoc]

theorem dueFlags_cons (o : Out) (l : List Out) : dueFlags (o :: l) = o.flags.getD 0 ||| dueFlags l := by
  rw [dueFlags, List.foldl_cons, foldl_flags]
  simp

/-- The results that complete and those still pending bring all the flags between them. -/
theorem dueFlags_filter (p : Out → Bool) (l : List Out) :
    dueFlags (l.filter fun o => !p o) ||| dueFlags (l.filter p) = dueFlags l := by
  induction l with
  | nil => simp [dueFlags]
  | cons o l ih =>
    cases hp : p o
    · rw [List.filter_cons_of_pos (by simp [hp]), List.filter_cons_of_neg (by simp [hp]), dueFlags_cons, dueFlags_cons,
        BitVec.or_assoc, ih]
    · rw [List.filter_cons_of_neg (by simp [hp]), List.filter_cons_of_pos hp, dueFlags_cons, dueFlags_cons, ← ih,
        ← BitVec.or_assoc, ← BitVec.or_assoc, BitVec.or_comm (dueFlags _)]

/-- Flags that accrue reach the union of the slot's cluster. -/
theorem accrue_union (s : State) (f : BitVec 5) :
    (s.accrue s.focus f).myCluster.flagsUnion = s.myCluster.flagsUnion ||| f := by
  unfold State.accrue
  split_ifs with h
  · simp [h]
  · simp [State.myCluster_eq, Cluster.accrue]

/-- As a word goes on no flag is lost: those that leave the outstanding results are written. -/
theorem goOn_flags (s : State) (target : Word) :
    let t := s.goOn s.focus target
    t.me.fpflags ||| dueFlags t.me.outs = s.me.fpflags ||| dueFlags s.me.outs ∧
      t.myCluster.flagsUnion ||| dueFlags t.me.outs = s.myCluster.flagsUnion ||| dueFlags s.me.outs := by
  intro t
  set f := dueFlags (s.me.outs.filter fun o => !o.pending (s.me.pos + 1)) with hf
  obtain ⟨-, -, hslot, -, -, -⟩ := accrue_frame s f
  have hme : (s.written s.focus).me = { s.me with fpflags := s.me.fpflags ||| f } :=
    (congrArg (s.written s.focus).slot (written_me s).1).trans hslot
  have ht : t = _ := goOn_eq s target
  have hfp : t.me.fpflags = s.me.fpflags ||| f := by
    rw [ht, State.setMe_eq, State.me_setSlot, if_pos rfl, hme]
    rfl
  have hout : t.me.outs = s.me.outs.filter (·.pending (s.me.pos + 1)) := by
    rw [ht, State.setMe_eq, State.me_setSlot, if_pos rfl, hme]
    rfl
  have hun : t.myCluster.flagsUnion = s.myCluster.flagsUnion ||| f := by
    rw [ht]
    exact accrue_union s f
  rw [hfp, hun, hout, BitVec.or_assoc, BitVec.or_assoc, hf, dueFlags_filter]
  exact ⟨rfl, rfl⟩

/-- A register result and the going on after it, with the flags between them. -/
theorem SlotFrame.flagFrame {s u t : State} {f : Flags5} (a : SlotFrame s u) (b : SlotFrame u t)
    (hf : t.me.fpflags ||| dueFlags t.me.outs = s.me.fpflags ||| dueFlags s.me.outs ||| f)
    (hu : t.myCluster.flagsUnion ||| dueFlags t.me.outs = s.myCluster.flagsUnion ||| dueFlags s.me.outs ||| f) :
    FlagFrame s t f := by
  have hfocus := focus_of_outside a.outside
  exact ⟨fun x => (b.mem x).trans (a.mem x), fun k x => (b.scratch k x).trans (a.scratch k x),
    fun c hc => (b.others c (hfocus ▸ hc)).trans (a.others c hc), b.special.trans a.special,
    fun k => (b.cores k).trans (a.cores k), fun k => (b.clusters k).trans (a.clusters k),
    b.outside.trans a.outside, hf, hu⟩

/-! ## A result with flags (R138, R161) -/

/-- The newest outstanding result brings the flags `f`. -/
def Slot.flagged (x : Slot) (f : Flags5) : Slot :=
  { x with outs := match x.outs with
    | o :: os => { o with flags := some f } :: os
    | [] => [] }

theorem wrFlags_eq (s : State) (d : Reg) (v : RV) (p : Pipe) (lat : Lat) (f : Flags5) :
    s.wrFlags d v p lat f = s.setMe ((s.me.write d v p lat).flagged f) := rfl

/-- The outstanding result of a word that writes one register through the vector pipe (R24, R30). -/
theorem write_l1_outs (x : Slot) (d : Reg) (v : RV) (lat : Lat) : ∃ o,
    (x.write d v .l1 lat).outs = o :: x.outs ∧ o.flags = none ∧ o.l1 = some v ∧ (lat = .var → o.ready = none) := by
  have hl1 : (if regRef x.wbase d = .l1 then some ((some v).getD v) else some v) = some v := ite_self _
  unfold Slot.write Slot.put
  cases hr : regRef x.wbase d <;> cases lat <;> exact ⟨_, rfl, rfl, by simp, by simp⟩

/-- A word that writes one register through the vector pipe, brings flags and goes on. -/
def State.flagResult (s : State) (h : Takes) (d : Reg) (v : RV) (lat : Lat) (f : Flags5) (target : Word) : State :=
  ((s.atIssue h).wrFlags d v .l1 lat f).goOn s.focus target

theorem retire_flagResult (s : State) (h : Takes) (m : Bool) (d : Reg) (v : RV) (lat : Lat) (f : Flags5) :
    ((s.atIssue h).wrFlags d v .l1 lat f).retire m
      = (s.flagResult h d v lat f (s.me.pc + 4)).settle s.focus m := by
  have hpc : ((s.atIssue h).wrFlags d v .l1 lat f).me.pc = s.me.pc := by
    simp only [wrFlags_eq, State.setMe_eq, State.me_setSlot, if_true]
    exact ((put_rest _ _ _ _ _ _).2.1).trans (atIssue_pc s h)
  have hfocus : ((s.atIssue h).wrFlags d v .l1 lat f).focus = s.focus := atIssue_focus s h
  unfold State.retire State.flagResult
  rw [retireTo_eq, hpc, hfocus]

section
variable (s : State) (h : Takes) (d : Reg) (v : RV) (lat : Lat) (f : Flags5) (target : Word)

/-- The flags a result brings are all that tells it from a result without flags. -/
theorem flagResult_result : (s.flagResult h d v lat f target).me.file = (s.result h d v .l1 lat target).me.file ∧
    (s.flagResult h d v lat f target).me.l0 = (s.result h d v .l1 lat target).me.l0 ∧
    (s.flagResult h d v lat f target).me.l1 = (s.result h d v .l1 lat target).me.l1 := by
  have hw : ((s.atIssue h).wr d v .l1 lat).me = (s.atIssue h).me.write d v .l1 lat := by simp [State.wr]
  have hg : ((s.atIssue h).wrFlags d v .l1 lat f).me = ((s.atIssue h).me.write d v .l1 lat).flagged f := by
    simp [wrFlags_eq]
  obtain ⟨-, -, rfile, r0, r1⟩ := goOn_frame ((s.atIssue h).wr d v .l1 lat) target
  obtain ⟨-, -, gfile, g0, g1⟩ := goOn_frame ((s.atIssue h).wrFlags d v .l1 lat f) target
  rw [hw, wr_focus] at rfile r0 r1
  rw [hg, show ((s.atIssue h).wrFlags d v .l1 lat f).focus = s.focus from atIssue_focus s h] at gfile g0 g1
  exact ⟨gfile.trans rfile.symm, g0.trans r0.symm, g1.trans r1.symm⟩

theorem flagResult_holds : Holds s (s.flagResult h d v lat f target) d v :=
  holds_congr (result_holds h s d v .l1 lat target).2.2 rfl rfl (flagResult_result s h d v lat f target).1

theorem flagResult_l1 (n : Nat) : EntersL1 s (s.flagResult h d v (.fixed n) f target) d v n := by
  obtain ⟨-, h0, h1⟩ := flagResult_result s h d v (.fixed n) f target
  obtain ⟨e1, e0⟩ := result_l1 h s d v n target
  exact ⟨h1.trans e1, fun hd => h0.trans (e0 hd)⟩

/-- A result with flags goes on to `target`, and nothing outside the registers changes but that its flags are added
to those written and those still to come. -/
theorem flagResult_frame : Retired s (s.flagResult h d v lat f target) target ∧
    FlagFrame s (s.flagResult h d v lat f target) f := by
  set x := (s.atIssue h).me with hx
  set u := (s.atIssue h).wrFlags d v .l1 lat f with hu
  have hset : u = (s.atIssue h).setMe ((x.write d v .l1 lat).flagged f) := rfl
  have hme : u.me = (x.write d v .l1 lat).flagged f := by simp [hset]
  have hfocus : u.focus = s.focus := atIssue_focus s h
  obtain ⟨psp, -, ppos, -, pfp, -, -, -⟩ := put_rest x d v none (some v) lat
  obtain ⟨o, hout, hof, -, -⟩ := write_l1_outs x d v lat
  have hdue : dueFlags u.me.outs = dueFlags s.me.outs ||| f := by
    rw [hme, Slot.flagged, hout, dueFlags_cons, hx, atIssue_outs, BitVec.or_comm]
    rfl
  have hfp : u.me.fpflags = s.me.fpflags := by rw [hme]; exact pfp.trans (atIssue_fpflags s h)
  have hun : u.myCluster.flagsUnion = s.myCluster.flagsUnion := by
    rw [State.myCluster_eq, hfocus]
    exact congrArg Cluster.flagsUnion (atIssue_cluster s h _)
  have a : SlotFrame s u := (atIssue_frame s h).trans (setMe_frame _ _ psp pfp) (atIssue_flagless s h)
  obtain ⟨b, r, -, -⟩ := goOn_frame u target
  obtain ⟨gf, gu⟩ := goOn_flags u target
  rw [hfocus] at b r gf gu
  refine ⟨⟨r.focus.trans hfocus, r.pc, ?_, r.hints⟩, a.flagFrame b ?_ ?_⟩
  · rw [State.flagResult, r.pos, hme]
    exact congrArg (· + 1) (ppos.trans (atIssue_pos s h))
  · exact gf.trans (by rw [hdue, hfp, BitVec.or_assoc])
  · exact gu.trans (by rw [hdue, hun, BitVec.or_assoc])

/-- A variable result stays outstanding, for l1 as well (R30). -/
theorem flagResult_later : ∃ o ∈ (s.flagResult h d v .var f target).me.outs, o.l1 = some v ∧ o.ready = none := by
  set u := (s.atIssue h).wrFlags d v .l1 .var f with hu
  obtain ⟨o, hout, -, hl1, hready⟩ := write_l1_outs (s.atIssue h).me d v .var
  have hme : u.me.outs = { o with flags := some f } :: (s.atIssue h).me.outs := by
    rw [hu, wrFlags_eq, State.setMe_eq, State.me_setSlot, if_pos rfl, Slot.flagged, hout]
  have hgo : u.goOn u.focus target = s.flagResult h d v .var f target := by
    rw [hu, show ((s.atIssue h).wrFlags d v .l1 .var f).focus = s.focus from atIssue_focus s h]
    rfl
  obtain ⟨-, g, hw⟩ := written_me u
  have hpend : ∀ p, ({ o with flags := some f } : Out).pending p = true := fun p => by simp [Out.pending, hready rfl]
  refine ⟨{ o with flags := some f }, ?_, hl1, hready rfl⟩
  rw [← hgo, goOn_eq, hw, State.setMe_eq, State.me_setSlot, if_pos rfl]
  exact List.mem_filter.mpr ⟨hme ▸ List.mem_cons_self, hpend _⟩

end

/-- A latency of R45 as the model has it: none is variable. -/
def latOf : Option Nat → Lat
  | some n => .fixed n
  | none => .var

/-- What a vector word with lanes `l` leaves. -/
theorem vectorResult_flagResult (s : State) (h : Takes) (d : Reg) (g : Tag) (w : Nat) (l : List Lane)
    (lat : Option Nat) : VectorResult s
      (s.flagResult h d (.ofLanes g w (lanesBits l)) (latOf lat) (lanesFlags l) (s.me.pc + 4)) d g w l lat := by
  obtain ⟨hr, hf⟩ := flagResult_frame s h d (.ofLanes g w (lanesBits l)) (latOf lat) (lanesFlags l) (s.me.pc + 4)
  refine ⟨flagResult_holds .., hr, hf, fun n hn => ?_, fun hn => ?_⟩
  · subst hn
    exact flagResult_l1 ..
  · subst hn
    exact flagResult_later ..

end Sys2Proof.Machine
end

section
/-! SUPPORT. The shared words of VOP: the element type that sources share, lanes by number, and what a word of one or
two sources leaves or refuses (R33, R34, R161, R162). -/

namespace Sys2Proof.Machine

/-! ## Element types (R34, R161) -/

/-- The sources share an element type: each carries it or RAW, and one carries it; or all are RAW, where the word
takes that. -/
theorem elemType_ok {ts : List Tag} {k : Bool} {g : Tag} : elemType ts k = .ok g ↔
    (∀ u ∈ ts, u ≠ .i64 ∧ u ≠ .name) ∧
      (g ≠ .raw ∧ g ∈ ts ∧ (∀ u ∈ ts, u = g ∨ u = .raw) ∨ g = .raw ∧ k = true ∧ ∀ u ∈ ts, u = .raw) := by
  have hmem (u : Tag) : u ∈ ts.filter (· != .raw) ↔ u ∈ ts ∧ u ≠ .raw := by simp
  have hclean : ts.any (fun t => t == .i64 || t == .name) = false ↔ ∀ u ∈ ts, u ≠ .i64 ∧ u ≠ .name := by simp
  unfold elemType
  cases hbad : ts.any fun t => t == .i64 || t == .name with
  | true => exact iff_of_false (by simp) fun h => by simp [hclean.mpr h.1] at hbad
  | false =>
  rw [if_neg Bool.false_ne_true, and_iff_right (hclean.mp hbad)]
  cases hf : ts.filter (· != .raw) with
  | nil =>
    have hraw : ∀ u ∈ ts, u = .raw := fun u hu => by
      by_contra hn
      exact List.not_mem_nil (hf ▸ (hmem u).mpr ⟨hu, hn⟩)
    have hno : ¬ (g ≠ .raw ∧ g ∈ ts ∧ ∀ u ∈ ts, u = g ∨ u = .raw) := fun ⟨hg, hgt, _⟩ => hg (hraw g hgt)
    cases k with
    | false => simp [hno]
    | true =>
      constructor
      · rintro ⟨⟩
        exact .inr ⟨rfl, rfl, hraw⟩
      · intro h
        rw [(h.resolve_left hno).1]
        rfl
  | cons t l =>
    rw [hf] at hmem
    obtain ⟨htm, htr⟩ := (hmem t).mp List.mem_cons_self
    have hnot : ¬ ∀ u ∈ ts, u = .raw := fun h => htr (h t htm)
    simp only [hnot, and_false, or_false]
    split_ifs with hall
    · have hsame : ∀ u ∈ ts, u = t ∨ u = .raw := fun u hu => by
        by_cases hu' : u = .raw
        · exact .inr hu'
        · rcases List.mem_cons.mp ((hmem u).mpr ⟨hu, hu'⟩) with h | h
          · exact .inl h
          · exact .inl (by simpa using List.all_eq_true.mp hall u h)
      constructor
      · rintro ⟨⟩
        exact ⟨htr, htm, hsame⟩
      · rintro ⟨hg, hgt, -⟩
        rw [(hsame g hgt).resolve_right hg]
    · refine iff_of_false (by simp) fun ⟨hg, hgt, hsame⟩ => hall (List.all_eq_true.mpr fun u hu => ?_)
      obtain ⟨hum, hur⟩ := (hmem u).mp (List.mem_cons_of_mem _ hu)
      rw [(hsame u hum).resolve_right hur, (hsame t htm).resolve_right htr]
      exact beq_self_eq_true g

/-- Sources without an element type are refused with FORMAT (R161). -/
theorem elemType_error {ts : List Tag} {k : Bool} {e : Stop} (h : elemType ts k = .error e) :
    e = .plain .format := by
  unfold elemType at h
  split at h
  · cases h
    rfl
  · split at h
    · cases k <;> cases h
      rfl
    · split at h <;> cases h
      rfl

theorem elemType_of_shares {s : State} {rs : List Reg} {g : Tag} {k : Bool} (h : Shares s rs g) (hr : g ≠ .raw)
    (hi : g ≠ .i64) (hn : g ≠ .name) : elemType (rs.map fun r => (s.me.read r).tag) k = .ok g := by
  obtain ⟨hall, r, hrm, hrg⟩ := h
  refine elemType_ok.mpr ⟨fun u hu => ?_, .inl ⟨hr, List.mem_map.mpr ⟨r, hrm, hrg⟩, fun u hu => ?_⟩⟩ <;>
    obtain ⟨q, hq, rfl⟩ := List.mem_map.mp hu
  · rcases hall q hq with h | h <;> rw [h]
    · exact ⟨hi, hn⟩
    · exact ⟨by decide, by decide⟩
  · exact hall q hq

theorem elemType_of_sharesOrRaw {s : State} {rs : List Reg} {g : Tag} (h : SharesOrRaw s rs g) :
    elemType (rs.map fun r => (s.me.read r).tag) true = .ok g := by
  obtain ⟨hi, hn, ⟨hr, hs⟩ | ⟨rfl, hall⟩⟩ := h
  · exact elemType_of_shares hs hr hi hn
  · have htag : ∀ u ∈ rs.map fun r => (s.me.read r).tag, u = .raw := fun u hu => by
      obtain ⟨q, hq, rfl⟩ := List.mem_map.mp hu
      exact hall q hq
    refine elemType_ok.mpr ⟨fun u hu => ?_, .inr ⟨rfl, rfl, htag⟩⟩
    rw [htag u hu]
    exact ⟨by decide, by decide⟩

/-! ## Lanes (R33) -/

theorem lane_lt (v : RV) (w i : Nat) : lane v w i < 2 ^ w := Nat.mod_lt _ (Nat.two_pow_pos w)

theorem lanesAs_eq (v : RV) (g : Tag) : v.lanesAs g = (List.range g.lanes).map (lane v g.width) := rfl

/-! ## Words of one and two sources (R161) -/

section
variable {h : Takes} {s : State} {m : Bool} {d a b : Reg} {ok : Tag → Bool} {lat : Tag → Lat} {rt : Tag → Tag} {g : Tag}

theorem atIssue_of_eff (he : h.eff = false) : s.atIssue h = s.bump := by
  rw [State.atIssue, he, if_neg Bool.false_ne_true]

/-- A word of two sources whose sources share a type it takes. -/
theorem vop2_next {f : Ctx → Tag → Nat → Nat → Lane} (r : Ready h s [a, b, d]) (he : h.eff = false)
    (ht : elemType [(s.me.read a).tag, (s.me.read b).tag] false = .ok g) (hok : ok g = true) :
    let l := (List.range g.lanes).map fun i =>
      f s.bump.ctx g (lane (s.me.read a) g.width i) (lane (s.me.read b) g.width i)
    vop2 h m d a b ok lat rt f s = .next ((s.flagResult h d (.ofLanes (rt g) g.width (lanesBits l)) (lat g)
      (lanesFlags l) (s.me.pc + 4)).settle s.focus m) := by
  intro l
  have hl : List.zipWith (f (s.atIssue h).ctx g) ((s.me.read a).lanesAs g) ((s.me.read b).lanesAs g) = l := by
    rw [lanesAs_eq, lanesAs_eq, List.zipWith_map, List.zipWith_self, atIssue_of_eff he]
  unfold vop2
  rw [issue_ready r]
  simp only [touch_ready r, atIssue_read, ht, hok, hl, Bind.bind, Except.bind, Bool.not_true, Bool.false_eq_true,
    if_false, retire_flagResult]

/-- A word of one source that carries a type it takes. -/
theorem vop1_next {f : Ctx → Tag → Nat → Lane} (r : Ready h s [a, d]) (he : h.eff = false)
    (ht : elemType [(s.me.read a).tag] false = .ok g) (hok : ok g = true) :
    let l := (List.range g.lanes).map fun i => f s.bump.ctx g (lane (s.me.read a) g.width i)
    vop1 h m d a ok lat rt f s = .next ((s.flagResult h d (.ofLanes (rt g) g.width (lanesBits l)) (lat g)
      (lanesFlags l) (s.me.pc + 4)).settle s.focus m) := by
  intro l
  have hl : ((s.me.read a).lanesAs g).map (f (s.atIssue h).ctx g) = l := by
    rw [lanesAs_eq, List.map_map, atIssue_of_eff he]
    rfl
  unfold vop1
  rw [issue_ready r]
  simp only [touch_ready r, atIssue_read, ht, hok, hl, Bind.bind, Except.bind, Bool.not_true, Bool.false_eq_true,
    if_false, retire_flagResult]

/-- A word of two sources whose sources share no type it takes traps FORMAT (R161, R162). -/
theorem vop2_format {f : Ctx → Tag → Nat → Nat → Lane} (ht : s.canTrap) (r : Ready h s [a, b, d])
    (hno : ∀ t, elemType [(s.me.read a).tag, (s.me.read b).tag] false = .ok t → ok t = false) :
    ∃ t, vop2 h m d a b ok lat rt f s = .next t ∧ Trapped s.bump t .format s.me.groupStart 0 0 false := by
  refine issue_trapped ht r.hints r.mode ?_
  simp only [touch_ready r, atIssue_read, Bind.bind, Except.bind]
  cases he : elemType [(s.me.read a).tag, (s.me.read b).tag] false with
  | error e => rw [elemType_error he]; rfl
  | ok t => simp only [hno t he]; rfl

end

/-! ## Words without flags (R171) -/

/-- A word that answers with one register result of latency 2 for l1. -/
theorem exists_moved {o : Host.Outcome State Fault Refusal} {h : Takes} {s : State} {m : Bool} {d : Reg} {v : RV}
    (ho : o = .next ((s.result h d v .l1 (.fixed 2) (s.me.pc + 4)).settle s.focus m)) :
    ∃ t, o = .next (t.settle s.focus m) ∧ Moved s t d v := by
  obtain ⟨hf, hr, hh⟩ := result_holds h s d v .l1 (.fixed 2) (s.me.pc + 4)
  exact ⟨_, ho, hh, hr, hf, result_l1 h s d v 2 _⟩

section
variable {s : State} {m : Bool} {d a b : Reg} {g : Tag}

theorem vbit2_next {f : Quad → Quad → Quad} (r : Ready {} s [a, b, d]) (ht : SharesOrRaw s [a, b] g) :
    vbit2 m d a b f s = .next ((s.result {} d ⟨f (s.me.read a).val (s.me.read b).val, g⟩ .l1 (.fixed 2)
      (s.me.pc + 4)).settle s.focus m) := by
  have he : elemType [(s.me.read a).tag, (s.me.read b).tag] true = .ok g := elemType_of_sharesOrRaw ht
  unfold vbit2
  rw [issue_ready r]
  simp only [touch_ready r, atIssue_read, he, Bind.bind, Except.bind, retire_result]

theorem execVnot_next (r : Ready {} s [a, d]) (ht : SharesOrRaw s [a] g) :
    execVnot m d a s = .next ((s.result {} d ⟨~~~(s.me.read a).val, g⟩ .l1 (.fixed 2)
      (s.me.pc + 4)).settle s.focus m) := by
  have he : elemType [(s.me.read a).tag] true = .ok g := elemType_of_sharesOrRaw ht
  unfold execVnot
  rw [issue_ready r]
  simp only [touch_ready r, atIssue_read, he, Bind.bind, Except.bind, retire_result]

theorem execVsel_next (r : Ready {} s [a, b, d]) (ht : SharesOrRaw s [a, b] g) (hi : (s.me.read d).tag ≠ .i64)
    (hn : (s.me.read d).tag ≠ .name) :
    execVsel m d a b s = .next ((s.result {} d ⟨((s.me.read d).val &&& (s.me.read a).val) |||
      (~~~(s.me.read d).val &&& (s.me.read b).val), g⟩ .l1 (.fixed 2) (s.me.pc + 4)).settle s.focus m) := by
  have he : elemType [(s.me.read a).tag, (s.me.read b).tag] true = .ok g := elemType_of_sharesOrRaw ht
  unfold execVsel
  rw [issue_ready r]
  simp only [touch_ready r, atIssue_read, he, hi, hn, or_self, if_false, Bind.bind, Except.bind, retire_result]

end

end Sys2Proof.Machine
end

section
/-! SUPPORT. The integer lanes of VOP as the statements write them (R151, R163, R167, R170, R172), and the sign
operations on floats (R418). -/

namespace Sys2Proof.Machine

/-! ## Integer lanes (R151, R167) -/

theorem ints_cases {g : Tag} (h : g ∈ ints) : g = .i32x4 ∨ g = .i16x8 ∨ g = .i8x16 ∨ g = .b8x16 := by
  simpa [ints] using h

theorem floats_cases {g : Tag} (h : g ∈ floats) : g = .f64x2 ∨ g = .f32x4 ∨ g = .f16x8 ∨ g = .bf16x8 := by
  simpa [floats] using h

theorem fmt_of_ints {g : Tag} (h : g ∈ ints) : g.fmt = none := by
  rcases ints_cases h with rfl | rfl | rfl | rfl <;> rfl

theorem fmt_of_floats {g : Tag} (h : g ∈ floats) : ∃ k, g.fmt = some k ∧ k.w = g.width := by
  rcases floats_cases h with rfl | rfl | rfl | rfl <;> exact ⟨_, rfl, rfl⟩

theorem signed_of_ints {g : Tag} (h : g ∈ ints) : g.signed = decide (g ≠ .b8x16) := by
  rcases ints_cases h with rfl | rfl | rfl | rfl <;> rfl

theorem width_pos (g : Tag) : 0 < g.width := by
  cases g <;> decide

theorem two_pow_width (g : Tag) : 2 ^ g.width = 2 * 2 ^ (g.width - 1) := by
  exact (mul_pow_sub_one (width_pos g).ne' 2).symm

section
variable {g : Tag} {x : Nat}

/-- The model's reading of a lane is the one of R167. -/
theorem laneInt_eq_readInt (hg : g ∈ ints) (hx : x < 2 ^ g.width) : laneInt g x = readInt g x := by
  have hw := two_pow_width g
  unfold laneInt readInt
  rw [signed_of_ints hg, Nat.mod_eq_of_lt hx]
  by_cases hb : g = .b8x16
  · simp [hb]
  · have hcast : ((2 ^ g.width : Nat) : Int) = 2 ^ g.width := by push_cast; rfl
    rw [if_neg hb, if_pos (by simpa using hb), Int.bmod_def, ← Int.natCast_mod, Nat.mod_eq_of_lt hx, ← hcast]
    split_ifs <;> omega

theorem readInt_emod (hx : x < 2 ^ g.width) : readInt g x % 2 ^ g.width = x := by
  have hmod : ((x : Int) % (2 ^ g.width : Nat)) = x := by exact_mod_cast Nat.mod_eq_of_lt hx
  unfold readInt
  split_ifs
  · exact_mod_cast hmod
  · exact_mod_cast (Int.bmod_emod (x := (x : Int)) (m := 2 ^ g.width)).trans hmod

theorem wrap_readInt (hx : x < 2 ^ g.width) : wrap g (readInt g x) = ⟨x, 0⟩ := by
  rw [wrap, readInt_emod hx, Int.toNat_natCast]

theorem wrap_natCast (hx : x < 2 ^ g.width) : wrap g (x : Int) = ⟨x, 0⟩ := by
  have hmod : ((x : Int) % 2 ^ g.width) = x := by exact_mod_cast Nat.mod_eq_of_lt hx
  rw [wrap, hmod, Int.toNat_natCast]

theorem intLane_false (g : Tag) (v : Int) : g.intLane false v = wrap g v := rfl

/-- A saturated lane is clamped to the lane range of its type (R163). -/
theorem intLane_true (hg : g ∈ ints) (v : Int) : g.intLane true v = clamp g v := by
  have hlo : g.lo = if g = .b8x16 then 0 else -2 ^ (g.width - 1) := by
    rcases ints_cases hg with rfl | rfl | rfl | rfl <;> rfl
  have hhi : g.hi = if g = .b8x16 then 2 ^ g.width - 1 else 2 ^ (g.width - 1) - 1 := by
    rcases ints_cases hg with rfl | rfl | rfl | rfl <;> rfl
  have hle : g.lo ≤ g.hi := by
    rcases ints_cases hg with rfl | rfl | rfl | rfl <;> decide
  have hc : (if v < g.lo then g.lo else if g.hi < v then g.hi else v) = min g.hi (max g.lo v) := by
    split_ifs <;> omega
  simp only [Tag.intLane, clamp, if_true, hc, ← hlo, ← hhi, wrapLane, nvIf, decide_eq_true_eq, ne_eq, ite_not]

end

/-! ## Arithmetic, extremes and comparisons (R163, R167, R169, R170) -/

/-- Two lane operations of two sources agree on lanes of the types listed. -/
def SameLanes2 (types : List Tag) (f f' : Ctx → Tag → Nat → Nat → Lane) : Prop :=
  ∀ g ∈ types, ∀ c x y, x < 2 ^ g.width → y < 2 ^ g.width → f c g x y = f' c g x y

/-- Two lane operations of one source agree on lanes of the types listed. -/
def SameLanes1 (types : List Tag) (f f' : Ctx → Tag → Nat → Lane) : Prop :=
  ∀ g ∈ types, ∀ c x, x < 2 ^ g.width → f c g x = f' c g x

theorem SameLanes1.refl (types : List Tag) (f : Ctx → Tag → Nat → Lane) : SameLanes1 types f f :=
  fun _ _ _ _ _ => rfl

theorem arithLane_same (f : Fmt → Ctx → Nat → Nat → Lane) (i : Int → Int → Int) :
    SameLanes2 (floats ++ ints) (arithLane f i) (either f i) := by
  intro g hg c x y hx hy
  unfold arithLane either
  rcases List.mem_append.mp hg with hf | hi
  · obtain ⟨k, hk, -⟩ := fmt_of_floats hf
    simp only [hk]
  · simp only [fmt_of_ints hi, laneInt_eq_readInt hi hx, laneInt_eq_readInt hi hy]
    cases c.sat
    · rfl
    · exact intLane_true hi _

theorem floatLane2_same (f : Fmt → Ctx → Nat → Nat → Lane) (i : Int → Int → Int) :
    SameLanes2 floats (floatLane2 f) (either f i) := by
  intro g hg c x y _ _
  obtain ⟨k, hk, -⟩ := fmt_of_floats hg
  simp only [floatLane2, either, hk]

theorem pickLane_same (big num : Bool) :
    SameLanes2 (floats ++ ints) (pickLane big num) (extreme big num) := by
  intro g hg c x y hx hy
  unfold pickLane extreme
  rcases List.mem_append.mp hg with hf | hi
  · obtain ⟨k, hk, -⟩ := fmt_of_floats hf
    simp only [hk]
  · simp only [fmt_of_ints hi, laneInt_eq_readInt hi hx, laneInt_eq_readInt hi hy]
    rcases lt_or_ge (readInt g x) (readInt g y) with hlt | hle
    · cases big <;> simp [hlt, max_eq_right hlt.le, min_eq_left hlt.le, wrap_readInt hx, wrap_readInt hy]
    · cases big <;> simp [hle.not_gt, max_eq_left hle, min_eq_right hle, wrap_readInt hx, wrap_readInt hy]

/-- A saturating word on integers. -/
theorem intLane_same_clamp (i : Tag → Int → Int → Int) :
    SameLanes2 ints (fun _ t x y => t.intLane true (i t (laneInt t x) (laneInt t y))) (onInts clamp i) := by
  intro g hg c x y hx hy
  dsimp only
  rw [laneInt_eq_readInt hg hx, laneInt_eq_readInt hg hy]
  exact intLane_true hg _

/-- A wrapping word on integers. -/
theorem intLane_same_wrap (i : Tag → Int → Int → Int) :
    SameLanes2 ints (fun _ t x y => t.intLane false (i t (laneInt t x) (laneInt t y))) (onInts wrap i) := by
  intro g hg c x y hx hy
  dsimp only
  rw [laneInt_eq_readInt hg hx, laneInt_eq_readInt hg hy]
  rfl

theorem compareLane_same {types : List Tag} {r : Rel} {i : Int → Int → Bool}
    (ht : ∀ g ∈ types, g.fmt.isSome ∨ g ∈ ints) (hr : ∀ u v, r.onInt u v = i u v) :
    SameLanes2 types (compareLane r) (relation r i) := by
  intro g hg c x y hx hy
  unfold compareLane relation
  rcases ht g hg with hf | hint
  · obtain ⟨k, hk⟩ := Option.isSome_iff_exists.mp hf
    simp only [hk, mask]
  · simp only [fmt_of_ints hint, laneInt_eq_readInt hint hx, laneInt_eq_readInt hint hy, hr, mask]

/-! ## Shifts (R172) -/

section
variable {g : Tag} {x : Nat}

theorem shlLane_eq (c : Ctx) (hx : x < 2 ^ g.width) (n : Nat) :
    (⟨shlLane g x n, 0⟩ : Lane) = shifted (fun g x n => if n < g.width then x * 2 ^ n else 0) c g x n := by
  unfold shlLane shifted
  dsimp only
  split_ifs
  · have h : readInt g x * 2 ^ n % 2 ^ g.width = ((x * 2 ^ n % 2 ^ g.width : Nat) : Int) := by
      have hmod : readInt g x ≡ x [ZMOD 2 ^ g.width] := readInt_emod hx ▸ (Int.mod_modEq (readInt g x) _).symm
      exact_mod_cast hmod.mul_right (2 ^ n)
    rw [wrap, h, Int.toNat_natCast]
  · simp [wrap]

theorem shrLane_eq (c : Ctx) (hx : x < 2 ^ g.width) (n : Nat) : (⟨shrLane g x n, 0⟩ : Lane) =
    shifted (fun g x n => if n < g.width then x % 2 ^ g.width / 2 ^ n else 0) c g x n := by
  unfold shrLane shifted
  dsimp only
  split_ifs
  · rw [readInt_emod hx]
    exact_mod_cast (wrap_natCast ((Nat.div_le_self x (2 ^ n)).trans_lt hx)).symm
  · simp [wrap]

/-- A signed lane shifted by its width less one leaves copies of its sign. -/
theorem readInt_div_top (hb : g ≠ .b8x16) :
    readInt g x / (2 ^ (g.width - 1) : Nat) = if readInt g x < 0 then -1 else 0 := by
  have hw := two_pow_width g
  have hlow := Int.le_bmod (x := (x : Int)) (m := 2 ^ g.width) (Nat.two_pow_pos _)
  have hhigh := Int.bmod_lt (x := (x : Int)) (m := 2 ^ g.width) (Nat.two_pow_pos _)
  rw [readInt, if_neg hb]
  generalize Int.bmod (x : Int) (2 ^ g.width) = v at *
  have hpos := Nat.two_pow_pos (g.width - 1)
  split_ifs with hv
  · exact Int.ediv_eq_iff_of_pos (by omega) |>.mpr (by omega)
  · exact Int.ediv_eq_zero_of_lt (by omega) (by omega)

theorem sarLane_eq (c : Ctx) (hg : g ∈ ints) (hx : x < 2 ^ g.width) (n : Nat) : (⟨sarLane g x n, 0⟩ : Lane) =
    shifted (fun g x n => if n < g.width then x / 2 ^ n else if x < 0 then -1 else 0) c g x n := by
  have hw := width_pos g
  unfold sarLane shifted
  dsimp only
  rw [signed_of_ints hg]
  by_cases hb : g = .b8x16
  · have hread : readInt g x = x := if_pos hb
    rw [if_neg (by simpa using hb), shrLane_eq c hx, shifted, readInt_emod hx, hread,
      if_neg (Int.natCast_nonneg x).not_gt]
  · rw [if_pos (by simpa using hb), laneInt_eq_readInt hg hx]
    change wrap g _ = wrap g _
    congr 1
    by_cases hn : n < g.width
    · rw [if_pos hn, min_eq_left (by omega)]
      push_cast
      rfl
    · rw [if_neg hn, min_eq_right (by omega), readInt_div_top hb]

end

/-! ## Signs (R418) -/

theorem absLane_same :
    SameLanes1 (floats ++ signedInts) absLane (signOp (fun top x => x % top) (fun x => |x|)) := by
  intro g hg c x hx
  unfold absLane signOp
  rcases List.mem_append.mp hg with hf | hi
  · obtain ⟨k, hk, hw⟩ := fmt_of_floats hf
    simp only [hk, hw, Option.isSome_some, if_true]
  · have hi' : g ∈ ints := List.mem_append_left [Tag.b8x16] hi
    simp only [fmt_of_ints hi', laneInt_eq_readInt hi' hx, intLane_false, Int.natCast_natAbs, Option.isSome_none,
      Bool.false_eq_true, if_false]

theorem negLane_same : SameLanes1 (floats ++ signedInts) negLane
    (signOp (fun top x => if x < top then x + top else x - top) (fun x => -x)) := by
  intro g hg c x hx
  unfold negLane signOp
  rcases List.mem_append.mp hg with hf | hi
  · obtain ⟨k, hk, hw⟩ := fmt_of_floats hf
    have htop := two_pow_width g
    simp only [hk, hw, Option.isSome_some, if_true]
    split_ifs with hlt
    · rw [Nat.mod_eq_of_lt (by omega)]
    · rw [Nat.mod_eq_sub_mod (by omega), Nat.mod_eq_of_lt (by omega), htop]
      congr 1
      omega
  · have hi' : g ∈ ints := List.mem_append_left [Tag.b8x16] hi
    simp only [fmt_of_ints hi', laneInt_eq_readInt hi' hx, intLane_false, Option.isSome_none, Bool.false_eq_true,
      if_false]

end Sys2Proof.Machine
end

section
/-! SUPPORT. The words of VOP (R161 to R173, R418): which shared word each row is, and the claims. -/

namespace Sys2Proof.Machine

/-! ## The rows (R162) -/

/-- The latency of R45 is the one the model gives a word of the vector pipe. -/
theorem vlat_eq (g : Tag) : vlat g = latOf (latency true g) := by
  cases g <;> rfl

/-- The word of a row of two sources is the shared word `vop2` with the checks, the latency and the lanes of the row.
All but the lanes follow by the definitions of the word and of the row. -/
structure Row2Runs (e : Row2) (ok : Tag → Bool) (lat : Tag → Lat) (f : Ctx → Tag → Nat → Nat → Lane) : Prop where
  lanes : SameLanes2 e.types f e.f
  latency : ∀ g, lat g = latOf (latency e.fixed g)
  word : ∀ m d a b s, exec (e.op m d a b) s = vop2 e.hints m d a b ok lat e.result f s := by intros; rfl
  noEff : e.hints.eff = false := by rfl
  takes : ∀ g ∈ e.types, ok g = true ∧ g ≠ .raw ∧ g ≠ .i64 ∧ g ≠ .name := by decide

/-- The same of a row of one source and the shared word `vop1`. -/
structure Row1Runs (e : Row1) (ok : Tag → Bool) (lat : Tag → Lat) (f : Ctx → Tag → Nat → Lane) : Prop where
  lanes : SameLanes1 e.types f e.f
  latency : ∀ g, lat g = latOf (latency e.fixed g)
  word : ∀ m d a s, exec (e.op m d a) s = vop1 e.hints m d a ok lat e.result f s := by intros; rfl
  noEff : e.hints.eff = false := by rfl
  takes : ∀ g ∈ e.types, ok g = true ∧ g ≠ .raw ∧ g ≠ .i64 ∧ g ≠ .name := by decide

/-- The types of a compare have a float format or are integers. -/
theorem fmt_or_int : ∀ g ∈ floats ++ ints ++ [.e4m3x16, .e5m2x16], g.fmt.isSome ∨ g ∈ ints := by decide

theorem fmt_of_unordered : ∀ g ∈ floats ++ [.e4m3x16, .e5m2x16], g.fmt.isSome := by decide

theorem takes_ints : ∀ g ∈ ints, g.isInt = true ∧ g ≠ .raw ∧ g ≠ .i64 ∧ g ≠ .name := by decide

/-- Each two-source word is the shared one (R162, R165 to R172). -/
theorem vop2Rows_run : ∀ e ∈ vop2Rows, ∃ ok lat f, Row2Runs e ok lat f := by
  intro e he
  unfold vop2Rows at he
  simp only [List.mem_cons, List.not_mem_nil, or_false] at he
  rcases he with rfl | rfl | rfl | rfl | rfl | rfl | rfl | rfl | rfl | rfl | rfl | rfl | rfl | rfl | rfl | rfl | rfl |
    rfl | rfl | rfl
  · exact ⟨Tag.isNum, vlat, _, { lanes := arithLane_same Fmt.add (· + ·), latency := vlat_eq }⟩
  · exact ⟨Tag.isNum, vlat, _, { lanes := arithLane_same Fmt.sub (· - ·), latency := vlat_eq }⟩
  · exact ⟨Tag.isNum, vlat, _, { lanes := arithLane_same Fmt.mul (· * ·), latency := vlat_eq }⟩
  · exact ⟨Tag.isFloat, latV, _, { lanes := floatLane2_same Fmt.div fun x _ => x, latency := fun _ => rfl }⟩
  · exact ⟨Tag.isNum, vlat, _, { lanes := pickLane_same false false, latency := vlat_eq }⟩
  · exact ⟨Tag.isNum, vlat, _, { lanes := pickLane_same true false, latency := vlat_eq }⟩
  · exact ⟨Tag.isNum, vlat, _, { lanes := pickLane_same false true, latency := vlat_eq }⟩
  · exact ⟨Tag.isNum, vlat, _, { lanes := pickLane_same true true, latency := vlat_eq }⟩
  · exact ⟨Tag.isInt, vlat, _, { lanes := intLane_same_clamp fun _ x y => x + y, latency := vlat_eq }⟩
  · exact ⟨Tag.isInt, vlat, _, { lanes := intLane_same_clamp fun _ x y => x - y, latency := vlat_eq }⟩
  · exact ⟨Tag.isInt, vlat, _, { lanes := intLane_same_wrap fun _ x y => (x + y + 1) / 2, latency := vlat_eq }⟩
  · exact ⟨Tag.isInt, vlat, _, { lanes := intLane_same_wrap fun g x y => x * y / 2 ^ g.width, latency := vlat_eq }⟩
  · exact ⟨Tag.isInt, vlat, fun _ t x n => ⟨shlLane t x n, 0⟩,
      { lanes := fun _ _ c _ n hx _ => shlLane_eq c hx n, latency := vlat_eq }⟩
  · exact ⟨Tag.isInt, vlat, fun _ t x n => ⟨shrLane t x n, 0⟩,
      { lanes := fun _ _ c _ n hx _ => shrLane_eq c hx n, latency := vlat_eq }⟩
  · exact ⟨Tag.isInt, vlat, fun _ t x n => ⟨sarLane t x n, 0⟩,
      { lanes := fun _ hg c _ n hx _ => sarLane_eq c hg hx n, latency := vlat_eq }⟩
  · exact ⟨Tag.isComparable, vlat, compareLane .eq,
      { lanes := compareLane_same fmt_or_int fun _ _ => rfl, latency := vlat_eq }⟩
  · exact ⟨Tag.isComparable, vlat, compareLane .ne,
      { lanes := compareLane_same fmt_or_int fun _ _ => rfl, latency := vlat_eq }⟩
  · exact ⟨Tag.isComparable, vlat, compareLane .lt,
      { lanes := compareLane_same fmt_or_int fun _ _ => rfl, latency := vlat_eq }⟩
  · exact ⟨Tag.isComparable, vlat, compareLane .le,
      { lanes := compareLane_same fmt_or_int fun _ _ => rfl, latency := vlat_eq }⟩
  · exact ⟨Tag.isUnComparable, vlat, compareLane .un,
      { lanes := compareLane_same (fun g hg => .inl (fmt_of_unordered g hg)) fun _ _ => rfl, latency := vlat_eq }⟩

/-- Each one-source word is the shared one (R162, R165 to R173, R418). -/
theorem vop1Rows_run (n : BitVec 6) : ∀ e ∈ vop1Rows n, ∃ ok lat f, Row1Runs e ok lat f := by
  intro e he
  unfold vop1Rows at he
  simp only [List.mem_cons, List.not_mem_nil, or_false] at he
  rcases he with rfl | rfl | rfl | rfl | rfl | rfl | rfl | rfl | rfl | rfl | rfl | rfl
  · exact ⟨Tag.isSigned, vlat, _, { lanes := absLane_same, latency := vlat_eq }⟩
  · exact ⟨Tag.isSigned, vlat, _, { lanes := negLane_same, latency := vlat_eq }⟩
  · exact ⟨Tag.isFloat, latV, _, { lanes := .refl floats (floatLane1 Fmt.sqrt), latency := fun _ => rfl }⟩
  · exact ⟨Tag.isFloat, latV, _, { lanes := .refl floats (floatLane1 Fmt.rcp), latency := fun _ => rfl }⟩
  · exact ⟨Tag.isFloat, latV, _, { lanes := .refl floats (floatLane1 Fmt.rsqrt), latency := fun _ => rfl }⟩
  · exact ⟨Tag.isFloat, latV, _, { lanes := .refl floats (floatLane1 Fmt.exp2), latency := fun _ => rfl }⟩
  · exact ⟨Tag.isFloat, latV, _, { lanes := .refl floats (floatLane1 Fmt.log2), latency := fun _ => rfl }⟩
  · exact ⟨Tag.isFloat, vlat, _,
      { lanes := .refl floats (floatLane1 fun k _ x => ⟨2 ^ k.classBit x, 0⟩), latency := vlat_eq }⟩
  · exact ⟨Tag.isFloat, vlat, _, { lanes := .refl floats (floatLane1 Fmt.integral), latency := vlat_eq }⟩
  · exact ⟨Tag.isInt, vlat, fun _ t x => ⟨shlLane t x n.toNat, 0⟩,
      { lanes := fun _ _ c _ hx => shlLane_eq c hx _, latency := vlat_eq, takes := takes_ints }⟩
  · exact ⟨Tag.isInt, vlat, fun _ t x => ⟨shrLane t x n.toNat, 0⟩,
      { lanes := fun _ _ c _ hx => shrLane_eq c hx _, latency := vlat_eq, takes := takes_ints }⟩
  · exact ⟨Tag.isInt, vlat, fun _ t x => ⟨sarLane t x n.toNat, 0⟩,
      { lanes := fun _ hg c _ hx => sarLane_eq c hg hx _, latency := vlat_eq, takes := takes_ints }⟩

/-! ## The claims -/

theorem vopTwo_claim : Claims.VopTwo := by
  intro e he g hg s m d a b r hs l
  obtain ⟨ok, lat, f, hlanes, hlat, hword, heff, htakes⟩ := vop2Rows_run e he
  obtain ⟨hok, hraw, hi, hn⟩ := htakes g hg
  have hl : ((List.range g.lanes).map fun i => f s.bump.ctx g (lane (s.me.read a) g.width i)
      (lane (s.me.read b) g.width i)) = l :=
    List.map_congr_left fun i _ => hlanes g hg _ _ _ (lane_lt ..) (lane_lt ..)
  refine ⟨_, (hword m d a b s).trans (vop2_next r heff (elemType_of_shares hs hraw hi hn) hok), ?_⟩
  rw [hl, hlat]
  exact vectorResult_flagResult ..

theorem vopOne_claim : Claims.VopOne := by
  intro n e he g hg s m d a r hs l
  obtain ⟨ok, lat, f, hlanes, hlat, hword, heff, htakes⟩ := vop1Rows_run n e he
  obtain ⟨hok, hraw, hi, hn⟩ := htakes g hg
  have hshares : Shares s [a] g := ⟨by simp [hs], a, List.mem_singleton_self a, hs⟩
  have hl : ((List.range g.lanes).map fun i => f s.bump.ctx g (lane (s.me.read a) g.width i)) = l :=
    List.map_congr_left fun i _ => hlanes g hg _ _ (lane_lt ..)
  refine ⟨_, (hword m d a s).trans (vop1_next r heff (elemType_of_shares hshares hraw hi hn) hok), ?_⟩
  rw [hl, hlat]
  exact vectorResult_flagResult ..

theorem bitwise_claim : Claims.Bitwise := by
  intro s m d a b g x y k
  refine ⟨fun r hs => ⟨fun e he => ?_, fun hi hn => exists_moved (execVsel_next r hs hi hn)⟩,
    fun r hs => exists_moved (execVnot_next r hs)⟩
  simp only [List.mem_cons, List.not_mem_nil, or_false] at he
  rcases he with rfl | rfl | rfl | rfl
  · exact exists_moved (vbit2_next r hs)
  · exact exists_moved (vbit2_next r hs)
  · exact exists_moved (vbit2_next r hs)
  · exact exists_moved (vbit2_next (f := fun x y => x &&& ~~~y) r hs)

theorem vopRefusals_claim : Claims.VopRefusals := by
  intro s m d a b ht r htags
  have hx : exec (.vadds m d a b) s = vop2 {} m d a b Tag.isInt vlat id
      (fun _ t x y => t.intLane true (laneInt t x + laneInt t y)) s := rfl
  rw [hx]
  refine vop2_format ht r fun t he => ?_
  obtain ⟨hclean, hshare⟩ := elemType_ok.mp he
  obtain ⟨hraw, htm, hall⟩ := hshare.resolve_right fun ⟨_, hk, _⟩ => Bool.false_ne_true hk
  have ha := hall _ (List.mem_cons_self ..)
  have hb := hall _ (List.mem_cons_of_mem _ (List.mem_cons_self ..))
  rcases htags with ha' | ⟨ha', hb'⟩ | ⟨ha', hb'⟩ | ha'
  · -- F32x4 is no integer type
    rw [← (ha.resolve_right (by rw [ha']; decide)), ha']
    rfl
  · -- the two types disagree
    rw [ha'] at ha
    rw [hb'] at hb
    exact absurd ((ha.resolve_right (by decide)).trans (hb.resolve_right (by decide)).symm) (by decide)
  · -- neither source has a type
    simp only [ha', hb', List.mem_cons, List.not_mem_nil, or_false, or_self] at htm
    exact absurd htm hraw
  · -- I64 is no element type
    exact absurd ha' (hclean _ (List.mem_cons_self ..)).1

/-- Settles O36: each word of VOP is the shared word of one or two sources with the lanes of its row, its result comes
with the flags of its lanes, and sources without an integer element type are refused. -/
theorem vectorResults : Obligations.VectorResults :=
  ⟨vopTwo_claim, vopOne_claim, bitwise_claim, vopRefusals_claim⟩

end Sys2Proof.Machine
end

section
/-! SUPPORT. The words on tags: CAST, TAGOF and TAGCHK (R192 to R194). -/

namespace Sys2Proof.Machine

section
variable {s : State} {m : Bool} {d a : Reg} {f : BitVec 5} {g : Tag}

/-- Bits 127:64 are zero where the value fits 64 bits (R192). -/
theorem upperHalf_eq_zero (v : Quad) : v.extractLsb' 64 64 = 0#64 ↔ v.toNat < 2 ^ 64 := by
  have hv := v.isLt
  rw [← BitVec.toNat_inj, BitVec.extractLsb'_toNat, Nat.shiftRight_eq_div_pow, BitVec.toNat_zero]
  omega

/-- CAST refuses names, and as I64 a value of more than 64 bits (R192). -/
def CastRefuses (x : RV) (g : Tag) : Prop := x.tag = .name ∨ g = .name ∨ (g = .i64 ∧ 2 ^ 64 ≤ x.val.toNat)

theorem castRefuses_iff (x : RV) (g : Tag) :
    (x.tag = .name ∨ g = .name ∨ (g = .i64 ∧ x.val.extractLsb' 64 64 ≠ 0#64)) ↔ CastRefuses x g := by
  rw [CastRefuses, ne_eq, upperHalf_eq_zero, not_lt]

theorem execCast_next (r : Ready {} s [a, d]) (hg : Tag.ofCode f = some g) (hx : ¬ CastRefuses (s.me.read a) g) :
    execCast m d a f s = .next ((s.result {} d ⟨(s.me.read a).val, g⟩ .l0 (.fixed 1)
      (s.me.pc + 4)).settle s.focus m) := by
  unfold execCast
  rw [issue_ready r]
  simp only [touch_ready r, hg, Bind.bind, Except.bind]
  rw [if_neg (by rwa [atIssue_read, castRefuses_iff]), atIssue_read, retire_result]

theorem execCast_refused (r : Ready {} s [a, d]) (ht : s.canTrap) (hg : Tag.ofCode f = some g)
    (hx : CastRefuses (s.me.read a) g) :
    ∃ t, execCast m d a f s = .next t ∧ Trapped s.bump t .format s.me.groupStart 0 0 false := by
  refine issue_trapped ht r.hints r.mode ?_
  simp only [touch_ready r, hg, Bind.bind, Except.bind]
  rw [if_pos (by rwa [atIssue_read, castRefuses_iff]), Stop.plain]

theorem execTagof_next (r : Ready {} s [a, d]) : execTagof m d a s = .next ((s.result {} d
    (.int ((s.me.read a).tag.code.setWidth 64)) .l0 (.fixed 1) (s.me.pc + 4)).settle s.focus m) := by
  unfold execTagof
  rw [issue_ready r]
  simp only [touch_ready r, atIssue_read, Bind.bind, Except.bind, retire_result]

theorem execTagchk_next (r : Ready {} s [a]) (hx : (s.me.read a).tag.code = f) :
    execTagchk m a f s = .next (((s.atIssue {}).goOn s.focus (s.me.pc + 4)).settle s.focus m) := by
  unfold execTagchk
  rw [issue_ready r]
  simp only [touch_ready r, atIssue_read, hx, if_true, Bind.bind, Except.bind, State.retire, retireTo_eq,
    atIssue_focus, atIssue_pc]

theorem execTagchk_refused (r : Ready {} s [a]) (ht : s.canTrap) (hx : (s.me.read a).tag.code ≠ f) :
    ∃ t, execTagchk m a f s = .next t ∧
      Trapped s.bump t .format s.me.groupStart 0 ((s.me.read a).tag.code.setWidth 64) false := by
  refine issue_trapped ht r.hints r.mode ?_
  simp only [touch_ready r, atIssue_read, hx, if_false, Bind.bind, Except.bind, Stop.info, BitVec.ofNat_toNat]

end

/-- Settles O40: each word is a result for l0, or only goes on, where its check of the tag passes, and FORMAT where it
does not. -/
theorem tagWords : Obligations.TagWords := by
  intro s m d a f x
  refine ⟨fun r g hg hx hn hi => ?_, fun r ht g hg hbad => execCast_refused r ht hg hbad,
    fun r => exists_result_one (execTagof_next r), fun r hx => exists_jump (execTagchk_next r hx),
    fun r hx ht => execTagchk_refused r ht hx⟩
  refine exists_result_one (execCast_next r hg ?_)
  rintro (h | h | ⟨h, hv⟩)
  · exact hx h
  · exact hn h
  · exact (hi h).not_ge hv

end Sys2Proof.Machine
end

section
/-! SUPPORT. Objects of a scratchpad, piece by piece: what memory holds after pieces have been written, and what a word
of an object unit reads and writes (R195, R196, R225, R300). -/

namespace Sys2Proof.Machine

/-! ## Bytes of a number (R2) -/

/-- A byte within a field of a number is that byte of the number. -/
theorem byte_mod (v : Nat) {n i : Nat} (h : i < n) :
    BitVec.ofNat 8 (v % 2 ^ (8 * n) / 256 ^ i) = BitVec.ofNat 8 (v / 256 ^ i) := by
  have hsplit : 2 ^ (8 * n) = 256 ^ i * 256 ^ (n - i) := by
    rw [← pow_add, Nat.add_sub_cancel' h.le, pow_mul]
    rfl
  have hdvd : 256 ∣ 256 ^ (n - i) := dvd_pow_self 256 (by omega)
  apply BitVec.eq_of_toNat_eq
  rw [BitVec.toNat_ofNat, BitVec.toNat_ofNat, hsplit, Nat.mod_mul_right_div_self]
  exact Nat.mod_mod_of_dvd _ hdvd

theorem Mem.byte_readLE (m : Mem) (a : Nat) {n i : Nat} (h : i < n) :
    BitVec.ofNat 8 (m.readLE a n / 256 ^ i) = m.read (a + i) := by
  induction n generalizing a i with
  | zero => omega
  | succ n ih =>
    have hbyte : (m.read a).toNat < 256 := (m.read a).isLt
    rw [Mem.readLE]
    cases i with
    | zero =>
      apply BitVec.eq_of_toNat_eq
      rw [BitVec.toNat_ofNat]
      simp only [pow_zero, Nat.div_one, Nat.add_zero]
      omega
    | succ i =>
      have hdiv : ((m.read a).toNat + 256 * m.readLE (a + 1) n) / 256 ^ (i + 1) = m.readLE (a + 1) n / 256 ^ i := by
        rw [Nat.pow_succ', ← Nat.div_div_eq_div_mul]
        congr 1
        omega
      rw [hdiv, ih (a + 1) (by omega)]
      congr 1
      omega

/-- A number is read where its bytes stand. -/
theorem Mem.readLE_of_bytes {m : Mem} {a n v : Nat}
    (h : ∀ i, i < n → m.read (a + i) = BitVec.ofNat 8 (v / 256 ^ i)) : m.readLE a n = v % 256 ^ n := by
  induction n generalizing a v with
  | zero => rw [Mem.readLE, pow_zero, Nat.mod_one]
  | succ n ih =>
    have hhead := h 0 (by omega)
    rw [Nat.add_zero, pow_zero, Nat.div_one] at hhead
    have htail : m.readLE (a + 1) n = v / 256 % 256 ^ n := ih fun i hi => by
      have := h (i + 1) (by omega)
      rwa [Nat.pow_succ', ← Nat.div_div_eq_div_mul, ← Nat.add_assoc, Nat.add_right_comm] at this
    have hsplit : v % 256 ^ (n + 1) = v % 256 + 256 * (v / 256 % 256 ^ n) := by
      rw [Nat.pow_succ', Nat.mod_mul]
    rw [Mem.readLE, hhead, htail, hsplit, BitVec.toNat_ofNat]

/-! ## Pieces written (R196, R225) -/

/-- A piece of the list holds the byte at `x`. -/
def Covers (l : List (Nat × Nat × Nat)) (x : Nat) : Prop := ∃ p ∈ l, p.1 ≤ x ∧ x < p.1 + p.2.1

/-- Every byte of every piece is the one that `f` gives its address. -/
def Agrees (f : Nat → Byte) (l : List (Nat × Nat × Nat)) : Prop :=
  ∀ p ∈ l, ∀ i, i < p.2.1 → BitVec.ofNat 8 (p.2.2 / 256 ^ i) = f (p.1 + i)

theorem Agrees.mono {f : Nat → Byte} {l l' : List (Nat × Nat × Nat)} (h : Agrees f l) (hl : ∀ p ∈ l', p ∈ l) :
    Agrees f l' := fun p hp => h p (hl p hp)

theorem Covers.mono {l l' : List (Nat × Nat × Nat)} {x : Nat} (h : Covers l' x) (hl : ∀ p ∈ l', p ∈ l) :
    Covers l x := by
  obtain ⟨p, hp, hx⟩ := h
  exact ⟨p, hl p hp, hx⟩

theorem covers_cons {p : Nat × Nat × Nat} {l : List (Nat × Nat × Nat)} {x : Nat} :
    Covers (p :: l) x ↔ (p.1 ≤ x ∧ x < p.1 + p.2.1) ∨ Covers l x := by
  simp [Covers]

theorem writePieces_cons (m : Mem) (p : Nat × Nat × Nat) (l : List (Nat × Nat × Nat)) :
    m.writePieces (p :: l) = (m.writeLE p.1 p.2.1 p.2.2).writePieces l := rfl

theorem read_writePieces_out (m : Mem) {l : List (Nat × Nat × Nat)} {x : Nat} (h : ¬ Covers l x) :
    (m.writePieces l).read x = m.read x := by
  induction l generalizing m with
  | nil => rfl
  | cons p l ih =>
    rw [covers_cons, not_or] at h
    obtain ⟨hp, hl⟩ := h
    rw [writePieces_cons, ih _ hl, Mem.read_writeLE_out _ _ _ _ _ (by omega)]

/-- Pieces that agree on the bytes they share may be written in any order. -/
theorem read_writePieces_in (m : Mem) {f : Nat → Byte} {l : List (Nat × Nat × Nat)} {x : Nat} (hf : Agrees f l)
    (h : Covers l x) : (m.writePieces l).read x = f x := by
  induction l generalizing m with
  | nil =>
    obtain ⟨p, hp, -⟩ := h
    exact absurd hp List.not_mem_nil
  | cons p l ih =>
    rw [writePieces_cons]
    by_cases hl : Covers l x
    · exact ih _ (hf.mono fun q hq => List.mem_cons_of_mem _ hq) hl
    · obtain ⟨hlo, hhi⟩ := (covers_cons.mp h).resolve_right hl
      have hx : x = p.1 + (x - p.1) := by omega
      rw [read_writePieces_out _ hl, hx, Mem.read_writeLE_in _ _ _ _ _ (by omega)]
      exact hf p List.mem_cons_self _ (by omega)

/-- Pieces read from a memory, written into it again, change no byte. -/
theorem read_writePieces_same {m : Mem} {l : List (Nat × Nat × Nat)} (hf : Agrees m.read l) (x : Nat) :
    (m.writePieces l).read x = m.read x := by
  by_cases h : Covers l x
  · exact read_writePieces_in m hf h
  · exact read_writePieces_out m h

theorem mem_piecesOf {g off n v : Nat} {p : Nat × Nat × Nat} : p ∈ piecesOf g off n v ↔ ∃ i < (n + g - 1) / g,
    (off + g * i, min g (n - g * i), v / 2 ^ (8 * g * i) % 2 ^ (8 * g)) = p := by
  simp [piecesOf]

/-- The pieces of a number hold its bytes. -/
theorem agrees_piecesOf (g off n v : Nat) :
    Agrees (fun x => BitVec.ofNat 8 (v / 256 ^ (x - off))) (piecesOf g off n v) := by
  intro p hp j hj
  obtain ⟨i, -, rfl⟩ := mem_piecesOf.mp hp
  dsimp only at hj ⊢
  have h256 : 2 ^ (8 * g * i) = 256 ^ (g * i) := by
    rw [Nat.mul_assoc, pow_mul]
    rfl
  have hx : off + g * i + j - off = g * i + j := by omega
  rw [byte_mod _ (by omega), h256, Nat.div_div_eq_div_mul, ← pow_add, hx]

/-- They lie in its range. -/
theorem covers_piecesOf {g off n v x : Nat} (hg : 0 < g) : Covers (piecesOf g off n v) x ↔ off ≤ x ∧ x < off + n := by
  constructor
  · rintro ⟨p, hp, hlo, hhi⟩
    obtain ⟨i, -, rfl⟩ := mem_piecesOf.mp hp
    dsimp only at hlo hhi
    omega
  · rintro ⟨hlo, hhi⟩
    have hdiv := Nat.div_add_mod (x - off) g
    have hmod := Nat.mod_lt (x - off) hg
    refine ⟨_, mem_piecesOf.mpr ⟨(x - off) / g, ?_, rfl⟩, ?_⟩
    · rw [Nat.lt_iff_add_one_le, Nat.le_div_iff_mul_le hg, Nat.add_mul, Nat.mul_comm _ g]
      omega
    · dsimp only
      omega

end Sys2Proof.Machine
end

section
/-! SUPPORT. What the words of an object unit do: they find the unit free, read their objects as they stand or hold
issue once, and leave their objects written, some pieces at once and the others before the slot goes on (R196, R225). -/

namespace Sys2Proof.Machine

/-! ## The unit (R196, R224) -/

theorem writeLate_none {s : State} {c : Nat} (h : (s.slot c).late = []) : s.writeLate c = s := by
  rw [State.writeLate, h]
  rfl

theorem foldl_writeLate_none {s : State} {l : List Nat} (h : ∀ c ∈ l, (s.slot c).late = []) :
    l.foldl State.writeLate s = s := by
  induction l with
  | nil => rfl
  | cons c l ih =>
    rw [List.foldl_cons, writeLate_none (h c List.mem_cons_self)]
    exact ih fun d hd => h d (List.mem_cons_of_mem _ hd)

/-- A unit that works on nothing else takes a word, and nothing changes. -/
theorem objectUnit_alone {s : State} {u : ObjUnit} (h : Alone s u) : objectUnit s u = .ok s := by
  have hmates : ∀ c ∈ ((List.range 4).map fun i => 4 * coreOf s.focus + i).filter fun c => (s.slot c).unit == u,
      (s.slot c).late = [] ∧ (c ≠ s.focus → (s.slot c).readsObject = false) := by
    intro c hc
    obtain ⟨hmem, hunit⟩ := List.mem_filter.mp hc
    obtain ⟨i, hi, rfl⟩ := List.mem_map.mp hmem
    have hlt := List.mem_range.mp hi
    exact ⟨h.late i hlt (by simpa using hunit), fun hne => h.mates i hlt hne (by simpa using hunit)⟩
  unfold objectUnit
  dsimp only
  rw [if_neg, foldl_writeLate_none fun c hc => (hmates c hc).1]
  simp only [List.any_eq_true, not_exists, not_and, Bool.and_eq_true, bne_iff_ne, ne_eq]
  intro c hc hne
  rw [(hmates c hc).2 hne]
  exact Bool.false_ne_true

theorem objectUnit_bump {s : State} {u : ObjUnit} (h : Alone s u) : objectUnit s.bump u = .ok s.bump :=
  objectUnit_alone ⟨h.own, h.late, h.mates⟩

/-- A word that has read the pieces `ps` and holds issue. -/
def State.hasBegun (s : State) (u : ObjUnit) (ps : List (Nat × Nat × Nat)) : State :=
  s.modMe fun x => { x with seen := some ps, unit := u, slow := true }

/-- Objects are read as they stand beside what has been read of them before, or some of their pieces are read and the
word holds issue, once (R300). -/
theorem torn_cases (s : State) (u : ObjUnit) (g : Nat) (l : List (Nat × Nat)) :
    torn s u g l = .ok (seenScratch s) ∨ (s.me.seen = none ∧
      ∃ ps, torn s u g l = .error (.became (s.hasBegun u ps)) ∧ Agrees s.myCore.scratch.read ps) := by
  unfold torn seenScratch
  cases hseen : s.me.seen with
  | some ps => exact .inl rfl
  | none =>
    dsimp only
    split_ifs
    · refine .inr ⟨rfl, _, rfl, fun p hp i hi => ?_⟩
      obtain ⟨hp, -⟩ := List.mem_filter.mp hp
      obtain ⟨r, -, hp⟩ := List.mem_flatMap.mp hp
      have hin : r.1 ≤ p.1 + i ∧ p.1 + i < r.1 + r.2 := by
        obtain ⟨k, -, rfl⟩ := mem_piecesOf.mp hp
        dsimp only at hi ⊢
        omega
      refine (agrees_piecesOf _ _ _ _ p hp i hi).trans ((Mem.byte_readLE _ _ (by omega)).trans ?_)
      rw [Nat.add_sub_cancel' hin.1]
    · exact .inl rfl

/-- Such a word has begun. -/
theorem begun_of_hasBegun {s : State} {i : Instr} {u : ObjUnit} {ps : List (Nat × Nat × Nat)}
    (hx : exec i s = .next (s.bump.hasBegun u ps)) (hf : Agrees s.myCore.scratch.read ps) : Begun s i := by
  have hme : (s.bump.hasBegun u ps).me = { s.me with seen := some ps, unit := u, slow := true } := by
    simp [State.hasBegun]
  refine ⟨_, ps, hx, ?_, read_writePieces_same hf, ?_, ?_, fun j => ?_, ⟨?_, ?_⟩, fun _ => rfl, fun _ => rfl,
    fun c hc => State.slot_setSlot_ne _ _ _ _ hc⟩
  all_goals rw [hme]
  rfl

/-- A word that reads objects once its checks at issue have passed, and then has its effect. -/
theorem reads_of_body {h : Takes} {s w : State} {rs : List Reg} {i : Instr} {E : Prop}
    {body : State → Except Stop State}
    {u : ObjUnit} {g : Nat} {l : List (Nat × Nat)} {k : Mem → Except Stop State} (r : Ready h s rs) (he : h.eff = false)
    (hx : exec i s = issue h s body) (hb : body s.bump = torn s.bump u g l >>= k) (hk : k (seenScratch s) = .ok w)
    (hE : exec i s = .next w → E) : Reads s i E := by
  rw [issue_ready r, atIssue_of_eff he, hb] at hx
  rcases torn_cases s.bump u g l with h | ⟨hseen, ps, h, hf⟩
  · have hbind : (torn s.bump u g l >>= k) = .ok w := by
      rw [h]
      exact hk
    have heff : E := hE (by rw [hx, hbind])
    exact ⟨fun _ => heff, fun _ => .inl heff⟩
  · refine ⟨fun hn => absurd hseen hn, fun _ => .inr (begun_of_hasBegun (u := u) ?_ hf)⟩
    rw [hx, h]
    rfl

/-! ## Objects written (R196, R225) -/

section
variable {s : State} {u : ObjUnit} {l : List (Nat × Nat × Nat)} {target : Word}

/-- A word that writes pieces and goes on. -/
def State.objectWritten (s : State) (u : ObjUnit) (l : List (Nat × Nat × Nat)) (target : Word) : State :=
  ((s.atIssue {}).writeTorn u l).goOn s.focus target

/-- The pieces that are written only before the slot goes on. -/
def State.isLate (s : State) (p : Nat × Nat × Nat) : Bool := Config.flag s.bump.free (2 ^ 17 + p.1)

theorem retire_objectWritten (s : State) (u : ObjUnit) (l : List (Nat × Nat × Nat)) (m : Bool) :
    ((s.atIssue {}).writeTorn u l).retire m = (s.objectWritten u l (s.me.pc + 4)).settle s.focus m := by
  have hpc : ((s.atIssue {}).writeTorn u l).me.pc = s.me.pc := by simp [State.writeTorn]
  rw [State.retire, retireTo_eq, hpc]
  rfl

/-- The own slot and the own core as such a word leaves them, before it goes on. -/
theorem writeTorn_parts (s : State) (u : ObjUnit) (l : List (Nat × Nat × Nat)) :
    let w := (s.atIssue {}).writeTorn u l
    w.focus = s.focus ∧ w.mem = s.mem ∧
    w.me = { s.me with late := s.me.late ++ l.filter s.isLate, unit := u } ∧
    w.myCore.scratch = s.myCore.scratch.writePieces (l.filter fun p => !s.isLate p) ∧
    (∀ k, k ≠ coreOf s.focus → w.core k = s.core k) ∧ ∀ c, c ≠ s.focus → w.slot c = s.slot c := by
  have hat : s.atIssue {} = s.bump := rfl
  rw [hat]
  refine ⟨rfl, rfl, ?_, ?_, fun k hk => ?_, fun c hc => ?_⟩
  · simp [State.writeTorn]
    rfl
  · simp [State.writeTorn, State.isLate, State.myCore_eq]
  · simp [State.writeTorn, State.core_setCore_ne _ _ _ _ hk]
  · simp [State.writeTorn, State.slot_setSlot_ne _ _ _ _ hc]

/-- What is left when the word has gone on: all but the bytes of its pieces, each of which is the old one or its own. -/
theorem objectWritten_left (hown : s.me.late = []) {f : Nat → Byte} (hf : Agrees f l) :
    let t := s.objectWritten u l (s.me.pc + 4)
    ObjectLeft s t (fun x => ¬ Covers l x) ∧ ∀ x, Covers l x → (full t).read x = f x := by
  intro t
  obtain ⟨wfocus, wmem, wme, wscratch, wcores, wslots⟩ := writeTorn_parts s u l
  set w := (s.atIssue {}).writeTorn u l with hw
  obtain ⟨gf, ⟨rfocus, rpc, rpos, rhints⟩, gfile, g0, g1⟩ := goOn_frame w (s.me.pc + 4)
  have ht : w.goOn w.focus (s.me.pc + 4) = t := by rw [wfocus]; rfl
  rw [ht] at gf rfocus rpc rpos rhints gfile g0 g1
  have tlate : t.me.late = l.filter s.isLate := by
    have h := congrArg Slot.late gf.special
    have hlate : t.me.late = w.me.late := h
    rw [hlate, wme, hown, List.nil_append]
  have tscratch : t.myCore.scratch = s.myCore.scratch.writePieces (l.filter fun p => !s.isLate p) := by
    rw [State.myCore_eq, rfocus, gf.cores, ← State.myCore_eq, wscratch]
  have hnow : Agrees f (l.filter fun p => !s.isLate p) := hf.mono fun p hp => (List.mem_filter.mp hp).1
  have hlater : Agrees f (l.filter s.isLate) := hf.mono fun p hp => (List.mem_filter.mp hp).1
  have hcovers (x : Nat) : Covers l x ↔ Covers (l.filter fun p => !s.isLate p) x ∨ Covers (l.filter s.isLate) x := by
    refine ⟨fun ⟨p, hp, hx⟩ => ?_, fun h => h.elim ?_ ?_⟩
    · cases hl : s.isLate p
      · exact .inl ⟨p, List.mem_filter.mpr ⟨hp, by rw [hl]; rfl⟩, hx⟩
      · exact .inr ⟨p, List.mem_filter.mpr ⟨hp, hl⟩, hx⟩
    · exact fun h => h.mono fun p hp => (List.mem_filter.mp hp).1
    · exact fun h => h.mono fun p hp => (List.mem_filter.mp hp).1
  have hfull : full t =
      (s.myCore.scratch.writePieces (l.filter fun p => !s.isLate p)).writePieces (l.filter s.isLate) := by
    rw [full, tscratch, tlate]
  have hin (x : Nat) (hx : Covers l x) : (full t).read x = f x := by
    rw [hfull]
    by_cases hl : Covers (l.filter s.isLate) x
    · exact read_writePieces_in _ hlater hl
    · rw [read_writePieces_out _ hl]
      exact read_writePieces_in _ hnow (((hcovers x).mp hx).resolve_right hl)
  refine ⟨⟨fun i => ?_, ⟨?_, ?_⟩, ⟨rfocus.trans wfocus, rpc, ?_, rhints⟩, fun x => ?_, fun x hx => ?_, fun x => ?_,
    fun k hk => ?_, fun c hc => ?_, ?_⟩, hin⟩
  · rw [Slot.entry, gfile, wme]
    rfl
  · rw [g0, wme]
    rfl
  · rw [g1, wme]
    rfl
  · rw [rpos, wme]
  · rw [gf.mem, wmem]
  · rw [hcovers, not_or] at hx
    rw [hfull, read_writePieces_out _ hx.2, read_writePieces_out _ hx.1]
  · by_cases hx : Covers (l.filter fun p => !s.isLate p) x
    · rw [tscratch, read_writePieces_in _ hnow hx, hin x ((hcovers x).mpr (.inl hx))]
      exact .inr rfl
    · rw [tscratch, read_writePieces_out _ hx]
      exact .inl rfl
  · rw [gf.cores, wcores k hk]
  · rw [gf.others c (by rwa [wfocus]), wslots c hc]
  · have h := congrArg (fun x : Slot => { x with late := [] }) gf.special
    refine (show ({ t.me with late := [] } : Slot).special = { w.me.special with late := [] } from h).trans ?_
    rw [wme, ← hown]
    rfl

end

end Sys2Proof.Machine
end

section
/-! SUPPORT. The long accumulator as a number of 512 bits (R157): its fields, the exact sums of the lanes added to it,
and its rounding. -/

namespace Sys2Proof.Machine

/-! ## Fields (R157) -/

/-- The status word of an accumulator: the count and the three status bits. -/
theorem status_lt (a : LongAcc) : a.status < 2 ^ 64 := by
  have hcount := Nat.mod_lt a.count (Nat.two_pow_pos 61)
  have hbits := a.ninf.toNat_le
  have hbits' := a.pinf.toNat_le
  have hbits'' := a.nan.toNat_le
  unfold LongAcc.status
  omega

theorem mod_add_mul_lt (v : Nat) {b n k : Nat} (hb : 0 < b) (hk : k < n) : v % b + b * k < b * n :=
  calc v % b + b * k < b + b * k := Nat.add_lt_add_right (Nat.mod_lt v hb) _
    _ = b * (k + 1) := by rw [Nat.mul_add_one, Nat.add_comm]
    _ ≤ b * n := Nat.mul_le_mul_left b hk

theorem toNat_lt (a : LongAcc) : a.toNat < 2 ^ 448 := by
  rw [show 448 = 384 + 64 from rfl, pow_add]
  exact mod_add_mul_lt _ (by positivity) (status_lt a)

theorem toNat_lt_bytes (a : LongAcc) : a.toNat < 256 ^ 64 := by
  refine (toNat_lt a).trans_le ?_
  rw [show 256 = 2 ^ 8 from rfl, ← pow_mul]
  exact Nat.pow_le_pow_right (by decide) (by decide)

theorem zero_toNat : LongAcc.zero.toNat = 0 := by
  have hstatus : LongAcc.zero.status = 0 := by decide
  rw [LongAcc.toNat, hstatus, Nat.mul_zero, Nat.add_zero, LongAcc.zero, Nat.zero_mod]

theorem toNat_div (a : LongAcc) : a.toNat / 2 ^ 384 = a.status := by
  unfold LongAcc.toNat
  rw [Nat.add_mul_div_left _ _ (Nat.two_pow_pos 384), Nat.div_eq_of_lt (Nat.mod_lt _ (Nat.two_pow_pos 384)),
    Nat.zero_add]

theorem status_div (a : LongAcc) : a.status / 2 ^ 61 = a.ninf.toNat + 2 * a.pinf.toNat + 4 * a.nan.toNat := by
  unfold LongAcc.status
  rw [Nat.add_mul_div_left _ _ (Nat.two_pow_pos 61), Nat.div_eq_of_lt (Nat.mod_lt _ (Nat.two_pow_pos 61)),
    Nat.zero_add]

theorem testBit_toNat (a : LongAcc) (k : Nat) :
    a.toNat.testBit (k + 445) = (a.ninf.toNat + 2 * a.pinf.toNat + 4 * a.nan.toNat).testBit k := by
  rw [← status_div, ← toNat_div, Nat.testBit_div_two_pow, Nat.testBit_div_two_pow]

theorem statusBits (n p q : Bool) : (n.toNat + 2 * p.toNat + 4 * q.toNat).testBit 0 = n ∧
    (n.toNat + 2 * p.toNat + 4 * q.toNat).testBit 1 = p ∧ (n.toNat + 2 * p.toNat + 4 * q.toNat).testBit 2 = q := by
  revert n p q
  decide

/-- What the 64 bytes of an accumulator say. -/
theorem accIs_toNat {a : LongAcc} {value : Int} {count : Nat} (hv : (a.val : Int) = value % 2 ^ 384)
    (hc : a.count = min count (2 ^ 61 - 1)) : AccIs a.toNat value count a.ninf a.pinf a.nan := by
  obtain ⟨hn, hp, hq⟩ := statusBits a.ninf a.pinf a.nan
  have hval : a.val < 2 ^ 384 := by
    have h := Int.emod_lt_of_pos value (b := 2 ^ 384) (by positivity)
    rw [← hv] at h
    exact_mod_cast h
  refine ⟨?_, ?_, (testBit_toNat a 0).trans hn, (testBit_toNat a 1).trans hp, (testBit_toNat a 2).trans hq,
    Nat.div_eq_of_lt (toNat_lt a)⟩
  · rw [← hv, LongAcc.toNat, Nat.add_mul_mod_self_left, Nat.mod_mod, Nat.mod_eq_of_lt hval]
  · rw [toNat_div, LongAcc.status, Nat.add_mul_mod_self_left, Nat.mod_mod, Nat.mod_eq_of_lt (by omega), hc]

theorem threeBits : ∀ z < 8, (z.testBit 0).toNat + 2 * (z.testBit 1).toNat + 4 * (z.testBit 2).toNat = z := by
  decide

/-- The status word of an accumulator with no reserved bit set (R200). -/
theorem status_ofNat {x : Nat} (hx : x / 2 ^ 448 = 0) : (LongAcc.ofNat x).status = x / 2 ^ 384 := by
  have hlt : x / 2 ^ 384 < 2 ^ 64 := by
    rw [show 448 = 384 + 64 from rfl, pow_add, ← Nat.div_div_eq_div_mul] at hx
    exact (Nat.div_eq_zero_iff_lt (Nat.two_pow_pos 64)).mp hx
  have hbit (k : Nat) : x.testBit (k + 445) = (x / 2 ^ 384 / 2 ^ 61).testBit k := by
    rw [Nat.testBit_div_two_pow, Nat.testBit_div_two_pow]
  have hz := threeBits (x / 2 ^ 384 / 2 ^ 61) (by omega)
  rw [← hbit 0, ← hbit 1, ← hbit 2] at hz
  unfold LongAcc.status LongAcc.ofNat
  dsimp only
  rw [hz]
  omega

/-! ## Sums (R157, R197, R199) -/

/-- The value is a multiple of 2^-160, and so an integer of the accumulator (R157). -/
def OnGrid : Num → Prop
  | .fin _ _ e => 0 ≤ e + 160
  | _ => True

theorem scale160_eq {n : Bool} {m : Nat} {e : Int} (h : 0 ≤ e + 160) :
    scale160 (Num.fin n m e).dy = fixed160 (.fin n m e) := by
  unfold scale160 fixed160 Num.dy pow2
  dsimp only
  rw [if_pos h]
  cases n <;> simp

theorem decode_onGrid {f : Fmt} (hf : 0 ≤ f.qmin + 160) (b : Nat) : OnGrid (f.decode b) := by
  unfold Fmt.decode
  dsimp only
  unfold Fmt.qmin at *
  split_ifs with hinf hm hnan he
  · trivial
  · trivial
  · trivial
  · exact hf
  · unfold OnGrid
    omega

/-- What adding a list of values leaves (R157, R197). -/
structure Added (a : LongAcc) (neg : Bool) (l : List Num) (r : LongAcc) : Prop where
  value : (r.val : Int) = (a.val + (if neg then -(l.map fixed160).sum else (l.map fixed160).sum)) % 2 ^ 384
  count : r.count = min (a.count + l.length) (2 ^ 61 - 1)
  ninf : r.ninf = (a.ninf || decide (∃ x ∈ l, (x == .inf !neg) = true))
  pinf : r.pinf = (a.pinf || decide (∃ x ∈ l, (x == .inf neg) = true))
  nan : r.nan = (a.nan || decide (∃ x ∈ l, x.isNan = true))

theorem value_added_zero (neg : Bool) {v : Nat} (hv : v < 2 ^ 384) :
    (v : Int) = (v + (if neg then -(0 : Int) else 0)) % 2 ^ 384 := by
  have h : ((v : Int) % 2 ^ 384) = v := by exact_mod_cast Nat.mod_eq_of_lt hv
  rw [neg_zero, ite_self, add_zero, h]

theorem Added.refl {a : LongAcc} (neg : Bool) (hv : a.val < 2 ^ 384) (hc : a.count < 2 ^ 61) : Added a neg [] a := by
  refine ⟨?_, ?_, by simp, by simp, by simp⟩
  · exact value_added_zero neg hv
  · rw [List.length_nil]
    omega

theorem Added.trans {a b c : LongAcc} {neg : Bool} {l l' : List Num} (h : Added a neg l b) (h' : Added b neg l' c) :
    Added a neg (l ++ l') c := by
  refine ⟨?_, ?_, ?_, ?_, ?_⟩
  · rw [h'.value, h.value, Int.emod_add_emod, List.map_append, List.sum_append]
    congr 1
    split_ifs <;> omega
  · rw [h'.count, h.count, List.length_append]
    omega
  · simp [h'.ninf, h.ninf, or_and_right, exists_or, Bool.or_assoc]
  · simp [h'.pinf, h.pinf, or_and_right, exists_or, Bool.or_assoc]
  · simp [h'.nan, h.nan, or_and_right, exists_or, Bool.or_assoc]

/-- One value added, or subtracted (R197). -/
theorem added_one {a : LongAcc} (neg : Bool) {x : Num} (hx : OnGrid x) (hv : a.val < 2 ^ 384) :
    Added a neg [x] (a.add neg x) := by
  cases x with
  | nan s =>
    have ha : a.add neg (.nan s) = { a with count := capCount (a.count + 1), nan := true } := by cases neg <;> rfl
    rw [ha]
    exact ⟨value_added_zero neg hv, rfl, by simp, by simp, by simp [Num.isNan]⟩
  | inf s =>
    have ha : a.add neg (.inf s) = { a with
        count := capCount (a.count + 1)
        pinf := a.pinf || decide (s = neg)
        ninf := a.ninf || decide (s = !neg) } := by
      cases neg <;> cases s <;> rfl
    rw [ha]
    exact ⟨value_added_zero neg hv, rfl, by simp, by simp, by simp [Num.isNan]⟩
  | fin s m e =>
    have ha : a.add neg (.fin s m e) = { a with
        count := capCount (a.count + 1)
        val := ((a.val + scale160 (Num.fin (s != neg) m e).dy) % (2 ^ 384 : Int)).toNat } := by
      cases neg <;> cases s <;> rfl
    have hfixed : fixed160 (.fin (s != neg) m e) = if neg then -fixed160 (.fin s m e) else fixed160 (.fin s m e) := by
      cases neg <;> cases s <;> simp [fixed160]
    rw [ha, scale160_eq hx, hfixed]
    refine ⟨?_, rfl, by simp, by simp, by simp [Num.isNan]⟩
    rw [Int.toNat_of_nonneg (Int.emod_nonneg _ (by positivity)), List.map_singleton, List.sum_singleton]

theorem added_foldl (neg : Bool) {l : List Num} (hl : ∀ x ∈ l, OnGrid x) {a : LongAcc} (hv : a.val < 2 ^ 384)
    (hc : a.count < 2 ^ 61) : Added a neg l (l.foldl (·.add neg ·) a) := by
  induction l generalizing a with
  | nil => exact .refl neg hv hc
  | cons x l ih =>
    have hone := added_one neg (hl x List.mem_cons_self) hv
    have hval : (a.add neg x).val < 2 ^ 384 := by
      have h := hone.value ▸ Int.emod_lt_of_pos _ (b := 2 ^ 384) (by positivity)
      exact_mod_cast h
    have hcount : (a.add neg x).count < 2 ^ 61 := by
      rw [hone.count]
      omega
    exact hone.trans (ih (fun y hy => hl y (List.mem_cons_of_mem _ hy)) hval hcount)

/-- The top bit of a number of two halves. -/
theorem mod_lt_half_iff (x : Nat) {b : Nat} (hb : 0 < b) : x % (b * 2) < b ↔ x / b % 2 = 0 := by
  have hlow := Nat.mod_lt x hb
  rw [Nat.mod_mul]
  rcases Nat.mod_two_eq_zero_or_one (x / b) with h | h <;> rw [h] <;> omega

theorem value_eq (x : Nat) : (LongAcc.ofNat x).value =
    ⟨((x % 2 ^ 384 : Nat) : Int) - if x.testBit 383 then 2 ^ 384 else 0, -160⟩ := by
  have htop : x % 2 ^ 384 < 2 ^ 383 ↔ x.testBit 383 = false := by
    rw [Nat.testBit_eq_decide_div_mod_eq, show 384 = 383 + 1 from rfl, pow_succ,
      mod_lt_half_iff x (Nat.two_pow_pos 383), decide_eq_false_iff_not]
    exact Nat.mod_two_ne_one.symm
  unfold LongAcc.value LongAcc.ofNat
  dsimp only
  cases h : x.testBit 383
  · rw [if_pos (htop.mpr h)]
    rfl
  · rw [if_neg (fun hlt => by simp [htop.mp hlt] at h)]
    rfl

end Sys2Proof.Machine
end

section
/-! SUPPORT. The words of LACC: an accumulator written in its eight words, results with flags for no last-result
register, and the claims (R195 to R200). -/

namespace Sys2Proof.Machine

/-! ## An accumulator written (R196) -/

theorem exists_objectWord {s : State} {m : Bool} {i : Instr} {o : Nat} {a : LongAcc} {p : Nat → Prop}
    (hown : s.me.late = []) (hx : exec i s = .next ((s.bump.setAcc o a).retire m)) (hp : p a.toNat) :
    ObjectWord s m i o p := by
  obtain ⟨⟨hfile, hlast, hret, hmem, hkept, hbytes, hcores, hothers, hspecial⟩, hin⟩ :=
    objectWritten_left (u := .lacc) hown (agrees_piecesOf 8 o 64 a.toNat)
  have hcov (x : Nat) := covers_piecesOf (g := 8) (off := o) (n := 64) (v := a.toNat) (x := x) (by decide)
  refine ⟨_, hx.trans (congrArg _ (retire_objectWritten s .lacc _ m)), ?_,
    hfile, hlast, hret, hmem, fun x hx => hkept x fun h => ?_, hbytes, hcores, hothers, hspecial⟩
  · have hread : (full (s.objectWritten .lacc (piecesOf 8 o 64 a.toNat) (s.me.pc + 4))).readLE o 64
        = a.toNat % 256 ^ 64 := Mem.readLE_of_bytes fun i hi => by
      rw [hin _ ((hcov _).mpr (by omega)), Nat.add_sub_cancel_left]
    rw [hread, Nat.mod_eq_of_lt (toNat_lt_bytes a)]
    exact hp
  · obtain ⟨hlo, hhi⟩ := (hcov x).mp h
    omega

/-! ## Results with flags for no last-result register (R30, R138) -/

section
variable (s : State) (h : Takes) (d : Reg) (v : RV) (f : Flags5)

/-- A variable result with flags that goes on and enters no last-result register. -/
def State.flagWrite (s : State) (h : Takes) (d : Reg) (v : RV) (f : Flags5) : State :=
  ((s.atIssue h).wrFlags d v .none .var f).goOn s.focus (s.me.pc + 4)

theorem retire_flagWrite (m : Bool) :
    ((s.atIssue h).wrFlags d v .none .var f).retire m = (s.flagWrite h d v f).settle s.focus m := by
  have hpc : ((s.atIssue h).wrFlags d v .none .var f).me.pc = s.me.pc := by
    simp only [wrFlags_eq, State.setMe_eq, State.me_setSlot, if_true]
    exact ((put_rest _ _ _ _ _ _).2.1).trans (atIssue_pc s h)
  have hfocus : ((s.atIssue h).wrFlags d v .none .var f).focus = s.focus := atIssue_focus s h
  rw [State.retire, retireTo_eq, hpc, hfocus, State.flagWrite]

theorem put_var_outs (x : Slot) (d : Reg) (v : RV) : ∃ o,
    (x.put d v none none .var).outs = o :: x.outs ∧ o.flags = none := by
  unfold Slot.put
  cases hr : regRef x.wbase d <;> exact ⟨_, rfl, rfl⟩

/-- Such a result leaves its destination, and its flags among those written and those still to come. -/
theorem flagWrite_leaves : Holds s (s.flagWrite h d v f) d v ∧ Retired s (s.flagWrite h d v f) (s.me.pc + 4) ∧
    FlagFrame s (s.flagWrite h d v f) f := by
  set x := (s.atIssue h).me with hx
  set u := (s.atIssue h).wrFlags d v .none .var f with hu
  have hset : u = (s.atIssue h).setMe ((x.put d v none none .var).flagged f) := rfl
  have hme : u.me = (x.put d v none none .var).flagged f := by simp [hset]
  have hfocus : u.focus = s.focus := atIssue_focus s h
  obtain ⟨psp, -, ppos, -, pfp, -, pfile, -⟩ := put_rest x d v none none .var
  obtain ⟨o, hout, hof⟩ := put_var_outs x d v
  have hdue : dueFlags u.me.outs = dueFlags s.me.outs ||| f := by
    rw [hme, Slot.flagged, hout, dueFlags_cons, hx, atIssue_outs, BitVec.or_comm]
    rfl
  have hfp : u.me.fpflags = s.me.fpflags := by rw [hme]; exact pfp.trans (atIssue_fpflags s h)
  have hun : u.myCluster.flagsUnion = s.myCluster.flagsUnion := by
    rw [State.myCluster_eq, hfocus]
    exact congrArg Cluster.flagsUnion (atIssue_cluster s h _)
  have a : SlotFrame s u := (atIssue_frame s h).trans (setMe_frame _ _ psp pfp) (atIssue_flagless s h)
  obtain ⟨b, r, gfile, -⟩ := goOn_frame u (s.me.pc + 4)
  obtain ⟨gf, gu⟩ := goOn_flags u (s.me.pc + 4)
  rw [hfocus] at b r gfile gf gu
  refine ⟨holds_of_file ?_, ⟨r.focus.trans hfocus, r.pc, ?_, r.hints⟩, a.flagFrame b ?_ ?_⟩
  · rw [State.flagWrite, gfile, hme, ← atIssue_wbase s h, ← atIssue_file s h]
    exact pfile
  · rw [State.flagWrite, r.pos, hme]
    exact congrArg (· + 1) (ppos.trans (atIssue_pos s h))
  · exact gf.trans (by rw [hdue, hfp, BitVec.or_assoc])
  · exact gu.trans (by rw [hdue, hun, BitVec.or_assoc])

end

section
variable {s : State} {m : Bool} {d a b : Reg}

/-! ## Operands (R195) -/

theorem ownScratch_ok {v : Word} {n : Nat} (hlt : v.toNat < 0x8000) (hal : v.toNat % n = 0) :
    ownScratch v n = .ok v.toNat := by
  unfold ownScratch
  rw [if_neg (by omega), if_neg (by omega)]

theorem ownScratchAll_ok {v w : Word} {n : Nat} (hv : v.toNat < 0x8000) (hvn : v.toNat % n = 0)
    (hw : w.toNat < 0x8000) (hwn : w.toNat % n = 0) : ownScratchAll [(v, n), (w, n)] = .ok () := by
  have hv' : ¬ 0x8000 ≤ v.toNat := by omega
  have hw' : ¬ 0x8000 ≤ w.toNat := by omega
  simp [ownScratchAll, hv', hw', hvn, hwn]

theorem accAt_ok {sp : Mem} {o : Nat} (h : sp.readLE o 64 / 2 ^ 448 = 0) :
    accAt sp o = .ok (.ofNat (sp.readLE o 64)) := if_neg (not_not.mpr h)

/-! ## The words -/

section
variable (hi : s.ints [a]) (ho : accOffset s a) (hal : Alone s .lacc)
include hi ho hal

theorem execLaz_next (r : Ready {} s [a]) :
    execLaz m a s = .next ((s.bump.setAcc (s.int a).toNat .zero).retire m) := by
  refine issue_next r ?_
  simp only [touch_bump r, srcInt_bump hi, ownScratch_ok ho.1 ho.2, objectUnit_bump hal, Bind.bind, Except.bind]

theorem laz_claim (r : Ready {} s [a]) : ObjectWord s m (.laz m a) (s.int a).toNat fun v => v = 0 :=
  exists_objectWord (a := .zero) hal.own (show exec (.laz m a) s = _ from execLaz_next hi ho hal r) zero_toNat

/-- LAADD and LASUB read their accumulator and write it with the lanes of B added (R197). -/
theorem laccAdd_reads {neg : Bool} {i : Instr} {E : Prop} {x : Nat} (r : Ready {} s [a, b])
    (hb : (s.me.read b).tag.isExact = true) (hx : exec i s = laccAdd neg m a b s)
    (hread : (seenScratch s).readLE (s.int a).toNat 64 = x) (hacc : x / 2 ^ 448 = 0)
    (hE : exec i s = .next ((s.bump.setAcc (s.int a).toNat
      ((s.me.read b).values.foldl (·.add neg ·) (.ofNat x))).retire m) → E) : Reads s i E := by
  subst hread
  refine reads_of_body (u := .lacc) (g := 8) (l := [((s.int a).toNat, 64)]) (k := fun sp =>
    accAt sp (s.int a).toNat >>= fun l => .ok ((s.bump.setAcc (s.int a).toNat
      ((s.me.read b).values.foldl (·.add neg ·) l)).retire m)) r rfl hx ?_ ?_ hE
  · simp only [touch_bump r, srcInt_bump hi, State.me_bump, hb, ownScratch_ok ho.1 ho.2, objectUnit_bump hal,
      Bind.bind, Except.bind]
    rfl
  · rw [accAt_ok hacc]
    rfl

/-- LARND and LARNDB read their accumulator and deliver it rounded (R198). -/
theorem laccRound_reads {f : Fmt} {t : Tag} {i : Instr} {E : Prop} {x : Nat} (r : Ready { rnd := true } s [a, d])
    (hx : exec i s = laccRound f t m d a s)
    (hread : (seenScratch s).readLE (s.int a).toNat 64 = x) (hacc : x / 2 ^ 448 = 0)
    (hE : let r := (LongAcc.ofNat x).round f s.bump.mode
      exec i s = .next ((s.flagWrite { rnd := true } d ⟨BitVec.ofNat 128 r.bits, t⟩ r.fl).settle s.focus m) → E) :
    Reads s i E := by
  subst hread
  refine reads_of_body (u := .lacc) (g := 8) (l := [((s.int a).toNat, 64)]) (k := fun sp =>
    accAt sp (s.int a).toNat >>= fun l => .ok ((s.bump.wrFlags d ⟨BitVec.ofNat 128 (l.round f s.bump.mode).bits, t⟩
      .none .var (l.round f s.bump.mode).fl).retire m)) r rfl hx ?_ ?_ hE
  · simp only [touch_clear (s := s.bump) r.clear, srcInt_bump hi, ownScratch_ok ho.1 ho.2, objectUnit_bump hal,
      Bind.bind, Except.bind]
  · rw [accAt_ok hacc, ← retire_flagWrite]
    rfl

theorem last_reads {x : Nat} {E : Prop} (r : Ready {} s [a, d])
    (hread : (seenScratch s).readLE (s.int a).toNat 64 = x) (hacc : x / 2 ^ 448 = 0)
    (hE : exec (.last m d a) s = .next ((s.result {} d (.int (BitVec.ofNat 64 (x / 2 ^ 384))) .none .var
      (s.me.pc + 4)).settle s.focus m) → E) : Reads s (.last m d a) E := by
  subst hread
  have hx : exec (.last m d a) s = execLast m d a s := rfl
  refine reads_of_body (u := .lacc) (g := 8) (l := [((s.int a).toNat, 64)]) (k := fun sp =>
    accAt sp (s.int a).toNat >>= fun l => .ok ((s.bump.wr d (.int (BitVec.ofNat 64 l.status)) .none .var).retire m))
    r rfl hx ?_ ?_ hE
  · simp only [touch_bump r, srcInt_bump hi, ownScratch_ok ho.1 ho.2, objectUnit_bump hal, Bind.bind, Except.bind]
  · rw [accAt_ok hacc, ← retire_result, ← status_ofNat hacc]
    rfl

/-- LAMRG reads two accumulators and writes the first with the second added (R199). -/
theorem lamrg_reads {x y : Nat} {E : Prop} (r : Ready {} s [a, b]) (hi' : s.ints [b]) (ho' : accOffset s b)
    (hread : (seenScratch s).readLE (s.int a).toNat 64 = x) (hacc : x / 2 ^ 448 = 0)
    (hread' : (seenScratch s).readLE (s.int b).toNat 64 = y) (hacc' : y / 2 ^ 448 = 0)
    (hE : exec (.lamrg m a b) s = .next ((s.bump.setAcc (s.int a).toNat
      ((LongAcc.ofNat x).merge (.ofNat y))).retire m) → E) : Reads s (.lamrg m a b) E := by
  subst hread hread'
  have hx : exec (.lamrg m a b) s = execLamrg m a b s := rfl
  refine reads_of_body (u := .lacc) (g := 8) (l := [((s.int a).toNat, 64), ((s.int b).toNat, 64)]) (k := fun sp =>
    accAt sp (s.int a).toNat >>= fun x => accAt sp (s.int b).toNat >>= fun y =>
      .ok ((s.bump.setAcc (s.int a).toNat (x.merge y)).retire m)) r rfl hx ?_ ?_ hE
  · simp only [touch_bump r, srcInt_bump hi, srcInt_bump hi', ownScratchAll_ok ho.1 ho.2 ho'.1 ho'.2,
      objectUnit_bump hal, Bind.bind, Except.bind]
  · rw [accAt_ok hacc, accAt_ok hacc']
    rfl

end

end

/-! ## The claim -/

/-- The formats of the lanes an accumulator takes are those of R197. -/
theorem exact_of_fmt {g : Tag} {f : Fmt} (hf : g.fmt = some f) (hg : g ≠ .f64x2) :
    g.isExact = true ∧ 0 ≤ f.qmin + 160 := by
  cases g
  case f64x2 => exact absurd rfl hg
  all_goals
    cases hf <;> exact ⟨rfl, by decide⟩

theorem values_eq {v : RV} {f : Fmt} (hf : v.tag.fmt = some f) :
    v.values = (List.range v.tag.lanes).map fun i => f.decode (lane v v.tag.width i) := by
  unfold RV.values
  rw [hf, lanesAs_eq]
  exact List.map_map

/-- What the 64 bytes of an accumulator say when values have been added to it (R197). -/
theorem accIs_added {x : Nat} {neg : Bool} {l : List Num} (hl : ∀ n ∈ l, OnGrid n) :
    AccIs (l.foldl (·.add neg ·) (LongAcc.ofNat x)).toNat
      ((x % 2 ^ 384 : Nat) + if neg then -(l.map fixed160).sum else (l.map fixed160).sum)
      (x / 2 ^ 384 % 2 ^ 61 + l.length)
      (x.testBit 445 || decide (∃ n ∈ l, (n == .inf !neg) = true))
      (x.testBit 446 || decide (∃ n ∈ l, (n == .inf neg) = true))
      (x.testBit 447 || decide (∃ n ∈ l, n.isNan = true)) := by
  obtain ⟨hval, hcount, hninf, hpinf, hnan⟩ := added_foldl neg hl (a := .ofNat x) (Nat.mod_lt _ (Nat.two_pow_pos 384))
    (Nat.mod_lt _ (Nat.two_pow_pos 61))
  have h := accIs_toNat hval hcount
  rw [hninf, hpinf, hnan] at h
  exact h

/-- What they say when another accumulator has been added to it (R199). -/
theorem accIs_merged (x y : Nat) : AccIs ((LongAcc.ofNat x).merge (.ofNat y)).toNat
    ((x % 2 ^ 384 : Nat) + (y % 2 ^ 384 : Nat)) (x / 2 ^ 384 % 2 ^ 61 + y / 2 ^ 384 % 2 ^ 61)
    (x.testBit 445 || y.testBit 445) (x.testBit 446 || y.testBit 446) (x.testBit 447 || y.testBit 447) :=
  accIs_toNat (Int.natCast_mod _ _) rfl

/-- What LARND and LARNDB deliver (R198). -/
theorem round_ofNat (x : Nat) (f : Fmt) (mode : Round) : (LongAcc.ofNat x).round f mode =
    if x.testBit 447 || (x.testBit 446 && x.testBit 445) then ⟨f.qnan, 0⟩
    else if x.testBit 446 then ⟨f.inf false, 0⟩
    else if x.testBit 445 then ⟨f.inf true, 0⟩
    else f.roundDy mode false false false
      ⟨((x % 2 ^ 384 : Nat) : Int) - if x.testBit 383 then 2 ^ 384 else 0, -160⟩ := by
  rw [← value_eq]
  rfl

section
variable {s : State} {m : Bool} {d a b : Reg}

/-- A word that adds the lanes of B to its accumulator, or their negatives (R197). -/
theorem laccAdd_claim {neg : Bool} {i : Instr} {x : Nat} {f : Fmt} (hi : s.ints [a]) (ho : accOffset s a)
    (hal : Alone s .lacc) (r : Ready {} s [a, b]) (hf : (s.me.read b).tag.fmt = some f)
    (h64 : (s.me.read b).tag ≠ .f64x2) (hx : exec i s = laccAdd neg m a b s)
    (hread : (seenScratch s).readLE (s.int a).toNat 64 = x) (hacc : x / 2 ^ 448 = 0) :
    let g := (s.me.read b).tag
    let l := (List.range g.lanes).map fun i => f.decode (lane (s.me.read b) g.width i)
    Reads s i (ObjectWord s m i (s.int a).toNat fun v => AccIs v
      ((x % 2 ^ 384 : Nat) + if neg then -(l.map fixed160).sum else (l.map fixed160).sum)
      (x / 2 ^ 384 % 2 ^ 61 + g.lanes)
      (x.testBit 445 || decide (∃ n ∈ l, (n == .inf !neg) = true))
      (x.testBit 446 || decide (∃ n ∈ l, (n == .inf neg) = true))
      (x.testBit 447 || decide (∃ n ∈ l, n.isNan = true))) := by
  intro g l
  obtain ⟨hexact, hgrid⟩ := exact_of_fmt hf h64
  have hvalues : (s.me.read b).values = l := values_eq hf
  have hon : ∀ n ∈ l, OnGrid n := fun n hn => by
    obtain ⟨i, -, rfl⟩ := List.mem_map.mp hn
    exact decode_onGrid hgrid _
  have hlen : l.length = g.lanes := by rw [List.length_map, List.length_range]
  refine laccAdd_reads hi ho hal r hexact hx hread hacc fun h => exists_objectWord hal.own h ?_
  rw [hvalues, ← hlen]
  exact accIs_added hon

/-- A word that delivers its accumulator rounded once (R198). -/
theorem laccRound_claim {f : Fmt} {t : Tag} {i : Instr} {x : Nat} {l : Lane} (hi : s.ints [a]) (ho : accOffset s a)
    (hal : Alone s .lacc) (r : Ready { rnd := true } s [a, d]) (hx : exec i s = laccRound f t m d a s)
    (hread : (seenScratch s).readLE (s.int a).toNat 64 = x) (hacc : x / 2 ^ 448 = 0)
    (hl : (LongAcc.ofNat x).round f s.bump.mode = l) :
    Reads s i (∃ u, exec i s = .next (u.settle s.focus m) ∧ Holds s u d ⟨BitVec.ofNat 128 l.bits, t⟩ ∧
      Retired s u (s.me.pc + 4) ∧ FlagFrame s u l.fl) := by
  subst hl
  exact laccRound_reads hi ho hal r hx hread hacc fun h => ⟨_, h, flagWrite_leaves _ _ _ _ _⟩

end

/-- Settles O42: each word reads its accumulators as `Reads` says, and its effect is a sum, a merge or a rounding of
the number of 512 bits. -/
theorem longAccumulator : Obligations.LongAccumulator := by
  intro s m d a b hi ho hal o x count
  refine ⟨laz_claim hi ho hal, fun r hx f hf h64 => ⟨?_, ?_⟩, fun r hi' ho' hx => ?_, fun r hx => ?_, fun r hx => ?_⟩
  · exact laccAdd_claim (neg := false) hi ho hal r hf h64 rfl rfl hx
  · exact laccAdd_claim (neg := true) hi ho hal r hf h64 rfl rfl hx
  · intro y hy
    exact lamrg_reads hi ho hal r hi' ho' rfl hx rfl hy fun h => exists_objectWord hal.own h (accIs_merged x y)
  · intro value e he
    obtain rfl | rfl : e = (.larnd m d a, fp32, .f32x4) ∨ e = (.larndb m d a, bf16, .bf16x8) := by simpa using he
    · exact laccRound_claim hi ho hal r rfl rfl hx (round_ofNat x fp32 _)
    · exact laccRound_claim hi ho hal r rfl rfl hx (round_ofNat x bf16 _)
  · refine last_reads hi ho hal r rfl hx fun h => ?_
    obtain ⟨t, ht, hh, hr, hf, -⟩ := exists_result h
    exact ⟨t, ht, hh, hr, hf⟩

end Sys2Proof.Machine
end

section
/-! SUPPORT. The words of VPERM: the lists of lanes they make, and the claims (R183 to R187). -/

namespace Sys2Proof.Machine

/-! ## Lists of lanes (R184, R186) -/

section
variable (x y : Nat → Nat) (sel : Nat → Bool)

theorem reverse_lanes (n : Nat) : ((List.range n).map x).reverse = (List.range n).map fun k => x (n - 1 - k) := by
  refine List.ext_getElem (by simp) fun k _ _ => ?_
  simp

theorem set_lane (n i v : Nat) :
    ((List.range n).map x).set i v = (List.range n).map fun k => if k = i then v else x k := by
  refine List.ext_getElem (by simp) fun k _ _ => ?_
  simp [List.getElem_set, eq_comm]

theorem take_lanes {m n : Nat} (h : m ≤ n) : ((List.range n).map x).take m = (List.range m).map x := by
  rw [← List.map_take, List.take_range, Nat.min_eq_left h]

theorem drop_lanes (m k : Nat) : ((List.range (m + k)).map x).drop m = (List.range k).map fun i => x (m + i) := by
  rw [← List.map_drop, List.range_add, List.drop_left' List.length_range, List.map_map]
  rfl

theorem append_lanes (m k : Nat) : (List.range m).map x ++ (List.range k).map y =
    (List.range (m + k)).map fun i => if i < m then x i else y (i - m) := by
  rw [List.range_add, List.map_append, List.map_map]
  refine congrArg₂ _ (List.map_congr_left fun i hi => ?_) (List.map_congr_left fun i _ => ?_)
  · rw [if_pos (List.mem_range.mp hi)]
  · simp

theorem interleave_lanes (m : Nat) : interleave ((List.range m).map x) ((List.range m).map y) =
    (List.range (2 * m)).map fun k => if k % 2 = 0 then x (k / 2) else y (k / 2) := by
  unfold interleave
  rw [List.zip_map']
  induction m with
  | zero => rfl
  | succ m ih =>
    rw [List.range_succ, List.map_append, List.flatMap_append, ih, Nat.mul_succ, List.range_succ, List.range_succ,
      List.map_append, List.map_append, List.append_assoc]
    congr 1
    have heven : 2 * m % 2 = 0 ∧ 2 * m / 2 = m := by omega
    have hodd : (2 * m + 1) % 2 = 1 ∧ (2 * m + 1) / 2 = m := by omega
    simp [heven, hodd]

theorem evens_range (m : Nat) : evens ((List.range (2 * m)).map x) = (List.range m).map fun k => x (2 * k) := by
  induction m generalizing x with
  | zero => rfl
  | succ m ih =>
    rw [Nat.mul_succ, List.range_succ_eq_map, List.range_succ_eq_map, List.range_succ_eq_map]
    simpa [evens, Function.comp_def, Nat.mul_add] using ih fun k => x (k + 2)

theorem odds_range (m : Nat) : odds ((List.range (2 * m)).map x) = (List.range m).map fun k => x (2 * k + 1) := by
  induction m generalizing x with
  | zero => rfl
  | succ m ih =>
    rw [Nat.mul_succ, List.range_succ_eq_map, List.range_succ_eq_map, List.range_succ_eq_map]
    simpa [odds, Function.comp_def, Nat.mul_add] using ih fun k => x (k + 2)

theorem compress_lanes (n : Nat) :
    compress ((List.range n).map x) ((List.range n).map sel) = ((List.range n).filter sel).map x := by
  unfold compress
  rw [List.zip_map', List.filter_map, List.map_map]
  rfl

/-- The selected places take the lanes of the list in order: each the one that as many selected places precede. -/
theorem expand_eq (l : List Nat) (n : Nat) : expand l ((List.range n).map sel) =
    (List.range n).map fun k => if sel k then l.getD ((List.range k).filter sel).length 0 else 0 := by
  induction n generalizing l sel with
  | zero => cases l <;> rfl
  | succ n ih =>
    have hbelow (k : Nat) : ((List.range (k + 1)).filter sel).length
        = (if sel 0 then 1 else 0) + ((List.range k).filter fun i => sel (i + 1)).length := by
      rw [List.range_succ_eq_map, List.filter_cons, List.filter_map, apply_ite List.length, List.length_cons,
        List.length_map]
      split_ifs
      · exact Nat.add_comm _ _
      · exact (Nat.zero_add _).symm
    rw [List.range_succ_eq_map, List.map_cons, List.map_map, List.map_cons, List.map_map]
    cases h0 : sel 0 with
    | false =>
      have hexp : expand l (false :: (List.range n).map fun i => sel (i + 1))
          = 0 :: expand l ((List.range n).map fun i => sel (i + 1)) := by cases l <;> rfl
      refine hexp.trans (congrArg₂ _ (by simp) ((ih _ l).trans (List.map_congr_left fun k _ => ?_)))
      simp [hbelow, h0]
    | true =>
      cases l with
      | nil =>
        refine congrArg₂ _ rfl ((ih _ []).trans (List.map_congr_left fun k _ => ?_))
        simp
      | cons v l =>
        refine congrArg₂ _ rfl ((ih _ l).trans (List.map_congr_left fun k _ => ?_))
        simp [hbelow, h0, Nat.add_comm 1, Function.comp_def]

theorem expand_lanes (n : Nat) : expand ((List.range n).map x) ((List.range n).map sel) =
    (List.range n).map fun k => if sel k then x ((List.range k).filter sel).length else 0 := by
  rw [expand_eq]
  refine List.map_congr_left fun k hk => ?_
  have hlt : ((List.range k).filter sel).length < n :=
    ((List.length_filter_le _ _).trans_eq List.length_range).trans_lt (List.mem_range.mp hk)
  simp [hlt]

end

/-- A list that is shorter than the register fills its low lanes, with zeros above. -/
theorem packLanes_eq_range (w : Nat) {l : List Nat} {n : Nat} (h : l.length ≤ n) :
    packLanes w l = packLanes w ((List.range n).map fun k => l[k]?.getD 0) := by
  induction n generalizing l with
  | zero => rw [List.length_eq_zero_iff.mp (Nat.le_zero.mp h)]; rfl
  | succ n ih =>
    rw [List.range_succ_eq_map, List.map_cons, List.map_map, packLanes]
    cases l with
    | nil => simpa [packLanes, Function.comp_def] using (ih (l := []) n.zero_le).symm
    | cons v l =>
      rw [packLanes, ih (Nat.le_of_succ_le_succ h)]
      rfl

/-! ## What the words deliver -/

theorem lanes_even {g : Tag} (hi : g ≠ .i64) (hn : g ≠ .name) : g.lanes = 2 * (g.lanes / 2) := by
  revert hi hn
  cases g <;> decide

theorem maskOk_ok {t : Tag} (hi : t ≠ .i64) (hn : t ≠ .name) : maskOk t = .ok () :=
  if_neg (not_or.mpr ⟨hi, hn⟩)

theorem selected_eq (v : RV) (g : Tag) : selected v g = (List.range g.lanes).map fun k => Sys2Proof.chosen v g k := by
  rw [selected, lanesAs_eq, List.map_map]
  rfl

theorem laneAt_range {x : Nat → Nat} {n : Nat} {i : BitVec 6} (h : i.toNat < n) :
    laneAt ((List.range n).map x) i = .ok (x i.toNat) := by
  simp [laneAt, h]

theorem laneAt_refused {x : Nat → Nat} {n : Nat} {i : BitVec 6} (h : n ≤ i.toNat) :
    laneAt ((List.range n).map x) i = .error (.info .format 9) := by
  simp [laneAt, h]

/-- A lane taken out of its register is the number its type says (R185). -/
theorem laneInt_lane {g : Tag} (hi : g ≠ .i64) {x : Nat} (hx : x < 2 ^ g.width) :
    laneInt g x = if g ∈ signedInts then readInt g x else (x : Int) := by
  by_cases hg : g ∈ signedInts
  · have hints : g ∈ ints := by
      revert hg
      cases g <;> decide
    rw [if_pos hg, laneInt_eq_readInt hints hx]
  · have hs : g.signed = false := by
      revert hi hg
      cases g <;> decide
    rw [if_neg hg, laneInt, hs, Nat.mod_eq_of_lt hx]
    rfl

/-- The bytes of two registers, from a place on (R187). -/
theorem extract_append (x y : Quad) (k : Nat) :
    (y ++ x).extractLsb' k 128 = BitVec.ofNat 128 ((y.toNat * 2 ^ 128 + x.toNat) / 2 ^ k) := by
  refine BitVec.eq_of_toNat_eq ?_
  rw [BitVec.toNat_ofNat, BitVec.extractLsb'_toNat, BitVec.toNat_append, ← Nat.shiftLeft_add_eq_or_of_lt x.isLt,
    Nat.shiftLeft_eq, Nat.shiftRight_eq_div_pow]

/-! ## The words -/

section
variable {s : State} {m : Bool} {d a b : Reg} {i : BitVec 6} {g : Tag}

theorem permute_result (s : State) (h : Takes) (m : Bool) (d : Reg) (g : Tag) (l : List Nat) :
    permute (s.atIssue h) m d g l =
      (s.result h d (.ofLanes g g.width l) .l1 (.fixed 2) (s.me.pc + 4)).settle s.focus m := retire_result ..

theorem vperm1_next {f : Tag → List Nat → Except Stop (List Nat)} {l : List Nat} (r : Ready {} s [a, d])
    (ht : SharesOrRaw s [a] g) (hf : f g ((List.range g.lanes).map (lane (s.me.read a) g.width)) = .ok l) :
    vperm1 m d a f s = .next ((s.result {} d (.ofLanes g g.width l) .l1 (.fixed 2)
      (s.me.pc + 4)).settle s.focus m) := by
  have he : elemType [(s.me.read a).tag] true = .ok g := elemType_of_sharesOrRaw ht
  unfold vperm1
  rw [issue_ready r]
  simp only [touch_ready r, atIssue_read, he, lanesAs_eq, hf, permute_result, Bind.bind, Except.bind]

theorem vperm2_next {f : List Nat → List Nat → List Nat} (r : Ready {} s [a, b, d]) (ht : SharesOrRaw s [a, b] g) :
    vperm2 m d a b f s = .next ((s.result {} d (.ofLanes g g.width
      (f ((List.range g.lanes).map (lane (s.me.read a) g.width))
        ((List.range g.lanes).map (lane (s.me.read b) g.width))))
      .l1 (.fixed 2) (s.me.pc + 4)).settle s.focus m) := by
  have he : elemType [(s.me.read a).tag, (s.me.read b).tag] true = .ok g := elemType_of_sharesOrRaw ht
  unfold vperm2
  rw [issue_ready r]
  simp only [touch_ready r, atIssue_read, he, lanesAs_eq, permute_result, Bind.bind, Except.bind]

theorem execVext_next (r : Ready {} s [a, d]) (ht : SharesOrRaw s [a] g) (hlt : i.toNat < g.lanes) :
    execVext m d a i s = .next ((s.result {} d (.int (BitVec.ofInt 64 (laneInt g (lane (s.me.read a) g.width i.toNat))))
      .l1 (.fixed 2) (s.me.pc + 4)).settle s.focus m) := by
  have he : elemType [(s.me.read a).tag] true = .ok g := elemType_of_sharesOrRaw ht
  unfold execVext
  rw [issue_ready r]
  simp only [touch_ready r, atIssue_read, he, lanesAs_eq, laneAt_range hlt, retire_result, Bind.bind, Except.bind]

theorem execVext_refused (r : Ready {} s [a, d]) (hc : s.canTrap) (ht : SharesOrRaw s [a] g)
    (hle : g.lanes ≤ i.toNat) :
    ∃ t, execVext m d a i s = .next t ∧ Trapped s.bump t .format s.me.groupStart 0 9 false := by
  have he : elemType [(s.me.read a).tag] true = .ok g := elemType_of_sharesOrRaw ht
  refine issue_trapped hc r.hints r.mode ?_
  simp only [touch_ready r, atIssue_read, he, lanesAs_eq, laneAt_refused hle, Bind.bind, Except.bind]
  rfl

/-- The type of the lanes VINS writes: that of the destination, with which a source other than an integer agrees
(R185). -/
theorem elemType_vins (ht : ((s.me.read a).tag = .i64 ∧ SharesOrRaw s [d] g) ∨ SharesOrRaw s [a, d] g) :
    elemType (if (s.me.read a).tag = .i64 then [(s.me.read d).tag] else [(s.me.read d).tag, (s.me.read a).tag]) true
      = .ok g := by
  rcases ht with ⟨hi, ht⟩ | ht
  · rw [if_pos hi]
    exact elemType_of_sharesOrRaw ht
  · have he : elemType [(s.me.read a).tag, (s.me.read d).tag] true = .ok g := elemType_of_sharesOrRaw ht
    rw [elemType_ok] at he
    rw [if_neg (he.1 _ List.mem_cons_self).1, elemType_ok]
    simpa [and_comm, or_comm] using he

theorem execVins_next (r : Ready {} s [a, d]) (hlt : i.toNat < g.lanes)
    (ht : ((s.me.read a).tag = .i64 ∧ SharesOrRaw s [d] g) ∨ SharesOrRaw s [a, d] g) :
    execVins m d a i s = .next ((s.result {} d (.ofLanes g g.width ((List.range g.lanes).map fun k =>
      if k = i.toNat then lane (s.me.read a) g.width 0 else lane (s.me.read d) g.width k))
      .l1 (.fixed 2) (s.me.pc + 4)).settle s.focus m) := by
  have hzero : (s.me.read a).val.toNat % 2 ^ g.width = lane (s.me.read a) g.width 0 := by
    rw [lane, Nat.mul_zero, Nat.pow_zero, Nat.div_one]
  unfold execVins
  rw [issue_ready r]
  simp only [touch_ready r, atIssue_read, elemType_vins ht, lanesAs_eq, laneAt_range hlt, set_lane, hzero,
    permute_result, Bind.bind, Except.bind]

section
variable (r : Ready {} s [a, b, d]) (ht : SharesOrRaw s [a] g) (hi : (s.me.read b).tag ≠ .i64)
  (hn : (s.me.read b).tag ≠ .name)
include r ht hi hn

theorem execVshuf_next (hg : g ≠ .e2m1x32) :
    execVshuf m d a b s = .next ((s.result {} d (.ofLanes g g.width ((List.range g.lanes).map fun k =>
      if lane (s.me.read b) 8 k < g.lanes then lane (s.me.read a) g.width (lane (s.me.read b) 8 k) else 0))
      .l1 (.fixed 2) (s.me.pc + 4)).settle s.focus m) := by
  have he : elemType [(s.me.read a).tag] true = .ok g := elemType_of_sharesOrRaw ht
  have hget (k : Nat) : ((List.range g.lanes).map (lane (s.me.read a) g.width)).getD k 0
      = if k < g.lanes then lane (s.me.read a) g.width k else 0 := by
    split_ifs with h <;> simp [h]
  have hlist : (lanesOf 8 g.lanes (s.me.read b).val.toNat).map
      (((List.range g.lanes).map (lane (s.me.read a) g.width)).getD · 0) = (List.range g.lanes).map fun k =>
        if lane (s.me.read b) 8 k < g.lanes then lane (s.me.read a) g.width (lane (s.me.read b) 8 k) else 0 := by
    simp only [hget, lanesOf, List.map_map]
    rfl
  unfold execVshuf
  rw [issue_ready r]
  simp only [touch_ready r, atIssue_read, he, maskOk_ok hi hn, if_neg hg, lanesAs_eq, hlist, permute_result, Bind.bind,
    Except.bind]

theorem execVexpd_next :
    execVexpd m d a b s = .next ((s.result {} d (.ofLanes g g.width ((List.range g.lanes).map fun k =>
      if Sys2Proof.chosen (s.me.read b) g k then
        lane (s.me.read a) g.width ((List.range k).filter (Sys2Proof.chosen (s.me.read b) g)).length
      else 0)) .l1 (.fixed 2) (s.me.pc + 4)).settle s.focus m) := by
  have he : elemType [(s.me.read a).tag] true = .ok g := elemType_of_sharesOrRaw ht
  unfold execVexpd
  rw [issue_ready r]
  simp only [touch_ready r, atIssue_read, he, maskOk_ok hi hn, lanesAs_eq, selected_eq, expand_lanes, permute_result,
    Bind.bind, Except.bind]

end

theorem execValgn_next (r : Ready {} s [a, b, d]) (ht : SharesOrRaw s [a, d] g) (hi : s.ints [b]) :
    execValgn m d a b s = .next ((s.result {} d ⟨BitVec.ofNat 128
      (((s.me.read d).val.toNat * 2 ^ 128 + (s.me.read a).val.toNat) / 2 ^ (8 * ((s.int b).toNat % 16))), g⟩
      .l1 (.fixed 2) (s.me.pc + 4)).settle s.focus m) := by
  have he : elemType [(s.me.read a).tag, (s.me.read d).tag] true = .ok g := elemType_of_sharesOrRaw ht
  unfold execValgn
  rw [issue_ready r]
  simp only [touch_ready r, atIssue_read, srcInt_ints hi List.mem_cons_self, he, extract_append, retire_result,
    Bind.bind, Except.bind]

/-! ## Results for both last-result registers (R186) -/

/-- A result of latency 2 that brings a value to l0 and one to l1, and goes on. -/
def State.bothResult (s : State) (d : Reg) (v v0 v1 : RV) : State :=
  ((s.atIssue {}).modMe (·.put d v (some v0) (some v1) (.fixed 2))).goOn s.focus (s.me.pc + 4)

theorem retire_bothResult (s : State) (m : Bool) (d : Reg) (v v0 v1 : RV) :
    ((s.atIssue {}).modMe (·.put d v (some v0) (some v1) (.fixed 2))).retire m =
      (s.bothResult d v v0 v1).settle s.focus m := by
  have hpc : ((s.atIssue {}).modMe (·.put d v (some v0) (some v1) (.fixed 2))).me.pc = s.me.pc := by
    simp only [State.modMe_eq, State.me_setSlot, if_true]
    exact ((put_rest _ _ _ _ _ _).2.1).trans (atIssue_pc s {})
  rw [State.retire, retireTo_eq, hpc]
  rfl

theorem bothResult_last (s : State) (d : Reg) (v v0 v1 : RV) :
    (s.bothResult d v v0 v1).me.l1 = s.me.next1 (s.me.l1.later ⟨v1, s.me.pos + 2, s.me.pos⟩) ∧
      (s.bothResult d v v0 v1).me.l0 = s.me.next0 (s.me.l0.later ⟨v0, s.me.pos + 2, s.me.pos⟩) := by
  obtain ⟨-, -, -, e0, e1⟩ :=
    goOn_frame ((s.atIssue {}).modMe (·.put d v (some v0) (some v1) (.fixed 2))) (s.me.pc + 4)
  have hme : ((s.atIssue {}).modMe (·.put d v (some v0) (some v1) (.fixed 2))).me =
      (s.atIssue {}).me.put d v (some v0) (some v1) (.fixed 2) := by simp
  constructor
  · rw [show (s.bothResult d v v0 v1).me.l1 = _ from e1, hme, put_next1, atIssue_next1]
    unfold Slot.put
    cases regRef (s.atIssue {}).me.wbase d <;> simp
  · rw [show (s.bothResult d v v0 v1).me.l0 = _ from e0, hme, put_next0, atIssue_next0]
    unfold Slot.put
    cases regRef (s.atIssue {}).me.wbase d <;> simp

theorem exists_both {o : Host.Outcome State Fault Refusal} {v v0 v1 : RV}
    (ho : o = .next ((s.bothResult d v v0 v1).settle s.focus m)) : ∃ t, o = .next (t.settle s.focus m) ∧
      Holds s t d v ∧ Retired s t (s.me.pc + 4) ∧ SlotFrame s t ∧
      t.me.l1 = s.me.next1 (s.me.l1.later ⟨v1, s.me.pos + 2, s.me.pos⟩) ∧
      t.me.l0 = s.me.next0 (s.me.l0.later ⟨v0, s.me.pos + 2, s.me.pos⟩) := by
  obtain ⟨hf, hr, hh⟩ := put_goOn {} s d v (some v0) (some v1) (.fixed 2) (s.me.pc + 4)
  exact ⟨_, ho, hh, hr, hf, bothResult_last s d v v0 v1⟩

theorem execVcmpr_next (r : Ready {} s [a, b, d]) (ht : SharesOrRaw s [a] g) (hi : (s.me.read b).tag ≠ .i64)
    (hn : (s.me.read b).tag ≠ .name) :
    let l := (List.range g.lanes).filter (Sys2Proof.chosen (s.me.read b) g)
    let v := RV.ofLanes g g.width ((List.range g.lanes).map fun k =>
      (l[k]?.map (lane (s.me.read a) g.width)).getD 0)
    execVcmpr m d a b s = .next ((s.bothResult d v (.int (BitVec.ofNat 64 l.length)) v).settle s.focus m) := by
  intro l v
  have he : elemType [(s.me.read a).tag] true = .ok g := elemType_of_sharesOrRaw ht
  have hv : RV.ofLanes g g.width (l.map (lane (s.me.read a) g.width)) = v := by
    have hlen : (l.map (lane (s.me.read a) g.width)).length ≤ g.lanes := by
      rw [List.length_map]
      exact (List.length_filter_le _ _).trans_eq List.length_range
    simp only [v, RV.ofLanes, packLanes_eq_range g.width hlen, List.getElem?_map]
  unfold execVcmpr
  rw [issue_ready r]
  simp only [touch_ready r, atIssue_read, he, maskOk_ok hi hn, lanesAs_eq, selected_eq, compress_lanes,
    List.length_map, Bind.bind, Except.bind]
  rw [hv, retire_bothResult]

theorem execVpopm_next (r : Ready {} s [a, d]) (hi : (s.me.read a).tag ≠ .i64) (hn : (s.me.read a).tag ≠ .name)
    (hg : g = (s.me.read a).tag) :
    let v := RV.int (BitVec.ofNat 64 ((List.range g.lanes).filter (Sys2Proof.chosen (s.me.read a) g)).length)
    execVpopm m d a s = .next ((s.bothResult d v v v).settle s.focus m) := by
  subst hg
  have hcount : (selected (s.me.read a) (s.me.read a).tag).countP id = ((List.range (s.me.read a).tag.lanes).filter
      (Sys2Proof.chosen (s.me.read a) (s.me.read a).tag)).length := by
    rw [selected_eq, List.countP_map, List.countP_eq_length_filter]
    rfl
  unfold execVpopm
  rw [issue_ready r]
  simp only [touch_ready r, atIssue_read, maskOk_ok hi hn, hcount, retire_bothResult, Bind.bind, Except.bind]

end

/-- Two lists zipped, or unzipped, from the low or from the high half (R184). -/
theorem zipped_lanes (x y : Nat → Nat) {n h : Nat} (hn : n = 2 * h) :
    let lx := (List.range n).map x
    let ly := (List.range n).map y
    interleave (lx.take (lx.length / 2)) (ly.take (ly.length / 2)) =
      (List.range n).map (fun k => if k % 2 = 0 then x (k / 2) else y (k / 2)) ∧
    interleave (lx.drop (lx.length / 2)) (ly.drop (ly.length / 2)) =
      (List.range n).map (fun k => if k % 2 = 0 then x (n / 2 + k / 2) else y (n / 2 + k / 2)) ∧
    evens lx ++ evens ly = (List.range n).map (fun k => if k < n / 2 then x (2 * k) else y (2 * (k - n / 2))) ∧
    odds lx ++ odds ly =
      (List.range n).map (fun k => if k < n / 2 then x (2 * k + 1) else y (2 * (k - n / 2) + 1)) := by
  intro lx ly
  have hhalf : n / 2 = h := by omega
  have hsum : n = h + h := by omega
  have hlx : lx.length / 2 = h := by rw [List.length_map, List.length_range, hhalf]
  have hly : ly.length / 2 = h := by rw [List.length_map, List.length_range, hhalf]
  have hdrop (z : Nat → Nat) : ((List.range n).map z).drop h = (List.range h).map fun k => z (h + k) := by
    rw [hsum, drop_lanes]
  rw [hlx, hly, hhalf]
  refine ⟨?_, ?_, ?_, ?_⟩
  · rw [take_lanes x (by omega), take_lanes y (by omega), interleave_lanes, hn]
  · rw [hdrop x, hdrop y, interleave_lanes, hn]
  · rw [show lx = (List.range (2 * h)).map x by rw [← hn], show ly = (List.range (2 * h)).map y by rw [← hn],
      evens_range, evens_range, append_lanes, hsum]
  · rw [show lx = (List.range (2 * h)).map x by rw [← hn], show ly = (List.range (2 * h)).map y by rw [← hn],
      odds_range, odds_range, append_lanes, hsum]

section
variable {s : State} {m : Bool} {d a b : Reg} {g : Tag} {o : Host.Outcome State Fault Refusal} {p : Nat → Nat}

theorem vperm1_moved {f : Tag → List Nat → Except Stop (List Nat)} (r : Ready {} s [a, d]) (ht : SharesOrRaw s [a] g)
    (ho : o = vperm1 m d a f s)
    (hf : f g ((List.range g.lanes).map (lane (s.me.read a) g.width)) = .ok ((List.range g.lanes).map p)) :
    ∃ t, o = .next (t.settle s.focus m) ∧ Moved s t d (.ofLanes g g.width ((List.range g.lanes).map p)) :=
  exists_moved (ho.trans (vperm1_next r ht hf))

theorem vperm2_moved {f : List Nat → List Nat → List Nat} (r : Ready {} s [a, b, d]) (ht : SharesOrRaw s [a, b] g)
    (ho : o = vperm2 m d a b f s)
    (hf : f ((List.range g.lanes).map (lane (s.me.read a) g.width)) ((List.range g.lanes).map
      (lane (s.me.read b) g.width)) = (List.range g.lanes).map p) :
    ∃ t, o = .next (t.settle s.focus m) ∧ Moved s t d (.ofLanes g g.width ((List.range g.lanes).map p)) := by
  have hnext := ho.trans (vperm2_next r ht)
  rw [hf] at hnext
  exact exists_moved hnext

theorem vperm1_refused {f : Tag → List Nat → Except Stop (List Nat)} (r : Ready {} s [a, d]) (hc : s.canTrap)
    (ht : SharesOrRaw s [a] g) (ho : o = vperm1 m d a f s)
    (hf : f g ((List.range g.lanes).map (lane (s.me.read a) g.width)) = .error (.info .format 9)) :
    ∃ t, o = .next t ∧ Trapped s.bump t .format s.me.groupStart 0 9 false := by
  subst ho
  have he : elemType [(s.me.read a).tag] true = .ok g := elemType_of_sharesOrRaw ht
  refine issue_trapped hc r.hints r.mode ?_
  simp only [touch_ready r, atIssue_read, he, lanesAs_eq, hf, Bind.bind, Except.bind]
  rfl

end

/-- The permutes (R183 to R187). -/
theorem permuted_claim : Claims.Permuted := by
  intro s m d a b i g n w x y z out isMask
  refine ⟨fun r ht => ⟨?_, fun hlt => ⟨?_, ?_⟩,
    fun hle hc j hj => ?_⟩, fun r hlt ht => exists_moved (execVins_next r hlt ht), fun r ht e he => ?_,
    fun r ht hm => ⟨fun hg => exists_moved (execVshuf_next r ht hm.1 hm.2 hg),
      exists_moved (execVexpd_next r ht hm.1 hm.2), fun _ => exists_both (execVcmpr_next r ht hm.1 hm.2)⟩,
    fun r hm hg _ => exists_both (execVpopm_next r hm.1 hm.2 hg),
    fun r ht hi => exists_moved (execValgn_next r ht hi)⟩
  · exact vperm1_moved (f := fun _ l => .ok l.reverse) r ht rfl (congrArg Except.ok (reverse_lanes x n))
  · refine vperm1_moved r ht (show exec (.vsplat m d a i) s = execVsplat m d a i s from rfl) ?_
    rw [laneAt_range hlt]
    exact congrArg Except.ok List.map_map
  · have hv := laneInt_lane ht.1 (lane_lt (s.me.read a) g.width i.toNat)
    exact exists_moved (hv ▸ execVext_next r ht hlt)
  · obtain rfl | rfl : j = .vsplat m d a i ∨ j = .vext m d a i := by simpa using hj
    · refine vperm1_refused r hc ht (show exec (.vsplat m d a i) s = execVsplat m d a i s from rfl) ?_
      rw [laneAt_refused hle]
      rfl
    · exact execVext_refused r hc ht hle
  · obtain ⟨hzl, hzh, hul, huh⟩ := zipped_lanes x y (lanes_even ht.1 ht.2.1)
    simp only [List.mem_cons, List.not_mem_nil, or_false] at he
    rcases he with rfl | rfl | rfl | rfl
    · exact vperm2_moved r ht (show exec (.vzipl m d a b) s = execVzipl m d a b s from rfl) hzl
    · exact vperm2_moved r ht (show exec (.vziph m d a b) s = execVziph m d a b s from rfl) hzh
    · exact vperm2_moved r ht (show exec (.vuzpl m d a b) s = execVuzpl m d a b s from rfl) hul
    · exact vperm2_moved r ht (show exec (.vuzph m d a b) s = execVuzph m d a b s from rfl) huh

end Sys2Proof.Machine
end

section
/-! SUPPORT. Values of floating-point codes as the model and as the statements read them, and the roundings that are
exact: those of the narrow formats into FP32 (R145, R148 to R150, R178). -/

namespace Sys2Proof.Machine

/-! ## Values of codes (R145, R150) -/

/-- The number a decoded code stands for. -/
def Num.toVal : Num → Val
  | .nan s => .nan s
  | .inf n => .inf n
  | .fin n m e => .num n (signed n * (m * (2 : ℚ) ^ e))

section
variable {f : Fmt} {b : Nat}

/-- The sign bit of a code. -/
theorem sign_iff (hw : 0 < f.w) (hb : b < 2 ^ f.w) : 2 ^ (f.w - 1) ≤ b ↔ b / 2 ^ (f.w - 1) % 2 = 1 := by
  have hpow : 2 ^ f.w = 2 * 2 ^ (f.w - 1) := (mul_pow_sub_one hw.ne' 2).symm
  have hlt : b / 2 ^ (f.w - 1) < 2 := Nat.div_lt_of_lt_mul (by omega)
  rw [Nat.mod_eq_of_lt hlt, ← Nat.one_le_div_iff (Nat.two_pow_pos _)]
  omega

theorem decode_toVal (hw : 0 < f.w) (hb : b < 2 ^ f.w) : (f.decode b).toVal = valOf f false b := by
  have hsign : decide (2 ^ (f.w - 1) ≤ b % 2 ^ f.w) = decide (b / 2 ^ (f.w - 1) % 2 = 1) := by
    rw [Nat.mod_eq_of_lt hb, decide_eq_decide, sign_iff hw hb]
  have hm : (2 : ℚ) ^ f.m ≠ 0 := by positivity
  unfold Fmt.decode valOf Fmt.eb
  dsimp only
  rw [hsign, Bool.false_and, if_neg Bool.false_ne_true]
  split_ifs
  · rfl
  · rfl
  · rfl
  · have hexp : (2 : ℚ) ^ f.qmin = 2 ^ (1 - (f.bias : ℤ)) / 2 ^ f.m := by
      rw [Fmt.qmin, zpow_sub₀ two_ne_zero, zpow_natCast]
    rw [Num.toVal, hexp]
    congr 1
    field_simp
  · rw [Num.toVal, zpow_sub₀ two_ne_zero (_ - _), zpow_natCast]
    congr 1
    push_cast
    field_simp

/-- The exponent field has more than one value. -/
theorem zero_ne_top (hm : f.m + 1 < f.w) : 0 ≠ 2 ^ f.eb - 1 := by
  have h : 2 ^ 1 ≤ 2 ^ f.eb := Nat.pow_le_pow_right two_pos (by unfold Fmt.eb; omega)
  omega

/-- A zero code reads as zero (R145). -/
theorem decode_zero (hm : f.m + 1 < f.w) (n : Bool) : f.decode (f.zero n) = .fin n 0 f.qmin := by
  have htop := zero_ne_top hm
  have hexp : 2 ^ (f.w - 1) = 2 ^ f.m * 2 ^ f.eb := by
    rw [← pow_add, Fmt.eb]
    congr 1
    omega
  have hlt : 2 ^ (f.w - 1) < 2 ^ f.w := Nat.pow_lt_pow_right one_lt_two (by omega)
  have he : f.zero n / 2 ^ f.m % 2 ^ f.eb = 0 ∧ f.zero n % 2 ^ f.m = 0 := by
    cases n <;> simp [Fmt.zero, hexp]
  have hn : decide (2 ^ (f.w - 1) ≤ f.zero n % 2 ^ f.w) = n := by
    cases n <;> simp [Fmt.zero, Nat.mod_eq_of_lt hlt]
  unfold Fmt.decode
  dsimp only
  rw [hn, he.1, he.2, if_neg fun h => htop h.2, if_neg fun h => htop h.2.1, if_pos rfl]

/-- The input flush reads a subnormal as zero, and changes nothing else (R150). -/
theorem valOf_flushed (hm : f.m + 1 < f.w) {ftz : Bool} (h : (ftz && f.ftz && f.subnormal b) = true) :
    valOf f ftz b = .num (decide (b / 2 ^ (f.w - 1) % 2 = 1)) 0 := by
  obtain ⟨hftz, hsub⟩ := Bool.and_eq_true_iff.mp h
  have he : b / 2 ^ f.m % 2 ^ f.eb = 0 := of_decide_eq_true (Bool.and_eq_true_iff.mp hsub).1
  have htop := zero_ne_top hm
  unfold Fmt.eb at he htop
  unfold valOf
  dsimp only
  rw [he, if_neg fun h => htop h.2, if_neg fun h => htop h.2.1, if_pos rfl, if_pos hftz]

theorem valOf_unflushed {ftz : Bool} (h : (ftz && f.ftz && f.subnormal b) = false) :
    valOf f ftz b = valOf f false b := by
  unfold valOf
  dsimp only
  rw [Bool.false_and, if_neg Bool.false_ne_true]
  split_ifs with hinf h0 hnan he hftz
  · rfl
  · rfl
  · rfl
  · have hm : b % 2 ^ f.m = 0 := by
      rw [hftz, Bool.true_and] at h
      simpa [Fmt.subnormal, Fmt.eb, he] using h
    rw [hm, Nat.cast_zero, zero_div, mul_zero]
  · rfl
  · rfl

/-- A lane as the model reads it under FTZ is a lane as R150 reads it. -/
theorem input_toVal (hm : f.m + 1 < f.w) (hb : b < 2 ^ f.w) (ftz : Bool) :
    (f.input ftz b).toVal = valOf f ftz b := by
  unfold Fmt.input Fmt.flush
  cases h : ftz && f.ftz && f.subnormal b
  · rw [valOf_unflushed h]
    exact decode_toVal (by omega) hb
  · rw [valOf_flushed hm h, if_pos rfl, decode_zero hm, Num.toVal]
    simp [sign_iff (f := f) (by omega) hb]

/-- A finite lane that is not zero: its significand, and its exponent among those of the format (R145). -/
theorem decode_fin {n : Bool} {m : Nat} {e : Int} (hs : f.special = .ieee) (hm : f.m + 2 < f.w)
    (h : f.decode b = .fin n m e) : m < 2 ^ (f.m + 1) ∧ f.qmin ≤ e ∧ e < (2 ^ f.eb : Nat) - 1 - f.bias - f.m ∧
      (m < 2 ^ f.m → f.subnormal b = true ∨ m = 0) := by
  have hlow := Nat.mod_lt b (Nat.two_pow_pos f.m)
  have hexp := Nat.mod_lt (b / 2 ^ f.m) (Nat.two_pow_pos f.eb)
  have hpow : 2 ^ (f.m + 1) = 2 ^ f.m * 2 := pow_succ 2 f.m
  have htop : 2 ^ 2 ≤ 2 ^ f.eb := Nat.pow_le_pow_right two_pos (by unfold Fmt.eb; omega)
  unfold Fmt.decode at h
  dsimp only at h
  split_ifs at h with hinf hzero hnan he
  · obtain ⟨-, rfl, rfl⟩ := Num.fin.inj h
    refine ⟨by omega, le_rfl, by unfold Fmt.qmin; omega, fun _ => ?_⟩
    by_cases h0 : b % 2 ^ f.m = 0
    · exact .inr h0
    · exact .inl (by simp [Fmt.subnormal, he, h0])
  · obtain ⟨-, rfl, rfl⟩ := Num.fin.inj h
    have hne : b / 2 ^ f.m % 2 ^ f.eb ≠ 2 ^ f.eb - 1 := fun h => hinf ⟨hs, h⟩
    refine ⟨by omega, by unfold Fmt.qmin; omega, by omega, fun h => by omega⟩

/-- The same of a lane that is read; under FTZ it is not a subnormal (R150). -/
theorem input_fin {ftz n : Bool} {m : Nat} {e : Int} (hs : f.special = .ieee) (hm : f.m + 2 < f.w)
    (h : f.input ftz b = .fin n m e) (h0 : m ≠ 0) : m < 2 ^ (f.m + 1) ∧ f.qmin ≤ e ∧
      e < (2 ^ f.eb : Nat) - 1 - f.bias - f.m ∧ (ftz = true → f.ftz = true → 2 ^ f.m ≤ m) := by
  unfold Fmt.input Fmt.flush at h
  cases hflush : ftz && f.ftz && f.subnormal b with
  | true =>
    rw [hflush, if_pos rfl, decode_zero (by omega)] at h
    exact absurd (Num.fin.inj h).2.1.symm h0
  | false =>
    rw [hflush, if_neg Bool.false_ne_true] at h
    obtain ⟨hlt, hlo, hhi, hsub⟩ := decode_fin hs hm h
    refine ⟨hlt, hlo, hhi, fun hftz hf => not_lt.mp fun hlt => ?_⟩
    rcases hsub hlt with h | h
    · simp [hftz, hf, h] at hflush
    · exact h0 h

end

/-! ## Exact roundings (R148 to R150) -/

theorem bitLen_le {n k : Nat} (h : n < 2 ^ k) : bitLen n ≤ k := by
  unfold bitLen
  split_ifs with h0
  · exact k.zero_le
  · exact (Nat.log2_lt h0).mpr h

theorem lt_bitLen {n k : Nat} (h : 2 ^ k ≤ n) : k < bitLen n := by
  have h0 : n ≠ 0 := (lt_of_lt_of_le (Nat.two_pow_pos k) h).ne'
  rw [bitLen, if_neg h0]
  exact Nat.lt_succ_of_le ((Nat.le_log2 h0).mpr h)

theorem lt_two_pow_bitLen (n : Nat) : n < 2 ^ bitLen n := by
  unfold bitLen
  split_ifs with h0
  · rw [h0]
    exact one_pos
  · exact Nat.lt_log2_self

theorem two_pow_bitLen_le {n : Nat} (h : n ≠ 0) : 2 ^ (bitLen n - 1) ≤ n := by
  rw [bitLen, if_neg h, Nat.add_sub_cancel]
  exact Nat.log2_self_le h

/-- A code that is exactly the value, where the value neither overflows nor is flushed. -/
theorem rounded_of_exact {f : Fmt} {c : Ctx} {x : ℚ} {b : Nat} (hb : b < 2 ^ f.w)
    (hv : valOf f false b = .num (decide (x < 0)) x) (hover : ¬ Overflows f c.mode x)
    (htiny : c.ftz = true → f.ftz = true → ¬ Tiny f c.mode x) : Rounded f c (x : ℝ) ⟨b, 0⟩ := by
  have hsign : decide ((x : ℝ) < 0) = decide (x < 0) := by
    rw [decide_eq_decide]
    exact_mod_cast Iff.rfl
  refine ⟨fun h => absurd h hover, fun _ h hc hf => absurd h (htiny hc hf), fun _ _ =>
    ⟨⟨hb, x, by rw [hsign]; exact hv, fun d _ n p _ => ?_⟩, ?_⟩⟩
  · intro v y
    have hvx : v = x := rfl
    rw [hvx, sub_self, abs_zero]
    refine ⟨fun _ => abs_nonneg _, fun h hne => absurd (sub_eq_zero.mp (abs_eq_zero.mp h.symm)) hne,
      fun _ => ⟨le_rfl, mul_self_nonneg _, fun _ h => h⟩, fun _ => ⟨le_rfl, id⟩, fun _ => ⟨le_rfl, id⟩⟩
  · intro v
    have hvx : v = x := by
      simp only [v]
      rw [hv]
      rfl
    exact ⟨fun _ => rfl, fun h => absurd hvx h, fun h => absurd hvx h⟩

/-- A value no larger than the largest does not overflow. -/
theorem not_overflows {f : Fmt} {mode : Round} {x : ℝ}
    (h : |x| ≤ (2 : ℝ) ^ (((f.largest / 2 ^ f.m : Nat) : ℤ) - f.bias - f.m) *
      ((2 ^ f.m + f.largest % 2 ^ f.m : Nat) : ℝ)) : ¬ Overflows f mode x := by
  have hulp : (0 : ℝ) < (2 : ℝ) ^ (((f.largest / 2 ^ f.m : Nat) : ℤ) - f.bias - f.m) := by positivity
  unfold Overflows
  rintro (⟨-, h' | ⟨h', -⟩⟩ | ⟨-, h'⟩ | ⟨-, h'⟩ | ⟨-, -, h'⟩) <;> linarith

/-- A value no smaller than the least normal one is not tiny. -/
theorem not_tiny {f : Fmt} {mode : Round} {x : ℝ} (h : (2 : ℝ) ^ (1 - (f.bias : ℤ)) ≤ |x|) : ¬ Tiny f mode x := by
  have hstep : (0 : ℝ) < (2 : ℝ) ^ (-(f.bias : ℤ) - f.m) := by positivity
  unfold Tiny
  rintro (⟨-, h'⟩ | ⟨-, h'⟩ | ⟨-, -, -, h'⟩) <;> linarith

/-! ## Into FP32 (R178) -/

theorem roundAt_exact {mode : Round} {neg : Bool} {m : Nat} {e q : Int} (hq : q ≤ e) :
    roundAt mode neg m e false q = (m * 2 ^ (e - q).toNat, false) := by
  rw [roundAt, if_pos hq, Bool.false_and, if_neg Bool.false_ne_true, Nat.add_zero, pow2]

/-- A magnitude of 24 bits at a quantum of FP32 does not overflow. -/
theorem maxDy_lt_false {q : Int} {n : Nat} (hn : n < 2 ^ 24) (hq : q ≤ 104) : fp32.maxDy.lt ⟨n, q⟩ = false := by
  have hmax : fp32.maxDy = ⟨2 ^ 24 - 1, 104⟩ := by decide
  have hpos : (0 : Int) < pow2 (104 - q) := by
    unfold pow2
    positivity
  have hone : pow2 (q - q) = 1 := by rw [sub_self]; rfl
  rw [hmax, Dy.lt, min_eq_right hq]
  dsimp only
  rw [hone, decide_eq_false_iff_not, not_lt, Nat.cast_one, mul_one]
  calc (n : Int) ≤ (2 ^ 24 - 1) * 1 := by omega
    _ ≤ (2 ^ 24 - 1) * pow2 (104 - q) := Int.mul_le_mul_of_nonneg_left hpos (by norm_num)

/-- One of 24 bits at a quantum of FP32 is not below its least normal value. -/
theorem lt_least_false {q : Int} {n : Nat} (hn : 2 ^ 23 ≤ n) (hq : -149 ≤ q) : Dy.lt ⟨n, q⟩ ⟨1, -126⟩ = false := by
  unfold Dy.lt
  dsimp only
  rw [decide_eq_false_iff_not, not_lt]
  have hsmall : pow2 (-126 - min q (-126)) ≤ 2 ^ 23 := Nat.pow_le_pow_right two_pos (by omega)
  have hpos : 1 ≤ pow2 (q - min q (-126)) := Nat.one_le_two_pow
  calc (1 : Int) * pow2 (-126 - min q (-126)) ≤ n * 1 := by omega
    _ ≤ n * pow2 (q - min q (-126)) := by
      refine Int.mul_le_mul_of_nonneg_left ?_ (by omega)
      exact_mod_cast hpos

/-- A magnitude m × 2^e that FP32 holds: of no more than 24 bits, no finer than its subnormals and no larger than its
largest value; where results are flushed it is not among the subnormals. -/
structure FitsFp32 (ftz : Bool) (m : Nat) (e : Int) : Prop where
  pos : m ≠ 0
  len : bitLen m ≤ 24
  low : -149 ≤ e
  high : bitLen m + e ≤ 128
  normal : ftz = true → -126 < bitLen m + e

/-- The quantum at which FP32 holds such a magnitude, and the multiple of it (R148). -/
def quantum (m : Nat) (e : Int) : Int := max (bitLen m + e - 24) (-149)
def multiple (m : Nat) (e : Int) : Nat := m * 2 ^ (e - quantum m e).toNat

section
variable {ftz : Bool} {m : Nat} {e : Int} (h : FitsFp32 ftz m e)
include h

/-- A magnitude scaled to 24 bits. -/
theorem scaled_bounds {k : Nat} (hk : bitLen m + k ≤ 24) : m * 2 ^ k < 2 ^ 24 ∧
    (bitLen m + k = 24 → 2 ^ 23 ≤ m * 2 ^ k) := by
  have hlt := lt_two_pow_bitLen m
  have hle := two_pow_bitLen_le h.pos
  have hpos : 0 < bitLen m := by
    by_contra h0
    rw [Nat.eq_zero_of_not_pos h0] at hlt
    exact h.pos (Nat.lt_one_iff.mp hlt)
  constructor
  · calc m * 2 ^ k < 2 ^ bitLen m * 2 ^ k := Nat.mul_lt_mul_of_pos_right hlt (Nat.two_pow_pos k)
      _ = 2 ^ (bitLen m + k) := (pow_add _ _ _).symm
      _ ≤ 2 ^ 24 := Nat.pow_le_pow_right two_pos hk
  · intro hk
    calc 2 ^ 23 = 2 ^ (bitLen m - 1 + k) := by congr 1; omega
      _ = 2 ^ (bitLen m - 1) * 2 ^ k := pow_add _ _ _
      _ ≤ m * 2 ^ k := Nat.mul_le_mul_right _ hle

theorem multiple_bounds : quantum m e ≤ e ∧ -149 ≤ quantum m e ∧ quantum m e ≤ 104 ∧ 0 < multiple m e ∧
    multiple m e < 2 ^ 24 ∧ (multiple m e < 2 ^ 23 → quantum m e = -149) ∧
    (ftz = true → 2 ^ 23 ≤ multiple m e) := by
  obtain ⟨hpos, hlen, hlow, hhigh, hnormal⟩ := id h
  have hk : bitLen m + (e - quantum m e).toNat ≤ 24 := by
    unfold quantum
    omega
  obtain ⟨hlt, hge⟩ := scaled_bounds h hk
  have hfull : quantum m e ≠ -149 → bitLen m + (e - quantum m e).toNat = 24 := by
    unfold quantum
    omega
  refine ⟨by unfold quantum; omega, by unfold quantum; omega, by unfold quantum; omega,
    Nat.mul_pos (Nat.pos_of_ne_zero hpos) (Nat.two_pow_pos _), hlt, fun hm => ?_, fun hf => hge ?_⟩
  · by_contra hq
    exact absurd (hge (hfull hq)) (not_le.mpr hm)
  · have := hnormal hf
    unfold quantum
    omega

/-- The rounding of such a magnitude into FP32 is exact. -/
theorem round_fits (mode : Round) (sat neg : Bool) : fp32.round mode ftz sat neg m e false =
    ⟨signBit fp32 neg + fp32.encode (multiple m e) (quantum m e), 0⟩ := by
  obtain ⟨hpos, hlen, hlow, hhigh, hnormal⟩ := id h
  obtain ⟨hq, -⟩ := multiple_bounds h
  have hqu : (bitLen m : Int) + e - (fp32.m + 1) = bitLen m + e - 24 := rfl
  have hqu' : (bitLen m : Int) + e - 24 ≤ e := by omega
  obtain ⟨hlt, hge⟩ := scaled_bounds h (k := (e - (bitLen m + e - 24)).toNat) (by omega)
  have hover := maxDy_lt_false hlt (q := bitLen m + e - 24) (by omega)
  have hmax : max ((bitLen m : Int) + e - 24) fp32.qmin = quantum m e := rfl
  have htiny : ftz = true → Dy.lt ⟨(m * 2 ^ (e - (bitLen m + e - 24)).toNat : Nat), bitLen m + e - 24⟩
      ⟨1, 1 - (fp32.bias : Int)⟩ = false := fun hf => by
    have := hnormal hf
    exact lt_least_false (hge (by omega)) (by omega)
  unfold Fmt.round
  rw [if_neg fun h => hpos h.1]
  dsimp only
  rw [hqu, roundAt_exact hqu', hmax, roundAt_exact hq]
  dsimp only
  rw [hover, if_neg Bool.false_ne_true, if_neg, Bool.and_false, if_neg Bool.false_ne_true]
  · rfl
  · cases ftz
    · simp
    · rw [htiny rfl]
      exact Bool.false_ne_true

end

/-- The value of an FP32 code by its fields (R145). -/
theorem valOf_fp32 {E M : Nat} (hE : E < 255) (hM : M < 2 ^ 23) (neg : Bool) :
    valOf fp32 false (signBit fp32 neg + (E * 2 ^ 23 + M)) = .num neg (signed neg *
      if E = 0 then (M : ℚ) * 2 ^ (-149 : ℤ) else ((2 ^ 23 + M : Nat) : ℚ) * 2 ^ ((E : ℤ) - 150)) := by
  have hsign : signBit fp32 neg = neg.toNat * 2 ^ 31 := by cases neg <;> rfl
  have hneg := neg.toNat_le
  have hs : (neg.toNat * 2 ^ 31 + (E * 2 ^ 23 + M)) / 2 ^ 31 % 2 = neg.toNat := by omega
  have he : (neg.toNat * 2 ^ 31 + (E * 2 ^ 23 + M)) / 2 ^ 23 % 2 ^ 8 = E := by omega
  have hm : (neg.toNat * 2 ^ 31 + (E * 2 ^ 23 + M)) % 2 ^ 23 = M := by omega
  have hn : decide (neg.toNat = 1) = neg := by cases neg <;> rfl
  rw [hsign]
  unfold valOf
  simp only [fp32, show 32 - 1 = 31 from rfl, show 31 - 23 = 8 from rfl, hs, he, hm, hn]
  rw [if_neg (by omega), if_neg (by simp)]
  rw [Bool.false_and, if_neg Bool.false_ne_true]
  split_ifs with h0
  · rw [mul_assoc, show (-149 : ℤ) = 1 - (127 : Nat) - 23 by norm_num, zpow_sub₀ two_ne_zero (1 - _)]
    congr 2
    norm_num
    ring
  · rw [mul_assoc, show (E : ℤ) - 150 = E - (127 : Nat) - 23 by push_cast; ring, zpow_sub₀ two_ne_zero (_ - _)]
    congr 2
    push_cast
    norm_num
    ring

/-- The code of a multiple of a quantum of FP32 (R145). -/
theorem valOf_encode {n : Nat} {q : Int} (hn : n < 2 ^ 24) (hlo : -149 ≤ q) (hhi : q ≤ 104)
    (hq : n < 2 ^ 23 → q = -149) (neg : Bool) : signBit fp32 neg + fp32.encode n q < 2 ^ 32 ∧
      valOf fp32 false (signBit fp32 neg + fp32.encode n q) = .num neg (signed neg * (n * 2 ^ q)) := by
  have hsign : signBit fp32 neg ≤ 2 ^ 31 := by cases neg <;> decide
  by_cases h : n < 2 ^ 23
  · have hcode : fp32.encode n q = 0 * 2 ^ 23 + n := by
      rw [Fmt.encode, if_pos (show n < 2 ^ fp32.m from h), Nat.zero_mul, Nat.zero_add]
    rw [hcode, valOf_fp32 (by decide) h, if_pos rfl, hq h]
    exact ⟨by omega, rfl⟩
  · have hcode : fp32.encode n q = (q + 150).toNat * 2 ^ 23 + (n - 2 ^ 23) := by
      rw [Fmt.encode, if_neg (show ¬ n < 2 ^ fp32.m from h), if_neg (show n ≠ 2 ^ (fp32.m + 1) from hn.ne)]
      have hexp : q + fp32.m + fp32.bias = q + 150 := by
        simp only [fp32]
        omega
      dsimp only
      rw [hexp]
      rfl
    have hexp : ((q + 150).toNat : ℤ) - 150 = q := by omega
    rw [hcode, valOf_fp32 (by omega) (by omega), if_neg (by omega), hexp, Nat.add_sub_cancel' (not_lt.mp h)]
    exact ⟨by omega, rfl⟩

theorem multiple_value {ftz : Bool} {m : Nat} {e : Int} (h : FitsFp32 ftz m e) :
    (multiple m e : ℚ) * 2 ^ quantum m e = m * 2 ^ e := by
  obtain ⟨hq, -⟩ := multiple_bounds h
  have hexp : (2 : ℚ) ^ e = 2 ^ (e - quantum m e).toNat * 2 ^ quantum m e := by
    rw [← zpow_natCast, ← zpow_add₀ two_ne_zero, Int.toNat_of_nonneg (sub_nonneg.mpr hq), sub_add_cancel]
  rw [hexp, multiple]
  push_cast
  ring

/-- Rounding such a magnitude into FP32 is a rounding of R148 to R150 (R178). -/
theorem rounded_fits {c : Ctx} {m : Nat} {e : Int} (h : FitsFp32 c.ftz m e) (neg : Bool) :
    Rounded fp32 c ((signed neg * (m * 2 ^ e) : ℚ) : ℝ) (fp32.round c.mode c.ftz c.sat neg m e false) := by
  obtain ⟨-, hlo, hhi, hpos, hlt, hq, hnormal⟩ := multiple_bounds h
  obtain ⟨hbits, hval⟩ := valOf_encode hlt hlo hhi hq neg
  rw [round_fits h, ← multiple_value h]
  have hmag : (0 : ℚ) < multiple m e * 2 ^ quantum m e := by positivity
  have hsign : neg = decide (signed neg * ((multiple m e : ℚ) * 2 ^ quantum m e) < 0) := by
    cases neg
    · simpa [signed] using hmag.le
    · simpa [signed] using hmag
  have habs : |((signed neg * (multiple m e * 2 ^ quantum m e) : ℚ) : ℝ)| = multiple m e * 2 ^ quantum m e := by
    cases neg <;> simp [signed, abs_mul, abs_zpow]
  refine rounded_of_exact hbits (hval.trans ?_) (not_overflows ?_) fun hc _ => not_tiny ?_
  · rw [← hsign]
  · have htop : (multiple m e : ℝ) ≤ 2 ^ 24 - 1 := by
      have h : multiple m e + 1 ≤ 2 ^ 24 := hlt
      have h' : (multiple m e : ℝ) + 1 ≤ 2 ^ 24 := by exact_mod_cast h
      linarith
    have hexp : (2 : ℝ) ^ quantum m e ≤ 2 ^ (104 : ℤ) := zpow_le_zpow_right₀ one_le_two hhi
    rw [habs]
    calc (multiple m e : ℝ) * 2 ^ quantum m e ≤ (2 ^ 24 - 1) * 2 ^ (104 : ℤ) :=
          mul_le_mul htop hexp (by positivity) (by norm_num)
      _ = _ := by norm_num [fp32]
  · have hlow : (2 : ℝ) ^ 23 ≤ multiple m e := by exact_mod_cast hnormal hc
    have hexp : (2 : ℝ) ^ (-149 : ℤ) ≤ 2 ^ quantum m e := zpow_le_zpow_right₀ one_le_two hlo
    rw [habs]
    calc (2 : ℝ) ^ (1 - (fp32.bias : ℤ)) = 2 ^ 23 * 2 ^ (-149 : ℤ) := by norm_num [fp32]
      _ ≤ _ := mul_le_mul hlow hexp (by positivity) (by positivity)

/-- The finite lanes of a format that FP32 holds (R178). -/
theorem input_fits {f : Fmt} (hf : f = fp16 ∨ f = bf16) {ftz n : Bool} {b m : Nat} {e : Int}
    (h : f.input ftz b = .fin n m e) (h0 : m ≠ 0) : FitsFp32 ftz m e := by
  have hone : 2 ^ 0 ≤ m := Nat.one_le_iff_ne_zero.mpr h0
  have hpos := lt_bitLen hone
  rcases hf with rfl | rfl
  · obtain ⟨hm, hlo, hhi, -⟩ := input_fin rfl (by decide) h h0
    have hlen := bitLen_le hm
    have hlow : fp16.qmin = -24 := rfl
    have htop : ((2 ^ fp16.eb : Nat) : Int) - 1 - fp16.bias - fp16.m = 6 := by decide
    have hwidth : fp16.m + 1 = 11 := rfl
    exact ⟨h0, by omega, by omega, by omega, fun _ => by omega⟩
  · obtain ⟨hm, hlo, hhi, hnormal⟩ := input_fin rfl (by decide) h h0
    have hlen := bitLen_le hm
    have hlow : bf16.qmin = -133 := rfl
    have htop : ((2 ^ bf16.eb : Nat) : Int) - 1 - bf16.bias - bf16.m = 121 := by decide
    have hwidth : bf16.m + 1 = 8 := rfl
    refine ⟨h0, by omega, by omega, by omega, fun hftz => ?_⟩
    have h7 : 7 < bitLen m := lt_bitLen (hnormal hftz rfl)
    omega

/-- A lane of such a format, converted to FP32 (R178, R181). -/
theorem intoFloat_fp32 {f : Fmt} (hf : f = fp16 ∨ f = bf16) (c : Ctx) {b : Nat} (hb : b < 2 ^ f.w) :
    IntoFloat fp32 c (valOf f c.ftz b) (fp32.fromNum c (f.input c.ftz b)) := by
  have hm : f.m + 1 < f.w := by rcases hf with rfl | rfl <;> decide
  rw [← input_toVal hm hb]
  cases hx : f.input c.ftz b with
  | nan s =>
    refine ⟨fun q hq => ?_, nofun, nofun, nofun⟩
    obtain rfl : s = q := Val.nan.inj hq
    cases s <;> rfl
  | inf n =>
    refine ⟨nofun, fun n' hn => ?_, nofun, nofun⟩
    obtain rfl : n = n' := Val.inf.inj hn
    cases n <;> rfl
  | fin n m e =>
    have hval : (Num.fin n m e).toVal = .num n (signed n * (m * 2 ^ e)) := rfl
    by_cases h0 : m = 0
    · subst h0
      have hzero : (Num.fin n 0 e).toVal = .num n 0 := by
        rw [hval, Nat.cast_zero, zero_mul, mul_zero]
      rw [hzero]
      refine ⟨nofun, nofun, fun n' hn => ?_, fun n' x hn hx => ?_⟩
      · cases hn
        rfl
      · cases hn
        exact absurd rfl hx
    · have hne : signed n * ((m : ℚ) * 2 ^ e) ≠ 0 := by
        have hm : (m : ℚ) ≠ 0 := by exact_mod_cast h0
        cases n <;> simp [signed, hm, zpow_ne_zero]
      rw [hval]
      refine ⟨nofun, nofun, fun n' hn => ?_, fun n' x hn _ => ?_⟩
      · exact absurd (Val.num.inj hn).2 hne
      · obtain ⟨rfl, rfl⟩ := Val.num.inj hn
        exact rounded_fits (input_fits hf hx h0) n

/-- The lanes that a widening sum of floats converts (R178, R189). -/
theorem converts_fp32 {g : Tag} (hg : g ∈ [Tag.f16x8, .bf16x8]) (c : Ctx) {x : Nat} (hx : x < 2 ^ g.width) :
    Converts c g .f32x4 none x (cvtLane c g .f32x4 x) := by
  have hplain : IntoFloat fp32 c (sourceVal g c.ftz x) (cvtLane c g .f32x4 x) := by
    obtain rfl | rfl : g = .f16x8 ∨ g = .bf16x8 := by simpa using hg
    · exact intoFloat_fp32 (.inl rfl) c hx
    · exact intoFloat_fp32 (.inr rfl) c hx
  refine ⟨fun f hf _ => ?_, nofun, nofun, nofun, nofun, nofun⟩
  cases hf
  exact hplain

end Sys2Proof.Machine
end

section
/-! SUPPORT. The words of VRED on integer lanes, by the pairwise tree and on masks (R188 to R191). -/

namespace Sys2Proof.Machine

/-! ## Trees and sums (R159, R188 to R190) -/

/-- Trees of two operations that agree below a bound, and stay below it, are the same over lanes below it. -/
theorem tree_congr {op op' : Nat → Nat → Lane} {b : Nat} (hsame : ∀ x y, x < b → y < b → op x y = op' x y)
    (hbelow : ∀ x y, x < b → y < b → (op x y).bits < b) (k : Nat) {l : List Nat} (hl : ∀ x ∈ l, x < b) (hb : 0 < b) :
    tree op k l = tree op' k l ∧ (tree op k l).bits < b := by
  induction k generalizing l with
  | zero =>
    refine ⟨rfl, ?_⟩
    cases l with
    | nil => exact hb
    | cons x l => exact hl x List.mem_cons_self
  | succ k ih =>
    obtain ⟨htake, hx⟩ := ih fun x hx => hl x (List.mem_of_mem_take hx)
    obtain ⟨hdrop, hy⟩ := ih fun x hx => hl x (List.mem_of_mem_drop hx)
    refine ⟨?_, hbelow _ _ hx hy⟩
    simp only [tree, ← htake, ← hdrop, hsame _ _ hx hy]

theorem wrap_lt (g : Tag) (v : Int) : (wrap g v).bits < 2 ^ g.width := by
  have hpos : (0 : Int) < 2 ^ g.width := by positivity
  have h := Int.emod_lt_of_pos v hpos
  have h0 := Int.emod_nonneg v hpos.ne'
  rw [wrap]
  zify
  rwa [Int.toNat_of_nonneg h0]

/-- The tree of the model's extremes over lanes of a type is that of R169. -/
theorem tree_pickLane {g : Tag} (hg : g ∈ floats ++ ints) (big : Bool) (c : Ctx) {l : List Nat}
    (hl : ∀ x ∈ l, x < 2 ^ g.width) (k : Nat) :
    tree (pickLane big false c g) k l = tree (extreme big false c g) k l := by
  rcases List.mem_append.mp hg with hf | hi
  · obtain ⟨f, hf, -⟩ := fmt_of_floats hf
    have hsame : pickLane big false c g = extreme big false c g := by
      funext x y
      simp only [pickLane, extreme, hf]
    rw [hsame]
  · have hsame (x y : Nat) (hx : x < 2 ^ g.width) (hy : y < 2 ^ g.width) :
        pickLane big false c g x y = extreme big false c g x y := pickLane_same big false g hg c x y hx hy
    refine (tree_congr hsame (fun x y hx hy => ?_) k hl (Nat.two_pow_pos _)).1
    rw [hsame x y hx hy]
    simp only [extreme, fmt_of_ints hi]
    exact wrap_lt g _

section
variable {g : Tag} (hg : g ∈ ints) {l : List Nat} (hl : ∀ x ∈ l, x < 2 ^ g.width)
include hg hl

theorem map_laneInt : l.map (laneInt g) = l.map (readInt g) :=
  List.map_congr_left fun x hx => laneInt_eq_readInt hg (hl x hx)

theorem intSum_eq : intSum g l = (l.map (readInt g)).sum := by
  rw [← map_laneInt hg hl, List.sum_eq_foldl, List.foldl_map, intSum]

theorem natAbs_laneInt : (l.map fun x => (laneInt g x).natAbs) = (l.map (readInt g)).map Int.natAbs := by
  rw [← map_laneInt hg hl, List.map_map]
  rfl

end

/-! ## The shared words (R188, R191) -/

section
variable {h : Takes} {s : State} {m : Bool} {d a : Reg} {ok : Tag → Bool} {g : Tag}

theorem vlat_of_num (hg : g ∈ floats ++ ints) : vlat g = .fixed (if g ∈ ints then 2 else 4) := by
  revert hg
  cases g <;> decide

theorem vred_next {f : Ctx → Tag → List Nat → RV × Flags5} (r : Ready h s [a, d]) (he : h.eff = false)
    (ht : elemType [(s.me.read a).tag] false = .ok g) (hok : ok g = true) :
    let v := f s.bump.ctx g ((List.range g.lanes).map (lane (s.me.read a) g.width))
    vred h ok m d a f s = .next ((s.flagResult h d v.1 (vlat g) v.2 (s.me.pc + 4)).settle s.focus m) := by
  intro v
  unfold vred
  rw [issue_ready r]
  simp only [touch_ready r, atIssue_read, ht, hok, lanesAs_eq, Bind.bind, Except.bind]
  rw [← retire_flagResult, if_neg (by decide)]
  simp only [v, atIssue_of_eff he]

theorem isNum_of_mem (hg : g ∈ floats ++ ints) : g.isNum = true := by
  revert hg
  cases g <;> decide

theorem isSigned_of_mem (hg : g ∈ floats ++ signedInts) : g.isSigned = true := by
  revert hg
  cases g <;> decide

theorem widening_of_ints (hg : g ∈ ints) : g.isWidening = true := by
  revert hg
  cases g <;> decide

theorem not_float_of_ints (hg : g ∈ ints) : g.isFloat = false := by
  revert hg
  cases g <;> decide

/-- The float types of a widening sum (R188). -/
theorem widening_of_half (hg : g ∈ [Tag.f16x8, .bf16x8]) :
    g.isFloat = true ∧ g ∈ floats ∧ g.isWidening = true ∧ g.depth = 3 := by
  revert hg
  cases g <;> decide

theorem elemType_num (ht : (s.me.read a).tag = g) (hg : g ∈ floats ++ ints) :
    elemType [(s.me.read a).tag] false = .ok g := by
  obtain ⟨hraw, hi, hn⟩ : g ≠ .raw ∧ g ≠ .i64 ∧ g ≠ .name := by
    revert hg
    cases g <;> decide
  rw [ht, elemType_ok]
  simp [hraw, hi, hn]

/-- What a reduction of numbers leaves: the result with its flags, in l1 after the latency of its type. -/
theorem vred_leaves {f : Ctx → Tag → List Nat → RV × Flags5} {o : Host.Outcome State Fault Refusal} {v : RV}
    {fl : Flags5} (r : Ready h s [a, d]) (he : h.eff = false) (ht : (s.me.read a).tag = g) (hg : g ∈ floats ++ ints)
    (hok : ok g = true) (ho : o = vred h ok m d a f s)
    (hv : f s.bump.ctx g ((List.range g.lanes).map (lane (s.me.read a) g.width)) = (v, fl)) :
    ∃ t, o = .next (t.settle s.focus m) ∧ Holds s t d v ∧ Retired s t (s.me.pc + 4) ∧ FlagFrame s t fl ∧
      EntersL1 s t d v (if g ∈ ints then 2 else 4) := by
  have hnext := ho.trans (vred_next r he (elemType_num ht hg) hok)
  rw [hv, vlat_of_num hg] at hnext
  obtain ⟨hr, hf⟩ := flagResult_frame s h d v (.fixed (if g ∈ ints then 2 else 4)) fl (s.me.pc + 4)
  exact ⟨_, hnext, flagResult_holds .., hr, hf, flagResult_l1 ..⟩

/-- A result whose flags are none leaves what a result without flags leaves. -/
theorem flagResult_slotFrame (v : RV) (lat : Lat) (target : Word) :
    SlotFrame s (s.flagResult h d v lat 0 target) := by
  set x := (s.atIssue h).me with hx
  set u := (s.atIssue h).wrFlags d v .l1 lat 0 with hu
  have hset : u = (s.atIssue h).setMe ((x.write d v .l1 lat).flagged 0) := rfl
  have hme : u.me = (x.write d v .l1 lat).flagged 0 := by simp [hset]
  obtain ⟨psp, -, -, -, pfp, -, -, -⟩ := put_rest x d v none (some v) lat
  obtain ⟨o, hout, -, -, -⟩ := write_l1_outs x d v lat
  have hflag : s.flagless → u.flagless := fun hs => by
    unfold State.flagless at *
    rw [hme, Slot.flagged, hout, hx, atIssue_outs]
    exact List.forall_mem_cons.mpr ⟨rfl, hs⟩
  obtain ⟨b, -, -, -⟩ := goOn_frame u target
  have a : SlotFrame s u := (atIssue_frame s h).trans (setMe_frame _ _ psp pfp) (atIssue_flagless s h)
  rw [show u.focus = s.focus from atIssue_focus s h] at b
  exact a.trans b hflag

/-- A widening sum of integers is a number with no flags (R189). -/
theorem vred_moved {f : Ctx → Tag → List Nat → RV × Flags5} {o : Host.Outcome State Fault Refusal} {v : RV}
    (r : Ready h s [a, d]) (he : h.eff = false) (ht : (s.me.read a).tag = g) (hg : g ∈ ints) (hok : ok g = true)
    (ho : o = vred h ok m d a f s)
    (hv : f s.bump.ctx g ((List.range g.lanes).map (lane (s.me.read a) g.width)) = (v, 0)) :
    ∃ t, o = .next (t.settle s.focus m) ∧ Moved s t d v := by
  have hnext := ho.trans (vred_next r he (elemType_num ht (List.mem_append_right _ hg)) hok)
  rw [hv, vlat_of_num (List.mem_append_right _ hg), if_pos hg] at hnext
  obtain ⟨hr, -⟩ := flagResult_frame s h d v (.fixed 2) 0 (s.me.pc + 4)
  exact ⟨_, hnext, flagResult_holds .., hr, flagResult_slotFrame .., flagResult_l1 ..⟩

theorem vredMask_next {f : List Bool → Bool} (r : Ready {} s [a, d]) (ht : (s.me.read a).tag = g) (hi : g ≠ .i64)
    (hn : g ≠ .name) :
    vredMask f m d a s = .next ((s.result {} d (.int (if f ((List.range g.lanes).map
      fun k => Sys2Proof.chosen (s.me.read a) g k) then 1 else 0)) .l1 (.fixed 2) (s.me.pc + 4)).settle s.focus m) := by
  subst ht
  unfold vredMask
  rw [issue_ready r]
  simp only [touch_ready r, atIssue_read, maskOk_ok hi hn, selected_eq, retire_result, Bind.bind, Except.bind]

end

/-! ## The claim -/

theorem any_tops (l : List Bool) : (if l.any id then (1 : Word) else 0) = if ∃ x ∈ l, x = true then 1 else 0 := by
  simp only [List.any_eq_true, id]

theorem all_tops (l : List Bool) : (if l.all id then (1 : Word) else 0) = if ∀ x ∈ l, x = true then 1 else 0 := by
  simp only [List.all_eq_true, id]

/-- Lanes that an operation converts each as `p` says. -/
theorem forall₂_map {α β : Type} {p : α → β → Prop} {f : α → β} {l : List α} (h : ∀ x ∈ l, p x (f x)) :
    List.Forall₂ p l (l.map f) :=
  List.forall₂_map_right_iff.mpr (List.forall₂_same.mpr h)

/-- The reductions (R188 to R191). -/
theorem reduced_claim : Claims.Reduced := by
  intro s m d a g ht l c ns sum out
  have hl : ∀ x ∈ l, x < 2 ^ g.width := fun x hx => by
    obtain ⟨i, -, rfl⟩ := List.mem_map.mp hx
    exact lane_lt _ g.width i
  have hsum : exec (.vrsum m d a) s = execVrsum m d a s := rfl
  have hsumw : exec (.vrsumw m d a) s = execVrsumw m d a s := rfl
  have hmin : exec (.vrmin m d a) s = execVrmin m d a s := rfl
  have hmax : exec (.vrmax m d a) s = execVrmax m d a s := rfl
  have hamax : exec (.vramax m d a) s = execVramax m d a s := rfl
  have hf (h : g ∈ floats) : g ∈ floats ++ ints := List.mem_append_left _ h
  have hi (h : g ∈ ints) : g ∈ floats ++ ints := List.mem_append_right _ h
  have hsigned (h : g ∈ signedInts) : g ∈ ints := List.mem_append_left [Tag.b8x16] h
  refine ⟨fun r => ⟨fun f hg hfmt => ?_, fun hg => ⟨?_, ?_⟩, fun hg => ?_⟩,
    fun r => ⟨fun hg => ⟨?_, ?_⟩, fun hg => ?_, fun f hg hfmt => ?_⟩, fun r h64 hname => ⟨?_, ?_⟩⟩
  · refine vred_leaves r rfl ht (hf hg) (isNum_of_mem (hf hg)) hsum ?_
    simp only [hfmt]
    rfl
  · refine vred_leaves r rfl ht (hi hg) (isNum_of_mem (hi hg)) hsum ?_
    simp only [fmt_of_ints hg]
    exact congrArg (fun n => Lane.reg ⟨wrapLane g.width n, 0⟩ g) (intSum_eq hg hl)
  · refine vred_moved r rfl ht hg (widening_of_ints hg) hsumw ?_
    rw [not_float_of_ints hg, if_neg Bool.false_ne_true]
    exact congrArg (fun n => (RV.int (BitVec.ofInt 64 n), 0)) (intSum_eq hg hl)
  · obtain ⟨hfloat, hfl, hw, hdepth⟩ := widening_of_half hg
    obtain ⟨t, he, hholds⟩ := vred_leaves r rfl ht (hf hfl) hw hsumw (by rw [hfloat, if_pos rfl])
    refine ⟨t, l.map (cvtLane c g .f32x4), he, forall₂_map fun x hx => converts_fp32 hg c (hl x hx), ?_⟩
    rw [← hdepth]
    exact hholds
  · refine vred_leaves r rfl ht hg (isNum_of_mem hg) hmin ?_
    exact congrArg (Lane.reg · g) (tree_pickLane hg false c hl _)
  · refine vred_leaves r rfl ht hg (isNum_of_mem hg) hmax ?_
    exact congrArg (Lane.reg · g) (tree_pickLane hg true c hl _)
  · have hg' := hsigned hg
    refine vred_leaves r rfl ht (hi hg') (isSigned_of_mem (List.mem_append_right _ hg)) hamax ?_
    simp only [fmt_of_ints hg']
    exact congrArg (fun l => Lane.reg ⟨l.foldl max 0, 0⟩ g) (natAbs_laneInt hg' hl)
  · obtain ⟨f', hf', hwidth⟩ := fmt_of_floats hg
    obtain rfl : f = f' := Option.some.inj (hfmt.symm.trans hf')
    refine vred_leaves r rfl ht (hf hg) (isSigned_of_mem (List.mem_append_left _ hg)) hamax ?_
    simp only [hfmt, hwidth]
    rfl
  · have hx : exec (.vrany m d a) s = vredMask (·.any id) m d a s := rfl
    rw [← any_tops]
    exact exists_moved (hx.trans (vredMask_next r ht h64 hname))
  · have hx : exec (.vrall m d a) s = vredMask (·.all id) m d a s := rfl
    rw [← all_tops]
    exact exists_moved (hx.trans (vredMask_next r ht h64 hname))

/-- Settles O39: the words of VPERM make the lists of lanes of R183 to R187, and those of VRED reduce the lanes by the
tree of R159, by exact sums or by their top bits. -/
theorem permutesAndReductions : Obligations.PermutesAndReductions := ⟨permuted_claim, reduced_claim⟩

end Sys2Proof.Machine
end

section
/-! SUPPORT. The returns from a trap: TRET and ERET (R143, R378). -/

namespace Sys2Proof.Machine

/-! ## The return -/

/-- A slot that has left its handler, and supervisor mode as well where it returns to user mode. -/
def Slot.handlerLeft (toUser : Bool) (x : Slot) : Slot :=
  { x with inTrap := false, super := if toUser then false else x.super }

@[simp] theorem atIssue_trapPc (s : State) (h : Takes) : (s.atIssue h).me.trapPc = s.me.trapPc := by
  obtain ⟨e, he⟩ := atIssue_me s h; rw [he]

/-- A return changes its slot and goes on at TRAPPC. -/
theorem trapReturn_eq (s : State) (h : Takes) (m toUser : Bool) :
    (s.atIssue h).trapReturn m toUser = (((s.atIssue h).modMe (Slot.handlerLeft toUser)).goOn s.focus
      (wordAddr s.me.trapPc)).settle s.focus m := by
  have hfocus : ((s.atIssue h).modMe (Slot.handlerLeft toUser)).focus = s.focus := atIssue_focus s h
  have hmod : (s.atIssue h).trapReturn m toUser
      = ((s.atIssue h).modMe (Slot.handlerLeft toUser)).retireTo m (wordAddr (s.atIssue h).me.trapPc) := rfl
  rw [hmod, retireTo_eq, hfocus, atIssue_trapPc]

/-- What a word that returns from a trap leaves. -/
theorem exists_trapReturn {o : Host.Outcome State Fault Refusal} {s : State} {h : Takes} {m toUser : Bool}
    (ho : o = .next ((s.atIssue h).trapReturn m toUser)) :
    ∃ t, o = .next (t.settle s.focus m) ∧ Retired s t (wordAddr s.me.trapPc) ∧ FileKept s t ∧
      SlotFrame (s.modMe (Slot.handlerLeft toUser)) t := by
  rw [trapReturn_eq] at ho
  obtain ⟨t, ht, hk, -, hr, hf⟩ := exists_special (s := s) (f := Slot.handlerLeft toUser) (fun _ => rfl)
    (fun _ => ⟨rfl, rfl, rfl, rfl, rfl, rfl⟩) ho
  exact ⟨t, ht, hr, hk, hf⟩

/-! ## The words -/

theorem execTret_next {s : State} {m : Bool} (r : Ready {} s []) (hin : s.me.inTrap = true) :
    execTret m s = .next ((s.atIssue {}).trapReturn m false) := by
  unfold execTret
  rw [issue_ready r]
  simp [hin]

theorem execEret_next {s : State} {m : Bool} (r : Ready { super := true } s []) :
    execEret m s = .next ((s.atIssue { super := true }).trapReturn m true) := by
  unfold execEret
  rw [issue_ready r]

/-- TRET where no handler runs (R143). -/
theorem execTret_illegal {s : State} {m : Bool} (r : Ready {} s []) (ht : s.canTrap) :
    ∃ t, execTret m s = .next t ∧ Trapped s.bump t .illegal s.me.groupStart 0 1 false := by
  refine issue_trapped ht r.hints r.mode ?_
  rw [atIssue_inTrap, ht.1]
  rfl

/-- Settles O14: both returns clear INTRAP and go on at TRAPPC, ERET out of supervisor mode; TRET looks at INTRAP
first. -/
theorem trapReturns : Obligations.TrapReturns := by
  intro s m
  exact ⟨fun r hin => exists_trapReturn (execTret_next r hin),
    fun r hin hvec => execTret_illegal r ⟨hin, hvec⟩,
    fun r => exists_trapReturn (execEret_next r)⟩

end Sys2Proof.Machine
end
